-- ==== Sys2Proof/Word.lean ====
section
/-! DEFINITION. The word types of the MRT-4 and their plainest helpers (R2, R3, R7). -/
namespace Sys2Proof

/-- A 64-bit register or address (R7). -/
abbrev Word := BitVec 64
/-- One byte of memory. -/
abbrev Byte := BitVec 8
/-- A mask of the 32 lanes: bit `l` stands for lane `l` (R7). -/
abbrev Mask := BitVec 32
/-- One vector register: 64 bits in each of the 32 lanes (R7). -/
abbrev Lanes := Vector (BitVec 64) 32

/-- Bit `l` of a lane mask. -/
def Mask.has (m : Mask) (l : Nat) : Bool := m.getLsbD l

/-- The bit vector of `n` bits whose bit `i` is `f i`. -/
def bitsOfFn (f : Nat → Bool) : (n : Nat) → BitVec n
  | 0 => 0#0
  | n + 1 => BitVec.cons (f n) (bitsOfFn f n)

/-- The mask of the lanes that `f` holds for. -/
def Mask.ofFn (f : Nat → Bool) : Mask := bitsOfFn f 32

/-- The set lanes in ascending order (R5: lanes are visited in ascending index). -/
def Mask.lanes (m : Mask) : List Nat := (List.range 32).filter m.has

/-- A vector register that holds `x` in every lane. -/
def Lanes.all (x : Word) : Lanes := Vector.replicate 32 x

/-- The value of lane `l`; lanes at or above 32 do not exist and read as 0. -/
def Lanes.at (r : Lanes) (l : Nat) : Word := r[l]?.getD 0

end Sys2Proof
end

