-- ==== Sys2Proof/Config.lean ====
section
/-! DEFINITION. What the manual leaves open: free values with no body, so that no proof can see them, and the
two functions that time is read through. -/
namespace Sys2Proof.Config

/-- A free choice. The first argument is the state's `tick`, the second tells choices of one tick apart. DESIGN CHOICE (log 5). -/
opaque freeBit : (tick idx : Nat) → Bool
/-- A free 64-bit value (R19, unwritten e registers; R385, garbled bytes). DESIGN CHOICE (log 5). -/
opaque freeWord : (tick idx : Nat) → BitVec 64
/-- The result of an approximated function of the special-function unit (R89, R90): selector, format code, operand bits.
DESIGN CHOICE (log 13). -/
opaque fspecApprox : (sel fmt : Nat) → BitVec 32 → BitVec 32
/-- Whether the exact value of an approximated function, rounded with unbounded exponent, lies below the smallest normal
magnitude (R57, UF), where no rule decides it. DESIGN CHOICE (log 14). -/
opaque fspecTiny : (sel fmt : Nat) → BitVec 32 → Bool
/-- Wall-clock nanoseconds that step number `n` takes: timing is nominal in the manual. DESIGN CHOICE (log 4). -/
opaque stepNs : (n : Nat) → Nat
/-- Core cycles that step number `n` takes beyond its first. DESIGN CHOICE (log 4). -/
opaque stepCycles : (n : Nat) → Nat
/-- Which addition tree a collective uses for an element (R215): the order in which the members are added. DESIGN CHOICE (log 17). -/
opaque collTree : (tick elem : Nat) → Nat → Nat
/-- Ed448 verification (RFC 8032): key, digest, signature. DESIGN CHOICE (log 15). -/
opaque ed448Verify : (key : BitVec 456) → (digest : BitVec 512) → (sig : BitVec 912) → Bool
/-- An Ed448 signature made with a device's identity key over bytes. DESIGN CHOICE (log 15). -/
opaque ed448Sign : (device : Nat) → List (BitVec 8) → BitVec 912
/-- The SHAKE256 digest of 64 bytes. DESIGN CHOICE (log 15). -/
opaque shake256 : List (BitVec 8) → BitVec 512
/-- The X448 public key of a reach on a device, of 56 bytes. DESIGN CHOICE (log 15). -/
opaque reachPublicKey : (device reach : Nat) → BitVec 448
/-- The public half of a device's identity key (R384). DESIGN CHOICE (log 15). -/
opaque identityKey : (device : Nat) → BitVec 456
/-- The signing key that a boot stage names for the next one: the manual does not say where in the stage it stands (R382).
DESIGN CHOICE (log 15). -/
opaque namedKey : (stage : List (BitVec 8)) → BitVec 456
/-- A key that the device generates at a tick (R385). DESIGN CHOICE (log 15). -/
opaque newKey : (tick idx : Nat) → BitVec 256
/-- The device's ephemeral X448 secret at a tick, and the X448 function of a secret and a public key (R386, RFC 7748).
DESIGN CHOICE (log 15). -/
opaque ephemeral : (tick : Nat) → BitVec 448
/-- X448. DESIGN CHOICE (log 15). -/
opaque x448 : (secret pub : BitVec 448) → BitVec 448
/-- Encryption under an agreed key, and its inverse (R386). DESIGN CHOICE (log 15). -/
opaque wrapKeys : (key : BitVec 448) → List (BitVec 8) → List (BitVec 8)
/-- The inverse of `wrapKeys`. DESIGN CHOICE (log 15). -/
opaque unwrapKeys : (key : BitVec 448) → List (BitVec 8) → List (BitVec 8)
/-- A byte of the ciphertext that memory encryption stores (R385): of the key that a tag stands for, the place, and the aligned 16 bytes
that it belongs to. DESIGN CHOICE (log 15). -/
opaque cipherByte : (tag place : Nat) → (block : List (BitVec 8)) → BitVec 8
/-- The serial number of the device (R384). DESIGN CHOICE (log 15). -/
opaque serial : BitVec 64
/-- The fused minimum security version of a boot stage (R382). DESIGN CHOICE (log 15). -/
opaque fusedMin : (stage : Nat) → Nat
/-- The fused digest of the first signing key (R382). DESIGN CHOICE (log 15). -/
opaque fusedKeyDigest : BitVec 512
/-- The capacity in bytes of a memory module of another device of the pod (R368). DESIGN CHOICE (log 12). -/
opaque moduleOf : (device : Nat) → Nat
/-- Metering and management figures, which the manual gives no computation for (R358, R389): a reading at a tick.
DESIGN CHOICE (log 16). -/
opaque reading : (tick kind : Nat) → BitVec 64

/-- Wall time in nanoseconds after `n` steps: it never falls. DESIGN CHOICE (log 4). -/
def wallNs : Nat → Nat
  | 0 => 0
  | n + 1 => wallNs n + stepNs n

/-- Core cycles after `n` steps: no two steps of the model fall in one cycle. DESIGN CHOICE (log 4). -/
def cycles : Nat → Nat
  | 0 => 0
  | n + 1 => cycles n + 1 + stepCycles n

end Sys2Proof.Config
end

