-- ==== Sys2Proof/Syntax.lean ====
section
/-! DEFINITION. The syntax of the MRT-4: one constructor of `Instr` for every row of spec/opcode_table.json. The first 151 are
instruction words (R31, R34); the other 82 are the events of the table: steps of engines, of the device and of system software. -/
namespace Sys2Proof

/-- A lane register field (R14): 0–55 names v0–v55, 56–63 names e0–e7. -/
abbrev LReg := BitVec 6
/-- A uniform register field: s0–s63. -/
abbrev SReg := BitVec 6
/-- A predicate field: p0–p127. -/
abbrev PReg := BitVec 7
/-- A lookahead promise (R29). -/
abbrev La := BitVec 4

/-- The guard of an LA, LI, LM or LT instruction (R27). -/
inductive Guard where
  | always
  | ifSet (p : BitVec 3)
  | ifClear (p : BitVec 3)
  deriving DecidableEq, Repr

/-- An element or access width (R26). -/
inductive Width where
  | w8 | w16 | w32 | w64
  deriving DecidableEq, Repr

/-- The element format of a float instruction (R26, R83). -/
inductive FFmt where
  | bf16 | f16 | f32
  deriving DecidableEq, Repr

/-- The h field of MOVI and SLI (R28). -/
inductive HSel where
  | quarter (k : BitVec 2)
  | sext
  | zext
  deriving DecidableEq, Repr

/-- A format of CVT (R93): a float format, or an integer of a width in bits. -/
inductive CFmt where
  | f32 | f16 | bf16 | e5m2 | e4m3 | e2m1
  | int (signed : Bool) (width : Nat)
  deriving DecidableEq, Repr

/-- One row of the selector table of R93: destination and source formats, and whether the selector is one of those marked "h". -/
structure CvtRow where
  dst : CFmt
  src : CFmt
  h : Bool
  deriving DecidableEq, Repr

/-- Integer conditions of ICMP and SCMP (R30). -/
inductive Cond where
  | eq | ne | lt | ge | ltu | geu | le | gt
  deriving DecidableEq, Repr

/-- Conditions of FCMP (R30, R88). -/
inductive FCond where
  | eq | ne | lt | ge | le | gt | ord | uno
  deriving DecidableEq, Repr

/-- The m field: how a comparison is combined with the old predicate (R30). -/
inductive Comb where
  | set | and | or | andn
  deriving DecidableEq, Repr

/-- The function of FSPEC (R89). -/
inductive FFun where
  | rcp | sqrt | rsq | exp2 | log2 | sin | cos | tanh
  deriving DecidableEq, Repr

/-- The format pair of DOT (R94). -/
inductive DotPair where
  | e4m3 | e5m2 | e2m1 | i8
  deriving DecidableEq, Repr

/-- The mode and number of LXCH (R151). -/
inductive Xch where
  | bcast (n : BitVec 5)
  | rot (n : BitVec 5)
  | mirror (n : BitVec 5)
  | xor (n : BitVec 5)
  deriving DecidableEq, Repr

/-- Integer operations of LRED and LSCAN (R152). -/
inductive IRed where
  | add | and | or | xor | smin | smax | umin | umax
  deriving DecidableEq, Repr

/-- Float operations of LRED and LSCAN (R152). -/
inductive FRed where
  | fadd | fmin | fmax
  deriving DecidableEq, Repr

/-- The selector of LRED and LSCAN with its width or format (R152). -/
inductive Reduce where
  | int (op : IRed) (w : Width)
  | flt (op : FRed) (f : FFmt)
  deriving DecidableEq, Repr

/-- The mode of VOTE (R155). -/
inductive VoteMode where
  | all | any | ballot | count
  deriving DecidableEq, Repr

/-- The scope field of LX (R31). -/
inductive LxScope where
  | core | die | device | pod
  deriving DecidableEq, Repr

/-- The operation of RED (R31). -/
inductive RedOp where
  | add | smin | smax | umin | umax | and | or | fadd32
  deriving DecidableEq, Repr

/-- The condition of BRA (R32). -/
inductive BCond where
  | always | any | all | none | notAll
  deriving DecidableEq, Repr

/-- The scope of PHASE (R33, R171). -/
inductive PScope where
  | group | core | cluster | die | device | pod
  deriving DecidableEq, Repr

/-- The kind of COLL (R202). -/
inductive CollKind where
  | allReduce | reduceScatter | allGather | broadcast
  deriving DecidableEq, Repr

/-- The layout tag of RELAYOUT (R260, R263). -/
inductive Tag where
  | row | col | tile16 | tile128 | kblk32 | swz
  deriving DecidableEq, Repr

/-- The format of AREAD (R280). -/
inductive AFmt where
  | f32 | bf16 | i32
  deriving DecidableEq, Repr

/-- The mode of FEBIND and of the privileged bind request (R166). -/
inductive BindMode where
  | bind | empty | full
  deriving DecidableEq, Repr

/-- The level of ICINV (R119). -/
inductive IcLevel where
  | core | cluster | both
  deriving DecidableEq, Repr

/-- The destination of CSRR: an s register or a v register (R33, vec). -/
inductive CsrDst where
  | s (r : SReg)
  | v (r : LReg)
  deriving DecidableEq, Repr

/-- A core of the device: die 0–3, cluster 0–4, core 0–7 (R1). -/
structure CoreId where
  die : Nat
  cluster : Nat
  core : Nat
  deriving DecidableEq, Repr

/-- Progress classes (R129): Held is strongest. -/
inductive Class where
  | held | queued | spare
  deriving DecidableEq, Repr

/-- The process and the thread that submit a launch, the thread numbers that system software writes for its groups, by TEAMIDX and
GROUPIDX, at its admission (R346), and the bytes of the launched image (R384). -/
structure Submitter where
  pid : BitVec 32
  tid : BitVec 32
  tids : List (Nat × Nat × BitVec 32)
  image : List (BitVec 8)
  deriving DecidableEq, Repr

/-- A launch descriptor (R46). `roles` holds (groups, budget byte) of roles 0–3. -/
structure LaunchDesc where
  codeBase : Word
  entry : BitVec 32
  cls : Class
  noPromote : Bool
  paired : Bool
  debugFlag : Bool
  urgent : Bool
  reserve : Nat
  teams : Nat
  groups : Nat
  lanes : Nat
  shapes : Nat
  roles : List (Nat × Nat)
  trapVec : Word
  ttabBase : Word
  rgnBase : Word
  domain : BitVec 10
  reach : BitVec 4
  subreach : BitVec 4
  queue : BitVec 32
  acctRec : Word
  slotTab : Word
  waitSwap : Nat
  scratch : Nat
  stackArea : Word
  deriving DecidableEq, Repr

/-- A queue descriptor (R228). -/
structure QueueDesc where
  qnum : BitVec 32
  minClass : Class
  isDefault : Bool
  wharf : Bool
  reserve : Nat
  quota : Nat
  ovfCap : Nat
  ovfBase : Word
  home : Nat
  deriving DecidableEq, Repr

/-- The fields of a reach record or sub-reach record (R335). -/
structure ReachRec where
  sliceUs : Nat
  tshare : Nat
  membw : Nat
  fabbw : Nat
  basin : Nat
  cscr : Nat
  kscr : Nat
  dscr : Nat
  oslot : Nat
  atile : Nat
  deriving DecidableEq, Repr

/-- A scratchpad unit whose partition an address offset counts in (R160). -/
inductive Unit3 where
  | die (d : Nat)
  | cluster (d c : Nat)
  | core (id : CoreId)
  deriving DecidableEq, Repr

/-- The producer of a granule binding (R165, R166). -/
inductive Producer where
  | launch (lid : BitVec 32)
  | wharf
  deriving DecidableEq, Repr

/-- A boot stage as the flash holds it: its header of 256 bytes and its image (R382). -/
structure StageImage where
  header : List (BitVec 8)
  image : List (BitVec 8)
  deriving DecidableEq, Repr

/-- A task entry of 32 bytes as four 64-bit words (R227). -/
structure Entry where
  w0 : Word
  w1 : Word
  w2 : Word
  w3 : Word
  deriving DecidableEq, Repr

/-- A packet of the Towpath (R354) without its time fields. -/
inductive Packet where
  | branch (how : Nat)
  | target (off : BitVec 32)
  | em (m : Mask)
  | start (gid : Word) (off : BitVec 32)
  | sev (arg : Nat) (lanes : Mask) (val : Word)
  | fin
  deriving DecidableEq, Repr

/-- Messages of class 2 that another device sends here (R375, R376, R377). -/
inductive RemoteMsg where
  | enq (src : BitVec 8) (reach : BitVec 4) (qnum : BitVec 32) (e : Entry) (rootDev : BitVec 8) (tag : Nat)
  | deparm (src : BitVec 8) (reach : BitVec 4) (die ctr count : Nat) (qnum : BitVec 32) (e : Entry) (rootDev : BitVec 8) (tag : Nat)
  | depdec (src : BitVec 8) (reach : BitVec 4) (die ctr : Nat) (tag : Nat)
  | weirReturn (src : BitVec 8) (reach : BitVec 4) (domain : BitVec 10) (units lost : Nat)
  /-- A borrow, or the weight of a QOPEN, of so many units, for a launch (R235-R237). -/
  | weirBorrow (src : BitVec 8) (reach : BitVec 4) (domain : BitVec 10) (units : Nat) (lid : BitVec 32) (tag : Nat)
  /-- A launch on the other device holds weight of the domain (R235). -/
  | weirJoin (src : BitVec 8) (reach : BitVec 4) (domain : BitVec 10) (lid : BitVec 32)
  /-- Weight has gone from one device to another, neither of which has the root (R376). -/
  | weirMoved (reach : BitVec 4) (domain : BitVec 10) (src dest : BitVec 8) (units : Nat)
  /-- The root's balance for the other device is 0: its proxy is freed (R376). -/
  | proxyFree (src : BitVec 8) (reach : BitVec 4) (domain : BitVec 10)
  | borrowReply (tag : Nat) (granted : Bool)
  | statusReply (tag : Nat) (status : Word)
  /-- A QWAIT whose domain's root is on the other device (R238), and its answer: the root's lost count. -/
  | quiet (src : BitVec 8) (reach : BitVec 4) (domain : BitVec 10) (tag : Nat)
  | quietReply (tag lost : Nat)
  /-- The member launches of the root, for the check of that wait (R238). -/
  | quietMembers (tag : Nat) (members : List (BitVec 32))
  deriving DecidableEq, Repr

/-- What a fabric message asks for when it is applied here (R370–R372): accesses of main memory by physical address, under the key ID
of the sender's page-table entry, and task messages. Other traffic has an event of its own, or carries nothing that is kept here. -/
inductive FabOp where
  | write (pa key : Nat) (bytes : List Byte)
  | read (pa key len : Nat)
  | atom (op : RedOp) (w64 : Bool) (pa key : Nat) (b : Word)
  | xchg (w64 : Bool) (pa key : Nat) (b : Word)
  | cas (w64 : Bool) (pa key : Nat) (b d : Word)
  | red (op : RedOp) (w64 : Bool) (pa key : Nat) (b : Word) (rm : BitVec 2)
  | task (m : RemoteMsg)
  | other (cls : Nat)
  deriving DecidableEq, Repr

/-- What system software registers for a reach beside its record: the owner's rule, recorded at creation (R386): minimum SVNs and
accepted stage measurements; and the memory regions of RDMA (R379), each with its base and length. -/
structure ReachOwn where
  minSvn : List Nat
  accepted : List (BitVec 512)
  regions : List (Nat × Nat)
  deriving DecidableEq, Repr

/-- What the other device of a migration sends (R386): its ephemeral X448 public key, signed with its identity key, and, where it is the
source, the keys under the agreed key. -/
structure KeyOffer where
  pub : BitVec 448
  sig : BitVec 912
  sealed : Option (List (BitVec 8))
  deriving DecidableEq, Repr

/-- What READ_STATE and WRITE_STATE name (R347): registers and RW CSRs of a group. -/
inductive StateSel where
  | v (r : BitVec 6) (lane : BitVec 5)
  | e (r : BitVec 3) (lane : BitVec 5)
  | s (r : SReg)
  | p (r : PReg)
  | csr (n : BitVec 12)
  | pc
  /-- The trap bank's copies of v48–v55 and of s56–s63 (R330). -/
  | bankV (n : BitVec 3) (lane : BitVec 5)
  | bankS (n : BitVec 3)
  deriving DecidableEq, Repr

/-- Where a bit error strikes (R311). -/
inductive ErrLoc where
  /-- v0–v55, and e0–e7 as 56 to 63. -/
  | vreg (grp : Nat) (r : BitVec 6)
  | sreg (grp : Nat) (r : SReg)
  | preg (grp : Nat) (r : PReg)
  /-- The trap bank's copies of v48–v55 and of s56–s63. -/
  | bankV (grp : Nat) (n : BitVec 3)
  | bankS (grp : Nat) (n : BitVec 3)
  | mem (key : Nat)
  /-- A held store, a side-log entry and a held tensor element, by their place in the group's lists. -/
  | held (grp n : Nat)
  | side (grp n : Nat)
  | heldT (grp n : Nat)
  /-- A write that a boundary of a group drains, by its place in the list. -/
  | drain (grp n : Nat)
  /-- A task entry, by its place among those of the device (R229), and a shape slot of a team, the team by its place among them
  (R262). -/
  | entry (n : Nat)
  | shape (team slot : Nat)
  deriving DecidableEq, Repr

/-- Which way BASIN_MOVE carries a block (R229). -/
inductive BasinDir where
  | coreUp (c : CoreId)
  | clusterUp (d c : Nat)
  | dieUp (d : Nat)
  | down (c : CoreId) (qnum : BitVec 32)
  | clusterDown (d c : Nat) (qnum : BitVec 32)
  | ovfDown (d : Nat)
  | spill (d : Nat) (reach : BitVec 4)
  deriving DecidableEq, Repr

/-- What a management read asks for (R389). -/
inductive MgmtSel where
  | thermal | power | cap | metering (reach : BitVec 4) (off : BitVec 8) | blackBox | status
  deriving DecidableEq, Repr

/-- One instruction word or one event of the opcode table. The instruction words come first, in the table's order; the events
follow `icinv`. -/
inductive Instr where
  /-- IADD (R66). -/
  | iadd (w : Width) (d a b : LReg) (g : Guard)
  /-- ISUB (R66). -/
  | isub (w : Width) (d a b : LReg) (g : Guard)
  /-- IADDI (R66). -/
  | iaddi (w : Width) (d a : LReg) (imm : BitVec 7) (g : Guard)
  /-- IMIN (R68). -/
  | imin (w : Width) (d a b : LReg) (g : Guard)
  /-- IMAX (R68). -/
  | imax (w : Width) (d a b : LReg) (g : Guard)
  /-- UMIN (R68). -/
  | umin (w : Width) (d a b : LReg) (g : Guard)
  /-- UMAX (R68). -/
  | umax (w : Width) (d a b : LReg) (g : Guard)
  /-- IMUL (R69). -/
  | imul (w : Width) (d a b : LReg) (g : Guard)
  /-- IMULHI (R69). -/
  | imulhi (w : Width) (d a b : LReg) (g : Guard)
  /-- IMAD (R69). -/
  | imad (w : Width) (d a b : LReg) (g : Guard)
  /-- IMSB (R69). -/
  | imsb (w : Width) (d a b : LReg) (g : Guard)
  /-- IADDSAT (R67). -/
  | iaddsat (w : Width) (d a b : LReg) (g : Guard)
  /-- ISUBSAT (R67). -/
  | isubsat (w : Width) (d a b : LReg) (g : Guard)
  /-- UADDSAT (R67). -/
  | uaddsat (w : Width) (d a b : LReg) (g : Guard)
  /-- USUBSAT (R67). -/
  | usubsat (w : Width) (d a b : LReg) (g : Guard)
  /-- AND (R70: the width has no effect). -/
  | land (w : Width) (d a b : LReg) (g : Guard)
  /-- ANDN (R70: the width has no effect). -/
  | landn (w : Width) (d a b : LReg) (g : Guard)
  /-- OR (R70: the width has no effect). -/
  | lor (w : Width) (d a b : LReg) (g : Guard)
  /-- ORN (R70: the width has no effect). -/
  | lorn (w : Width) (d a b : LReg) (g : Guard)
  /-- XOR (R70: the width has no effect). -/
  | lxor (w : Width) (d a b : LReg) (g : Guard)
  /-- XNOR (R70: the width has no effect). -/
  | lxnor (w : Width) (d a b : LReg) (g : Guard)
  /-- SHL (R71). -/
  | shl (w : Width) (d a b : LReg) (g : Guard)
  /-- SHR (R71). -/
  | shr (w : Width) (d a b : LReg) (g : Guard)
  /-- SAR (R71). -/
  | sar (w : Width) (d a b : LReg) (g : Guard)
  /-- ROL (R71). -/
  | rol (w : Width) (d a b : LReg) (g : Guard)
  /-- SHLI (R72). -/
  | shli (w : Width) (d a : LReg) (imm : BitVec 7) (g : Guard)
  /-- SHRI (R72). -/
  | shri (w : Width) (d a : LReg) (imm : BitVec 7) (g : Guard)
  /-- SARI (R72). -/
  | sari (w : Width) (d a : LReg) (imm : BitVec 7) (g : Guard)
  /-- POPC (R73). -/
  | popc (w : Width) (d a : LReg) (g : Guard)
  /-- CLZ (R73). -/
  | clz (w : Width) (d a : LReg) (g : Guard)
  /-- BREV (R73). -/
  | brev (w : Width) (d a : LReg) (g : Guard)
  /-- CTZ (R73). -/
  | ctz (w : Width) (d a : LReg) (g : Guard)
  /-- BFX (R74). -/
  | bfx (w : Width) (d a b : LReg) (g : Guard)
  /-- BFXS (R74). -/
  | bfxs (w : Width) (d a b : LReg) (g : Guard)
  /-- BFI (R74). -/
  | bfi (w : Width) (d a b : LReg) (g : Guard)
  /-- IABS (R68). -/
  | iabs (w : Width) (d a : LReg) (g : Guard)
  /-- INEG (R68). -/
  | ineg (w : Width) (d a : LReg) (g : Guard)
  /-- MOV (R75). -/
  | mov (d a : LReg) (g : Guard)
  /-- MOVS (R75). -/
  | movs (d : LReg) (sa : SReg) (g : Guard)
  /-- MOVI (R76). -/
  | movi (d : LReg) (h : HSel) (imm : BitVec 16)
  /-- SEL (R77). -/
  | sel (d a b : LReg) (p : PReg)
  /-- ICMP (R78). -/
  | icmp (pd : PReg) (a b : LReg) (c : Cond) (w64 : Bool) (m : Comb)
  /-- PLOP (R79). -/
  | plop (pd pa pb : PReg) (f : BitVec 4)
  /-- PMOV_GET (R80). -/
  | pmovGet (d : LReg) (hi : Bool) (g : Guard)
  /-- PMOV_SET (R80). -/
  | pmovSet (a : LReg) (hi : Bool) (g : Guard)
  /-- FADD (R86). -/
  | fadd (f : FFmt) (d a b : LReg) (g : Guard)
  /-- FSUB (R86). -/
  | fsub (f : FFmt) (d a b : LReg) (g : Guard)
  /-- FMUL (R86). -/
  | fmul (f : FFmt) (d a b : LReg) (g : Guard)
  /-- FFMA (R86). -/
  | ffma (f : FFmt) (d a b : LReg) (g : Guard)
  /-- FFMS (R86). -/
  | ffms (f : FFmt) (d a b : LReg) (g : Guard)
  /-- FMIN (R87). -/
  | fmin (f : FFmt) (d a b : LReg) (g : Guard)
  /-- FMAX (R87). -/
  | fmax (f : FFmt) (d a b : LReg) (g : Guard)
  /-- FABS (R87). -/
  | fabs (f : FFmt) (d a : LReg) (g : Guard)
  /-- FNEG (R87). -/
  | fneg (f : FFmt) (d a : LReg) (g : Guard)
  /-- FCMP (R88). -/
  | fcmp (pd : PReg) (a b : LReg) (c : FCond) (m : Comb)
  /-- FSPEC (R89–R91). -/
  | fspec (fn : FFun) (f : FFmt) (d a : LReg) (g : Guard)
  /-- CVT (R92, R93: `sel` is the row of the selector table). -/
  | cvt (sel : BitVec 6) (part : BitVec 2) (d a : LReg) (g : Guard)
  /-- DOT (R59, R94). -/
  | dot (pair : DotPair) (hi : Bool) (d a b : LReg) (g : Guard)
  /-- PERM (R150). -/
  | perm (w : Width) (d a b : LReg) (g : Guard)
  /-- LXCH (R151). -/
  | lxch (x : Xch) (d a : LReg) (g : Guard)
  /-- LRED (R153). -/
  | lred (op : Reduce) (d a : LReg) (g : Guard)
  /-- LSCAN (R154). -/
  | lscan (op : Reduce) (exc : Bool) (d a : LReg) (g : Guard)
  /-- VOTE (R155). -/
  | vote (sd : SReg) (p : PReg) (mode : VoteMode)
  /-- LD (R176). -/
  | ld (w : Width) (d a : LReg) (off : BitVec 3) (la : La) (g : Guard)
  /-- LDS (R176). -/
  | lds (w : Width) (d a : LReg) (off : BitVec 3) (la : La) (g : Guard)
  /-- ST (R176). -/
  | st (w : Width) (d a : LReg) (off : BitVec 3) (la : La) (g : Guard)
  /-- LDFE (R177). -/
  | ldfe (w : Width) (d a : LReg) (off : BitVec 3) (la : La) (g : Guard)
  /-- LDFW (R177). -/
  | ldfw (w : Width) (d a : LReg) (off : BitVec 3) (la : La) (g : Guard)
  /-- STFE (R177). -/
  | stfe (w : Width) (d a : LReg) (off : BitVec 3) (la : La) (g : Guard)
  /-- CAS (R179). -/
  | cas (w64 : Bool) (sc : LxScope) (d a b : LReg) (la : La)
  /-- RED (R180). -/
  | red (op : RedOp) (w64 : Bool) (sc : LxScope) (a b : LReg) (la : La)
  /-- ATOM_ADD (R179). -/
  | atomAdd (w64 : Bool) (sc : LxScope) (d a b : LReg) (la : La)
  /-- ATOM_SMIN (R179). -/
  | atomSmin (w64 : Bool) (sc : LxScope) (d a b : LReg) (la : La)
  /-- ATOM_SMAX (R179). -/
  | atomSmax (w64 : Bool) (sc : LxScope) (d a b : LReg) (la : La)
  /-- ATOM_UMIN (R179). -/
  | atomUmin (w64 : Bool) (sc : LxScope) (d a b : LReg) (la : La)
  /-- ATOM_UMAX (R179). -/
  | atomUmax (w64 : Bool) (sc : LxScope) (d a b : LReg) (la : La)
  /-- ATOM_AND (R179). -/
  | atomAnd (w64 : Bool) (sc : LxScope) (d a b : LReg) (la : La)
  /-- ATOM_OR (R179). -/
  | atomOr (w64 : Bool) (sc : LxScope) (d a b : LReg) (la : La)
  /-- ATOM_XCHG (R179). -/
  | atomXchg (w64 : Bool) (sc : LxScope) (d a b : LReg) (la : La)
  /-- TLOAD (R266). -/
  | tload (slot : BitVec 5) (d a : LReg) (la : La) (g : Guard)
  /-- TSTORE (R266). -/
  | tstore (slot : BitVec 5) (d a : LReg) (la : La) (g : Guard)
  /-- SADD (R100). -/
  | sadd (sd sa sb : SReg)
  /-- SSUB (R100). -/
  | ssub (sd sa sb : SReg)
  /-- SMUL (R100). -/
  | smul (sd sa sb : SReg)
  /-- SMULHI (R100). -/
  | smulhi (sd sa sb : SReg)
  /-- SAND (R100). -/
  | sand (sd sa sb : SReg)
  /-- SOR (R100). -/
  | sor (sd sa sb : SReg)
  /-- SXOR (R100). -/
  | sxor (sd sa sb : SReg)
  /-- SANDN (R100). -/
  | sandn (sd sa sb : SReg)
  /-- SSHL (R100). -/
  | sshl (sd sa sb : SReg)
  /-- SSHR (R100). -/
  | sshr (sd sa sb : SReg)
  /-- SSAR (R100). -/
  | ssar (sd sa sb : SReg)
  /-- SMIN (R100). -/
  | smin (sd sa sb : SReg)
  /-- SMAX (R100). -/
  | smax (sd sa sb : SReg)
  /-- SMINU (R100). -/
  | sminu (sd sa sb : SReg)
  /-- SMAXU (R100). -/
  | smaxu (sd sa sb : SReg)
  /-- SADDI (R101). -/
  | saddi (sd sa : SReg) (imm : BitVec 13)
  /-- SLI (R101). -/
  | sli (sd : SReg) (h : HSel) (imm : BitVec 16)
  /-- SCMP (R102). -/
  | scmp (pd : PReg) (sa sb : SReg) (c : Cond) (w64 : Bool) (m : Comb)
  /-- SGET (R103). -/
  | sget (sd : SReg) (va : LReg) (lane : BitVec 5)
  /-- SLD (R104). -/
  | sld (w : Width) (sd sa : SReg) (off : BitVec 7) (la : La)
  /-- SST (R104: `sd` is the data). -/
  | sst (w : Width) (sd sa : SReg) (off : BitVec 7) (la : La)
  /-- BRA (R106). -/
  | bra (c : BCond) (p : PReg) (off : BitVec 15)
  /-- BRL (R106). -/
  | brl (off : BitVec 25)
  /-- BRD (R109). -/
  | brd (p : PReg) (off : BitVec 18)
  /-- JPUSH (R110). -/
  | jpush (off : BitVec 25)
  /-- JOIN (R110). -/
  | join
  /-- BRX (R111). -/
  | brx (va : LReg) (table : BitVec 19)
  /-- CALL (R107). -/
  | call (off : BitVec 25)
  /-- RET (R107). -/
  | ret
  /-- EXIT (R112). -/
  | exit
  /-- YIELD (R213). -/
  | yield (sd : SReg) (off : BitVec 19)
  /-- RUNEND (R18, R113). -/
  | runend (wa : BitVec 3) (ma : BitVec 8) (wb : BitVec 3) (mb : BitVec 8)
  /-- BAR (R156). -/
  | bar (n : BitVec 4) (sa : SReg)
  /-- PHASE (R171). -/
  | phase (sc : PScope)
  /-- XFENCE (R172). -/
  | xfence
  /-- WAITSEQ (R211). -/
  | waitseq (sa sb : SReg)
  /-- QOPEN (R237). -/
  | qopen
  /-- QRET (R237). -/
  | qret
  /-- QWAIT (R238). -/
  | qwait
  /-- QREAD (R237). -/
  | qread (sd : SReg)
  /-- ENQ (R242). -/
  | enq (sd sa sb : SReg) (la : La)
  /-- DEQ (R243). -/
  | deq (sd sa : SReg) (la : La)
  /-- DEQ_NB (R243). -/
  | deqNb (sd sa : SReg) (la : La)
  /-- DEPARM (R247). -/
  | deparm (sd sa sb : SReg) (la : La)
  /-- DEPDEC (R248). -/
  | depdec (sd sa : SReg) (la : La)
  /-- CPY (R203). -/
  | cpy (sd sa sb : SReg) (sched : Bool) (la : La)
  /-- CHEAD (R209). -/
  | chead (sd sa sb : SReg) (la : La)
  /-- CTAIL (R209). -/
  | ctail (sd sa sb : SReg) (la : La)
  /-- TMOVE (R203). -/
  | tmove (sd sa sb : SReg) (sched : Bool) (la : La)
  /-- COLL (R214). -/
  | coll (k : CollKind) (sd sa sb : SReg) (la : La)
  /-- TSLOAD (R264). -/
  | tsload (slot : BitVec 5) (sa : SReg)
  /-- TSEVICT (R265). -/
  | tsevict (slot : BitVec 5) (sa : SReg)
  /-- RELAYOUT (R269). -/
  | relayout (tag : Tag) (sd sa sb : SReg) (la : La)
  /-- OCLAIM (R281). -/
  | oclaim (sd sa : SReg) (la : La)
  /-- ORELEASE (R282). -/
  | orelease (sd sa : SReg) (la : La)
  /-- ACLAIM (R281). -/
  | aclaim (sd sa : SReg) (la : La)
  /-- ARELEASE (R282). -/
  | arelease (sd sa : SReg) (la : La)
  /-- MLOOP (R287). -/
  | mloop (sd sa sb : SReg) (la : La)
  /-- MLOOP_WAIT (R291). -/
  | mloopWait (sa : SReg) (la : La)
  /-- AREAD (R292). -/
  | aread (f : AFmt) (vd : LReg) (sa : SReg) (la : La)
  /-- AZERO (R292). -/
  | azero (sa : SReg) (la : La)
  /-- CSRR (R114). -/
  | csrr (dst : CsrDst) (csr : BitVec 12)
  /-- CSRW (R114). -/
  | csrw (csr : BitVec 12) (sa : SReg)
  /-- TRAP (R115). -/
  | trap (imm : BitVec 16)
  /-- RFT (R116). -/
  | rft
  /-- BKPT (R115). -/
  | bkpt (imm : BitVec 16)
  /-- RGN (R118). -/
  | rgn (region : BitVec 18)
  /-- FEBIND (R166). -/
  | febind (sa sb sc : SReg) (mode : BindMode)
  /-- NOP (R120). -/
  | nop
  /-- ICINV (R119). -/
  | icinv (lv : IcLevel)
  /-- EM_WRITE (R9: the group in turn writes EM). -/
  | emWrite (val : Word)
  /-- FFLAGS_ACCESS (R114: the wait of a FFLAGS access for the acknowledgements of REDs). -/
  | fflagsAccess
  /-- DBGOUT15_WRITE (R353). -/
  | dbgout15Write (val : Word)
  /-- DBGIN15_READ (R353). -/
  | dbgin15Read (sd : SReg)
  /-- WATCH_WRITE (R351: `n` 0–3 is WATCHn, 4 is WATCHCTL). -/
  | watchWrite (n : BitVec 3) (val : Word)
  /-- ALMCAUSE_WRITE (R387). -/
  | almcauseWrite (val : Word)
  /-- LONG_LATENCY_RESULT (R18: the in-flight result number `idx` of a group). -/
  | longLatencyResult (grp idx : Nat)
  /-- DRAIN_COMPLETE (R171: the drained write number `n` of a group reaches its home). -/
  | drainComplete (grp n : Nat)
  /-- RED_ACK (R180). -/
  | redAck (grp : Nat)
  /-- FAULT_SERVICE_END (R309). -/
  | faultServiceEnd (grp : Nat)
  /-- SIDE_LOG_REPLAY (R169). -/
  | sideLogReplay (grp page : Nat)
  /-- PORT_ASSIGNMENT (R142, R143). -/
  | portAssignment (core : CoreId) (port : Bool)
  /-- LAUNCH_SUBMIT (R127). -/
  | launchSubmit (desc : List Byte) (lid : BitVec 32) (who : Submitter)
  /-- TEAM_START (R130). -/
  | teamStart (lid : BitVec 32) (team : Nat) (core : CoreId)
  /-- WAIT_SWAP (R141). -/
  | waitSwap (lid : BitVec 32) (team : Nat)
  /-- SCHEDULING_BOUNDARY (R138). -/
  | schedulingBoundary
  /-- SLICE_END (R336). -/
  | sliceEnd (reach : BitVec 4) (core : CoreId)
  /-- SLICE_GRANT (R336). -/
  | sliceGrant (reach : BitVec 4) (core : CoreId)
  /-- PREEMPTION_REQUEST (R326). -/
  | preemptionRequest (reach : BitVec 4) (cores : List CoreId)
  /-- REACH_RESUME (R329, R331), with what system software has written into the header: TIMEX, ROOT, SNAPGEN. -/
  | reachResume (reach : BitVec 4) (revision : Nat) (timex : Bool) (root : Nat) (snapgen : Word)
  /-- EVACUATE (R333). -/
  | evacuate (reach : BitVec 4)
  /-- REACH_RECORD_WRITE (R335). -/
  | reachRecordWrite (reach : BitVec 4) (sub : Option (BitVec 4)) (r : ReachRec) (own : ReachOwn)
  /-- ALLOCATOR_MODE (R126). -/
  | allocatorMode (core : CoreId) (on : Bool)
  /-- COMPACTOR_MOVE (R126). -/
  | compactorMove (core : CoreId)
  /-- BIND_REQUEST (R165). -/
  | bindRequest (reach : BitVec 4) (u : Unit3) (off len : Nat) (prod : Option Producer) (mode : BindMode)
  /-- QUEUE_INSTANTIATE (R228). -/
  | queueInstantiate (reach : BitVec 4) (owner : Option (BitVec 32)) (desc : List Byte)
  /-- QUEUE_DESTROY (R228, R239). -/
  | queueDestroy (reach : BitVec 4) (qnum : BitVec 32)
  /-- CHANNEL_ASSIGN (R204). -/
  | channelAssign (handle : BitVec 9) (lid : BitVec 32)
  /-- COUNTER_ASSIGN (R246). -/
  | counterAssign (die first last : Nat) (reach : BitVec 4)
  /-- ONE_SHOT_COMPLETION (R203). -/
  | oneShotCompletion (id : Nat)
  /-- RECORD_TAKE (R208). -/
  | recordTake (handle : BitVec 9)
  /-- RECORD_COMPLETION (R207). -/
  | recordCompletion (handle : BitVec 9) (num : BitVec 32)
  /-- COLL_COMPLETION (R215, R216). -/
  | collCompletion (lid : BitVec 32) (tag : Word)
  /-- BASIN_MOVE (R229, R230). -/
  | basinMove (dir : BasinDir)
  /-- UNADMITTED_ADMIT (R232). -/
  | unadmittedAdmit (die ctr : Nat)
  /-- WEIR_RETURN (R235: the oldest return message reaches its root). -/
  | weirReturn
  /-- WEIR_BORROW (R236: a root answers the borrow a group waits for). -/
  | weirBorrow (grp : Nat)
  /-- REMOTE_TASK_MESSAGE (R375). -/
  | remoteTaskMessage (m : RemoteMsg)
  /-- REHOME (R377). -/
  | rehome (reach : BitVec 4) (root : BitVec 8)
  /-- DREDGER_BEGIN (R270). -/
  | dredgerBegin (id : Nat)
  /-- SLAB_COMMIT (R271). -/
  | slabCommit (id : Nat)
  /-- DREDGER_COMPLETE (R272). -/
  | dredgerComplete (id : Nat)
  /-- K_STEP (R288). -/
  | kStep (lid : BitVec 32) (team : Nat)
  /-- RING_ENTRY_ACQUIRE (R290). -/
  | ringEntryAcquire (lid : BitVec 32) (team : Nat)
  /-- WATCHDOG (R322). -/
  | watchdog (grp : Nat)
  /-- INFIELD_TEST (R320). -/
  | infieldTest (die cluster : Nat) (pass : Bool)
  /-- FABRIC_RECOVERY (R323). -/
  | fabricRecovery (dev : BitVec 8) (windowMs : Nat)
  /-- RECOVERY_WINDOW_END (R323, R377). -/
  | recoveryWindowEnd (dev : BitVec 8)
  /-- PTE_UPDATE (R373). -/
  | pteUpdate (root table idx : Nat) (val : Word)
  /-- SHOOTDOWN (R307). -/
  | shootdown (reach : BitVec 4) (va len : Nat)
  /-- HALT (R347). -/
  | halt (lid : BitVec 32)
  /-- RESUME (R347). -/
  | resume (lid : BitVec 32)
  /-- WRITECODE (R347). -/
  | writecode (reach : BitVec 4) (addr : Word) (val : BitVec 32)
  /-- INVAL (R347). -/
  | inval (cores : List CoreId)
  /-- READ_STATE (R347). -/
  | readState (gid : Word) (sel : StateSel)
  /-- WRITE_STATE (R347). -/
  | writeState (gid : Word) (sel : StateSel) (val : Word)
  /-- READTILE (R347). -/
  | readtile (lid : BitVec 32) (team tile row : Nat)
  /-- READOUT (R347). -/
  | readout (gid : Word)
  /-- WRITEIN (R347). -/
  | writein (gid : Word) (vals : List Word)
  /-- REPLAY_START (R356): a launch starts with a recording of each group's packets, named by TEAMIDX and GROUPIDX. -/
  | replayStart (desc : List Byte) (lid : BitVec 32) (who : Submitter) (rec : List (Nat × Nat × List Packet)) (loss freeRun : Bool)
  /-- FLIT_REPLAY (R369): the flit at the head of a link is replayed; `ok` says that it passes its CRC now. -/
  | flitReplay (link : BitVec 4) (ok : Bool)
  /-- ROUTE_TABLE_WRITE (R369, R370). -/
  | routeTableWrite (dest : BitVec 8) (link : BitVec 4)
  /-- FABRIC_MESSAGE (R372). -/
  | fabricMessage (src : BitVec 8) (reach : BitVec 4) (op : FabOp) (authentic : Bool)
  /-- REMOTE_CALL (R380). -/
  | remoteCall (ver : BitVec 8) (op : BitVec 16) (len : BitVec 32) (seq pid : Word) (zeros : Bool)
  /-- RDMA_WRITE (R379). -/
  | rdmaWrite (reach : BitVec 4) (region off : Nat) (bytes : List Byte)
  /-- RDMA_READ (R379). -/
  | rdmaRead (reach : BitVec 4) (region off len : Nat)
  /-- WHARF_REPLY (R381: the reply to the oldest call being served; `args` are results written into ARGS). -/
  | wharfReply (reach : BitVec 4) (qnum : BitVec 32) (code : BitVec 6) (result : BitVec 32) (args : List Byte)
  /-- DEVICE_RESET (R382, R383, R368). -/
  | deviceReset (stages : List StageImage) (modules : List Nat)
  /-- ATTESTATION_REQUEST (R384). -/
  | attestationRequest (reach : BitVec 4) (nonce : BitVec 256)
  /-- MIGRATION_KEY_TRANSFER (R386). -/
  | migrationKeyTransfer (reach : BitVec 4) (peer : BitVec 8) (report : List (BitVec 8)) (offer : KeyOffer)
  /-- SECURITY_ALARM (R387). -/
  | securityAlarm (cause : BitVec 5)
  /-- MANAGEMENT_READ (R389). -/
  | managementRead (sel : MgmtSel)
  /-- FIRMWARE_UPDATE (R389). -/
  | firmwareUpdate (stage : StageImage)
  /-- POWER_CAP_SET (R390). -/
  | powerCapSet (watts : Nat)
  /-- POWER_CAP_EXCEEDED (R390). -/
  | powerCapExceeded
  /-- THERMAL_LIMIT (R390). -/
  | thermalLimit (celsius : Nat)
  /-- SOFT_ERROR (R311). -/
  | softError (loc : ErrLoc) (uncorrectable : Bool)
  /-- LAUNCH_REMOVAL (R239: a halted group, or with `none` the whole launch). -/
  | launchRemoval (lid : BitVec 32) (grp : Option Nat)
  /-- GROUP_RESUME (R21, R341). -/
  | groupResume (gid : Word)
  /-- RECOVERED_WITHIN_WINDOW (R323). -/
  | recoveredWithinWindow (dev : BitVec 8)
  /-- KEY_ID_ASSIGNMENT (R385). -/
  | keyIdAssignment (reach : BitVec 4) (key : BitVec 7)
  /-- TRACE_BUFFER_DRAIN (R355). -/
  | traceBufferDrain (die cluster bytes : Nat)
  deriving DecidableEq, Repr

end Sys2Proof
end

