-- ==== Sys2Proof/Machine/Tables.lean ====
section
/-! DEFINITION. The two tables that decoding and meanings share: the conversion selectors (R93) and the CSR numbers (R11). -/
namespace Sys2Proof

/-- The width of a conversion format in bits. -/
def CFmt.width : CFmt → Nat
  | .f32 => 32
  | .f16 => 16
  | .bf16 => 16
  | .e5m2 => 8
  | .e4m3 => 8
  | .e2m1 => 4
  | .int _ w => w

/-- A row without the "h" mark. -/
def cvtTo (dst src : CFmt) : Option CvtRow := some ⟨dst, src, false⟩

/-- The selector table of R93; 0x39 to 0x3F are illegal. -/
def cvtRow (b : BitVec 6) : Option CvtRow :=
  match b.toNat with
  | 0x00 => cvtTo .f16 .f32
  | 0x01 => cvtTo .bf16 .f32
  | 0x02 => cvtTo .e5m2 .f32
  | 0x03 => cvtTo .e4m3 .f32
  | 0x04 => cvtTo .e2m1 .f32
  | 0x05 => some ⟨.e2m1, .f32, true⟩
  | 0x06 => cvtTo .f32 .f16
  | 0x07 => cvtTo .f32 .bf16
  | 0x08 => cvtTo .f32 .e5m2
  | 0x09 => cvtTo .f32 .e4m3
  | 0x0A => cvtTo .f32 .e2m1
  | 0x0B => some ⟨.f32, .e2m1, true⟩
  | 0x0C => cvtTo .bf16 .f16
  | 0x0D => cvtTo .f16 .bf16
  | 0x0E => cvtTo .e5m2 .f16
  | 0x0F => cvtTo .e4m3 .f16
  | 0x10 => cvtTo .e2m1 .f16
  | 0x11 => cvtTo .f16 .e5m2
  | 0x12 => cvtTo .f16 .e4m3
  | 0x13 => cvtTo .f16 .e2m1
  | 0x14 => cvtTo .e5m2 .bf16
  | 0x15 => cvtTo .e4m3 .bf16
  | 0x16 => cvtTo .e2m1 .bf16
  | 0x17 => cvtTo .bf16 .e5m2
  | 0x18 => cvtTo .bf16 .e4m3
  | 0x19 => cvtTo .bf16 .e2m1
  | 0x1A => cvtTo (.int true 32) .f32
  | 0x1B => cvtTo (.int false 32) .f32
  | 0x1C => cvtTo (.int true 64) .f32
  | 0x1D => cvtTo (.int false 64) .f32
  | 0x1E => cvtTo (.int true 16) .f16
  | 0x1F => cvtTo (.int false 16) .f16
  | 0x20 => cvtTo (.int true 8) .f16
  | 0x21 => cvtTo (.int false 8) .f16
  | 0x22 => cvtTo .f32 (.int true 32)
  | 0x23 => cvtTo .f32 (.int false 32)
  | 0x24 => cvtTo .f32 (.int true 64)
  | 0x25 => cvtTo .f32 (.int false 64)
  | 0x26 => cvtTo .f16 (.int true 16)
  | 0x27 => cvtTo .f16 (.int false 16)
  | 0x28 => cvtTo .f16 (.int true 8)
  | 0x29 => cvtTo .f16 (.int false 8)
  | 0x2A => cvtTo (.int true 8) (.int true 16)
  | 0x2B => cvtTo (.int false 8) (.int true 16)
  | 0x2C => cvtTo (.int true 16) (.int true 32)
  | 0x2D => cvtTo (.int false 16) (.int true 32)
  | 0x2E => cvtTo (.int true 32) (.int true 64)
  | 0x2F => cvtTo (.int false 32) (.int true 64)
  | 0x30 => cvtTo (.int true 8) (.int true 32)
  | 0x31 => cvtTo (.int false 8) (.int true 32)
  | 0x32 => cvtTo (.int true 16) (.int true 8)
  | 0x33 => cvtTo (.int false 16) (.int false 8)
  | 0x34 => cvtTo (.int true 32) (.int true 16)
  | 0x35 => cvtTo (.int false 32) (.int false 16)
  | 0x36 => cvtTo (.int true 64) (.int true 32)
  | 0x37 => cvtTo (.int false 64) (.int false 32)
  | 0x38 => cvtTo (.int true 8) (.int true 4)
  | _ => none

/-- The part of a conversion (R92): sz, or sz + 4 for a selector marked "h". -/
def CvtRow.part (r : CvtRow) (sz : BitVec 2) : Nat := sz.toNat + if r.h then 4 else 0

/-- The part lies below max(ws, wd) / min(ws, wd) (R92). -/
def CvtRow.partOk (r : CvtRow) (sz : BitVec 2) : Bool :=
  r.part sz < max r.src.width r.dst.width / min r.src.width r.dst.width

/-- Whether a selector and part can be converted (R92, R93). -/
def cvtOk (b : BitVec 6) (sz : BitVec 2) : Bool :=
  match cvtRow b with
  | some r => r.partOk sz
  | none => false

/-- The CSR numbers below 0x200 that R11 lists. -/
def csrListed (n : Nat) : Bool :=
  n ≤ 0x006 || (0x010 ≤ n && n ≤ 0x015) || (0x020 ≤ n && n ≤ 0x02A) || n == 0x030 || n == 0x031
    || (0x040 ≤ n && n ≤ 0x042) || n == 0x080 || n == 0x081 || n == 0x100 || n == 0x101
    || (0x110 ≤ n && n ≤ 0x134)

/-- The privileged CSR numbers (R11). -/
def csrPrivileged (n : Nat) : Bool := 0x200 ≤ n

/-- The one per-lane CSR, LANEIDX (R11). -/
def csrPerLane (n : Nat) : Bool := n == 0x030

end Sys2Proof
end

