-- ==== Sys2Proof/Machine/Approx.lean ====
section
/-! DEFINITION. The exact values that bound the approximated functions of the special-function unit (R89, R90), in fixed point with
192 fraction bits: their error lies far below the units in the last place that the bounds count. -/
namespace Sys2Proof.Machine

/-- Fraction bits of the fixed-point values. DESIGN CHOICE (log 13). -/
def fixBits : Nat := 192
/-- The fixed-point 1. -/
def fixOne : Int := 2 ^ fixBits
/-- ln 2. -/
def fixLn2 : Int := 0xb17217f7d1cf79abc9e3b39803f2f6af40f343267298b62d
/-- 2π with 328 fraction bits, for arguments up to 2^128. -/
def twoPi328 : Nat := 0x6487ed5110b4611a62633145c06e0e68948127044533e63a0105df531d89cd9128a5043cc71a026ef7c
/-- 2π. -/
def fixTwoPi : Int := (twoPi328 / 2 ^ 136 : Nat)

/-- A product. -/
def fixMul (a b : Int) : Int := a * b / fixOne

/-- The magnitude `m × 2^x` with `p` fraction bits. -/
def fixOf (p m : Nat) (x : Int) : Nat :=
  if 0 ≤ x + p then m * 2 ^ (x + p).toNat else m / 2 ^ (-(x + p)).toNat

/-- `e^r` for `r` up to 1: `n` terms of the series from the one with divisor `k` on. -/
def fixExp (r : Int) : (n k : Nat) → Int
  | 0, _ => fixOne
  | n + 1, k => fixOne + fixMul r (fixExp r n (k + 1)) / k

/-- The rest of the series of sin over its first term, in the square `q` of the argument. -/
def fixSinTail (q : Int) : (n k : Nat) → Int
  | 0, _ => fixOne
  | n + 1, k => fixOne - fixMul q (fixSinTail q n (k + 2)) / (k * (k + 1))

/-- The series of artanh over its first term, in the square `q` of the argument. -/
def fixArtanhTail (q : Int) : (n k : Nat) → Int
  | 0, k => fixOne / k
  | n + 1, k => fixOne / k + fixMul q (fixArtanhTail q n (k + 2))

/-- `2^x` of a fixed-point `x` as a mantissa with `fixBits` fraction bits and an exponent. -/
def fixExp2 (x : Int) : Int × Int := (fixExp (fixMul (x % fixOne) fixLn2) 48 1, x / fixOne)

/-- sin of a fixed-point angle from 0 to 2π: a magnitude that never exceeds the exact one, which lies below |x| and below 1 by more or
less than a fixed-point unit; so the exponent, and with it the ulp of R90, is the exact value's. DESIGN CHOICE (log 14). -/
def fixSin (r : Int) : Int :=
  let pi := fixTwoPi / 2
  let s := if pi ≤ r then r - pi else r
  let s := if pi < 2 * s then pi - s else s
  let y := fixMul s (fixSinTail (fixMul s s) 32 2) - 64
  if pi ≤ r then -y else y

/-- The angle `m × 2^x` reduced to the range from 0 to 2π. -/
def fixAngle (m : Nat) (x : Int) : Int := (fixOf 328 m x % twoPi328 / 2 ^ 136 : Nat)

/-- sin of `m × 2^x`. -/
def sinFix (m : Nat) (x : Int) : Int := fixSin (fixAngle m x)
/-- cos of `m × 2^x`. -/
def cosFix (m : Nat) (x : Int) : Int := fixSin ((fixAngle m x + fixTwoPi / 4) % fixTwoPi)

/-- log2 of `m × 2^x`, where `m` has `n` bits. -/
def log2Fix (m n : Nat) (x : Int) : Int :=
  let f : Int := fixOf fixBits m (1 - (n : Int))
  let z := (f - fixOne) * fixOne / (f + fixOne)
  ((n : Int) - 1 + x) * fixOne + 2 * fixMul z (fixArtanhTail (fixMul z z) 64 1) * fixOne / fixLn2

/-- tanh of the magnitude `m × 2^x`; beyond 64 the value differs from 1 by less than the last bit. -/
def tanhFix (m : Nat) (x : Int) : Int :=
  let a : Int := fixOf fixBits m (min x 64)
  if 64 * fixOne ≤ a || 64 < x then fixOne - 1
  else
    let e := fixExp2 (2 * a * fixOne / fixLn2)
    let t := e.1 * 2 ^ e.2.toNat
    (t - fixOne) * fixOne / (t + fixOne)

end Sys2Proof.Machine
end

