-- ==== Sys2Proof/Machine/Float.lean ====
section
/-! DEFINITION. Floating-point numbers (R54–R59): formats, exact values, the one rounding, flags. Bit patterns are natural numbers;
values are exact integers times a power of two. -/
namespace Sys2Proof.Machine

/-- What a format does beyond its finite values (R54). -/
inductive FKind where
  | infinities (quietOnly : Bool) | e4m3 | e2m1
  deriving DecidableEq, Repr

/-- A floating-point format: exponent and fraction bits, bias (R54). -/
structure Fmt where
  ew : Nat
  fw : Nat
  bias : Nat
  kind : FKind
  deriving DecidableEq, Repr

def fp32 : Fmt := ⟨8, 23, 127, .infinities false⟩
def fp16 : Fmt := ⟨5, 10, 15, .infinities false⟩
def bf16 : Fmt := ⟨8, 7, 127, .infinities false⟩
def e5m2 : Fmt := ⟨5, 2, 15, .infinities true⟩
def e4m3 : Fmt := ⟨4, 3, 7, .e4m3⟩
def e2m1 : Fmt := ⟨2, 1, 1, .e2m1⟩

/-- The format that an element-wise float instruction works in (R83). -/
def fmtOf : FFmt → Fmt
  | .f32 => fp32
  | .f16 => fp16
  | .bf16 => bf16

/-- The width of a format in bits. -/
def Fmt.width (f : Fmt) : Nat := 1 + f.ew + f.fw
/-- Precision. -/
def Fmt.prec (f : Fmt) : Nat := f.fw + 1
/-- The smallest normal exponent. -/
def Fmt.emin (f : Fmt) : Int := 1 - f.bias
/-- The exponent of the least significant bit of a subnormal. -/
def Fmt.qmin (f : Fmt) : Int := f.emin - f.fw

/-- The largest finite value as a mantissa and an exponent. -/
def Fmt.top (f : Fmt) : Nat × Int :=
  match f.kind with
  | .infinities _ => (2 ^ (f.fw + 1) - 1, (2 ^ f.ew - 2 : Int) - f.bias - f.fw)
  | .e4m3 => (14, 5)
  | .e2m1 => (3, 1)

/-- The code of the largest finite magnitude. -/
def Fmt.maxCode (f : Fmt) : Nat :=
  match f.kind with
  | .infinities _ => (2 ^ f.ew - 2) * 2 ^ f.fw + (2 ^ f.fw - 1)
  | .e4m3 => 0x7E
  | .e2m1 => 0x7

/-- The code of +infinity. -/
def Fmt.infCode (f : Fmt) : Nat := (2 ^ f.ew - 1) * 2 ^ f.fw

/-- The canonical NaN (R54, R55); E2M1 has none and delivers +0 (R58). -/
def Fmt.nan (f : Fmt) : Nat :=
  match f.kind with
  | .infinities _ => f.infCode + 2 ^ (f.fw - 1)
  | .e4m3 => 0x7F
  | .e2m1 => 0

/-- The sign bit of a format. -/
def Fmt.signBit (f : Fmt) (neg : Bool) : Nat := if neg then 2 ^ (f.ew + f.fw) else 0

/-- A decoded value: NaN, infinity, or `(-1)^neg × m × 2^x`. -/
inductive FVal where
  | nan (signalling : Bool)
  | inf (neg : Bool)
  | fin (neg : Bool) (m : Nat) (x : Int)
  deriving DecidableEq, Repr

/-- The value of a bit pattern (R54, R55). -/
def Fmt.val (f : Fmt) (bits : Nat) : FVal :=
  let neg := bits / 2 ^ (f.ew + f.fw) % 2 == 1
  let e := bits / 2 ^ f.fw % 2 ^ f.ew
  let m := bits % 2 ^ f.fw
  let finite : FVal := if e == 0 then .fin neg m f.qmin else .fin neg (2 ^ f.fw + m) (e - f.bias - f.fw)
  match f.kind with
  | .infinities quietOnly =>
    if e == 2 ^ f.ew - 1 then
      if m == 0 then .inf neg else .nan (!quietOnly && m < 2 ^ (f.fw - 1))
    else finite
  | .e4m3 => if e == 15 && m == 7 then .nan false else finite
  | .e2m1 => finite

def FVal.isNan : FVal → Bool
  | .nan _ => true
  | _ => false
def FVal.isSnan : FVal → Bool
  | .nan s => s
  | _ => false
def FVal.isZero : FVal → Bool
  | .fin _ m _ => m == 0
  | _ => false
def FVal.neg : FVal → FVal
  | .nan s => .nan s
  | .inf n => .inf (!n)
  | .fin n m x => .fin (!n) m x

/-! Flags (R12, R57). -/

def flagNV : BitVec 5 := 16
def flagDZ : BitVec 5 := 8
def flagOF : BitVec 5 := 4
def flagUF : BitVec 5 := 2
def flagNX : BitVec 5 := 1

/-- The rounding modes of FRM.RM (R12). -/
def rne : BitVec 2 := 0
def rtz : BitVec 2 := 1
def rup : BitVec 2 := 2
def rdn : BitVec 2 := 3

/-- A result: bits and the flags raised. -/
abbrev FRes := Nat × BitVec 5

/-- The number of bits of a mantissa. -/
def bits (m : Nat) : Nat := if m == 0 then 0 else Nat.log2 m + 1

/-- Whether a magnitude with quotient `n`, remainder `r` of `2^k` and a sticky rest is rounded away from zero (R56). -/
def roundsUp (rm : BitVec 2) (neg : Bool) (n r k : Nat) (sticky : Bool) : Bool :=
  if rm == rne then
    let twice := 2 * r
    let unit := 2 ^ k
    (unit < twice) || (twice == unit && (sticky || n % 2 == 1))
  else if rm == rtz then false
  else if rm == rup then !neg && (r != 0 || sticky)
  else neg && (r != 0 || sticky)

/-- The exact magnitude `m × 2^x` (plus a sticky rest below its last bit) as a multiple of `2^q`, and whether that is inexact. -/
def roundAt (rm : BitVec 2) (neg : Bool) (m : Nat) (x : Int) (sticky : Bool) (q : Int) : Nat × Bool :=
  if q ≤ x then (m * 2 ^ (x - q).toNat, sticky)
  else
    let k := (q - x).toNat
    let n := m / 2 ^ k
    let r := m % 2 ^ k
    (if roundsUp rm neg n r k sticky then n + 1 else n, r != 0 || sticky)

/-- `a × 2^x < b × 2^y`. -/
def magLt (a : Nat) (x : Int) (b : Nat) (y : Int) : Bool :=
  if x ≤ y then a < b * 2 ^ (y - x).toNat else a * 2 ^ (x - y).toNat < b

/-- The overflow result of R56. -/
def Fmt.overflow (f : Fmt) (rm : BitVec 2) (neg : Bool) : Nat :=
  f.signBit neg + match f.kind with
    | .infinities _ =>
      if rm == rne || (rm == rup && !neg) || (rm == rdn && neg) then f.infCode else f.maxCode
    | _ => f.maxCode

/-- The code of the magnitude `n × 2^q`, where `q` is the quantum of its binade or of the subnormals. -/
def Fmt.pack (f : Fmt) (n : Nat) (q : Int) : Nat :=
  if n < 2 ^ f.fw then n
  else if n == 2 ^ (f.fw + 1) then (q + 1 + f.fw + f.bias).toNat * 2 ^ f.fw
  else (q + f.fw + f.bias).toNat * 2 ^ f.fw + (n - 2 ^ f.fw)

/-- The one rounding of R56 with the flags of R57, of the exact value `(-1)^neg × m × 2^x` and a sticky rest. -/
def Fmt.round (f : Fmt) (rm : BitVec 2) (neg : Bool) (m : Nat) (x : Int) (sticky : Bool := false) : FRes :=
  if m == 0 then (f.signBit neg, 0)
  else
    let q0 := x + (bits m : Int) - (f.prec : Int)
    let r0 := roundAt rm neg m x sticky q0
    if magLt f.top.1 f.top.2 r0.1 q0 then (f.overflow rm neg, flagOF ||| flagNX)
    else
      let q := max q0 f.qmin
      let r := roundAt rm neg m x sticky q
      let tiny := magLt r0.1 q0 1 f.emin
      (f.signBit neg + f.pack r.1 q,
        if r.2 then (if tiny then flagUF ||| flagNX else flagNX) else 0)

/-- A finite addend: sign, mantissa, exponent. -/
abbrev Addend := Bool × Nat × Int

/-- The exact sum of finite addends as an integer times `2^x`, with `x` no larger than any of their exponents. -/
def sumAt (x : Int) : List Addend → Int
  | [] => 0
  | (neg, m, y) :: as =>
    let t : Int := (m * 2 ^ (y - x).toNat : Nat)
    (if neg then -t else t) + sumAt x as

/-- The least exponent of a list of addends. -/
def minExp : List Addend → Int
  | [] => 0
  | [(_, _, y)] => y
  | (_, _, y) :: as => min y (minExp as)

/-- The sign of an exact zero sum (R56). -/
def zeroSign (rm : BitVec 2) (as : List Addend) : Bool :=
  if as.all (fun a => a.2.1 == 0 && a.1) then true
  else if as.all (fun a => a.2.1 == 0 && !a.1) then false
  else rm == rdn

/-- The exact sum of finite addends, rounded once (R56). -/
def Fmt.roundSum (f : Fmt) (rm : BitVec 2) (as : List Addend) : FRes :=
  let x := minExp as
  let t := sumAt x as
  if t == 0 then (f.signBit (zeroSign rm as), 0)
  else f.round rm (t < 0) t.natAbs x

/-- The product of two values as an addend, an infinity, or an invalid operation. -/
inductive Term where
  | fin (a : Addend)
  | inf (neg : Bool)
  | nan
  | invalid
  deriving DecidableEq, Repr

def prodTerm : FVal → FVal → Term
  | .nan _, _ => .nan
  | _, .nan _ => .nan
  | .inf s, .inf t => .inf (s != t)
  | .inf s, .fin t m _ => if m == 0 then .invalid else .inf (s != t)
  | .fin s m _, .inf t => if m == 0 then .invalid else .inf (s != t)
  | .fin s m x, .fin t n y => .fin (s != t, m * n, x + y)

def valTerm : FVal → Term
  | .nan _ => .nan
  | .inf s => .inf s
  | .fin s m x => .fin (s, m, x)

def Term.neg : Term → Term
  | .fin (s, m, x) => .fin (!s, m, x)
  | .inf s => .inf (!s)
  | .nan => .nan
  | .invalid => .invalid

def Term.addends : List Term → List Addend
  | [] => []
  | .fin a :: ts => a :: Term.addends ts
  | _ :: ts => Term.addends ts

/-- The sum of terms under R55–R57 and R59: `snan` says that an operand was a signalling NaN. -/
def Fmt.sumTerms (f : Fmt) (rm : BitVec 2) (snan : Bool) (ts : List Term) : FRes :=
  let pos := ts.any (· == .inf false)
  let neg := ts.any (· == .inf true)
  let nan := ts.any (· == .nan)
  if snan || ts.any (· == .invalid) || (pos && neg) then (f.nan, flagNV)
  else if nan then (f.nan, 0)
  else if pos then (f.infCode, 0)
  else if neg then (f.signBit true + f.infCode, 0)
  else f.roundSum rm (Term.addends ts)

/-- The sum for the scalar operations: infinities of opposite sign are invalid only where no operand is a NaN (R86). -/
def Fmt.sum2 (f : Fmt) (rm : BitVec 2) (snan : Bool) (t u : Term) : FRes :=
  if (t == .nan || u == .nan) && t != .invalid && u != .invalid then (f.nan, if snan then flagNV else 0)
  else f.sumTerms rm snan [t, u]

/-- FADD (R86). -/
def Fmt.add (f : Fmt) (rm : BitVec 2) (a b : Nat) : FRes :=
  f.sum2 rm ((f.val a).isSnan || (f.val b).isSnan) (valTerm (f.val a)) (valTerm (f.val b))
/-- FSUB (R86). -/
def Fmt.sub (f : Fmt) (rm : BitVec 2) (a b : Nat) : FRes :=
  f.sum2 rm ((f.val a).isSnan || (f.val b).isSnan) (valTerm (f.val a)) (valTerm (f.val b).neg)
/-- FMUL (R86). -/
def Fmt.mul (f : Fmt) (rm : BitVec 2) (a b : Nat) : FRes :=
  let snan := (f.val a).isSnan || (f.val b).isSnan
  match prodTerm (f.val a) (f.val b) with
  | .nan => (f.nan, if snan then flagNV else 0)
  | .invalid => (f.nan, flagNV)
  | .inf s => (f.signBit s + f.infCode, 0)
  | .fin (s, m, x) => f.round rm s m x
/-- FFMA (R86): A × B + C. -/
def Fmt.fma (f : Fmt) (rm : BitVec 2) (a b c : Nat) : FRes :=
  f.sum2 rm ((f.val a).isSnan || (f.val b).isSnan || (f.val c).isSnan)
    (prodTerm (f.val a) (f.val b)) (valTerm (f.val c))
/-- FFMS (R86): C − A × B. -/
def Fmt.fms (f : Fmt) (rm : BitVec 2) (a b c : Nat) : FRes :=
  f.sum2 rm ((f.val a).isSnan || (f.val b).isSnan || (f.val c).isSnan)
    (prodTerm (f.val a) (f.val b)).neg (valTerm (f.val c))

/-- Order of two values that are not NaN; −0 stands below +0 where `zeros` holds (R55, R87). -/
def FVal.lt (zeros : Bool) : FVal → FVal → Bool
  | .inf s, .inf t => s && !t
  | .inf s, _ => s
  | _, .inf t => !t
  | .fin s m x, .fin t n y =>
    if m == 0 && n == 0 then zeros && s && !t
    else if s && !t then true
    else if !s && t then false
    else if s then magLt n y m x
    else magLt m x n y
  | _, _ => false

/-- FMIN and FMAX (R55, R87). -/
def Fmt.minMax (f : Fmt) (isMax : Bool) (a b : Nat) : FRes :=
  let x := f.val a
  let y := f.val b
  let fl := if x.isSnan || y.isSnan then flagNV else 0
  if x.isNan && y.isNan then (f.nan, fl)
  else if x.isNan then (b, fl)
  else if y.isNan then (a, fl)
  else if isMax then (if FVal.lt true x y then b else a, fl)
  else (if FVal.lt true y x then b else a, fl)

/-- FCMP (R88): the condition and NV. -/
def fcmpHolds (c : FCond) (a b : Nat) : Bool × BitVec 5 :=
  let x := fp32.val a
  let y := fp32.val b
  let uno := x.isNan || y.isNan
  let snan := x.isSnan || y.isSnan
  let lt := !uno && FVal.lt false x y
  let gt := !uno && FVal.lt false y x
  let eq := !uno && !lt && !gt
  let quiet : BitVec 5 := if snan then flagNV else 0
  let loud : BitVec 5 := if uno then flagNV else 0
  match c with
  | .eq => (eq, quiet)
  | .ne => (!eq, quiet)
  | .lt => (lt, loud)
  | .ge => (gt || eq, loud)
  | .le => (lt || eq, loud)
  | .gt => (gt, loud)
  | .ord => (!uno, quiet)
  | .uno => (uno, quiet)

/-! Special functions (R89–R91). -/

/-- The integer square root, bit by bit. -/
def isqrt (n : Nat) : (k r : Nat) → Nat
  | 0, r => r
  | k + 1, r => if (r + 2 ^ k) * (r + 2 ^ k) ≤ n then isqrt n k (r + 2 ^ k) else isqrt n k r

/-- The reciprocal of `m × 2^x`, correctly rounded. -/
def Fmt.recip (f : Fmt) (rm : BitVec 2) (neg : Bool) (m : Nat) (x : Int) : FRes :=
  let k := bits m + f.prec + 3
  f.round rm neg (2 ^ k / m) (-(k : Int) - x) (2 ^ k % m != 0)

/-- The square root of `m × 2^x`, correctly rounded. -/
def Fmt.sqrtOf (f : Fmt) (rm : BitVec 2) (m : Nat) (x : Int) : FRes :=
  let up := 2 * f.prec + 6 + (x % 2).toNat
  let n := m * 2 ^ up
  let r := isqrt n (f.prec + bits m + 8) 0
  f.round rm false r ((x - up) / 2) (r * r != n)

/-- `1/√(m × 2^x)` from below: the exact value lies in `[s, s + 1) × 2^e`, with `s` more than twice as long as the precision. -/
def Fmt.rsqBelow (f : Fmt) (m : Nat) (x : Int) : Nat × Int :=
  let odd := (x % 2).toNat
  let k := 2 * f.prec + 8 + bits m
  (isqrt (2 ^ (2 * k) / (m * 2 ^ odd)) (k + 1) 0, -(k : Int) - (x - (odd : Int)) / 2)

/-- A representable magnitude lies within 1 ulp of an irrational `1/√(m × 2^x)` (R89, R90). DESIGN CHOICE (log 13). -/
def Fmt.rsqOk (f : Fmt) (c : Nat) (m : Nat) (x : Int) : Bool :=
  match f.val c with
  | .fin false n y =>
    let (s, e) := f.rsqBelow m x
    let ulp := 2 ^ (max (e + (bits s : Int) - (f.prec : Int)) f.qmin - e).toNat
    !magLt (s + ulp) e n y && !magLt n y (s + 1 - ulp) e
  | _ => false

/-- `1/√(m × 2^x)` rounded towards zero. -/
def Fmt.rsqDown (f : Fmt) (m : Nat) (x : Int) : Nat :=
  let (s, e) := f.rsqBelow m x
  (f.round rtz false s e true).1

/-- The exponent of a power of two, if the magnitude is one. -/
def powerOf (m : Nat) (x : Int) : Option Int :=
  let l := bits m
  if m == 2 ^ (l - 1) then some (x + (l : Int) - 1) else none

/-- The integer that a finite value is, if it is one. -/
def intOf (neg : Bool) (m : Nat) (x : Int) : Option Int :=
  let a : Option Nat :=
    if 0 ≤ x then some (m * 2 ^ x.toNat)
    else if m % 2 ^ (-x).toNat == 0 then some (m / 2 ^ (-x).toNat) else none
  a.map fun n => if neg then -(n : Int) else n

def ffunCode (fn : FFun) : Nat := fn.casesOn 0 1 2 3 4 5 6 7
/-- The sz code of a format. -/
def ffNum : FFmt → Nat
  | .bf16 => 0
  | .f16 => 1
  | .f32 => 2

/-- The free value of an approximated function (R90: the same for the same input, format and selector). -/
def approx (fn : FFun) (ff : FFmt) (a : Nat) : Nat :=
  (Config.fspecApprox (ffunCode fn) (ffNum ff) (BitVec.ofNat 32 a)).toNat % 2 ^ (fmtOf ff).width

/-- Whether a finite value `c` lies within `k` ulp of `y × 2^e` (R90). DESIGN CHOICE (log 13). -/
def Fmt.within (f : Fmt) (k c : Nat) (y e : Int) : Bool :=
  match f.val c with
  | .fin neg m x =>
    let u := max (e + (bits y.natAbs : Int) - (f.prec : Int)) f.qmin
    let lo := min (min x e) u
    let a : Int := (m * 2 ^ (x - lo).toNat : Nat)
    ((if neg then -a else a) - y * 2 ^ (e - lo).toNat).natAbs ≤ k * 2 ^ (u - lo).toNat
  | _ => false

/-- The result of an approximated function whose exact value is `y × 2^e` (R89, R90): the free value if it keeps the bound, else the
nearest representable value. DESIGN CHOICE (log 13). -/
def approxTo (fn : FFun) (ff : FFmt) (a : Nat) (y e : Int) : Nat :=
  let c := approx fn ff a
  if (fmtOf ff).within (if ff == .f32 then 2 else 1) c y e then c else ((fmtOf ff).round rne (y < 0) y.natAbs e true).1

/-- Flags of an approximated result: NX, and UF where the exact value is tiny (R57, R90). Where only the rounding could lift it to the
smallest normal magnitude, no rule says how it is rounded, and the flag is free. DESIGN CHOICE (log 14). -/
def approxFlags (fn : FFun) (ff : FFmt) (a : Nat) (y e : Int) : BitVec 5 :=
  let f := fmtOf ff
  let tiny := if magLt y.natAbs e (2 ^ f.prec - 1) (f.emin - f.prec) then true
    else if magLt y.natAbs e 1 f.emin then Config.fspecTiny (ffunCode fn) (ffNum ff) (BitVec.ofNat 32 a)
    else false
  if tiny then flagUF ||| flagNX else flagNX

/-- An approximated result with its flags. -/
def approxRes (fn : FFun) (ff : FFmt) (a : Nat) (y e : Int) : FRes := (approxTo fn ff a y e, approxFlags fn ff a y e)

/-- The bits `c` with the sign of an odd function's argument. -/
def Fmt.withSign (f : Fmt) (neg : Bool) (c : Nat) : Nat :=
  let mag := c % 2 ^ (f.ew + f.fw)
  if neg then f.signBit (!(c / 2 ^ (f.ew + f.fw) % 2 == 1)) + mag else c

/-- FSPEC on a finite non-zero value. An overflow of exp2 gives +infinity in every mode, as it does not read FRM (R56, R90).
DESIGN CHOICE (log 14). -/
def fspecFinite (fn : FFun) (ff : FFmt) (rm : BitVec 2) (bits : Nat) (neg : Bool) (m : Nat) (x : Int) : FRes :=
  let f := fmtOf ff
  let absBits := bits % 2 ^ (f.ew + f.fw)
  match fn with
  | .rcp => f.recip rm neg m x
  | .sqrt => if neg then (f.nan, flagNV) else f.sqrtOf rm m x
  | .rsq =>
    if neg then (f.nan, flagNV)
    else match powerOf m x with
      | some e =>
        if e % 2 == 0 then f.round rtz false 1 (-e / 2)
        else
          let c := approx fn ff bits
          (if f.rsqOk c m x then c else f.rsqDown m x, flagNX)
      | none =>
        let c := approx fn ff bits
        (if f.rsqOk c m x then c else f.rsqDown m x, flagNX)
  | .exp2 =>
    let top := f.top.2 + f.prec
    if !neg && !magLt m x top.toNat 0 then (f.overflow rne false, flagOF ||| flagNX)
    else
      let a : Int := fixOf fixBits m (min x 64)
      let y := fixExp2 (if neg then max (-a) (-1000 * fixOne) else a)
      let r := approxRes fn ff bits y.1 (y.2 - fixBits)
      match intOf neg m x with
      | some k => if f.qmin ≤ k then f.round rtz false 1 k else r
      | none => r
  | .log2 =>
    if neg then (f.nan, flagNV)
    else match powerOf m x with
      | some e => if e == 0 then (0, 0) else f.round rtz (e < 0) e.natAbs 0
      | none => approxRes fn ff bits (log2Fix m (Machine.bits m) x) (-fixBits)
  | .sin =>
    let r := approxRes fn ff absBits (sinFix m x) (-fixBits)
    (f.withSign neg r.1, r.2)
  | .cos => approxRes fn ff absBits (cosFix m x) (-fixBits)
  | .tanh =>
    let r := approxRes fn ff absBits (tanhFix m x) (-fixBits)
    (f.withSign neg r.1, r.2)

/-- FSPEC (R89–R91). -/
def fspec (fn : FFun) (ff : FFmt) (rm : BitVec 2) (bits : Nat) : FRes :=
  let f := fmtOf ff
  let one := f.round rtz false 1 0
  match f.val bits with
  | .nan s => (f.nan, if s then flagNV else 0)
  | .inf neg =>
    match fn with
    | .rcp => (f.signBit neg, 0)
    | .sqrt => if neg then (f.nan, flagNV) else (f.infCode, 0)
    | .rsq => if neg then (f.nan, flagNV) else (0, 0)
    | .exp2 => if neg then (0, 0) else (f.infCode, 0)
    | .log2 => if neg then (f.nan, flagNV) else (f.infCode, 0)
    | .sin => (f.nan, 0)
    | .cos => (f.nan, 0)
    | .tanh => (f.signBit neg + one.1, 0)
  | .fin neg m x =>
    if m == 0 then
      match fn with
      | .rcp => (f.signBit neg + f.infCode, flagDZ)
      | .sqrt => (bits, 0)
      | .rsq => (f.signBit neg + f.infCode, flagDZ)
      | .exp2 => (one.1, 0)
      | .log2 => (f.signBit true + f.infCode, flagDZ)
      | .sin => (bits, 0)
      | .cos => (one.1, 0)
      | .tanh => (bits, 0)
    else fspecFinite fn ff rm bits neg m x

/-! Conversions (R58, R92, R93). -/

/-- The float format of a conversion, if it is one. -/
def cfmt? : CFmt → Option Fmt
  | .f32 => some fp32
  | .f16 => some fp16
  | .bf16 => some bf16
  | .e5m2 => some e5m2
  | .e4m3 => some e4m3
  | .e2m1 => some e2m1
  | .int _ _ => none

/-- Float to float (R58). -/
def cvtFF (src dst : Fmt) (rm : BitVec 2) (bits : Nat) : FRes :=
  match src.val bits with
  | .nan s =>
    (dst.nan, if s || dst.kind == .e2m1 then flagNV else 0)
  | .inf neg =>
    match dst.kind with
    | .infinities _ => (dst.signBit neg + dst.infCode, 0)
    | _ => (dst.signBit neg + dst.maxCode, flagOF ||| flagNX)
  | .fin neg m x => dst.round rm neg m x

/-- The least and the greatest integer of a format. -/
def intRange (signed : Bool) (w : Nat) : Int × Int :=
  if signed then (-((2 ^ (w - 1) : Nat) : Int), ((2 ^ (w - 1) : Nat) : Int) - 1) else (0, ((2 ^ w : Nat) : Int) - 1)

/-- An integer as a bit pattern of `w` bits. -/
def ofInt (w : Nat) (x : Int) : Nat := (x % ((2 ^ w : Nat) : Int)).toNat

/-- A bit pattern of `w` bits as a signed integer. -/
def sval (w a : Nat) : Int := if a < 2 ^ (w - 1) then a else (a : Int) - ((2 ^ w : Nat) : Int)

/-- Clamps an integer to a format (R52, R58). -/
def clampInt (signed : Bool) (w : Nat) (x : Int) : Int :=
  let r := intRange signed w
  if x < r.1 then r.1 else if r.2 < x then r.2 else x

/-- Float to integer (R58). -/
def cvtFI (src : Fmt) (signed : Bool) (w : Nat) (rm : BitVec 2) (bits : Nat) : FRes :=
  let r := intRange signed w
  match src.val bits with
  | .nan _ => (0, flagNV)
  | .inf neg => (ofInt w (if neg then r.1 else r.2), flagNV)
  | .fin neg m x =>
    let n := roundAt rm neg m x false 0
    let t : Int := if neg then -(n.1 : Int) else n.1
    if t < r.1 || r.2 < t then (ofInt w (clampInt signed w t), flagNV)
    else (ofInt w t, if n.2 then flagNX else 0)

/-- Integer to float (R58). -/
def cvtIF (signed : Bool) (w : Nat) (dst : Fmt) (rm : BitVec 2) (bits : Nat) : FRes :=
  let t : Int := if signed then sval w bits else bits
  dst.round rm (t < 0) t.natAbs 0

/-- Integer to integer (R58): clamped to a narrower format, extended to a wider one. -/
def cvtII (ss : Bool) (sw : Nat) (ds : Bool) (dw : Nat) (bits : Nat) : FRes :=
  let t : Int := if ss then sval sw bits else bits
  (ofInt dw (if dw < sw then clampInt ds dw t else t), 0)

/-- One conversion (R58, R93). -/
def convert (r : CvtRow) (rm : BitVec 2) (bits : Nat) : FRes :=
  match r.src, r.dst with
  | .int ss sw, .int ds dw => cvtII ss sw ds dw bits
  | .int ss sw, d => cvtIF ss sw ((cfmt? d).getD fp32) rm bits
  | s, .int ds dw => cvtFI ((cfmt? s).getD fp32) ds dw rm bits
  | s, d => cvtFF ((cfmt? s).getD fp32) ((cfmt? d).getD fp32) rm bits

/-! The sum of DOT (R59). -/

/-- The float sum of DOT: elements of a and b, and c. -/
def dotFloat (f : Fmt) (rm : BitVec 2) (as bs : List Nat) (c : Nat) : FRes :=
  let cv := fp32.val c
  let prods := (as.zip bs).map fun p => prodTerm (f.val p.1) (f.val p.2)
  fp32.sumTerms rm cv.isSnan (valTerm cv :: prods)

/-- The integer sum of DOT. -/
def dotInt (as bs : List Nat) (c : Nat) : Nat :=
  ofInt 32 ((as.zip bs).foldl (fun t p => t + sval 8 p.1 * sval 8 p.2) (c : Int))

end Sys2Proof.Machine
end

