-- ==== Sys2Proof/WellFormed.lean ====
section
/-! DEFINITION. Which terms of `Instr` stand for something: the field values that an instruction word can hold (R25–R36) and the
ranges of the parts of the device that an event can name (R1). -/
namespace Sys2Proof

/-- A guard of R27: p0 cannot guard. -/
def Guard.wf : Guard → Bool
  | .always => true
  | .ifSet p => p != 0
  | .ifClear p => p != 0

/-- A field value that names a v register (R14). -/
def isV (r : BitVec 6) : Bool := r.toNat < 56

/-- Numbers of LXCH (R151): a mirror mirrors segments of 2 to 32 lanes. -/
def Xch.wf : Xch → Bool
  | .mirror n => 1 ≤ n.toNat && n.toNat ≤ 5
  | _ => true

/-- RED with FADD32 takes 4 bytes (R31). -/
def redWf (op : RedOp) (w64 : Bool) : Bool := !(op == .fadd32 && w64)

/-- An always-branch names no predicate (R32). -/
def braWf (c : BCond) (p : PReg) : Bool := c != .always || p == 0

/-- A trailer window names no e register (R18). -/
def windowWf (w : BitVec 3) (m : BitVec 8) : Bool := w != 7 || m == 0

/-- A CSR number that decodes: listed or privileged (R36). -/
def csrKnown (csr : BitVec 12) : Bool := csrListed csr.toNat || csrPrivileged csr.toNat

/-- A CSRR that decodes (R33, R114): a v register, or an s register for a CSR that is not per-lane. -/
def csrrWf (d : CsrDst) (csr : BitVec 12) : Bool :=
  csrKnown csr && match d with
    | .s _ => !csrPerLane csr.toNat
    | .v r => isV r

/-- A core that the device has (R1). -/
def CoreId.wf (c : CoreId) : Bool := c.die < 4 && c.cluster < 5 && c.core < 8

/-- A scratchpad that the device has (R1). -/
def Unit3.wf : Unit3 → Bool
  | .die d => d < 4
  | .cluster d c => d < 4 && c < 5
  | .core id => id.wf

/-- Which basins a move connects (R229). -/
def BasinDir.wf : BasinDir → Bool
  | .coreUp c => c.wf
  | .clusterUp d c => d < 4 && c < 5
  | .dieUp d => d < 4
  | .down c _ => c.wf
  | .clusterDown d c _ => d < 4 && c < 5
  | .ovfDown d => d < 4
  | .spill d _ => d < 4

/-- The limits of a launch descriptor (R46): one to four roles whose groups add up to GROUPS and whose budget bytes lie from 1
to 7, and the ranges of the other fields. -/
def LaunchDesc.wf (d : LaunchDesc) : Bool :=
  1 ≤ d.roles.length && d.roles.length ≤ 4
    && d.roles.all (fun r => 1 ≤ r.2 && r.2 ≤ 7)
    && (d.roles.map Prod.fst).foldl (· + ·) 0 == d.groups
    && 1 ≤ d.teams && d.teams < 2 ^ 32 && 1 ≤ d.groups && d.groups ≤ 32 && 1 ≤ d.lanes && d.lanes ≤ 32
    && d.shapes ≤ 32 && d.reserve < 65536 && d.scratch ≤ 1024 && d.waitSwap < 2 ^ 32
    && d.stackArea.toNat % 2 ^ 23 == 0 && d.stackArea.toNat < 2 ^ 56

/-- Well-formed instructions and events. -/
def WellFormed : Instr → Bool
  | .iadd _ _ _ _ g => g.wf
  | .isub _ _ _ _ g => g.wf
  | .iaddi _ _ _ _ g => g.wf
  | .imin _ _ _ _ g => g.wf
  | .imax _ _ _ _ g => g.wf
  | .umin _ _ _ _ g => g.wf
  | .umax _ _ _ _ g => g.wf
  | .imul _ _ _ _ g => g.wf
  | .imulhi _ _ _ _ g => g.wf
  | .imad _ _ _ _ g => g.wf
  | .imsb _ _ _ _ g => g.wf
  | .iaddsat _ _ _ _ g => g.wf
  | .isubsat _ _ _ _ g => g.wf
  | .uaddsat _ _ _ _ g => g.wf
  | .usubsat _ _ _ _ g => g.wf
  | .land _ _ _ _ g => g.wf
  | .landn _ _ _ _ g => g.wf
  | .lor _ _ _ _ g => g.wf
  | .lorn _ _ _ _ g => g.wf
  | .lxor _ _ _ _ g => g.wf
  | .lxnor _ _ _ _ g => g.wf
  | .shl _ _ _ _ g => g.wf
  | .shr _ _ _ _ g => g.wf
  | .sar _ _ _ _ g => g.wf
  | .rol _ _ _ _ g => g.wf
  | .shli _ _ _ _ g => g.wf
  | .shri _ _ _ _ g => g.wf
  | .sari _ _ _ _ g => g.wf
  | .popc _ _ _ g => g.wf
  | .clz _ _ _ g => g.wf
  | .brev _ _ _ g => g.wf
  | .ctz _ _ _ g => g.wf
  | .bfx _ _ _ _ g => g.wf
  | .bfxs _ _ _ _ g => g.wf
  | .bfi _ _ _ _ g => g.wf
  | .iabs _ _ _ g => g.wf
  | .ineg _ _ _ g => g.wf
  | .mov _ _ g => g.wf
  | .movs _ _ g => g.wf
  | .movi _ _ _ => true
  | .sel _ _ _ _ => true
  | .icmp _ _ _ _ _ _ => true
  | .plop _ _ _ _ => true
  | .pmovGet _ _ g => g.wf
  | .pmovSet _ _ g => g.wf
  | .fadd _ _ _ _ g => g.wf
  | .fsub _ _ _ _ g => g.wf
  | .fmul _ _ _ _ g => g.wf
  | .ffma _ _ _ _ g => g.wf
  | .ffms _ _ _ _ g => g.wf
  | .fmin _ _ _ _ g => g.wf
  | .fmax _ _ _ _ g => g.wf
  | .fabs _ _ _ g => g.wf
  | .fneg _ _ _ g => g.wf
  | .fcmp _ _ _ _ _ => true
  | .fspec _ _ _ _ g => g.wf
  | .cvt sel part _ _ g => g.wf && cvtOk sel part
  | .dot _ _ _ _ _ g => g.wf
  | .perm _ _ _ _ g => g.wf
  | .lxch x _ _ g => g.wf && x.wf
  | .lred _ _ _ g => g.wf
  | .lscan _ _ _ _ g => g.wf
  | .vote _ _ _ => true
  | .ld _ d _ _ _ g => g.wf && isV d
  | .lds w d _ _ _ g => g.wf && isV d && (w != .w64)
  | .st _ _ _ _ _ g => g.wf
  | .ldfe _ d _ _ _ g => g.wf && isV d
  | .ldfw _ d _ _ _ g => g.wf && isV d
  | .stfe _ _ _ _ _ g => g.wf
  | .cas _ _ d _ _ _ => isV d
  | .red op w64 _ _ _ _ => redWf op w64
  | .atomAdd _ _ d _ _ _ => isV d
  | .atomSmin _ _ d _ _ _ => isV d
  | .atomSmax _ _ d _ _ _ => isV d
  | .atomUmin _ _ d _ _ _ => isV d
  | .atomUmax _ _ d _ _ _ => isV d
  | .atomAnd _ _ d _ _ _ => isV d
  | .atomOr _ _ d _ _ _ => isV d
  | .atomXchg _ _ d _ _ _ => isV d
  | .tload _ d _ _ g => g.wf && isV d
  | .tstore _ _ _ _ g => g.wf
  | .sadd _ _ _ => true
  | .ssub _ _ _ => true
  | .smul _ _ _ => true
  | .smulhi _ _ _ => true
  | .sand _ _ _ => true
  | .sor _ _ _ => true
  | .sxor _ _ _ => true
  | .sandn _ _ _ => true
  | .sshl _ _ _ => true
  | .sshr _ _ _ => true
  | .ssar _ _ _ => true
  | .smin _ _ _ => true
  | .smax _ _ _ => true
  | .sminu _ _ _ => true
  | .smaxu _ _ _ => true
  | .saddi _ _ _ => true
  | .sli _ _ _ => true
  | .scmp _ _ _ _ _ _ => true
  | .sget _ va _ => isV va
  | .sld _ _ _ _ _ => true
  | .sst _ _ _ _ _ => true
  | .bra c p _ => braWf c p
  | .brl _ => true
  | .brd _ _ => true
  | .jpush _ => true
  | .join => true
  | .brx va _ => isV va
  | .call _ => true
  | .ret => true
  | .exit => true
  | .yield _ _ => true
  | .runend wa ma wb mb => windowWf wa ma && windowWf wb mb
  | .bar _ _ => true
  | .phase _ => true
  | .xfence => true
  | .waitseq _ _ => true
  | .qopen => true
  | .qret => true
  | .qwait => true
  | .qread _ => true
  | .enq _ sa _ _ => (sa.toNat ≤ 60)
  | .deq sd _ _ => (sd.toNat ≤ 60)
  | .deqNb sd _ _ => (sd.toNat ≤ 60)
  | .deparm _ sa sb _ => (sa.toNat ≤ 60) && (sb.toNat ≤ 62)
  | .depdec _ _ _ => true
  | .cpy _ _ sb _ _ => (sb.toNat ≤ 62)
  | .chead _ _ _ _ => true
  | .ctail _ _ _ _ => true
  | .tmove _ sa sb _ _ => (sa.toNat ≤ 62) && (sb.toNat ≤ 62)
  | .coll _ _ _ _ _ => true
  | .tsload _ _ => true
  | .tsevict _ _ => true
  | .relayout _ _ _ _ _ => true
  | .oclaim _ _ _ => true
  | .orelease _ _ _ => true
  | .aclaim _ _ _ => true
  | .arelease _ _ _ => true
  | .mloop _ _ _ _ => true
  | .mloopWait _ _ => true
  | .aread _ vd _ _ => isV vd
  | .azero _ _ => true
  | .csrr dst csr => csrrWf dst csr
  | .csrw csr _ => csrKnown csr
  | .trap _ => true
  | .rft => true
  | .bkpt _ => true
  | .rgn _ => true
  | .febind _ _ _ _ => true
  | .nop => true
  | .icinv _ => true
  | .emWrite _ => true
  | .fflagsAccess => true
  | .dbgout15Write _ => true
  | .dbgin15Read _ => true
  | .watchWrite n _ => (n.toNat ≤ 4)
  | .almcauseWrite _ => true
  | .longLatencyResult _ _ => true
  | .drainComplete _ _ => true
  | .redAck _ => true
  | .faultServiceEnd _ => true
  | .sideLogReplay _ _ => true
  | .portAssignment core _ => core.wf
  | .launchSubmit desc _ _ => desc.length == 128
  | .teamStart _ _ core => core.wf
  | .waitSwap _ _ => true
  | .schedulingBoundary => true
  | .sliceEnd _ core => core.wf
  | .sliceGrant _ core => core.wf
  | .preemptionRequest _ cores => cores.all CoreId.wf
  | .reachResume _ _ _ _ _ => true
  | .evacuate _ => true
  | .reachRecordWrite _ _ _ _ => true
  | .allocatorMode core _ => core.wf
  | .compactorMove core => core.wf
  | .bindRequest _ u _ _ _ _ => u.wf
  | .queueInstantiate _ _ desc => desc.length == 32
  | .queueDestroy _ _ => true
  | .channelAssign _ _ => true
  | .counterAssign die _ last _ => (die < 4) && (last < 65536)
  | .oneShotCompletion _ => true
  | .recordTake _ => true
  | .recordCompletion _ _ => true
  | .collCompletion _ _ => true
  | .basinMove dir => dir.wf
  | .unadmittedAdmit die ctr => (die < 4) && (ctr < 65536)
  | .weirReturn => true
  | .weirBorrow _ => true
  | .remoteTaskMessage _ => true
  | .rehome _ _ => true
  | .dredgerBegin _ => true
  | .slabCommit _ => true
  | .dredgerComplete _ => true
  | .kStep _ _ => true
  | .ringEntryAcquire _ _ => true
  | .watchdog _ => true
  | .infieldTest die cluster _ => (die < 4) && (cluster < 5)
  | .fabricRecovery _ _ => true
  | .recoveryWindowEnd _ => true
  | .pteUpdate _ _ _ _ => true
  | .shootdown _ _ _ => true
  | .halt _ => true
  | .resume _ => true
  | .writecode _ _ _ => true
  | .inval cores => cores.all CoreId.wf
  | .readState _ _ => true
  | .writeState _ _ _ => true
  | .readtile _ _ tile row => (tile < 48) && (row < 128)
  | .readout _ => true
  | .writein _ _ => true
  | .replayStart desc _ _ _ _ _ => desc.length == 128
  | .flitReplay _ _ => true
  | .routeTableWrite _ _ => true
  | .fabricMessage _ _ _ _ => true
  | .remoteCall _ _ _ _ _ _ => true
  | .rdmaWrite _ _ _ _ => true
  | .rdmaRead _ _ _ _ => true
  | .wharfReply _ _ _ _ _ => true
  | .deviceReset stages _ => stages.all fun i => i.header.length == 256
  | .attestationRequest _ _ => true
  | .migrationKeyTransfer _ _ _ _ => true
  | .securityAlarm _ => true
  | .managementRead _ => true
  | .firmwareUpdate i => i.header.length == 256
  | .powerCapSet _ => true
  | .powerCapExceeded => true
  | .thermalLimit _ => true
  | .softError _ _ => true
  | .launchRemoval _ _ => true
  | .groupResume _ => true
  | .recoveredWithinWindow _ => true
  | .keyIdAssignment _ _ => true
  | .traceBufferDrain die cluster _ => (die < 4) && (cluster < 5)

end Sys2Proof
end

