-- ==== Sys2Proof/Machine/State.lean ====
section
/-! DEFINITION. The state of an MRT-4 device in a pod: everything that the manual names, as plain data (R7, R11, R330 and the
chapters of the engines), and the state right after device reset. -/
namespace Sys2Proof.Machine

/-- Why a step stops. No instruction of the manual stops the machine: the manual has a trap, a wait, a hold or a halt of the group
for every case, and each is a next state. -/
inductive Fault where
  /-- Raised by no definition of the model: the type has a member only because the interface asks for a type of reasons. Safe: it
  never happens. -/
  | neverRaised
  deriving DecidableEq, Repr

/-- Why the model gives no meaning to a step. -/
inductive Refusal where
  /-- Raised by an arm of `exec` whose instruction has no meaning yet; the string is its mnemonic. Safe: nothing is claimed. -/
  | notModelled (mnemonic : String)
  deriving DecidableEq, Repr

/-! Groups. -/

/-- What the last instruction did: retired, trapped, or left the group standing at it. -/
inductive Ended where
  | retired | trapped | stalled
  deriving DecidableEq, Repr

/-- Why a group has halted: a trap without a handler, which system software may resume (R21, R341); its state frozen by a trap in a
handler or by the watchdog (R21, R322); or a pair that disagreed three times (R319). -/
inductive HaltKind where
  | trap | frozen | suspect
  deriving DecidableEq, Repr

/-- A long-latency result that is not in its register yet (R16–R18). -/
structure Pend where
  /-- 0: v register; 2: s register (the file codes of R17). -/
  file : Nat
  reg : Nat
  /-- The lanes that receive a value; for an s register the value stands in lane 0 of `vals`. -/
  lanes : Mask
  vals : Lanes
  /-- How many further instructions of the run the promise covers. -/
  left : Nat
  /-- Address of the long-latency instruction. -/
  at_ : Word
  /-- Lanes in which an instruction inside the window wrote the register too. -/
  clash : Mask
  deriving DecidableEq, Repr

/-- Whom a write can be ordered before (R191): a group, an engine operation, a record of a channel; or what carries the order from a
release to its acquires (R189): a full/empty word, or a location of atomics with the scope and the core of the release. -/
inductive Agent where
  | group (k : Nat)
  | op (n : Nat)
  /-- A record of a channel, with its completion scope (R205, R220). -/
  | record (h : BitVec 9) (n : BitVec 32) (scope : Nat)
  /-- A command of a team's matrix queue, on its core, with its tile (R293). -/
  | cmd (lid : BitVec 32) (team : Nat) (ticket : BitVec 32) (core : CoreId) (tile : Nat)
  /-- A task entry, which carries the order from its releases to the DEQ that pops it (R249). -/
  | entry (n : Nat)
  /-- A fill of a full/empty word by STFE, with the bytes that it wrote. -/
  | word (w lo n : Nat)
  /-- A read-modify-write of the `n` bytes at a key. -/
  | spot (key n scope : Nat) (core : CoreId)
  deriving DecidableEq, Repr

/-- What a step has moved for a context (R358): bytes read from and written to main memory, and requests sent over the fabric. -/
structure Traffic where
  reach : BitVec 4
  rd : Nat
  wr : Nat
  sent : Nat
  deriving DecidableEq, Repr

/-- What the first read of a status register is ordered after (R220): an operation, or the records of a channel up to a number. -/
inductive Join where
  | op (n : Nat)
  | upTo (h : BitVec 9) (n : BitVec 32)
  deriving DecidableEq, Repr

/-- An s register that an engine will write (R18, R201). -/
structure PendS where
  reg : SReg
  /-- The number of the engine operation. -/
  op : Nat
  left : Nat
  at_ : Word
  deriving DecidableEq, Repr

/-- A byte at its home as an access reaches it: key, cipher key of main memory, and whether that key is foreign (R385). -/
structure Loc where
  key : Nat
  cipher : Option Nat
  foreign : Bool
  /-- The entry that translates the access. -/
  pte : Option Nat
  /-- The virtual address of the byte, in main memory. -/
  va : Option Nat
  deriving DecidableEq, Repr

/-- One held byte of a store (R167): its home, with the virtual address that it keeps in main memory (R308). DEDUCED (log 40). -/
structure Held where
  loc : Loc
  val : Byte
  epoch : Nat
  /-- Its place in program order: RETIRED at its store. -/
  po : Nat
  /-- A shootdown has touched its page: it is translated again when it drains (R308). -/
  again : Bool
  deriving DecidableEq, Repr

/-- The byte of storage that a held store is for. -/
def Held.key (h : Held) : Nat := h.loc.key
/-- The virtual address of a held byte of main memory. -/
def Held.va (h : Held) : Option Nat := h.loc.va

/-- A tensor descriptor as a shape slot or a held entry keeps it (R258). -/
structure Desc where
  baseA : Nat
  baseB : Nat
  type : Nat
  rank : Nat
  tagA : Nat
  tagB : Nat
  ext : List Nat
  dir : Nat
  conv : Bool
  side : Bool
  deriving DecidableEq, Repr

/-- One held element of a TSTORE (R268): attachment, coordinates and bits, with the descriptor state it issued under. -/
structure HeldT where
  attach : Nat
  coord : List Nat
  bits : Word
  desc : Desc
  epoch : Nat
  /-- The lane that stored it, whose stack window the address may name (R162). -/
  lane : Nat
  /-- Its place in program order. -/
  po : Nat
  deriving DecidableEq, Repr

/-- What a side-log entry does when it replays (R169). -/
inductive SideOp where
  | store (bytes : List Byte)
  | red (op : RedOp) (w64 : Bool) (b : Word) (rm : BitVec 2) (scope : Nat)
  | tensor (t : HeldT)
  deriving DecidableEq, Repr

/-- An entry of the side log: its virtual address, its epoch and what it does. -/
structure Side where
  va : Nat
  op : SideOp
  epoch : Nat
  /-- Its place in program order. -/
  po : Nat
  deriving DecidableEq, Repr

/-- The lanes of a load, ATOM or CAS that fault service holds, with the operands it read (R22, R309), or of a load that has issued and has
not read yet. DESIGN CHOICE (log 2). -/
structure HeldOp where
  i : Instr
  lanes : Mask
  a : Lanes
  b : Lanes
  d : Lanes
  /-- Instructions of the run that the promise still covers, and the instruction's address (R17). -/
  left : Nat
  at_ : Word
  /-- A RUNEND trailer has named its destination: it stays on the scoreboard into later runs (R18). -/
  kept : Bool
  /-- Its place in program order, and the tick at which it issued (R193). -/
  po : Nat
  issued : Nat
  /-- No page holds it: it is a load that reads later than it issues (R197). -/
  late : Bool
  deriving DecidableEq, Repr

/-- What a drain has still to perform at its home (R171), with the scope of the boundary that drains it; none: XFENCE (R172). -/
inductive Drain where
  /-- A byte of a held entry; `full` says that the entry's word was written in full. -/
  | byte (h : Held) (full : Bool) (scope : Option Nat)
  | elem (t : HeldT) (scope : Option Nat)
  deriving DecidableEq, Repr

/-- The place in program order of the store that a drain performs. -/
def Drain.po : Drain → Nat
  | .byte h _ _ => h.po
  | .elem t _ => t.po

/-- The scope of the boundary that a drain belongs to. -/
def Drain.scope : Drain → Option Nat
  | .byte _ _ sc => sc
  | .elem _ sc => sc

/-- The held byte that a drain performs, if it performs one. -/
def Drain.held? : Drain → Option Held
  | .byte h _ _ => some h
  | .elem _ _ => none

/-- The held element that a drain performs, if it performs one. -/
def Drain.elem? : Drain → Option HeldT
  | .byte _ _ _ => none
  | .elem t _ => some t

/-- A boundary that waits for its drains and acknowledgements (R171, R172, R112, R181). -/
inductive Bound where
  | phase (sc : PScope)
  | xfence
  | exit
  /-- The implicit PHASE of a synchronising access, with its scope. -/
  | implicit (sc : Nat)
  deriving DecidableEq, Repr

/-- One lane of an LDFE or LDFW that has not been served: lane, word key, offset in the word (R178). -/
structure Lane where
  lane : Nat
  word : Nat
  off : Nat
  deriving DecidableEq, Repr

/-- A blocking wait (R131). -/
inductive Wait where
  | lanes (empties : Bool) (d : LReg) (n : Nat) (todo : List Lane)
  | deq (reach : BitVec 4) (qnum : BitVec 32) (sd : SReg)
  | quiet (reach : BitVec 4) (domain : BitVec 10)
  | seq (handle : BitVec 9) (n : BitVec 32)
  | aclaim (n : Nat) (sd : SReg)
  | chead (handle : BitVec 9)
  | sreg (r : SReg)
  /-- A YIELD that has gone to its label and waits for its register there (R213). -/
  | yielded (r : SReg)
  | mqueue
  | ticket (n : BitVec 32)
  | bar (n : BitVec 4)
  /-- A remote message's status that the instruction itself needs (R375). -/
  | remote (tag : Nat)
  /-- A trap that waits for the group's engine results (R117). -/
  | entry (cause : Nat) (info : Word) (lanes : Mask) (pc : Word)
  deriving DecidableEq, Repr

/-- How a wait ended: still pending, satisfied, or a trap that it raised. -/
inductive WaitEnd where
  | pending
  | satisfied
  | trap (cause : Nat) (info : Word) (lanes : Mask)
  deriving DecidableEq, Repr

/-- A borrow of weight from a domain's root (R236): none needed, asked for, granted, or refused because the domain is not open. -/
inductive Borrow where
  | idle | asked | granted | refused
  deriving DecidableEq, Repr

/-- A place of a group's context that an uncorrectable error may strike (R311): its registers, the trap bank, and what it holds.
DEDUCED (log 33). -/
inductive Mark where
  | v (n : Nat)
  | e (n : Nat)
  | s (n : Nat)
  | p (n : Nat)
  | bankV (n : Nat)
  | bankS (n : Nat)
  /-- The word of held bytes at a key. -/
  | word (key : Nat)
  /-- The side-log entry of a virtual address. -/
  | side (va : Nat)
  /-- A held tensor element: attachment and coordinates. -/
  | elem (attach : Nat) (coord : List Nat)
  /-- The same of a word of bytes and of an element that a boundary drains. -/
  | drain (key : Nat)
  | drainElem (attach : Nat) (coord : List Nat)
  deriving DecidableEq, Repr

/-- A trace packet that waits for its turn in program order (R354): the instruction that produced it, and, for the result of an atomic with
lanes that are held, that instruction's place in program order. -/
structure Owed where
  pkt : Packet
  pc : Word
  po : Option Nat
  deriving DecidableEq, Repr

/-- A region that the group stands in (R313). -/
structure Region where
  first : Word
  last : Word
  /-- Signature saved at the RGN (R318). -/
  sig : Word
  deriving DecidableEq, Repr

/-- A group: its architectural state (R7), what its context adds (R330), and where it stands in its run. -/
structure Group where
  /-- The model's own number of the group, never reused. -/
  key : Nat
  /-- LAUNCH (R11). -/
  launch : BitVec 32
  /-- TEAMIDX (R11). -/
  team : Nat
  /-- GROUPIDX (R11). -/
  idx : Nat
  /-- ROLE (R11). -/
  role : Nat
  /-- CORE, CLUSTER, DIE (R11). -/
  core : CoreId
  /-- Group slot (R346). -/
  slot : Nat
  /-- GID, given to the group at its start (R346). -/
  gid : Word
  /-- Thread number (R346). -/
  tid : BitVec 32
  /-- v0–v55 (R7). -/
  v : Vector Lanes 56
  /-- e0–e7 (R7). -/
  e : Vector Lanes 8
  /-- s0–s63 (R7). -/
  s : Vector Word 64
  /-- p0–p127 (R7), one bit per lane. -/
  p : Vector Mask 128
  /-- EM (R7, R9). -/
  em : Mask
  /-- The live-lane mask (R9). -/
  live : Mask
  /-- The lanes that were launched (R9, R123). -/
  launched : Mask
  /-- PC (R7). -/
  pc : Word
  /-- Trap bank: the second copy of v48–v55 (R7, R21). -/
  bankV : Vector Lanes 8
  /-- Trap bank: the second copy of s56–s63 (R7, R21). -/
  bankS : Vector Word 8
  /-- QW (R7, R235). -/
  qw : BitVec 48
  /-- DOMAIN (R11, R235). -/
  domain : BitVec 10
  /-- REGPC (R7). -/
  regpc : Word
  /-- Reconvergence stack, top first (R108). -/
  stack : List (Mask × Word)
  /-- FRM.RM (R12). -/
  frm : BitVec 2
  /-- FFLAGS (R12): NV DZ OF UF NX from bit 4 down. -/
  fflags : BitVec 5
  /-- MODE.TRAP (R12). -/
  trapMode : Bool
  /-- TRAPCAUSE (R11). -/
  trapCause : BitVec 8
  /-- TRAPPC (R11). -/
  trapPc : Word
  /-- TRAPLANES (R11). -/
  trapLanes : Mask
  /-- TRAPINFO (R11). -/
  trapInfo : Word
  /-- TRAPEM (R11). -/
  trapEm : Mask
  /-- TASKLINK (R11). -/
  tasklink : BitVec 32
  /-- RETIRED (R11). -/
  retired : Word
  /-- The tick at which the group started, from which CYCLE counts (R11). -/
  startTick : Nat
  /-- DBGCTL: TRC, STEP (R349). -/
  dbgctl : BitVec 2
  /-- DBGSTAT.WWR (R349). -/
  wwr : Bool
  /-- DBGSTAT.WHIT (R349). -/
  whit : BitVec 4
  /-- DBGSTAT.SPEND (R349). -/
  spend : Bool
  /-- DBGSTAT.OUTV (R349). -/
  outv : Bool
  /-- DBGSTAT.INV (R349). -/
  inv : Bool
  /-- DBGOUT0–DBGOUT15 (R353). -/
  dbgout : Vector Word 16
  /-- DBGIN0–DBGIN15 (R353). -/
  dbgin : Vector Word 16
  /-- Instructions issued in the current run (R15). -/
  runLen : Nat
  /-- The e registers written in the current run (R19). -/
  eWritten : BitVec 8
  /-- Results that are not in their registers yet (R17). -/
  inflight : List Pend
  /-- s registers that engines will write (R18). -/
  pendS : List PendS
  /-- Status registers that have been written and not read, with what the first read is ordered after (R220). -/
  joins : List (SReg × Join)
  /-- v registers that the trailer of the last run boundary names; empty unless a RUNEND ended the run (R15, R18). -/
  trailer : List Nat
  /-- Held stores, the latest first (R167). -/
  held : List Held
  /-- Held tensor stores, the latest first (R268). -/
  heldT : List HeldT
  /-- Region epoch (R118, R167). -/
  epoch : Nat
  /-- Side-log entries, the oldest first (R169). -/
  side : List Side
  /-- Lanes that fault service holds (R309), and loads that read later than they issue. -/
  heldOps : List HeldOp
  /-- The next load reads later than it issues (R197): the model's own flag, set by the schedule. -/
  late : Bool
  /-- Writes of a boundary that have not reached their homes (R171). -/
  drains : List Drain
  /-- The boundary that waits for them. -/
  bound : Option Bound
  /-- REDs whose acknowledgement is outstanding, with the flags each carries (R180). -/
  reds : List (BitVec 5)
  /-- The blocking wait that the group stands in (R131). -/
  wait : Option Wait
  /-- How that wait ended. -/
  waitEnd : WaitEnd
  /-- Promotion records that the wait holds (R135). -/
  holds : List Nat
  /-- Order in which the wait began (R178, R243). -/
  since : Nat
  /-- Lanes of a full/empty instruction that have been served (R178). -/
  served : Mask
  /-- The region that the group stands in (R313). -/
  region : Option Region
  /-- Consecutive restarts at the same REGPC (R314). -/
  restarts : Nat
  /-- What an uncorrectable error has poisoned of the group's context (R311). -/
  poison : List Mark
  /-- Store signature (R317). -/
  sig : Word
  /-- The key of the twin of a PAIRED team's group (R315). -/
  twin : Option Nat
  /-- Whether this group is the leader of its pair (R315). -/
  leader : Bool
  /-- The operands that the twin stands at a rendezvous with (R316). -/
  rdv : Option (List Word)
  /-- Consecutive mismatches of the pair at one instruction (R319). -/
  mismatches : Nat
  /-- The instruction at which the last mismatch was found (R319). -/
  mismatchAt : Word
  /-- Nanoseconds without a retirement that the watchdog has counted (R322). -/
  watchdog : Nat
  /-- Recorded packets still to be compared in replay mode (R356). -/
  replay : Option (List Packet)
  /-- Packets compared so far: the packet index (R356). -/
  packets : Nat
  /-- Packets that wait for the held lanes of an atomic, oldest first (R354). -/
  owed : List Owed
  /-- Instructions retired since the team's last completed BAR (R145). -/
  sinceBar : Nat
  /-- Age: groups with a smaller number are older (R143). -/
  age : Nat
  /-- The issue port that the group holds (R142). -/
  port : Option Bool
  /-- The group has ended (R112) or was removed (R239). -/
  ended : Bool
  /-- Halted, and why (R21, R319, R322, R356). -/
  halted : Option HaltKind
  /-- Halted by the debugger's HALT (R347). -/
  dbgHalt : Bool
  /-- Halted by a pre-emption (R326). -/
  preempted : Bool
  /-- The tick at which it was halted (R328). -/
  haltTick : Nat
  /-- Its state has been spilled to its context (R328). -/
  spilled : Bool
  /-- The spill has consumed an uncorrectable error: the group restarts at REGPC when it resumes (R340). -/
  marked : Bool
  /-- Suspended by a device's recovery window (R323): the device. -/
  suspended : Option (BitVec 8)
  /-- Held at the PC by a page fault of the fetch, or at a store by a full side log (R309, R169): the page's address. -/
  fetchHeld : Option Nat
  /-- The borrow that the group's instruction needs (R236). -/
  borrow : Borrow
  /-- The EM that the group's packets show (R354). -/
  emTraced : Mask
  /-- Watch hits of the instruction that has just issued: lanes, watchpoints, a write hit (R352). -/
  hits : Option (Mask × BitVec 4 × Bool)
  /-- What the last instruction did. -/
  last : Ended
  deriving DecidableEq, Repr

/-! Teams and launches. -/

/-- A loaded shape slot (R262): the descriptor and its attachment. -/
structure Shape where
  desc : Desc
  attach : Nat
  /-- The slot is poisoned (R311). -/
  bad : Bool := false
  deriving DecidableEq, Repr

/-- A barrier with arrivals (R156). -/
structure Barrier where
  n : BitVec 4
  mask : Mask
  arrived : List Nat
  deriving DecidableEq, Repr

/-- A command of a team's matrix queue (R286–R288). -/
structure MCmd where
  ticket : BitVec 32
  word : Word
  fmtA : Word
  fmtB : Word
  ring : Option (Word × Word)
  /-- The next step, and the number of steps whose ring entries have been acquired (R290). -/
  step : Nat
  acquired : Nat
  /-- The engine waits for the header of the next entry, at this offset of the team's core region: since when, among the LDFE waiters
  (R178, R290). -/
  waits : Option (Nat × Nat)
  /-- That header has been read and emptied, and its tile is still to be copied. -/
  granted : Bool
  deriving DecidableEq, Repr

/-- Where a team stands (R124, R130, R141). -/
inductive TeamAt where
  | unstarted | resident | swapped | ended
  deriving DecidableEq, Repr

/-- A team of a launch (R123, R124), with the state of its context that its groups share (R330). -/
structure Team where
  launch : BitVec 32
  idx : Nat
  core : CoreId
  /-- The follower's team of a pair (R315). -/
  follower : Bool
  at_ : TeamAt
  /-- Shape slots (R262). -/
  shapes : List (Option Shape)
  /-- Barriers with arrivals (R156). -/
  bars : List Barrier
  /-- The team's groups that have ended (R156). -/
  gone : Mask
  /-- MSEQ (R11, R287). -/
  mseq : BitVec 32
  /-- Tickets given out (R287). -/
  tickets : BitVec 32
  /-- Matrix queue, the oldest first (R287). -/
  queue : List MCmd
  /-- Operand slots that the team holds (R281). -/
  slots : List Nat
  /-- Accumulator tiles that the team holds (R281). -/
  tiles : List Nat
  /-- First byte of the team's core region in its tenant's partition of the core scratchpad (R160, R161). -/
  scrBase : Nat
  /-- The promotion record that holds the team's residency, and whether it sits in a charged reserve slot (R137). -/
  charged : Option Nat
  /-- The order of submission, or of return from wait-swap, by which teams take room (R130). -/
  order : Nat
  /-- Swapped out by wait-swap and not yet eligible to return (R141). -/
  waitSwapped : Bool
  /-- Nanoseconds of scheduled time during which every live group has waited (R141). -/
  waited : Nat
  /-- Watchpoint state saved with the team (R352): addresses and WATCHCTL. -/
  watch : Option (List Word × Word)
  deriving DecidableEq, Repr

/-- The time-accounting figures of a launch (R357), in nanoseconds. -/
structure Acct where
  start : Nat
  syscall : Nat
  fault : Nat
  iowait : Nat
  queue : Nat
  engine : Nat
  other : Nat
  seq : BitVec 32
  final : Bool
  deriving DecidableEq, Repr

/-- A launch (R46, R127). -/
structure Launch where
  lid : BitVec 32
  /-- PID (R346). -/
  pid : BitVec 32
  desc : LaunchDesc
  /-- The grid has ended (R124). -/
  ended : Bool
  /-- Submission order (R130). -/
  order : Nat
  /-- Reserve slots: the core, and the record that charges it (R128). -/
  reserve : List (CoreId × Option Nat)
  acct : Acct
  /-- Recordings of a launch in replay mode, by TEAMIDX and GROUPIDX, and whether it runs free after a divergence (R356). -/
  replay : Option (List (Nat × Nat × List Packet) × Bool)
  /-- Thread number of the thread that submitted it, and those that system software has written for groups by TEAMIDX and GROUPIDX before
  their start (R346). -/
  tid : BitVec 32
  tids : List (Nat × Nat × BitVec 32)
  /-- Cores at whose pre-emption its engine operations have stopped; until a team of it resumes (R327). -/
  stopped : List CoreId
  deriving DecidableEq, Repr

/-- A live launch of another device of the pod, as this device knows it (R166): its tenant, class and NOPROMOTE. -/
structure Away where
  lid : BitVec 32
  reach : BitVec 4
  cls : Class
  noPromote : Bool
  /-- The device that it runs on. -/
  dev : BitVec 8
  deriving DecidableEq, Repr

/-- A promotion record (R135). -/
structure Prom where
  id : Nat
  reach : BitVec 4
  target : BitVec 32
  cls : Class
  sponsor : BitVec 32
  depth : Nat
  count : Nat
  charged : Nat
  deriving DecidableEq, Repr

/-! Cores, clusters and scratchpads. -/

/-! What a racing read may still return (R197). -/

/-- The value that a byte had before a write which some agents are not yet ordered after (R186, R191, R197). -/
structure Old where
  key : Nat
  val : Byte
  cipher : Option Nat
  /-- Who made the write. -/
  writer : Agent
  /-- The scope of the PHASE that drains it (R171); 5 for an atomic or a full/empty write; none for XFENCE and for engines. -/
  scope : Option Nat
  /-- The scopes at which PHASEs have completed it, and when (R193). -/
  done : List (Nat × Nat)
  /-- It is a single-copy atomic write (R194). -/
  atomic : Bool
  /-- When it was performed. -/
  tick : Nat
  /-- The core of the writer. -/
  core : CoreId
  /-- Agents that the write happens-before, and those that have read it. -/
  known : List Agent
  deriving DecidableEq, Repr

/-- What a core holds beside its groups (R126, R143, R281, R351). -/
structure CoreSt where
  id : CoreId
  /-- WATCH0–WATCH3 (R349). -/
  watch : List Word
  /-- WATCHCTL (R349). -/
  watchctl : Word
  /-- Owner launch of the watchpoints (R351). -/
  owner : Option (BitVec 32)
  /-- Holder team of the watchpoints (R351). -/
  holder : Option Nat
  /-- The Queued counter (R143). -/
  queued : Nat
  /-- Waiting tile claims of every tenant's partition, the oldest first: group key and number (R281). -/
  claims : List (BitVec 4 × Nat × Nat)
  /-- Allocator mode (R126). -/
  allocator : Bool
  /-- The reach that holds its slice on the core (R336). -/
  slice : Option (BitVec 4)
  /-- The reach that system software has queued for the core (R336). -/
  next : Option (BitVec 4)
  deriving DecidableEq, Repr

/-- An old word of code that instruction caches, cluster instruction buffers and running groups may still hold (R119, R348). -/
structure ICached where
  key : Nat
  word : BitVec 32
  /-- The cores, and with `core = 8` the clusters' buffers, that have been invalidated since. -/
  gone : List CoreId
  /-- Groups that may have fetched it before the invalidation; until the end of their run. -/
  groups : List Nat
  deriving DecidableEq, Repr

/-- A binding of a granule (R165): producer launch or wharf, and the tenant it records. -/
structure Binding where
  granule : Nat
  prod : Producer
  reach : BitVec 4
  deriving DecidableEq, Repr

/-! Tugs and collectives. -/

/-- A one-shot copy in flight (R203). -/
structure OneShot where
  id : Nat
  grp : Nat
  launch : BitVec 32
  team : Nat
  core : CoreId
  src : Word
  dst : Word
  sstride : Nat
  dstride : Nat
  rowBytes : Nat
  rows : Nat
  /-- The Tug of the cluster that performs it (R199). -/
  tug : Bool
  /-- Destination granules that have been written (R218, R327). -/
  wrote : List Nat
  deriving DecidableEq, Repr

/-- A pending CTAIL (R209). -/
structure CTail where
  grp : Nat
  op : Nat
  tail : Word
  /-- Number of the tail record, once it has been taken; of a refused CTAIL, the issued number. -/
  num : Option (BitVec 32)
  /-- Its borrow has been refused: it has moved no tail. -/
  refused : Bool
  /-- Team and core of the group, for which the walk takes records (R200). -/
  team : Nat
  core : CoreId
  deriving DecidableEq, Repr

/-- How far a record's completion has come (R207): step 1 has ended with a code; step 2 is done too; or step 3 has failed with a code, and
bytes 56–63 are to be written again. -/
inductive RecStage where
  | moved (code : Nat)
  | stored (code : Nat)
  | acted (code : Nat)
  deriving DecidableEq, Repr

/-- A record that a channel has taken and not completed (R208). -/
structure Rec where
  /-- The group whose CTAIL had it taken. -/
  grp : Nat
  num : BitVec 32
  addr : Nat
  bytes : List Byte
  team : Nat
  core : CoreId
  /-- Destination granules that have been written (R218, R327). -/
  wrote : List Nat
  /-- How far its completion has come; none: step 1 has not ended. -/
  stage : Option RecStage
  deriving DecidableEq, Repr

/-- A Tug channel that is assigned to a launch (R204). -/
structure Channel where
  handle : BitVec 9
  launch : BitVec 32
  head : Option Word
  /-- Address of the next record to take. -/
  pos : Word
  tail : Option Word
  /-- Addresses of the records taken since the CHEAD, with their numbers. -/
  taken : List (Word × BitVec 32)
  issued : BitVec 32
  seq : BitVec 32
  stopped : Option (Nat × BitVec 32)
  walking : Bool
  running : List Rec
  /-- Numbers completed beyond SEQ (R210). -/
  done : List (BitVec 32)
  ctails : List CTail
  /-- CQW (R241). -/
  cqw : BitVec 48
  /-- CDOM (R241). -/
  cdom : BitVec 10
  /-- The borrow that the channel waits for from a root on another device (R241, R376). -/
  borrow : Borrow
  deriving DecidableEq, Repr

/-- One member's COLL that has not completed (R214). -/
structure Coll where
  grp : Nat
  op : Nat
  launch : BitVec 32
  team : Nat
  core : CoreId
  kind : CollKind
  tag : Word
  /-- Address of the descriptor. -/
  desc : Word
  /-- Destination granules that have been written (R218). -/
  wrote : List Nat
  deriving DecidableEq, Repr

/-! Queues, counters and the Weir. -/

/-- A queue (R228) with its producer set (R132). -/
structure Queue where
  reach : BitVec 4
  desc : QueueDesc
  owner : Option (BitVec 32)
  producers : List (BitVec 32)
  deriving DecidableEq, Repr

/-- Where an entry stands (R229); of a parked entry, where its release places it (R252). -/
inductive Place where
  | core (c : CoreId)
  | cluster (d c : Nat)
  | die (d : Nat)
  /-- A slot of the queue's overflow area. -/
  | overflow (slot : Nat)
  deriving DecidableEq, Repr

/-- An entry that a queue holds (R229, R231, R232). -/
structure QEntry where
  reach : BitVec 4
  qnum : BitVec 32
  e : Entry
  stamp : Nat
  place : Place
  producer : BitVec 32
  /-- The group that made it, with its core and team, by which a call's reply word is found (R381). -/
  gid : Word
  core : CoreId
  team : Nat
  /-- The model's own number of the entry, and the record that enqueued it (R220, R249). -/
  tok : Nat
  maker : Option Agent
  /-- The entry is poisoned (R311). -/
  bad : Bool := false
  deriving DecidableEq, Repr

/-- A dependency counter that is not free, or has an entry waiting unadmitted (R246, R232). -/
structure Counter where
  die : Nat
  ctr : Nat
  count : Nat
  parked : Option QEntry
  unadmitted : Bool
  deriving DecidableEq, Repr

/-- The root of a quiescence domain (R235); a domain with no root here has never been open. -/
structure Root where
  reach : BitVec 4
  domain : BitVec 10
  /-- Its state: Open or Closed. -/
  isOpen : Bool
  issued : Nat
  returned : Nat
  lost : Nat
  members : List (BitVec 32)
  /-- Units that remote devices hold (R376). -/
  balances : List (BitVec 8 × Int)
  /-- QWAITs of other devices that are pending here: device and message (R238). -/
  remote : List (BitVec 8 × Nat)
  deriving DecidableEq, Repr

/-- A proxy of a root on another device (R376). -/
structure Proxy where
  reach : BitVec 4
  domain : BitVec 10
  root : BitVec 8
  /-- Units held on this device. -/
  units : Nat
  /-- Units returned and lost that have not been forwarded. -/
  back : Nat
  lost : Nat
  /-- Launches of this device that the root has been told of (R235). -/
  told : List (BitVec 32)
  deriving DecidableEq, Repr

/-- What this device knows of an Open root on another device (R235): where it is, and its member launches. -/
structure FarRoot where
  reach : BitVec 4
  domain : BitVec 10
  dev : BitVec 8
  members : List (BitVec 32)
  deriving DecidableEq, Repr

/-- A return message on its way to a root (R235). -/
structure Return where
  reach : BitVec 4
  domain : BitVec 10
  units : Nat
  lost : Bool
  /-- The device that returns them, where it is another one. -/
  src : Option (BitVec 8)
  deriving DecidableEq, Repr

/-- A conversion at a Dredger (R269–R272). -/
structure Conv where
  id : Nat
  grp : Nat
  launch : BitVec 32
  team : Nat
  core : CoreId
  die : Nat
  attach : Nat
  new : Nat
  tag : Nat
  desc : Desc
  running : Bool
  slab : Nat
  slabs : Nat
  attempts : Nat
  dirty : List Nat
  copied : Bool
  deriving DecidableEq, Repr

/-! Reaches, devices, security. -/

/-- A reach (R333–R337). -/
structure Reach where
  id : BitVec 4
  cfg : ReachRec
  subs : List (BitVec 4 × ReachRec)
  /-- Units where an older record's partition still stands, until they are idle (R333). -/
  olds : List (Unit3 × ReachRec)
  /-- Cores on which the reach has been pre-empted and not resumed (R326). -/
  off : List CoreId
  /-- Where its context area begins, as a physical address of this device, if system software has given it one (R331). -/
  area : Option Nat
  /-- Page-table root (R302). -/
  root : Nat
  /-- Guest-time offset in ns (R337). -/
  offset : Int
  /-- Guest TIME at the last halt (R337). -/
  tsaved : Int
  /-- TIMEX of the context area (R331). -/
  timex : Bool
  /-- EVAC of the context area (R331). -/
  evac : Bool
  /-- Group blocks present in the context area (R331). -/
  blocks : Nat
  /-- Bytes used in the context area, as a reading (R331). -/
  size : Nat
  /-- SNAPGEN (R331). -/
  snapgen : Word
  /-- The reach has been halted and not resumed (R337). -/
  halted : Bool
  /-- A resume request that came during a pre-emption that has not finished (R340): REVISION, TIMEX, ROOT and SNAPGEN as it gives them. -/
  resume : Option (Nat × Bool × Nat × Word)
  /-- Key IDs that the reach owns (R385). -/
  keys : List (BitVec 7)
  /-- The keys themselves, and the reach's fabric key (R372, R385); none after an alarm (R387). -/
  keyVals : List (BitVec 7 × BitVec 256)
  fabricKey : Option (BitVec 256)
  /-- RDMA memory regions: virtual base and length (R379). -/
  regions : List (Nat × Nat)
  /-- The launched images, in admission order (R384). -/
  images : List Byte
  /-- Minimum SVNs of the owner's rule (R386). -/
  minSvn : List Nat
  /-- Stage measurements that the owner's rule accepts (R386). -/
  accepted : List (BitVec 512)
  /-- LANEBUSY … ENERGY (R358). -/
  meter : List Word
  deriving DecidableEq, Repr

/-- Operand slots or accumulator tiles as a partition image holds them (R333): of a core, the place of each in the reach's partition and
its bytes. -/
structure Numbered where
  core : CoreId
  tile : Bool
  idx : Nat
  bytes : List Host.Cell
  deriving DecidableEq, Repr

/-- The context area of an evacuated reach, behind its header (R330, R331, R333): the contexts of its groups and teams, what its launches
have in the device, and the images of its partitions. Its layout is the device's own. DESIGN CHOICE (log 89). -/
structure Context where
  /-- The revision of its format (R331). -/
  revision : Nat
  /-- The device that wrote it, and the next of that device's own numbers. -/
  device : BitVec 8
  fresh : Nat
  reach : Reach
  launches : List Launch
  teams : List Team
  groups : List Group
  proms : List Prom
  oneShots : List OneShot
  channels : List Channel
  convs : List Conv
  queues : List Queue
  entries : List QEntry
  ranges : List (Nat × Nat × Nat × BitVec 4)
  counters : List Counter
  roots : List Root
  /-- Bytes, full words, bindings and poison of the scratchpad partitions and of the teams' core regions, by key. -/
  bytes : List Host.Cell
  full : List Nat
  bindings : List Binding
  poison : List Nat
  numbered : List Numbered
  deriving DecidableEq, Repr

/-- A task message that waits for another device (R375, R376). -/
structure OutMsg where
  tag : Nat
  dest : BitVec 8
  cls : Nat
  msg : RemoteMsg
  grp : Nat
  op : Nat
  /-- The message's number in its class, of which its nonce is formed (R372). -/
  count : Nat
  /-- It has not arrived (R370). -/
  flying : Bool
  deriving DecidableEq, Repr

/-- An engine that meets a page fault (R310): a Tug of a cluster, the collective engine or the Dredger of a die, a core's matrix
engine. -/
inductive EngineKind where
  | tug (die cluster : Nat) (second : Bool)
  | collective (die : Nat)
  | dredger (die : Nat)
  | matrix (core : CoreId)
  deriving DecidableEq, Repr

/-- A record of the fault queue (R310), under the joined identity of its group or of its engine's launch (R346). -/
structure FaultRec where
  pid : BitVec 32
  tid : BitVec 32
  gid : Word
  /-- The engine, and the launch that owns its operation. -/
  engine : Option (EngineKind × BitVec 32)
  va : Nat
  access : Nat
  reason : Nat
  level : Nat
  /-- A link-down event in place of a page fault: the link (R369). -/
  link : Option (BitVec 4) := none
  deriving DecidableEq, Repr

/-- Kinds of event that the wharf cores receive. -/
inductive WKind where
  | halted | uncontained | pairSuspect | suspectInterval | heldRoomLost | watchdog | mailbox | watchConflict | divergence
  deriving DecidableEq, Repr

/-- An event at the wharf cores, under its joined identity (R346). DESIGN CHOICE (log 88). -/
structure WEvent where
  kind : WKind
  pid : BitVec 32
  tid : BitVec 32
  gid : Word
  detail : List Nat
  deriving DecidableEq, Repr

/-- A record of the black box (R388). -/
structure BBox where
  us : Nat
  type : Nat
  source : Nat
  detail : Word
  deriving DecidableEq, Repr

/-- What a system core does (R382): it waits, runs the boot ROM, runs firmware or system software, or has been stopped (R387).
DESIGN CHOICE (log 88). -/
inductive SysRun where
  | waits | bootRom | runs | stopped
  deriving DecidableEq, Repr

/-- A system core (R1, R382): its I/O die, its number there, and what it does. Its instruction set and its programs are defined outside
the manual. DESIGN CHOICE (log 88). -/
structure SysCore where
  die : Nat
  num : Nat
  run : SysRun
  deriving DecidableEq, Repr

/-- A request of a client that the system cores have taken (R380): OP, LEN, SEQ and PID. -/
structure CallReq where
  op : BitVec 16
  len : BitVec 32
  seq : Word
  pid : Word
  deriving DecidableEq, Repr

/-- Flits that engines of a die have sent on a link on behalf of a launch (R321): first and last outbound sequence numbers, and when. -/
structure FlitRange where
  die : Nat
  launch : BitVec 32
  link : BitVec 4
  first : Nat
  last : Nat
  tick : Nat
  deriving DecidableEq, Repr

/-- The trace buffer of a cluster (R354, R355). -/
structure Trace where
  die : Nat
  cluster : Nat
  bytes : List Byte
  /-- Cycle count of the last packet and of the last SYNC. -/
  lastCycle : Nat
  lastSync : Nat
  sinceSync : Nat
  synced : Bool
  lost : Nat
  deriving DecidableEq, Repr

/-- What the schedule lets happen next: an event of the opcode table, or a change of the group whose turn it is. -/
inductive Input where
  | event (i : Instr)
  | turn (grp : Nat)
  /-- The next load of a group reads later than it issues (R197); and such loads of a group read now. -/
  | lateLoad (grp : Nat)
  | loadArrives (grp : Nat)
  /-- An operation of a Tug writes one of its destination granules before it completes (R218): the record of a channel, or with `none` a
  one-shot command, by its number. -/
  | granule (channel : Option (BitVec 9)) (op granule : Nat)
  /-- The same of a member's operation of a collective, by its number. -/
  | collGranule (op granule : Nat)
  /-- The fused minimum SVN of a stage is raised (R383). -/
  | raiseMin (stage svn : Nat)
  /-- System software sets the watchdog's limit, in ns (R322), or the interval of the in-field tests, where 0 disables them (R320). -/
  | watchdogLimit (ns : Nat)
  | testInterval (ns : Nat)
  /-- System software gives a reach a context area, from a physical address on (R331); or brings the area of a reach that another device
  has evacuated (R339). -/
  | contextArea (reach : BitVec 4) (pa : Nat)
  | context (c : Context)
  /-- A launch of another device of the pod is live, or has ended (R166). -/
  | away (a : Away) (live : Bool)
  /-- A domain's root on another device is Open, or is Closed (R235). -/
  | farRoot (reach : BitVec 4) (domain : BitVec 10) (dev : BitVec 8) (isOpen : Bool)
  /-- A message arrives at its device (R370). -/
  | landed (tag : Nat)
  /-- The responses of a device to the accesses of the next step fail authentication: once, or with `again` at the retry too (R372). -/
  | dropped (dev : BitVec 8) (again : Bool)
  /-- System software writes the thread number of a group before the group starts (R346). -/
  | threadNumber (lid : BitVec 32) (team idx : Nat) (tid : BitVec 32)
  deriving DecidableEq, Repr

/-- What a privileged request, a request of the network or of management answers. -/
structure Reply where
  /-- Result code of R127, R347, or 0 and 1 for done and refused. -/
  code : Nat
  words : List Word
  bytes : List Byte
  deriving DecidableEq, Repr

/-- The state of the device. -/
structure State where
  /-- Steps taken: the model's own counter, from which times and free values are read. -/
  tick : Nat
  /-- The model's own counter for numbers of groups, operations, records and messages. -/
  fresh : Nat
  /-- The model's own schedule: events and turns still to come. -/
  inputs : List Input
  /-- DEVICE: the number of this device in its pod (R11, R369). -/
  device : BitVec 8
  /-- The group whose turn it is. -/
  g : Group
  /-- The other groups. -/
  others : List Group
  /-- Every byte of main memory and of on-package memory that is not 0 (R20, R160, R277). -/
  mem : List Host.Cell
  /-- Values that bytes had before writes that racing reads need not see yet, the latest write first (R197). -/
  olds : List Old
  /-- The key under which a byte of main memory was last stored, as a tag of key ID and generation; 128: unencrypted (R385). -/
  keyTags : List (Nat × Nat)
  /-- The generation of a key ID's key: 0 where it is not listed (R385). -/
  keyGens : List (Nat × Nat)
  /-- Full words of the scratchpads, by their key (R164). -/
  full : List Nat
  /-- Granule bindings (R165). -/
  bindings : List Binding
  /-- Poisoned 8-byte words of memory, by their key (R311). -/
  poison : List Nat
  /-- Page-table entries changed and not shot down: replica address and old value (R307). -/
  stalePte : List (Nat × Word)
  /-- Old words in instruction caches and cluster instruction buffers (R119). -/
  icache : List ICached
  /-- 256 KiB pieces of main memory, by key, from which words have been fetched. -/
  code : List Nat
  launches : List Launch
  /-- Live launches of other devices (R166). -/
  away : List Away
  /-- Context areas of evacuated reaches (R333, R339). -/
  contexts : List Context
  teams : List Team
  cores : List CoreSt
  /-- Fenced clusters (R320). -/
  fenced : List (Nat × Nat)
  /-- Ticks of the last passed in-field test of a cluster (R321). -/
  tested : List (Nat × Nat × Nat)
  /-- Launches that have had a team on a cluster since its last passed test (R321). -/
  hosted : List (Nat × Nat × BitVec 32)
  /-- Slices that system software has granted within the last second: the time in ns, the reach and the core (R336). -/
  grants : List (Nat × BitVec 4 × CoreId)
  /-- Generations of the group slots that have been used (R346). -/
  gens : List (CoreId × Nat × BitVec 42)
  /-- Promotion records (R135). -/
  proms : List Prom
  oneShots : List OneShot
  channels : List Channel
  colls : List Coll
  queues : List Queue
  entries : List QEntry
  /-- Counter ranges assigned to tenants: die, first, last, reach (R246). -/
  ranges : List (Nat × Nat × Nat × BitVec 4)
  counters : List Counter
  roots : List Root
  proxies : List Proxy
  returns : List Return
  /-- Where a migrated reach's roots are (R377). -/
  rehomed : List (BitVec 4 × BitVec 8)
  /-- Open roots on other devices (R235). -/
  farRoots : List FarRoot
  convs : List Conv
  /-- Collectives whose members disagree: launch, tag, and the dies whose members have not issued (R214). -/
  collsBad : List (BitVec 32 × Word × List Nat)
  reaches : List Reach
  /-- Messages sent to other devices that have not arrived or not been answered (R370, R375). -/
  outbox : List OutMsg
  /-- How many messages this device has sent in a class of the fabric (R370, R372). -/
  sent : List (Nat × Nat)
  /-- Devices whose responses are not heard in a step, with its tick (R372). -/
  unheard : List (BitVec 8 × Nat)
  /-- Devices under fabric recovery, and devices lost (R323). -/
  recovering : List (BitVec 8)
  lost : List (BitVec 8)
  /-- Route table as each class uses it (R369, R370): class, destination and link. -/
  routes : List (Nat × BitVec 8 × BitVec 4)
  /-- Route-table writes that wait for their class to be idle towards the destination (R370). -/
  routesNew : List (Nat × BitVec 8 × BitVec 4)
  /-- Replays of the flit at the head of each link (R369). -/
  replays : List (BitVec 4 × Nat)
  /-- Links that have been taken down (R369). -/
  linksDown : List (BitVec 4)
  /-- Fault queue of the wharf cores (R310). -/
  faultQueue : List FaultRec
  /-- Engine operations that stand at an absent page, with its address and access: the event has its record (R309, R310). -/
  stuck : List (Agent × Nat × Nat)
  /-- Events at the wharf cores. -/
  events : List WEvent
  /-- Answers to requests, the latest first. -/
  replies : List Reply
  /-- Entries that the wharf cores have popped and not answered (R381). -/
  calls : List QEntry
  /-- Black box, the latest first (R388). -/
  blackBox : List BBox
  /-- Trace buffers (R354). -/
  traces : List Trace
  /-- ALMCAUSE: causes and COUNT (R387). -/
  almcause : BitVec 5
  almcount : Nat
  /-- The alarm has stopped the device, and only reset is accepted (R387). -/
  alarmed : Bool
  /-- The boot has failed or the device has shut down (R383, R390). -/
  down : Bool
  /-- Keys have been zeroised (R387). -/
  zeroised : Bool
  /-- Measurement registers of stages 1 to 3 (R383). -/
  measures : List (BitVec 512)
  /-- SVNs of the stages that run (R384). -/
  svns : List Nat
  /-- Firmware staged for the next reset (R389). -/
  staged : List StageImage
  /-- Minimum SVNs to which the fuses have been raised, by stage (R383). -/
  fuses : List (Nat × Nat)
  /-- Images that the boot chain has loaded: stage, LOAD and bytes (R382). -/
  stages : List (Nat × Nat × List Byte)
  /-- The 16 system cores (R1). -/
  sysCores : List SysCore
  /-- Requests of clients that the system cores have taken (R380). -/
  requests : List CallReq
  /-- The device itself is under fabric recovery (R374). -/
  apart : Bool
  /-- Memory links' module capacity in bytes (R368). -/
  module : Nat
  /-- Power cap in watts (R389, R390). -/
  powerCap : Nat
  /-- Core clock in MHz (R390). -/
  clock : Nat
  /-- Single-bit errors corrected (R311). -/
  corrected : Nat
  /-- Watchdog limit in ns (R322). -/
  wdLimit : Nat
  /-- Interval of the in-field tests in ns; 0 disables them (R320). -/
  testEvery : Nat
  /-- Flit sequence numbers of the fabric links, outbound and inbound (R369). -/
  flits : List (BitVec 4 × Nat)
  flitsIn : List (BitVec 4 × Nat)
  /-- Which of them engines have sent, and for whom (R321). -/
  flitLog : List FlitRange
  /-- What this step has moved so far, for the metering counters (R358). -/
  traffic : List Traffic
  deriving DecidableEq, Repr

/-! What the state is right after device reset. -/

/-- A group place that no group occupies. DESIGN CHOICE (log 7). -/
def Group.vacant : Group where
  key := 0
  launch := 0
  team := 0
  idx := 0
  role := 0
  core := ⟨0, 0, 0⟩
  slot := 0
  gid := 0
  tid := 0
  v := Vector.replicate 56 (Lanes.all 0)
  e := Vector.replicate 8 (Lanes.all 0)
  s := Vector.replicate 64 0
  p := Vector.replicate 128 0
  em := 0
  live := 0
  launched := 0
  pc := 0
  bankV := Vector.replicate 8 (Lanes.all 0)
  bankS := Vector.replicate 8 0
  qw := 0
  domain := 0
  regpc := 0
  stack := []
  frm := 0
  fflags := 0
  trapMode := false
  trapCause := 0
  trapPc := 0
  trapLanes := 0
  trapInfo := 0
  trapEm := 0
  tasklink := 0xFFFFFFFF
  retired := 0
  startTick := 0
  dbgctl := 0
  wwr := false
  whit := 0
  spend := false
  outv := false
  inv := false
  dbgout := Vector.replicate 16 0
  dbgin := Vector.replicate 16 0
  runLen := 0
  eWritten := 0
  inflight := []
  pendS := []
  joins := []
  trailer := []
  held := []
  heldT := []
  epoch := 0
  side := []
  heldOps := []
  late := false
  drains := []
  bound := none
  reds := []
  wait := none
  waitEnd := .pending
  holds := []
  since := 0
  served := 0
  region := none
  restarts := 0
  poison := []
  sig := 0
  twin := none
  leader := false
  rdv := none
  mismatches := 0
  mismatchAt := 0
  watchdog := 0
  replay := none
  packets := 0
  owed := []
  sinceBar := 0
  age := 0
  port := none
  ended := true
  halted := none
  dbgHalt := false
  preempted := false
  haltTick := 0
  spilled := false
  marked := false
  emTraced := 0
  suspended := none
  fetchHeld := none
  borrow := .idle
  hits := none
  last := .retired

/-- The system cores, where core 0 of I/O die 4 does one thing and the others another. DESIGN CHOICE (log 88). -/
def sysCoresAt (first rest : SysRun) : List SysCore :=
  [4, 5].flatMap fun d => (List.range 8).map fun n => { die := d, num := n, run := if d == 4 && n == 0 then first else rest }

/-- The device after reset: no launch, no group, no assignment, memory with nothing listed. DESIGN CHOICE (log 6, 7, 8). -/
def State.reset : State where
  tick := 0
  fresh := 1
  inputs := []
  device := 0
  g := Group.vacant
  others := []
  mem := []
  olds := []
  keyTags := []
  keyGens := []
  full := []
  bindings := []
  poison := []
  stalePte := []
  icache := []
  code := []
  launches := []
  away := []
  contexts := []
  teams := []
  cores := []
  fenced := []
  tested := []
  hosted := []
  grants := []
  gens := []
  proms := []
  oneShots := []
  channels := []
  colls := []
  queues := []
  entries := []
  ranges := []
  counters := []
  roots := []
  proxies := []
  returns := []
  rehomed := []
  farRoots := []
  convs := []
  collsBad := []
  reaches := []
  outbox := []
  sent := []
  unheard := []
  recovering := []
  lost := []
  routes := []
  routesNew := []
  replays := []
  linksDown := []
  faultQueue := []
  stuck := []
  events := []
  replies := []
  calls := []
  blackBox := []
  traces := []
  almcause := 0
  almcount := 0
  alarmed := false
  down := false
  zeroised := false
  measures := []
  svns := []
  staged := []
  fuses := []
  stages := []
  sysCores := sysCoresAt .bootRom .waits
  requests := []
  apart := false
  module := 2 ^ 34
  powerCap := 2000
  clock := 1800
  corrected := 0
  wdLimit := 1000000000
  testEvery := 600000000000
  flits := []
  flitsIn := []
  flitLog := []
  traffic := []

end Sys2Proof.Machine
end

