-- ==== Sys2Proof/Machine/Operands.lean ====
section
/-! DEFINITION. Operands: the registers of a group (R7, R14), the lanes that an instruction acts in (R10, R27), sub-elements and
nibbles (R7, R53, R63), and which registers an instruction reads and writes (R17, R18). -/
namespace Sys2Proof.Machine

/-- The vector register whose lane `l` is `f l`. -/
def lanesOf (f : Nat → Word) : Lanes := ⟨((List.range 32).map f).toArray, by simp⟩

/-- A vector register named by a lane field: v0–v55, or e0–e7 (R14). -/
def Group.lreg (g : Group) (r : LReg) : Lanes :=
  if h : r.toNat < 56 then g.v[r.toNat]
  else g.e[r.toNat - 56]'(by have := r.isLt; omega)

/-- Lane `l` of a vector register. -/
def Group.lane (g : Group) (r : LReg) (l : Nat) : Word := (g.lreg r).at l

/-- Writes a whole vector register. DEDUCED (log 20). -/
def Group.setL (g : Group) (r : LReg) (x : Lanes) : Group :=
  if h : r.toNat < 56 then { g with v := g.v.set r.toNat x }
  else { g with
    e := g.e.set (r.toNat - 56) x (by have := r.isLt; omega)
    eWritten := g.eWritten ||| (1#8 <<< (r.toNat - 56)) }

/-- Writes `f l` into lane `l` of a register, in the lanes of `m`; no other bit changes (R10). -/
def Group.writeL (g : Group) (m : Mask) (r : LReg) (f : Nat → Word) : Group :=
  if m = 0 then g
  else
    let old := g.lreg r
    g.setL r (lanesOf fun l => if m.has l then f l else old.at l)

/-- A uniform register. -/
def Group.sreg (g : Group) (r : SReg) : Word := g.s[r.toNat]'(r.isLt)
/-- Writes a uniform register. -/
def Group.setS (g : Group) (r : SReg) (x : Word) : Group := { g with s := g.s.set r.toNat x r.isLt }
/-- The uniform register `k` above `r`, as the engine commands name it. -/
def Group.sregAt (g : Group) (r : SReg) (k : Nat) : Word := g.sreg (r + BitVec.ofNat 6 k)

/-- A predicate: one bit per lane. -/
def Group.preg (g : Group) (r : PReg) : Mask := g.p[r.toNat]'(r.isLt)
/-- Writes a predicate in the lanes of `m`. -/
def Group.writeP (g : Group) (m : Mask) (r : PReg) (x : Mask) : Group :=
  { g with p := g.p.set r.toNat ((x &&& m) ||| (g.preg r &&& ~~~m)) r.isLt }

/-- The lanes that a guarded instruction acts in (R27). -/
def Group.acts (g : Group) : Guard → Mask
  | .always => g.em
  | .ifSet p => g.em &&& g.preg (0#4 ++ p)
  | .ifClear p => g.em &&& ~~~(g.preg (0#4 ++ p))

/-! Sub-elements. -/

/-- Sub-element `i` of width `w` (R7, R53). -/
def elem (w i : Nat) (x : Word) : Nat := x.toNat / 2 ^ (w * i) % 2 ^ w

/-- The number whose sub-elements of width `w` are `f 0` to `f (n - 1)`. -/
def packElems (w : Nat) (f : Nat → Nat) : (n : Nat) → Nat
  | 0 => 0
  | n + 1 => packElems w f n + f n % 2 ^ w * 2 ^ (w * n)

/-- The register lane whose sub-elements of width `w` are `f i`. -/
def ofElems (w : Nat) (f : Nat → Nat) : Word := BitVec.ofNat 64 (packElems w f (64 / w))

/-- The width in bits. -/
def widthBits : Width → Nat
  | .w8 => 8
  | .w16 => 16
  | .w32 => 32
  | .w64 => 64

/-- The size of an access in bytes (R26). -/
def widthBytes : Width → Nat
  | .w8 => 1
  | .w16 => 2
  | .w32 => 4
  | .w64 => 8

/-- The loop of R63 for two sources and the old destination. -/
def mapElems (w : Nat) (f : Nat → Nat → Nat → Nat) (a b c : Word) : Word :=
  ofElems w fun i => f (elem w i a) (elem w i b) (elem w i c)

/-- A sign-extended field of `n` bits as an integer. -/
def sext {n : Nat} (x : BitVec n) : Int := x.toInt

/-- A 64-bit value from an integer. -/
def wordOf (x : Int) : Word := BitVec.ofInt 64 x

/-! Which registers an instruction names (R17, R18, R19). -/

/-- The registers an instruction reads and writes. -/
structure Use where
  rl : List LReg := []
  wl : List LReg := []
  rs : List SReg := []
  ws : List SReg := []
  deriving DecidableEq, Repr

/-- `n` uniform registers from `r` on. -/
def sregs (r : SReg) (n : Nat) : List SReg := (List.range n).map fun k => r + BitVec.ofNat 6 k

/-- Two sources and a destination. -/
def use3 (d a b : LReg) : Use := { rl := [a, b], wl := [d] }
/-- Two sources and a destination that is a source too. -/
def use3d (d a b : LReg) : Use := { rl := [a, b, d], wl := [d] }
/-- One source and a destination. -/
def use2 (d a : LReg) : Use := { rl := [a], wl := [d] }
/-- Uniform arithmetic. -/
def useS (sd sa sb : SReg) : Use := { rs := [sa, sb], ws := [sd] }

/-- Whether a conversion narrows, so that d is a source (R92). -/
def cvtNarrows (sel : BitVec 6) : Bool :=
  match cvtRow sel with
  | some r => r.dst.width < r.src.width
  | none => false

/-- The registers that an instruction word reads and writes. -/
def uses : Instr → Use
  | .iadd _ d a b _ => use3 d a b
  | .isub _ d a b _ => use3 d a b
  | .iaddi _ d a _ _ => use2 d a
  | .imin _ d a b _ => use3 d a b
  | .imax _ d a b _ => use3 d a b
  | .umin _ d a b _ => use3 d a b
  | .umax _ d a b _ => use3 d a b
  | .imul _ d a b _ => use3 d a b
  | .imulhi _ d a b _ => use3 d a b
  | .imad _ d a b _ => use3d d a b
  | .imsb _ d a b _ => use3d d a b
  | .iaddsat _ d a b _ => use3 d a b
  | .isubsat _ d a b _ => use3 d a b
  | .uaddsat _ d a b _ => use3 d a b
  | .usubsat _ d a b _ => use3 d a b
  | .land _ d a b _ => use3 d a b
  | .landn _ d a b _ => use3 d a b
  | .lor _ d a b _ => use3 d a b
  | .lorn _ d a b _ => use3 d a b
  | .lxor _ d a b _ => use3 d a b
  | .lxnor _ d a b _ => use3 d a b
  | .shl _ d a b _ => use3 d a b
  | .shr _ d a b _ => use3 d a b
  | .sar _ d a b _ => use3 d a b
  | .rol _ d a b _ => use3 d a b
  | .shli _ d a _ _ => use2 d a
  | .shri _ d a _ _ => use2 d a
  | .sari _ d a _ _ => use2 d a
  | .popc _ d a _ => use2 d a
  | .clz _ d a _ => use2 d a
  | .brev _ d a _ => use2 d a
  | .ctz _ d a _ => use2 d a
  | .bfx _ d a b _ => use3 d a b
  | .bfxs _ d a b _ => use3 d a b
  | .bfi _ d a b _ => use3d d a b
  | .iabs _ d a _ => use2 d a
  | .ineg _ d a _ => use2 d a
  | .mov d a _ => use2 d a
  | .movs d sa _ => { wl := [d], rs := [sa] }
  | .movi d (.quarter _) _ => { rl := [d], wl := [d] }
  | .movi d _ _ => { wl := [d] }
  | .sel d a b _ => use3 d a b
  | .icmp _ a b _ _ _ => { rl := [a, b] }
  | .pmovGet d _ _ => { wl := [d] }
  | .pmovSet a _ _ => { rl := [a] }
  | .fadd _ d a b _ => use3 d a b
  | .fsub _ d a b _ => use3 d a b
  | .fmul _ d a b _ => use3 d a b
  | .ffma _ d a b _ => use3d d a b
  | .ffms _ d a b _ => use3d d a b
  | .fmin _ d a b _ => use3 d a b
  | .fmax _ d a b _ => use3 d a b
  | .fabs _ d a _ => use2 d a
  | .fneg _ d a _ => use2 d a
  | .fcmp _ a b _ _ => { rl := [a, b] }
  | .fspec _ _ d a _ => use2 d a
  | .cvt sel _ d a _ => if cvtNarrows sel then { rl := [a, d], wl := [d] } else use2 d a
  | .dot _ _ d a b _ => use3d d a b
  | .perm _ d a b _ => use3 d a b
  | .lxch _ d a _ => use2 d a
  | .lred _ d a _ => use2 d a
  | .lscan _ _ d a _ => use2 d a
  | .vote sd _ _ => { ws := [sd] }
  | .ld _ d a _ _ _ => use2 d a
  | .lds _ d a _ _ _ => use2 d a
  | .st _ d a _ _ _ => { rl := [a, d] }
  | .ldfe _ d a _ _ _ => use2 d a
  | .ldfw _ d a _ _ _ => use2 d a
  | .stfe _ d a _ _ _ => { rl := [a, d] }
  | .cas _ _ d a b _ => use3d d a b
  | .red _ _ _ a b _ => { rl := [a, b] }
  | .atomAdd _ _ d a b _ => use3 d a b
  | .atomSmin _ _ d a b _ => use3 d a b
  | .atomSmax _ _ d a b _ => use3 d a b
  | .atomUmin _ _ d a b _ => use3 d a b
  | .atomUmax _ _ d a b _ => use3 d a b
  | .atomAnd _ _ d a b _ => use3 d a b
  | .atomOr _ _ d a b _ => use3 d a b
  | .atomXchg _ _ d a b _ => use3 d a b
  | .tload _ d a _ _ => use2 d a
  | .tstore _ d a _ _ => { rl := [a, d] }
  | .sadd sd sa sb => useS sd sa sb
  | .ssub sd sa sb => useS sd sa sb
  | .smul sd sa sb => useS sd sa sb
  | .smulhi sd sa sb => useS sd sa sb
  | .sand sd sa sb => useS sd sa sb
  | .sor sd sa sb => useS sd sa sb
  | .sxor sd sa sb => useS sd sa sb
  | .sandn sd sa sb => useS sd sa sb
  | .sshl sd sa sb => useS sd sa sb
  | .sshr sd sa sb => useS sd sa sb
  | .ssar sd sa sb => useS sd sa sb
  | .smin sd sa sb => useS sd sa sb
  | .smax sd sa sb => useS sd sa sb
  | .sminu sd sa sb => useS sd sa sb
  | .smaxu sd sa sb => useS sd sa sb
  | .saddi sd sa _ => { rs := [sa], ws := [sd] }
  | .sli sd (.quarter _) _ => { rs := [sd], ws := [sd] }
  | .sli sd _ _ => { ws := [sd] }
  | .scmp _ sa sb _ _ _ => { rs := [sa, sb] }
  | .sget sd va _ => { rl := [va], ws := [sd] }
  | .sld _ sd sa _ _ => { rs := [sa], ws := [sd] }
  | .sst _ sd sa _ _ => { rs := [sa, sd] }
  | .brx va _ => { rl := [va] }
  | .call _ => { ws := [63] }
  | .ret => { rs := [63] }
  | .bar _ sa => { rs := [sa] }
  | .waitseq sa sb => { rs := [sa, sb] }
  | .yield sd _ => { rs := [sd] }
  | .qread sd => { ws := [sd] }
  | .enq sd sa sb _ => { rs := sb :: sregs sa 4, ws := [sd] }
  | .deq sd sa _ => { rs := [sa], ws := sregs sd 4 }
  | .deqNb sd sa _ => { rs := [sa], ws := sregs sd 4 }
  | .deparm sd sa sb _ => { rs := sregs sb 2 ++ sregs sa 4, ws := [sd] }
  | .depdec sd sa _ => { rs := [sa], ws := [sd] }
  | .cpy sd sa sb _ _ => { rs := sa :: sregs sb 2, ws := [sd] }
  | .chead sd sa sb _ => useS sd sa sb
  | .ctail sd sa sb _ => useS sd sa sb
  | .tmove sd sa sb _ _ => { rs := sregs sa 2 ++ sregs sb 2, ws := [sd] }
  | .coll _ sd sa sb _ => useS sd sa sb
  | .tsload _ sa => { rs := [sa] }
  | .tsevict _ sa => { rs := [sa] }
  | .relayout _ sd sa sb _ => useS sd sa sb
  | .oclaim sd sa _ => { rs := [sa], ws := [sd] }
  | .orelease sd sa _ => { rs := [sa], ws := [sd] }
  | .aclaim sd sa _ => { rs := [sa], ws := [sd] }
  | .arelease sd sa _ => { rs := [sa], ws := [sd] }
  | .mloop sd sa sb _ => useS sd sa sb
  | .mloopWait sa _ => { rs := [sa] }
  | .aread _ vd sa _ => { wl := [vd], rs := [sa] }
  | .azero sa _ => { rs := [sa] }
  | .csrr (.s r) _ => { ws := [r] }
  | .csrr (.v r) _ => { wl := [r] }
  | .csrw _ sa => { rs := [sa] }
  | .febind sa sb sc _ => { rs := [sa, sb, sc] }
  | _ => {}

/-- The promise of a long-latency instruction that has a destination (R16, R17). -/
def promise : Instr → Option La
  | .ld _ _ _ _ la _ => some la
  | .lds _ _ _ _ la _ => some la
  | .cas _ _ _ _ _ la => some la
  | .atomAdd _ _ _ _ _ la => some la
  | .atomSmin _ _ _ _ _ la => some la
  | .atomSmax _ _ _ _ _ la => some la
  | .atomUmin _ _ _ _ _ la => some la
  | .atomUmax _ _ _ _ _ la => some la
  | .atomAnd _ _ _ _ _ la => some la
  | .atomOr _ _ _ _ _ la => some la
  | .atomXchg _ _ _ _ _ la => some la
  | .tload _ _ _ la _ => some la
  | .sld _ _ _ _ la => some la
  | .enq _ _ _ la => some la
  | .deparm _ _ _ la => some la
  | .cpy _ _ _ _ la => some la
  | .chead _ _ _ la => some la
  | .ctail _ _ _ la => some la
  | .tmove _ _ _ _ la => some la
  | .coll _ _ _ _ la => some la
  | .relayout _ _ _ _ la => some la
  | .mloop _ _ _ la => some la
  | .aread _ _ _ la => some la
  | _ => none

/-- The destination of a held instruction. -/
def HeldOp.dest (h : HeldOp) : Nat × Nat :=
  match (uses h.i).wl, (uses h.i).ws with
  | d :: _, _ => (0, d.toNat)
  | [], d :: _ => (2, d.toNat)
  | [], [] => (3, 0)

end Sys2Proof.Machine
end

