-- ==== Sys2Proof/Machine/Flags.lean ====
section
/-! DEFINITION. Conditions and flags: integer comparisons (R30, R78), combining a predicate (R78), the sticky float flags (R12, R57,
R83), and the words of MODE, DBGSTAT and DBGCTL (R12, R349). -/
namespace Sys2Proof.Machine

/-- The condition of ICMP and SCMP on `w`-bit values (R30, R78). -/
def condHolds (c : Cond) (w a b : Nat) : Bool :=
  match c with
  | .eq => a == b
  | .ne => a != b
  | .lt => sval w a < sval w b
  | .ge => sval w b ≤ sval w a
  | .ltu => a < b
  | .geu => b ≤ a
  | .le => sval w a ≤ sval w b
  | .gt => sval w b < sval w a

/-- The condition on two 64-bit registers, of which `w64` picks 64 or the low 32 bits (R30). -/
def compare (c : Cond) (w64 : Bool) (a b : Word) : Bool :=
  let w := if w64 then 64 else 32
  condHolds c w (elem w 0 a) (elem w 0 b)

/-- The new predicate: the result of a comparison combined with the old bits (R30, R78). -/
def combine (m : Comb) (old c : Mask) : Mask :=
  match m with
  | .set => c
  | .and => old &&& c
  | .or => old ||| c
  | .andn => old &&& ~~~c

/-- Raises sticky flags (R12). -/
def Group.raise (g : Group) (f : BitVec 5) : Group := { g with fflags := g.fflags ||| f }

/-- The union of the flags of the lanes of `m`. -/
def flagsOf (m : Mask) (f : Nat → BitVec 5) : BitVec 5 := m.lanes.foldl (fun acc l => acc ||| f l) 0

/-- The union of flags over `n` sub-elements. -/
def flagsN (f : Nat → BitVec 5) : (n : Nat) → BitVec 5
  | 0 => 0
  | n + 1 => flagsN f n ||| f n

/-- A float operation on every sub-element of one lane: bits and flags (R83). -/
def mapF (w : Nat) (f : Nat → Nat → Nat → FRes) (a b c : Word) : Word × BitVec 5 :=
  let r := fun i => f (elem w i a) (elem w i b) (elem w i c)
  (ofElems w fun i => (r i).1, flagsN (fun i => (r i).2) (64 / w))

/-- Writes lane results and raises the union of their flags (R83). -/
def Group.writeF (g : Group) (m : Mask) (d : LReg) (f : Nat → Word × BitVec 5) : Group :=
  (g.writeL m d fun l => (f l).1).raise (flagsOf m fun l => (f l).2)

/-- The code of a progress class (R12, R129). -/
def classCode : Class → Nat
  | .held => 0
  | .queued => 1
  | .spare => 2

/-- MODE (R12). -/
def modeWord (d : LaunchDesc) (trap : Bool) : Word :=
  BitVec.ofNat 64 ((if trap then 1 else 0) + (if d.debugFlag then 2 else 0) + (if d.paired then 4 else 0)
    + 8 * classCode d.cls + (if d.urgent then 32 else 0))

/-- DBGSTAT (R349). -/
def Group.dbgstat (g : Group) : Word :=
  BitVec.ofNat 64 ((if g.inv then 1 else 0) + (if g.outv then 2 else 0) + (if g.spend then 4 else 0)
    + 65536 * g.whit.toNat + (if g.wwr then 1048576 else 0))

end Sys2Proof.Machine
end

