-- ==== Sys2Proof/Machine/Memory.lean ====
section
/-! DEFINITION. Bytes: the canonical list of cells, little-endian quantities (R3), and the keys under which the model keeps the bytes
of main memory, scratchpads, operand slots and accumulator tiles. -/
namespace Sys2Proof.Machine

/-- The byte at a key; an unlisted byte reads as 0. DESIGN CHOICE (log 6). -/
def memGet (a : Nat) : List Host.Cell → Byte
  | [] => 0
  | (k, b) :: r => if k = a then b else memGet a r

/-- Writes one byte and keeps the canonical form. -/
def memPut (a : Nat) (b : Byte) : List Host.Cell → List Host.Cell
  | [] => if b = 0 then [] else [(a, b)]
  | (k, c) :: r =>
    if a < k then (if b = 0 then (k, c) :: r else (a, b) :: (k, c) :: r)
    else if a = k then (if b = 0 then r else (a, b) :: r)
    else (k, c) :: memPut a b r

/-- Keys rise strictly from above `lo`, and no listed byte is 0. -/
def memWfFrom (lo : Option Nat) : List Host.Cell → Bool
  | [] => true
  | (k, b) :: r => (match lo with | none => true | some l => l < k) && b != 0 && memWfFrom (some k) r

/-- The canonical form of memory. DESIGN CHOICE (log 6). -/
def Memory.wf (m : List Host.Cell) : Bool := memWfFrom none m

/-- The little-endian number in `n` bytes from `a` (R3). -/
def memRead (m : List Host.Cell) (a : Nat) : (n : Nat) → Nat
  | 0 => 0
  | n + 1 => memRead m a n + (memGet (a + n) m).toNat * 256 ^ n

/-- The `n` bytes from `a`. -/
def memBytes (m : List Host.Cell) (a n : Nat) : List Byte := (List.range n).map fun i => memGet (a + i) m

/-- Writes bytes in ascending order from `a`. -/
def memWrite (m : List Host.Cell) (a : Nat) : List Byte → List Host.Cell
  | [] => m
  | b :: bs => memWrite (memPut a b m) (a + 1) bs

/-- The `n` low bytes of a number, little-endian (R3). -/
def leBytes (x n : Nat) : List Byte := (List.range n).map fun i => BitVec.ofNat 8 (x / 256 ^ i)

/-- The number that little-endian bytes stand for. -/
def leNat : List Byte → Nat
  | [] => 0
  | b :: bs => b.toNat + 256 * leNat bs

/-- Byte `i` of a list; a byte beyond its end reads as 0. -/
def byteAt (bs : List Byte) (i : Nat) : Nat := (bs[i]?.getD 0).toNat

/-- The little-endian number in bytes `i` to `i + n - 1` of a list. -/
def field (bs : List Byte) (i n : Nat) : Nat := leNat ((bs.drop i).take n)

/-! Descriptors as system software hands them over. -/

/-- The class that two bits name; 3 is illegal and is refused beside this (R46, R228). -/
def classOfBits (n : Nat) : Class :=
  match n % 4 with
  | 0 => .held
  | 1 => .queued
  | _ => .spare

/-- The launch descriptor that 128 bytes hold (R46). -/
def LaunchDesc.ofBytes (bs : List Byte) : LaunchDesc where
  codeBase := BitVec.ofNat 64 (field bs 0 8)
  entry := BitVec.ofNat 32 (field bs 8 4)
  cls := classOfBits (field bs 12 1)
  noPromote := (field bs 12 1).testBit 2
  paired := (field bs 12 1).testBit 3
  debugFlag := (field bs 12 1).testBit 4
  urgent := (field bs 12 1).testBit 5
  reserve := field bs 14 2
  teams := field bs 16 4
  groups := field bs 20 1
  lanes := field bs 21 1
  shapes := field bs 22 1
  roles := (List.range (min 4 (field bs 13 1))).map fun i => (field bs (24 + 2 * i) 1, field bs (25 + 2 * i) 1)
  trapVec := BitVec.ofNat 64 (field bs 32 8)
  ttabBase := BitVec.ofNat 64 (field bs 40 8)
  rgnBase := BitVec.ofNat 64 (field bs 48 8)
  domain := BitVec.ofNat 10 (field bs 56 2)
  reach := BitVec.ofNat 4 (field bs 58 1)
  subreach := BitVec.ofNat 4 (field bs 59 1)
  queue := BitVec.ofNat 32 (field bs 60 4)
  acctRec := BitVec.ofNat 64 (field bs 64 8)
  slotTab := BitVec.ofNat 64 (field bs 72 8)
  waitSwap := field bs 80 4
  scratch := field bs 84 2
  stackArea := BitVec.ofNat 64 (field bs 88 8)

/-- What a launch descriptor's fields do not show, and R46 asks of its bytes: every zero bit and byte is zero, the class is not 3,
ROLES is at most 4, REACH and SUBREACH are at most 15, and the ROLETAB entries from ROLES upward are zero. -/
def launchZeros (bs : List Byte) : Bool :=
  field bs 12 1 < 64 && field bs 12 1 % 4 != 3 && field bs 13 1 ≤ 4 && field bs 23 1 == 0 && field bs 56 2 < 1024
    && field bs 58 1 < 16 && field bs 59 1 < 16 && field bs 86 2 == 0 && field bs 96 32 == 0
    && ((List.range 4).all fun i => i < field bs 13 1 || field bs (24 + 2 * i) 2 == 0)

/-- The queue descriptor that 32 bytes hold (R228). -/
def QueueDesc.ofBytes (bs : List Byte) : QueueDesc where
  qnum := BitVec.ofNat 32 (field bs 0 4)
  minClass := classOfBits (field bs 4 1)
  isDefault := (field bs 5 1).testBit 0
  wharf := (field bs 5 1).testBit 1
  reserve := field bs 6 2
  quota := field bs 8 4
  ovfCap := field bs 12 4
  ovfBase := BitVec.ofNat 64 (field bs 16 8)
  home := field bs 24 1 % 4

/-- Every zero bit and byte of a queue descriptor is zero, and its MINCLASS is not 3 (R228). -/
def queueZeros (bs : List Byte) : Bool := field bs 4 1 < 3 && field bs 5 1 < 4 && field bs 24 1 < 4 && field bs 25 7 == 0

end Sys2Proof.Machine

namespace Sys2Proof

/-- MAGIC of a stage header (R382). -/
def StageImage.magic (i : StageImage) : Nat := Machine.field i.header 0 4
/-- STAGE. -/
def StageImage.stage (i : StageImage) : Nat := Machine.byteAt i.header 4
/-- SVN. -/
def StageImage.svn (i : StageImage) : Nat := Machine.field i.header 6 2
/-- LEN. -/
def StageImage.len (i : StageImage) : Nat := Machine.field i.header 8 8
/-- LOAD. -/
def StageImage.load (i : StageImage) : Nat := Machine.field i.header 16 8
/-- SIGNER. -/
def StageImage.signer (i : StageImage) : BitVec 456 := BitVec.ofNat 456 (Machine.field i.header 24 57)
/-- SIG. -/
def StageImage.sig (i : StageImage) : BitVec 912 := BitVec.ofNat 912 (Machine.field i.header 128 114)
/-- The zero bytes of a stage header are zero. -/
def StageImage.zeros (i : StageImage) : Bool :=
  Machine.byteAt i.header 5 == 0 && Machine.field i.header 81 47 == 0 && Machine.field i.header 242 14 == 0

end Sys2Proof

namespace Sys2Proof.Machine

/-! Keys. Main memory: home device and physical address (R303). Scratchpads: unit, reach and byte of the reach's partition. -/

/-- A byte of main memory. DESIGN CHOICE (log 10). -/
def globalKey (home pa : Nat) : Nat := home * 2 ^ 52 + pa
/-- Every main-memory key lies below it. -/
def scratchTop : Nat := 2 ^ 60
/-- The number of a scratchpad: 4 dies, 20 clusters, 160 cores. -/
def unitNum : Unit3 → Nat
  | .die d => d
  | .cluster d c => 4 + 5 * d + c
  | .core id => 24 + 8 * (5 * id.die + id.cluster) + id.core
/-- Byte `off` of a reach's partition of a scratchpad. DESIGN CHOICE (log 10). -/
def scratchKey (u : Unit3) (reach : BitVec 4) (off : Nat) : Nat :=
  scratchTop + (unitNum u * 16 + reach.toNat) * 2 ^ 32 + off
/-- Byte `off` of an operand slot (R278). DESIGN CHOICE (log 10). -/
def slotKey (c : CoreId) (slot off : Nat) : Nat := 2 ^ 61 + (unitNum (.core c) * 64 + slot) * 32768 + off
/-- Byte `off` of an accumulator tile (R277). DESIGN CHOICE (log 10). -/
def tileKey (c : CoreId) (tile off : Nat) : Nat := 2 ^ 61 + 2 ^ 60 + (unitNum (.core c) * 64 + tile) * 65536 + off
/-- A key of a scratchpad byte. -/
def isScratch (key : Nat) : Bool := scratchTop ≤ key && key < 2 ^ 61
/-- The scratchpad word that holds a byte (R164). -/
def wordKey (key : Nat) : Nat := key / 8 * 8
/-- The granule that holds a byte (R165). -/
def granuleKey (key : Nat) : Nat := key / 256 * 256

end Sys2Proof.Machine
end

