-- ==== Sys2Proof/Machine/Ops.lean ====
section
/-! DEFINITION. The named operations of the state: groups, teams, launches, cores and reaches by name; retiring; taking a trap and
returning from it (R21, R116, R117); beginning and ending a wait; events, faults and replies. -/
namespace Sys2Proof.Machine

/-- What one step answers. -/
abbrev Out := Host.Outcome State Fault Refusal

/-- Applies `f` to the elements that `p` picks. -/
def updAll {α : Type} (p : α → Bool) (f : α → α) (l : List α) : List α := l.map fun x => if p x then f x else x

/-- The first `n` elements that `p` picks, in order, and the rest. -/
def takeBy {α : Type} (p : α → Bool) : Nat → List α → List α × List α
  | _, [] => ([], [])
  | n, x :: xs =>
    if n != 0 && p x then
      let r := takeBy p (n - 1) xs
      (x :: r.1, r.2)
    else
      let r := takeBy p n xs
      (r.1, x :: r.2)

/-- The element that comes first under `lt`; the earlier one where neither does. -/
def firstBy {α : Type} (lt : α → α → Bool) : List α → Option α
  | [] => none
  | x :: xs =>
    match firstBy lt xs with
    | none => some x
    | some y => if lt y x then some y else some x

/-- Insertion into a list that `lt` orders, behind equal elements. -/
def insertBy {α : Type} (lt : α → α → Bool) (x : α) : List α → List α
  | [] => [x]
  | y :: ys => if lt x y then x :: y :: ys else y :: insertBy lt x ys

/-- A list in the order of `lt`, equal elements in their old order. -/
def sortBy {α : Type} (lt : α → α → Bool) (l : List α) : List α := l.foldl (fun acc x => insertBy lt x acc) []

/-- A fresh number. DESIGN CHOICE (log 11). -/
def State.bump (s : State) : State := { s with fresh := s.fresh + 1 }

/-! Groups. -/

/-- All groups, the one in turn first. -/
def State.groups (s : State) : List Group := s.g :: s.others
/-- A group that has not ended, by its key. -/
def State.group? (s : State) (k : Nat) : Option Group := s.groups.find? fun g => g.key == k
/-- Changes every group. -/
def State.mapGroups (s : State) (f : Group → Group) : State := { s with g := f s.g, others := s.others.map f }
/-- Changes the group with a key. -/
def State.onGroup (s : State) (k : Nat) (f : Group → Group) : State := s.mapGroups fun g => if g.key = k then f g else g
/-- Changes the group in turn. -/
def State.onG (s : State) (f : Group → Group) : State := { s with g := f s.g }
/-- Makes a group the one in turn. -/
def State.turnTo (s : State) (k : Nat) : State :=
  if s.g.key = k then s
  else match s.others.find? fun g => g.key == k with
    | some g => { s with g := g, others := s.others.map fun x => if x.key == k then s.g else x }
    | none => s

/-- A group is the follower of a pair (R315). -/
def Group.follower (g : Group) : Bool := g.twin.isSome && !g.leader

/-- A group identifier (R346). -/
def gidOf (device : BitVec 8) (c : CoreId) (slot : Nat) (gen : BitVec 42) : Word :=
  device ++ BitVec.ofNat 2 c.die ++ BitVec.ofNat 3 c.cluster ++ BitVec.ofNat 3 c.core ++ BitVec.ofNat 6 slot ++ gen

/-! Launches, teams, cores, reaches. -/

/-- A launch by its identifier. -/
def State.launch? (s : State) (lid : BitVec 32) : Option Launch := s.launches.find? fun l => l.lid == lid
/-- A launch that has not ended. -/
def State.liveLaunch? (s : State) (lid : BitVec 32) : Option Launch :=
  s.launches.find? fun l => l.lid == lid && !l.ended
/-- Changes a launch. -/
def State.onLaunch (s : State) (lid : BitVec 32) (f : Launch → Launch) : State :=
  { s with launches := updAll (fun l => l.lid == lid) f s.launches }

/-- The code base as a PC counts from it: bits 1 and 0 of a PC are 0 (R7). DEDUCED (log 23). -/
def LaunchDesc.code (d : LaunchDesc) : Word := d.codeBase &&& ~~~3#64

/-- The descriptor that a group's launch was made from. -/
def LaunchDesc.none : LaunchDesc :=
  { codeBase := 0, entry := 0, cls := .queued, noPromote := false, paired := false, debugFlag := false, urgent := false
    reserve := 0, teams := 0, groups := 0, lanes := 0, shapes := 0, roles := [], trapVec := 0, ttabBase := 0, rgnBase := 0
    domain := 0, reach := 0, subreach := 0, queue := 0xFFFFFFFF, acctRec := 0, slotTab := 0, waitSwap := 0, scratch := 0
    stackArea := 0 }

/-- The launch descriptor of a launch. -/
def State.desc (s : State) (lid : BitVec 32) : LaunchDesc :=
  match s.launch? lid with
  | some l => l.desc
  | .none => LaunchDesc.none

/-- The descriptor of the launch of the group in turn. -/
def State.gdesc (s : State) : LaunchDesc := s.desc s.g.launch
/-- The reach of a launch: its tenant (R326). -/
def State.reachOf (s : State) (lid : BitVec 32) : BitVec 4 := (s.desc lid).reach
/-- The reach of the group in turn. -/
def State.greach (s : State) : BitVec 4 := s.gdesc.reach

/-- Whether a team is the one that a group belongs to. -/
def Team.holds (t : Team) (g : Group) : Bool := t.launch == g.launch && t.idx == g.team && t.follower == g.follower
/-- The team of a group. -/
def State.teamOf? (s : State) (g : Group) : Option Team := s.teams.find? fun t => t.holds g
/-- Changes the team of a group. -/
def State.onTeamOf (s : State) (g : Group) (f : Team → Team) : State := { s with teams := updAll (fun t => t.holds g) f s.teams }
/-- The team with an index (the leader's, in a pair). -/
def State.team? (s : State) (lid : BitVec 32) (idx : Nat) : Option Team :=
  s.teams.find? fun t => t.launch == lid && t.idx == idx && !t.follower
/-- Changes a team by its launch and index, the follower's too. -/
def State.onTeam (s : State) (lid : BitVec 32) (idx : Nat) (f : Team → Team) : State :=
  { s with teams := updAll (fun t => t.launch == lid && t.idx == idx) f s.teams }
/-- The groups of a team that have not ended. -/
def State.liveOf (s : State) (t : Team) : List Group := s.groups.filter fun g => t.holds g && !g.ended

/-- A core as reset leaves it. -/
def CoreSt.init (id : CoreId) : CoreSt :=
  { id := id, watch := [0, 0, 0, 0], watchctl := 0, owner := none, holder := none, queued := 0, claims := []
    allocator := false, slice := none, next := none }
/-- The state of a core. -/
def State.core (s : State) (id : CoreId) : CoreSt := (s.cores.find? fun c => c.id == id).getD (CoreSt.init id)
/-- Changes a core. -/
def State.onCore (s : State) (id : CoreId) (f : CoreSt → CoreSt) : State :=
  if s.cores.any fun c => c.id == id then { s with cores := updAll (fun c => c.id == id) f s.cores }
  else { s with cores := f (CoreSt.init id) :: s.cores }

/-- A reach by its number. -/
def State.reach? (s : State) (r : BitVec 4) : Option Reach := s.reaches.find? fun x => x.id == r
/-- Changes a reach. -/
def State.onReach (s : State) (r : BitVec 4) (f : Reach → Reach) : State :=
  { s with reaches := updAll (fun x => x.id == r) f s.reaches }

/-- The record whose partition of a unit stands (R333). -/
def Reach.cfgAt (x : Reach) (u : Unit3) : ReachRec := ((x.olds.find? fun y => y.1 == u).map Prod.snd).getD x.cfg

/-- The size of a scratchpad partition of a unit in KiB (R335). -/
def padKiB (u : Unit3) (r : ReachRec) : Nat :=
  match u with
  | .die _ => r.dscr
  | .cluster _ _ => r.kscr
  | .core _ => r.cscr

/-- The size of a reach's partition of a scratchpad in bytes (R161, R335). -/
def State.partition (s : State) (r : BitVec 4) (u : Unit3) : Nat :=
  match s.reach? r with
  | none => 0
  | some x => 1024 * padKiB u (x.cfgAt u)

/-- The sum of a field over the reaches below one (R277). -/
def State.below (s : State) (r : BitVec 4) (c : CoreId) (f : ReachRec → Nat) : Nat :=
  (s.reaches.filter fun x => x.id < r).foldl (fun n x => n + f (x.cfgAt (.core c))) 0

/-- The numbers of a reach's partition of a core (R277). -/
def State.partNums (s : State) (r : BitVec 4) (c : CoreId) (f : ReachRec → Nat) : List Nat :=
  let b := s.below r c f
  (List.range (((s.reach? r).map fun x => f (x.cfgAt (.core c))).getD 0)).map (b + ·)

/-- Free operand slots of a reach on a core, the lowest first. -/
def State.freeSlots (s : State) (r : BitVec 4) (c : CoreId) : List Nat :=
  let used := (s.teams.filter fun t => t.core == c).flatMap Team.slots
  (s.partNums r c ReachRec.oslot).filter fun n => !used.contains n
/-- Free accumulator tiles of a reach on a core, the lowest first. -/
def State.freeTiles (s : State) (r : BitVec 4) (c : CoreId) : List Nat :=
  let used := (s.teams.filter fun t => t.core == c).flatMap Team.tiles
  (s.partNums r c ReachRec.atile).filter fun n => !used.contains n

/-! Classes (R129, R135). -/

/-- Strength of a class: Held is strongest. -/
def strength : Class → Nat
  | .held => 2
  | .queued => 1
  | .spare => 0

/-- The stronger of two classes. -/
def stronger (a b : Class) : Class := if strength a < strength b then b else a

/-- The declared class of a launch, of this device or of another. -/
def State.declared (s : State) (lid : BitVec 32) : Class :=
  match s.launch? lid, s.away.find? fun a => a.lid == lid with
  | none, some a => a.cls
  | _, _ => (s.desc lid).cls

/-- The effective class of a launch: the strongest of its declared class and of its live promotion records (R129). -/
def State.effective (s : State) (lid : BitVec 32) : Class :=
  (s.proms.filter fun p => p.target == lid).foldl (fun c p => stronger c p.cls) (s.declared lid)

/-! Events and answers. -/

/-- An event at the wharf cores that names a group (R346). DESIGN CHOICE (log 11, 88). -/
def State.report (s : State) (k : WKind) (g : Group) (detail : List Nat) : State :=
  let pid := match s.launch? g.launch with | some l => l.pid | none => 0
  { s with events := s.events ++ [{ kind := k, pid := pid, tid := g.tid, gid := g.gid, detail := detail }] }

/-- An event that names no group. -/
def State.notice (s : State) (k : WKind) (detail : List Nat) : State :=
  { s with events := s.events ++ [{ kind := k, pid := 0, tid := 0, gid := 0, detail := detail }] }

/-- A record of the black box, which keeps the last 4,096 (R388). -/
def State.box (s : State) (type source : Nat) (detail : Word) : State :=
  { s with blackBox := ({ us := Config.wallNs s.tick / 1000, type := type, source := source, detail := detail } ::
      s.blackBox).take 4096 }

/-- The answer of a request. DESIGN CHOICE (log 11). -/
def State.reply (s : State) (code : Nat) (words : List Word := []) (bytes : List Byte := []) : State :=
  { s with replies := { code := code, words := words, bytes := bytes } :: s.replies }

/-! Retiring. -/

/-- The instruction retires and the next one is at `pc`: RETIRED counts it (R11), the watchdog starts again (R322). -/
def Group.retireTo (g : Group) (pc : Word) : Group :=
  { g with
    pc := pc
    retired := g.retired + 1
    sinceBar := g.sinceBar + 1
    watchdog := 0
    last := .retired }

/-- The group's run has ended and its port is free: it is the youngest group of its core (R143). A group without a port stands between
runs, or in a wait that has ended its run. -/
def Group.offPort (age : Nat) (g : Group) : Group :=
  { g with
    port := none
    age := match g.port with | some p => age + p.toNat | none => g.age }

/-- The instruction retires and the next word follows. -/
def Group.step4 (g : Group) : Group := g.retireTo (g.pc + 4)

/-- The group in turn becomes `g`, and its instruction retires. -/
def State.done (s : State) (g : Group) : Out := .next { s with g := g.step4 }

/-- The group in turn stands at its instruction: fault service, a stall, or a wait. -/
def State.stall (s : State) : Out := .next (s.onG fun g => { g with last := .stalled })

/-! Long-latency results. -/

/-- Free choices of one result: the lanes of `clash` that take the long-latency value (R17). -/
def clashLanes (tick idx : Nat) : Mask := bitsOfFn (fun l => Config.freeBit tick (64 * idx + l)) 32

/-- Writes one result to its register. A lane that an instruction inside the window wrote takes either value (R17).
DESIGN CHOICE (log 19). -/
def Group.settle (tick idx : Nat) (p : Pend) (g : Group) : Group :=
  if p.file == 2 then
    if p.lanes == 0 then g else if p.clash == 0 || Config.freeBit tick (64 * idx) then g.setS (BitVec.ofNat 6 p.reg) (p.vals.at 0) else g
  else g.writeL (p.lanes &&& (~~~p.clash ||| clashLanes tick idx)) (BitVec.ofNat 6 p.reg) fun l => p.vals.at l

/-- Writes every result in flight, the oldest first: of two results for one register the later one stands (R17).
DESIGN CHOICE (log 19). -/
def Group.settleAll (tick : Nat) (g : Group) : Group :=
  { (g.inflight.foldr (fun p (r : Group × Nat) => (r.1.settle tick r.2 p, r.2 + 1)) (g, 0)).1 with inflight := [] }

/-! Traps (R21, R115–R117). -/

/-- The mark of a poisoned register when the trap bank is exchanged. -/
def Mark.swapBank : Mark → Mark
  | .v n => if 48 ≤ n then .bankV (n - 48) else .v n
  | .bankV n => .v (48 + n)
  | .s n => if 56 ≤ n then .bankS (n - 56) else .s n
  | .bankS n => .s (56 + n)
  | m => m

/-- Exchanges v48–v55 and s56–s63 with the trap bank (R21). -/
def Group.swapBank (g : Group) : Group :=
  { g with
    poison := g.poison.map Mark.swapBank
    v := Vector.ofFn fun i : Fin 56 => if 48 ≤ i.val then (g.bankV[i.val - 48]?).getD (g.v[i]) else g.v[i]
    bankV := Vector.ofFn fun i : Fin 8 => (g.v[48 + i.val]?).getD (g.bankV[i])
    s := Vector.ofFn fun i : Fin 64 => if 56 ≤ i.val then (g.bankS[i.val - 56]?).getD (g.s[i]) else g.s[i]
    bankS := Vector.ofFn fun i : Fin 8 => (g.s[56 + i.val]?).getD (g.bankS[i]) }

/-- Whether the group must wait for engine results or held lanes before it can enter a handler (R21 step 1, R117). DEDUCED (log 27). -/
def Group.entryWaits (g : Group) : Bool := !g.pendS.isEmpty || !g.heldOps.isEmpty

/-- Steps 2 and 3 of trap entry (R21): the trap CSRs. -/
def Group.recordTrap (g : Group) (cause : Nat) (info : Word) (lanes : Mask) (pc : Word) : Group :=
  { g with
    trapPc := pc
    trapCause := BitVec.ofNat 8 cause
    trapLanes := lanes
    trapInfo := info
    trapEm := g.em
    last := .trapped }

/-- The mark of a drain that is held again. -/
def Mark.recall : Mark → Mark
  | .drain k => .word k
  | .drainElem a c => .elem a c
  | m => m

/-- What a boundary has not performed yet is held again: the boundary has been cut off (R170). DEDUCED (log 32, 47). -/
def Group.recall (g : Group) : Group :=
  { g with
    held := g.held ++ g.drains.filterMap Drain.held?
    heldT := g.heldT ++ g.drains.filterMap Drain.elem?
    poison := g.poison.map Mark.recall
    drains := []
    bound := none }

/-- A group that stands in no wait. -/
def Group.unwait (g : Group) : Group :=
  { g with wait := none, waitEnd := .pending, holds := [], served := 0 }

/-- A group whose trap is recorded: its boundary and its wait are cut off, its results are in, and the trap CSRs are written (R21). -/
def Group.trapped (g : Group) (tick cause : Nat) (info : Word) (lanes : Mask) (pc : Word) : Group :=
  ((if g.bound.isSome then g.recall else g).settleAll tick).unwait.recordTrap cause info lanes pc

/-- Trap entry of one group, and whether it halts (R21): a trap in a handler freezes the group; without a handler only the trap CSRs
are written and PC holds TRAPPC; otherwise the trap bank comes in, MODE.TRAP is set and PC receives TRAPVEC, with 0 in its low two bits
(R7). DEDUCED (log 23, 27). -/
def trapEntry (vec : Word) (tick : Nat) (g : Group) (cause : Nat) (info : Word) (lanes : Mask) (pc : Word) : Group × Bool :=
  if g.trapMode then ({ g.unwait with halted := some .frozen, haltTick := tick, last := .trapped }, true)
  else
    let g1 := g.trapped tick cause info lanes pc
    if vec = 0 then ({ g1 with pc := pc, halted := some .trap, haltTick := tick }, true)
    else ({ g1.swapBank with trapMode := true, pc := vec &&& ~~~3#64 }, false)

/-- A wait holds no longer: each record counts one less (R138). -/
def State.dropWaits (s : State) (ids : List Nat) : State :=
  { s with proms := s.proms.map fun p => { p with count := p.count - (ids.filter fun i => i == p.id).length } }

/-- The wait of a group is cut off: what it holds, and the claim that it waits for, are dropped (R138, R281). The arrival that a group has
recorded at a barrier stays (R158). DEDUCED (log 82). -/
def State.cutWait (s : State) (g : Group) : State :=
  (s.dropWaits g.holds).onCore g.core fun c => { c with claims := c.claims.filter fun x => x.2.1 != g.key }

/-- Takes a trap in a group, or makes it wait for its engine results first (R117). A wait that the group stands in is cut off.
DEDUCED (log 27). -/
def State.trapGroup (s : State) (g : Group) (cause : Nat) (info : Word) (lanes : Mask) (pc : Word) : State :=
  let s := if g.wait.isSome then s.cutWait g else s
  if !g.trapMode && g.entryWaits then
    s.onGroup g.key fun x => { x with wait := some (.entry cause info lanes pc), waitEnd := .pending, holds := [], last := .stalled }
  else
    let r := trapEntry (s.desc g.launch).trapVec s.tick g cause info lanes pc
    let s := s.onGroup g.key fun _ => r.1
    if r.2 then s.report .halted r.1 [cause, r.1.pc.toNat] else s

/-- The group in turn traps at its instruction. -/
def State.trapAt (s : State) (cause : Nat) (info : Word) (lanes : Mask) : Out :=
  .next (s.trapGroup s.g cause info lanes s.g.pc)

/-- A trap of a uniform instruction: TRAPLANES receives EM. -/
def State.trapU (s : State) (cause : Nat) (info : Word) : Out := s.trapAt cause info s.g.em

/-- Return from a handler (R21, R116). DEDUCED (log 28). -/
def Group.rft (g : Group) : Group :=
  { g.swapBank with
    trapMode := false
    em := g.trapEm &&& g.live }

/-! Waits. -/

/-- The group in turn begins a blocking wait; its run ends at the waiting instruction (R15, R142). -/
def State.beginWait (s : State) (w : Wait) (holds : List Nat := []) : Out :=
  .next { s with
    g := { s.g with wait := some w, waitEnd := .pending, holds := holds, since := s.fresh, last := .stalled }
    fresh := s.fresh + 1 }

/-! Engine results in s registers (R18, R201). -/

/-- A status word (R201): CODE 0 is no error. -/
def statusWord (code count : Nat) : Word :=
  BitVec.ofNat 64 (2 ^ 63 + (if code == 0 then 0 else 2 ^ 62) + code % 64 * 2 ^ 56 + count % 2 ^ 32)

/-- An s register becomes pending (R18). The status of an earlier command that is still due for it inside its promise is dropped: the later
command's stands (R17). DESIGN CHOICE (log 19). -/
def Group.pend (g : Group) (sd : SReg) (la : La) (op : Nat) : Group :=
  { g with pendS := { reg := sd, op := op, left := la.toNat, at_ := g.pc } :: g.pendS.filter fun p => p.reg != sd }

/-- An engine writes the s register of operation `op`; the first read of it joins the operation (R220). Inside the promise the value stays
in flight. -/
def Group.writeStatus (g : Group) (op : Nat) (x : Word) (j : Option Join) : Group :=
  match g.pendS.find? fun p => p.op == op with
  | none => g
  | some p =>
    let g := { g with
      pendS := g.pendS.filter fun q => q.op != op
      joins := (j.map fun j => (p.reg, j)).toList ++ g.joins.filter fun (x : SReg × Join) => x.1 != p.reg }
    if p.left == 0 then g.setS p.reg x
    else { g with inflight := { file := 2, reg := p.reg.toNat, lanes := 1, vals := Lanes.all x, left := p.left
                                at_ := p.at_, clash := 0 } :: g.inflight }

end Sys2Proof.Machine
end

