-- ==== Sys2Proof/Machine/Access.lean ====
section
/-! DEFINITION. Addresses and accesses: the windows (R160–R162), the page walk (R301–R305), reading and writing bytes at their homes
(R163, R311, R385), a group's own view of memory (R167, R168) and watchpoint hits (R351). -/
namespace Sys2Proof.Machine

/-! Windows. -/

/-- Where a generic address leads: a virtual address of main memory, or a byte of a scratchpad. -/
inductive Spot where
  | main (va : Nat)
  | pad (u : Unit3) (key : Nat)
  deriving DecidableEq, Repr

/-- The virtual address of a byte of main memory. -/
def Spot.va? : Spot → Option Nat
  | .main va => some va
  | .pad _ _ => none

/-- Who makes an access: its reach and core, the key and size of its team's core region, its stack, and whether it is an engine
(R160, R200). -/
structure View where
  reach : BitVec 4
  core : CoreId
  region : Nat
  size : Nat
  stack : Option Nat
  engine : Bool
  /-- Whose reads and writes they are (R183, R218); none: nobody's, ordered after everything. -/
  who : Option Agent
  /-- The engine, and the operation as its fault records tell it apart (R310). -/
  kind : Option (EngineKind × Agent)
  /-- The group that issued the operation, and the launch that owns it. -/
  grp : Option Nat
  owner : BitVec 32
  deriving DecidableEq, Repr

/-- STACKBASE (R46); 0 when the launch has no stack. -/
def stackBase (d : LaunchDesc) (team idx : Nat) : Word :=
  if d.stackArea = 0 then 0 else d.stackArea + BitVec.ofNat 64 (2 ^ 23 * (team * d.groups + idx))

/-- Where the context of a team keeps its core region (R330). DESIGN CHOICE (log 10). -/
def ctxKey (t : Team) : Nat := 2 ^ 62 + ((t.launch.toNat * 2 ^ 32 + t.idx) * 2 + if t.follower then 1 else 0) * 2 ^ 32

/-- The key of byte 0 of a team's core region: in the core scratchpad, or in the context of a team that is swapped out. -/
def State.regionKey (s : State) (t : Team) : Nat :=
  if t.at_ == .swapped then ctxKey t else scratchKey (.core t.core) (s.reachOf t.launch) t.scrBase

/-- The core region of a team, if there is one. -/
def State.regionOf (s : State) (t : Option Team) : Nat :=
  match t with
  | some t => s.regionKey t
  | none => 0

/-- The view of a group. -/
def State.viewOf (s : State) (g : Group) : View :=
  let d := s.desc g.launch
  let t := s.teamOf? g
  { reach := d.reach, core := g.core, region := s.regionOf t, size := 1024 * d.scratch
    stack := if d.stackArea = 0 then none else some (stackBase d g.team g.idx).toNat, engine := false
    who := some (.group g.key), kind := none, grp := none, owner := g.launch }

/-- The view of an engine that works for a team; `core` is the core that issued the command (R200). In a pair the leader issues. -/
def State.engineView (s : State) (lid : BitVec 32) (team : Nat) (core : CoreId) : View :=
  let d := s.desc lid
  let t := s.team? lid team
  { reach := d.reach, core := core, region := s.regionOf t, size := if t.isSome then 1024 * d.scratch else 0
    stack := none, engine := true, who := none, kind := none, grp := none, owner := lid }

/-- The view of an operation of an engine, which a group has issued. -/
def State.opView (s : State) (kind : EngineKind) (who : Agent) (grp : Nat) (lid : BitVec 32) (team : Nat) (core : CoreId) : View :=
  { s.engineView lid team core with who := some who, kind := some (kind, who), grp := some grp }

/-- Byte `off` of the tenant's partition of a scratchpad, if the partition has it (R161). -/
def State.pad? (s : State) (r : BitVec 4) (u : Unit3) (off : Nat) : Option Spot :=
  if off < s.partition r u then some (.pad u (scratchKey u r off)) else none

/-- The cluster that an offset of the cluster window selects, and the rest of the offset (R160, R200). -/
def View.cluster (v : View) (o : Nat) : Option (Unit3 × Nat) :=
  let sel := o / 2 ^ 32
  if sel == 0 then some (.cluster v.core.die v.core.cluster, o)
  else if v.engine && (sel - 1) / 8 < 4 && (sel - 1) % 8 < 5 then
    some (.cluster ((sel - 1) / 8) ((sel - 1) % 8), o % 2 ^ 32)
  else none

/-- Steering of a generic address by the windows (R160, R161, R162); none: no window has it. -/
def State.steer (s : State) (v : View) (lane : Option Nat) (a : Nat) : Option Spot :=
  let o := a % 2 ^ 56
  match a / 2 ^ 56 with
  | 0 => some (.main a)
  | 2 => if o < 2 ^ 34 then s.pad? v.reach (.die (o / 2 ^ 32)) (o % 2 ^ 32) else none
  | 3 =>
    match v.cluster o with
    | some (u, off) => s.pad? v.reach u off
    | none => none
  | 4 => if o < v.size then some (.pad (.core v.core) (v.region + o)) else none
  | 5 =>
    match v.stack, lane with
    | some b, some l =>
      let va := b + o / 8 * 256 + 8 * l + o % 8
      if o < 2 ^ 18 && va < 2 ^ 56 then some (.main va) else none
    | _, _ => none
  | _ => none

/-! The page walk. -/

/-- Kinds of access (R305, R310). -/
inductive Acc where
  | fetch | read | write | rmw | eread | ewrite
  deriving DecidableEq, Repr

/-- The code of the fault queue's ACCESS field (R310). -/
def Acc.code : Acc → Nat
  | .fetch => 0
  | .read => 1
  | .write => 2
  | .rmw => 3
  | .eread => 4
  | .ewrite => 5

/-- Writes, in the sense of R305. -/
def Acc.writes : Acc → Bool
  | .write => true
  | .rmw => true
  | .ewrite => true
  | _ => false

/-- A bit of a page-table entry. -/
def pteBit (e : Nat) (i : Nat) : Bool := e.testBit i
/-- SIZE of a page-table entry (R303). -/
def pteSize (e : Nat) : Nat := e / 16 % 4
/-- The physical address that a page-table entry names (R303). -/
def ptePa (e : Nat) : Nat := e / 2 ^ 18 % 2 ^ 34 * 2 ^ 18

/-- Malformed entries (R304): level 2, 1 or 0. -/
def pteBad (lvl e : Nat) : Bool :=
  let size := pteSize e
  e / 2 ^ 60 != 0
    || !(if lvl == 2 then size == 3 else if lvl == 1 then size == 3 || size == 2 else size < 2)
    || (if size == 3 then e / 2 ^ 52 % 256 != 0 || e / 64 % 2 ^ 12 != 0 else e / 2 ^ 16 % 4 ≥ 2)
    || (size == 1 && e / 2 ^ 18 % 64 != 0) || (size == 2 && e / 2 ^ 18 % 2 ^ 12 != 0)

/-- How far the offset of a page reaches (R301). -/
def pageBits (e : Nat) : Nat := if pteSize e == 0 then 18 else if pteSize e == 1 then 24 else 30

/-- The entry at a physical address of the device's own replica (R306, R373): an entry that has changed and has not been shot down
reads as the new one or any that it has been since the last shootdown, by a free choice (R307); a poisoned entry has no value (R312).
`idx` tells the choices of one step apart. DEDUCED (log 44). -/
def State.pteAt (s : State) (idx pa : Nat) : Option Nat :=
  let k := globalKey s.device.toNat pa
  if s.poison.contains k then none
  else
    let now := memRead s.mem k 8
    match (s.stalePte.filter fun p => p.1 == k).map fun p => p.2.toNat with
    | [] => some now
    | olds => some ((now :: olds).getD ((Config.freeWord s.tick (2 ^ 70 + 64 * k + idx)).toNat % (olds.length + 1)) now)

/-- The outcome of a walk (R304): the rights are the AND over the levels; `pte` is the address of the entry that maps the page. -/
inductive Walk where
  | absent (lvl : Nat)
  | malformed (lvl : Nat)
  | mapped (lvl pte entry : Nat) (r w x : Bool)
  deriving DecidableEq, Repr

/-- The address of the entry for a virtual address in a table of a level (R302). -/
def pteAddr (lvl table va : Nat) : Nat :=
  table + 8 * (if lvl == 2 then va / 2 ^ 42 % 2 ^ 14 else if lvl == 1 then va / 2 ^ 30 % 2 ^ 12 else va / 2 ^ 18 % 2 ^ 12)

/-- The walk from a table of a level on (R302, R304). The entries of a 16 MiB page may be used one for another. DEDUCED (log 43). -/
def State.walkFrom (s : State) (idx va : Nat) : (lvl table : Nat) → (r w x : Bool) → Walk
  | lvl, table, r, w, x =>
    let pa := pteAddr lvl table va
    match s.pteAt idx pa with
    | none => .malformed lvl
    | some e0 =>
      let pa :=
        if lvl == 0 && pteBit e0 0 && pteSize e0 == 1 then
          table + 8 * (va / 2 ^ 24 % 64 * 64 + (Config.freeWord s.tick (2 ^ 71 + 64 * (va / 2 ^ 24) + idx)).toNat % 64)
        else pa
      match s.pteAt idx pa with
      | none => .malformed lvl
      | some e =>
        if !pteBit e 0 then .absent lvl
        else if pteBad lvl e then .malformed lvl
        else
          let r := r && pteBit e 1
          let w := w && pteBit e 2
          let x := x && pteBit e 3
          if pteSize e == 3 then
            match lvl with
            | 0 => .malformed 0
            | n + 1 => s.walkFrom idx va n (ptePa e) r w x
          else .mapped lvl pa e r w x

/-- What a translation answers (R304, R309): a byte at its home, the entry that maps it and its cipher key; fault service with the
REASON and LEVEL of R310; or a forbidden access. -/
inductive Look where
  | at_ (key cipher pte : Nat)
  | absent (reason lvl : Nat)
  | denied
  deriving DecidableEq, Repr

/-- The capacity of a module of a device (R368). DESIGN CHOICE (log 12). -/
def State.moduleOf (s : State) (home : Nat) : Nat := if home == s.device.toNat then s.module else Config.moduleOf home

/-- Translation of a virtual address for an access of a reach. `idx` tells the free choices of one step apart. -/
def State.look (s : State) (r : BitVec 4) (idx : Nat) (acc : Acc) (va : Nat) : Look :=
  match s.reach? r with
  | none => .absent 0 2
  | some x =>
    match s.walkFrom idx va 2 x.root true true true with
    | .absent lvl => .absent 0 lvl
    | .malformed lvl => .absent 2 lvl
    | .mapped lvl pte e rd w x =>
      let ok := match acc with
        | .fetch => x
        | .read => rd
        | .eread => rd
        | .write => w
        | .ewrite => w
        | .rmw => rd && w && e / 2 ^ 16 % 4 == 0
      if 64 * s.moduleOf (e / 2 ^ 52 % 256) ≤ ptePa e then .absent 2 lvl
      else if !ok then .denied
      else if acc.writes && pteBit e 8 then .absent 1 lvl
      else
        let n := 2 ^ pageBits e
        .at_ (globalKey (e / 2 ^ 52 % 256) (ptePa e / n * n + va % n)) (e / 2 ^ 9 % 128) pte

/-- ACC, and DIRTY for a write, are set in the entry that maps the page, in the device's replica (R305). DEDUCED (log 42). -/
def State.install (s : State) (w : Bool) (pte : Nat) : State :=
  let k := globalKey s.device.toNat pte
  { s with mem := memPut k (memGet k s.mem ||| (if w then 0xC0 else 0x40)) s.mem }

/-! Bytes at their homes. -/

/-- A key that another reach owns (R385). DEDUCED (log 45). -/
def State.foreignKey (s : State) (r : BitVec 4) (cipher : Nat) : Bool :=
  s.reaches.any fun x => x.id != r && x.keys.contains (BitVec.ofNat 7 cipher) && cipher != 0

/-- The tag of what is stored under a key ID now: the ID, with the generation of its key. DESIGN CHOICE (log 11); DEDUCED (log 45). -/
def State.keyTag (s : State) (id : Nat) : Nat := id + 256 * ((s.keyGens.find? fun x => x.1 == id).map Prod.snd).getD 0

/-- The stored ciphertext of a byte (R385), of the aligned 16 bytes that are encrypted together. DEDUCED (log 45). -/
def State.ciphertext (s : State) (tag k : Nat) : Byte :=
  Config.cipherByte tag k ((List.range 16).map fun i => memGet (k / 16 * 16 + i) s.mem)

/-- A byte of storage as an access with a cipher key reads it (R385): through a foreign key the stored byte, and a byte stored under
another key is a free value. DEDUCED (log 45). -/
def State.homeByte (s : State) (l : Loc) (i : Nat) : Byte :=
  let k := l.key + i
  match l.cipher with
  | none => memGet k s.mem
  | some c =>
    match (s.keyTags.find? fun p => p.1 == k).map Prod.snd with
    | none => if l.foreign then s.ciphertext 0 k else memGet k s.mem
    | some t =>
      if l.foreign then (if t == 128 then memGet k s.mem else s.ciphertext t k)
      else if t == s.keyTag c then memGet k s.mem
      else (Config.freeWord s.tick k).setWidth 8

/-- The number that `n` bytes at a home stand for. DESIGN CHOICE (log 2). -/
def State.homeRead (s : State) (l : Loc) (n : Nat) : Nat := leNat ((List.range n).map (s.homeByte l))

/-- A write makes a poisoned word sound again when it covers all of it (R311). DEDUCED (log 33). -/
def healed (poison : List Nat) (key n : Nat) : List Nat := poison.filter fun w => !(key ≤ w && w + 8 ≤ key + n)

/-- The keys under which bytes are stored after `n` bytes were written at a home. DEDUCED (log 45). -/
def State.retag (s : State) (l : Loc) (n : Nat) : List (Nat × Nat) :=
  match l.cipher with
  | none => s.keyTags
  | some c =>
    (List.range n).map (fun i => (l.key + i, if l.foreign then 128 else s.keyTag c))
      ++ s.keyTags.filter fun p => !(l.key ≤ p.1 && p.1 < l.key + n)

/-- The old words of code that a write of bytes at a home replaces: caches may still hold them (R119). DESIGN CHOICE (log 24). -/
def State.staled (s : State) (l : Loc) (bs : List Byte) : List ICached :=
  if l.cipher.isNone || !s.code.contains (l.key / 2 ^ 18) then []
  else
    let m := memWrite s.mem l.key bs
    let first := l.key / 4
    ((List.range ((l.key + bs.length + 3) / 4 - first)).map fun i => 4 * (first + i)).filterMap fun k =>
      if memRead s.mem k 4 == memRead m k 4 then none
      else some { key := k, word := BitVec.ofNat 32 (memRead s.mem k 4), gone := [], groups := [] }

/-- Bytes are performed at a home, for everyone at once. DESIGN CHOICE (log 2, 12). -/
def State.homeWrite (s : State) (l : Loc) (bs : List Byte) : State :=
  { s with
    icache := s.staled l bs ++ s.icache
    mem := memWrite s.mem l.key bs
    olds := s.olds.filter fun o => !(l.key ≤ o.key && o.key < l.key + bs.length)
    keyTags := s.retag l bs.length
    poison := healed s.poison l.key bs.length }

/-- The device that keeps a byte of main memory. -/
def homeOf (key : Nat) : Nat := key / 2 ^ 52

/-- The tenant that an agent works for (R358). DESIGN CHOICE (log 16). -/
def State.agentReach (s : State) : Agent → Option (BitVec 4)
  | .group k => (s.group? k).map fun g => s.reachOf g.launch
  | .op n =>
    ((s.oneShots.find? fun o => o.id == n).map fun o => s.reachOf o.launch).or
      (((s.colls.find? fun c => c.op == n).map fun c => s.reachOf c.launch).or
        ((s.convs.find? fun c => c.id == n).map fun c => s.reachOf c.launch))
  | .record h _ _ => (s.channels.find? fun c => c.handle == h).map fun c => s.reachOf c.launch
  | .cmd lid _ _ _ _ => some (s.reachOf lid)
  | _ => none

/-- Bytes that an agent reads or writes at a home, as the metering counters see them (R358). What an engine sends over the fabric is
counted with its flits. DESIGN CHOICE (log 11, 16). -/
def State.carried (s : State) (a : Agent) (l : Loc) (rd wr : Nat) : List Traffic :=
  match if l.cipher.isSome then s.agentReach a else none, a with
  | some r, .group _ => [{ reach := r, rd := rd, wr := wr, sent := if homeOf l.key == s.device.toNat then 0 else 1 }]
  | some r, _ => [{ reach := r, rd := rd, wr := wr, sent := 0 }]
  | none, _ => []

/-! Races (R185–R197, R218–R221). A read that a write does not happen-before may return what the byte held before it. -/

/-- The set of agents of a scope holds a core's (R184), as seen from another core. -/
def inScope (scope : Nat) (a b : CoreId) : Bool :=
  match scope with
  | 0 => false
  | 1 => a == b
  | 2 => a.die == b.die && a.cluster == b.cluster
  | 3 => a.die == b.die
  | _ => true

/-- Who reads: an agent, the core that it works for, and the narrowest scope whose instances hold agents of its kind (R184); for a load
that reads later than it issues, the tick of its issue and its place in program order; for a single-copy atomic read, the moment whose
bytes it takes (R194). -/
structure Reader where
  agent : Agent
  core : CoreId
  level : Nat
  back : Option (Nat × Nat)
  moment : Option Nat
  deriving DecidableEq, Repr

/-- A group as a reader. -/
def Group.reader (g : Group) : Reader := { agent := .group g.key, core := g.core, level := 0, back := none, moment := none }

/-- A group as the reader that a held instruction of it is. -/
def HeldOp.reader (h : HeldOp) (g : Group) : Reader := { g.reader with back := some (h.issued, h.po) }

/-- The read issued before a tick (R193). -/
def Reader.before (r : Reader) (t : Nat) : Bool := match r.back with | some (t0, _) => t0 < t | none => false
/-- A store of the reader's own group comes before the read in program order. -/
def Reader.follows (r : Reader) (po : Nat) : Bool := match r.back with | some (_, p) => po < p | none => true

/-- A reader may no longer return what the byte held before the write: the write is its own, or ordered before it (R191, R195), or its
PHASE completed, before the read issued, at a scope that covers the reader (R193). DESIGN CHOICE (log 2). -/
def Old.settled (r : Reader) (o : Old) : Bool :=
  o.writer == r.agent || o.known.contains r.agent
    || o.done.any fun x => r.level ≤ x.1 && inScope x.1 o.core r.core && !r.before x.2

/-- An agent comes after a write, or has seen it. -/
def Old.learn (a : Agent) (o : Old) : Old := if o.known.contains a then o else { o with known := a :: o.known }

/-- The earlier values of a byte that a reader may still return, the latest first (R197). DESIGN CHOICE (log 2). -/
def State.openOlds (s : State) (r : Reader) (l : Loc) (i : Nat) : List Old :=
  (s.olds.filter fun o => o.key == l.key + i).takeWhile fun o => !o.settled r && o.cipher == l.cipher && !l.foreign

/-- How many writes of a byte have been performed at a tick or later. -/
def State.since (s : State) (l : Loc) (i t : Nat) : Nat := ((s.olds.filter fun o => o.key == l.key + i).takeWhile fun o => t ≤ o.tick).length

/-- Which value a reader takes of a byte in a lane: 0 the home's, n the one before the latest n writes, by a free choice; the one of its
moment for a single-copy atomic read. DESIGN CHOICE (log 2). -/
def State.raceChoice (s : State) (r : Reader) (lane : Nat) (l : Loc) (i : Nat) : Nat :=
  match r.moment, (s.openOlds r l i).length with
  | some t, _ => s.since l i t
  | none, 0 => 0
  | none, n + 1 => (Config.freeWord s.tick (2 ^ 80 + 32 * (l.key + i) + lane)).toNat % (n + 2)

/-- A reader of `n` bytes that takes all of them as they were at one moment (R194, R264): now, or before a write that it need not see yet, by a
free choice. DESIGN CHOICE (log 2). -/
def State.atOnce (s : State) (r : Reader) (l : Loc) (n : Nat) : Reader :=
  let ts := ((s.olds.filter fun o => l.key ≤ o.key && o.key < l.key + n).map Old.tick).filter fun t =>
    (List.range n).all fun i => s.since l i t ≤ (s.openOlds r l i).length
  { r with moment := some (((s.tick + 1) :: ts).getD ((Config.freeWord s.tick (2 ^ 78 + l.key)).toNat % (ts.length + 1)) (s.tick + 1)) }

/-- A byte as a reader gets it (R197): each byte of an access by itself (R194). DESIGN CHOICE (log 2). -/
def State.raceByte (s : State) (r : Reader) (lane : Nat) (l : Loc) (i : Nat) : Byte :=
  (s.homeByte l i :: (s.openOlds r l i).map Old.val).getD (s.raceChoice r lane l i) (s.homeByte l i)

/-- What a reader has seen of a byte stays seen: of the writes to it, all but the latest `n` are ordered before the reader. -/
def learnFrom (a : Agent) (key : Nat) : (n : Nat) → List Old → List Old
  | _, [] => []
  | n, o :: os =>
    if o.key != key then o :: learnFrom a key n os
    else if n = 0 then o.learn a :: learnFrom a key 0 os
    else o :: learnFrom a key (n - 1) os

/-- A reader has read `n` bytes at a home (Coherence, R192). DESIGN CHOICE (log 2). -/
def State.seen (s : State) (r : Reader) (lane : Nat) (l : Loc) (n : Nat) : State :=
  { s with
    traffic := s.carried r.agent l n 0 ++ s.traffic
    olds := (List.range n).foldl (fun os i => learnFrom r.agent (l.key + i) (s.raceChoice r lane l i) os) s.olds }

/-- The writes that `p` picks are ordered before an agent. DESIGN CHOICE (log 2). -/
def State.order (s : State) (a : Agent) (p : Old → Bool) : State :=
  { s with olds := s.olds.map fun o => if p o then o.learn a else o }

/-- An agent that `p` picks made a write, or comes after it. -/
def Old.after (p : Agent → Bool) (o : Old) : Bool := p o.writer || o.known.any p

/-- Everything that is ordered before one agent, its own writes too, is ordered before another (R191). DESIGN CHOICE (log 2). -/
def State.orderAfter (s : State) (earlier later : Agent) : State :=
  s.order later fun o => o.writer == earlier || o.known.contains earlier

/-- A release of a group at a scope (R188): what it has seen, and its own writes that a PHASE of at least the scope drains.
DESIGN CHOICE (log 2). -/
def State.releaseTo (s : State) (g : Group) (scope : Nat) (tok : Agent) : State :=
  s.order tok fun o => o.known.contains (.group g.key)
    || (o.writer == .group g.key && (match o.scope with | some sc => scope ≤ sc | none => false))

/-- Nobody acquires any longer through the agents that `p` picks. DESIGN CHOICE (log 2). -/
def State.unlearn (s : State) (p : Agent → Bool) : State :=
  { s with olds := s.olds.map fun o => { o with known := o.known.filter fun a => !p a } }

/-- What nobody is ordered after any longer. -/
def State.unorder (s : State) (tok : Agent) : State := s.unlearn (· == tok)

/-- The key of a held byte whose page has gone: it has no home, and no access reaches it there (R308). DEDUCED (log 40). -/
def absentKey (va : Nat) : Nat := 2 ^ 128 + va

/-- A held byte after a shootdown or a change of its page: it has the home that its virtual address has now, or none (R308).
DEDUCED (log 40). -/
def State.rehome (s : State) (r : BitVec 4) (h : Held) : Held :=
  match h.again, h.va with
  | true, some va =>
    match s.look r 0 .read va, s.look r 0 .write va with
    | .at_ key c pte, _ => { h with loc := { key := key, cipher := some c, foreign := s.foreignKey r c, pte := some pte, va := some va } }
    | _, .at_ key c pte => { h with loc := { key := key, cipher := some c, foreign := s.foreignKey r c, pte := some pte, va := some va } }
    | _, _ => { h with loc := { h.loc with key := absentKey va } }
  | _, _ => h

/-- A write of an agent is performed at a home: who is not ordered after it may still return the bytes that it replaces.
DESIGN CHOICE (log 2). -/
def State.homeWriteBy (s : State) (w : Agent) (scope : Option Nat) (atomic : Bool) (core : CoreId) (l : Loc) (bs : List Byte) : State :=
  let was := if l.foreign then [] else (List.range bs.length).map fun i =>
    { key := l.key + i, val := s.homeByte l i, cipher := l.cipher, writer := w, scope := scope, done := [], atomic := atomic, tick := s.tick
      core := core, known := [] : Old }
  { s.homeWrite l bs with
    traffic := s.carried w l 0 bs.length ++ s.traffic
    olds := was ++ if l.foreign then (s.homeWrite l bs).olds else s.olds }

/-- How many of the latest writes of a byte an ordinary write may come before in coherence order: writes that are not single-copy atomic
(R194) and that nothing orders before it (R186, R192). DESIGN CHOICE (log 2). -/
def State.coRoom (s : State) (w : Agent) (l : Loc) : Nat :=
  if l.foreign then 0
  else ((s.olds.filter fun o => o.key == l.key).takeWhile fun o =>
    !o.atomic && o.writer != w && !o.known.contains w && o.cipher == l.cipher).length

/-- A byte is put before the latest `n` writes of its place: what the last of these replaced is now this byte. -/
def slipUnder (o : Old) : (n : Nat) → List Old → List Old
  | _, [] => []
  | n, x :: xs =>
    if x.key != o.key then x :: slipUnder o n xs
    else if n = 1 then { x with val := o.val } :: { o with val := x.val, tick := x.tick } :: xs
    else x :: slipUnder o (n - 1) xs

/-- The orders of read-modify-writes that a write of `n` bytes at a key breaks off (R189). DESIGN CHOICE (log 2). -/
def Agent.broken (key n : Nat) : Agent → Bool
  | .spot k m _ _ => key < k + m && k < key + n
  | _ => false

/-- An ordinary byte is performed at a home: as the latest write of its place, or, by a free choice, before later ones that nothing orders
before it (R186). It ends what read-modify-writes of its place have released (R189). DESIGN CHOICE (log 2). -/
def State.drainTo (s : State) (w : Agent) (scope : Option Nat) (core : CoreId) (l : Loc) (b : Byte) : State :=
  let s := s.unlearn (Agent.broken l.key 1)
  match s.coRoom w l with
  | 0 => s.homeWriteBy w scope false core l [b]
  | n + 1 =>
    match (Config.freeWord s.tick (2 ^ 79 + l.key)).toNat % (n + 2) with
    | 0 => s.homeWriteBy w scope false core l [b]
    | k + 1 =>
      { s with
        traffic := s.carried w l 0 1 ++ s.traffic
        olds := slipUnder { key := l.key, val := b, cipher := l.cipher, writer := w, scope := scope, done := [], atomic := false, tick := s.tick,
                            core := core, known := [] } (k + 1) s.olds }

/-- Ordinary bytes are performed at a home, each by itself (R194). DESIGN CHOICE (log 2). -/
def State.drainAll (s : State) (w : Agent) (scope : Option Nat) (core : CoreId) (l : Loc) (bs : List Byte) : State :=
  (List.range bs.length).foldl (fun s i => s.drainTo w scope core { l with key := l.key + i } (bs.getD i 0)) s

/-- The scopes at which a write is complete after a PHASE of scope `sc` of its writer: what it drained, at that scope (R193), an earlier
atomic too (R171); only one of pod scope completes a write whose home is on another device (R371). DESIGN CHOICE (log 2). -/
def State.completion (s : State) (sc : Nat) (o : Old) : List (Nat × Nat) :=
  match o.scope with
  | none => o.done
  | some w =>
    let c := min sc w
    if (c < 5 && o.cipher.isSome && homeOf o.key != s.device.toNat) || o.done.any (fun x => c ≤ x.1) then o.done else (c, s.tick) :: o.done

/-- PHASEs of scope `sc` of some groups have completed (R193). DESIGN CHOICE (log 2). -/
def State.visible (s : State) (sc : Nat) (ks : List Nat) : State :=
  { s with olds := s.olds.map fun o =>
      if ks.any (fun k => o.writer == .group k) then { o with done := s.completion sc o } else o }

/-- A poisoned word lies under `n` bytes from a key (R311). DEDUCED (log 33). -/
def State.poisoned (s : State) (key n : Nat) : Bool := s.poison.any fun w => w < key + n && key < w + 8

/-! Accesses of a group. -/

/-- What the checks of an access answer (R175): a trap's cause, fault service (with REASON and LEVEL where it is a new fault), a home
on a device under fabric recovery or, with `gone`, on a lost one (R323), or the place that the access reaches. -/
inductive Hit where
  | cause (c : Nat)
  | lost (dev : Nat) (gone : Bool)
  | held (why : Option (Nat × Nat)) (va : Nat)
  | ok (p : Spot) (l : Loc)
  deriving DecidableEq, Repr

/-- The group has a side-log entry for the page of a virtual address (R169). -/
def Group.sideLogged (g : Group) (va : Nat) : Bool := g.side.any fun e => e.va / 2 ^ 18 == va / 2 ^ 18

/-- A scratchpad byte as a place. -/
def padLoc (key : Nat) : Loc := { key := key, cipher := none, foreign := false, pte := none, va := none }

/-- Whether a home is under fabric recovery or, with `true`, lost (R323). -/
def State.lostHome (s : State) (home : Nat) : Option Bool :=
  if s.lost.contains (BitVec.ofNat 8 home) || s.unheard.contains (BitVec.ofNat 8 home, s.tick) then some true
  else if s.recovering.contains (BitVec.ofNat 8 home) then some false
  else none

/-- The same of a place; a scratchpad byte is always here. -/
def State.lostLoc (s : State) (l : Loc) : Option Bool := if l.cipher.isSome then s.lostHome (homeOf l.key) else none

/-- The place of a virtual address, or why there is none. A store is held, so that its issue does not reach the home (R167). -/
def State.lookHit (s : State) (r : BitVec 4) (idx : Nat) (acc : Acc) (va : Nat) : Hit :=
  match s.look r idx acc va with
  | .denied => .cause 6
  | .absent reason lvl => .held (some (reason, lvl)) va
  | .at_ key c pte =>
    match if acc == .write then none else s.lostHome (homeOf key) with
    | some gone => .lost (homeOf key) gone
    | none => .ok (.main va) { key := key, cipher := some c, foreign := s.foreignKey r c, pte := some pte, va := some va }

/-- The checks of one access of `n` bytes (R175): MISALIGN, APERTURE, PROTECTION. A full/empty access names a scratchpad. The lanes of
one store or atomic use an entry that has changed alike, so that they keep their order (R185, R307). DEDUCED (log 44). -/
def State.probe (s : State) (g : Group) (lane : Option Nat) (acc : Acc) (fe : Bool) (n : Nat) (a : Word) : Hit :=
  if a.toNat % n != 0 then .cause 4
  else
    match s.steer (s.viewOf g) lane a.toNat with
    | none => .cause 5
    | some (.pad u k) => .ok (.pad u k) (padLoc k)
    | some (.main va) =>
      if fe then .cause 5
      else
        match s.lookHit (s.viewOf g).reach (if acc == .read then lane.getD 0 else 0) acc va with
        | .ok p l => if g.sideLogged va then .held none va else .ok p l
        | h => h

/-- One lane's access. -/
structure Probe where
  lane : Nat
  addr : Word
  hit : Hit
  deriving DecidableEq, Repr

/-- The checks of every lane of a mask, in ascending order. -/
def State.probes (s : State) (g : Group) (acc : Acc) (fe : Bool) (n : Nat) (m : Mask) (addr : Nat → Word) : List Probe :=
  m.lanes.map fun l => { lane := l, addr := addr l, hit := s.probe g (some l) acc fe n (addr l) }

/-- The lanes of probes that `f` picks. -/
def lanesWhere (ps : List Probe) (f : Probe → Bool) : Mask :=
  Mask.ofFn fun l => ps.any fun p => p.lane == l && f p

/-- A probe that ends in a trap of cause `c`. -/
def Probe.traps (p : Probe) (c : Nat) : Bool := p.hit == .cause c

/-- The trap that the checks call for (R175): the first of MISALIGN, APERTURE and PROTECTION that any lane holds, the address of
the lowest such lane, and the lanes. -/
def trapOf (ps : List Probe) : Option (Nat × Word × Mask) :=
  match [4, 5, 6].find? fun c => ps.any fun p => p.traps c with
  | none => none
  | some c => some (c, ((ps.find? fun p => p.traps c).map Probe.addr).getD 0, lanesWhere ps fun p => p.traps c)

/-- The home under recovery, or lost, that the lowest lane reaches, and the lanes that reach a home of that kind. DEDUCED (log 50). -/
def lostOf (ps : List Probe) : Option (Nat × Bool × Mask) :=
  let at_ := fun (p : Probe) (gone : Bool) => match p.hit with
    | .lost _ g => g == gone
    | _ => false
  [true, false].findSome? fun gone =>
    match ps.find? fun p => at_ p gone with
    | some p => match p.hit with
      | .lost d _ => some (d, gone, lanesWhere ps fun p => at_ p gone)
      | _ => none
    | none => none

/-- TRAPINFO of REMOTE_LOST (R324). -/
def lostInfo (dev kind : Nat) : Word := BitVec.ofNat 64 (dev * 256 + kind * 16)

/-- The group in turn is suspended at its instruction for a device's recovery window (R323). DEDUCED (log 50). -/
def State.suspend (s : State) (dev : Nat) : Out :=
  .next (s.onG fun g => { g with suspended := some (BitVec.ofNat 8 dev), last := .stalled })

/-- The checks of an access have been made: the trap that they call for (R175), the recovery window that the group waits for, or
REMOTE_LOST with a KIND (R323, R324), or `go`. DEDUCED (log 50). -/
def State.checked (s : State) (ps : List Probe) (kind : Nat) (go : Out) : Out :=
  match trapOf ps with
  | some (c, info, lanes) => s.trapAt c info lanes
  | none =>
    match lostOf ps with
    | some (dev, true, lanes) => s.trapAt 0x19 (lostInfo dev kind) lanes
    | some (dev, false, _) => s.suspend dev
    | none => go

/-- The place of a probe that passed. -/
def Probe.place (p : Probe) : Option (Spot × Loc) :=
  match p.hit with
  | .ok q l => some (q, l)
  | _ => none

/-- A lane that fault service holds. -/
def Probe.faults (p : Probe) : Bool :=
  match p.hit with
  | .held _ _ => true
  | _ => false

/-- The place of an access that passed. -/
def Hit.loc? : Hit → Option Loc
  | .ok _ l => some l
  | _ => none

/-- A record of the fault queue for an access of a group (R310, R346). -/
def State.faultOf (s : State) (g : Group) (va : Nat) (acc : Acc) (reason lvl : Nat) : FaultRec :=
  { pid := ((s.launch? g.launch).map Launch.pid).getD 0, tid := g.tid, gid := g.gid, engine := none, va := va, access := acc.code
    reason := reason, level := lvl }

/-- The fault-queue record of one probe (R310). -/
def State.recordFault (s : State) (acc : Acc) (p : Probe) : State :=
  match p.hit with
  | .held (some (reason, lvl)) va =>
    { s with faultQueue := s.faultQueue ++ [s.faultOf s.g va acc reason lvl] }
  | _ => s

/-- The records and installations of an access's lanes. DEDUCED (log 42). -/
def State.installAll (s : State) (acc : Acc) (ps : List Probe) : State :=
  ps.foldl (fun s p =>
    match p.place with
    | some (_, l) => match l.pte with | some e => s.install acc.writes e | none => s
    | none => s.recordFault acc p) s

/-! A group's own view. -/

/-- The bytes that a group has stored and that have not reached their homes: held, and those that a boundary is draining; the latest
first. -/
def Group.ownBytes (g : Group) : List Held := g.held ++ g.drains.filterMap Drain.held?

/-- The latest byte that a group has stored at a home and not drained (R168, R195). DEDUCED (log 40). -/
def Group.heldByte (g : Group) (k : Nat) : Option Byte := (g.ownBytes.find? fun h => h.key == k).map Held.val

/-- A held byte is byte `i` of a place: by its home, or by the virtual address that both were reached through. DEDUCED (log 40). -/
def Held.covers (l : Loc) (i : Nat) (h : Held) : Bool := h.key == l.key + i || (h.va.isSome && h.va == l.va.map (· + i))

/-- The latest byte that a group has stored at a place, not drained, and stored before the read (R168, R195). DEDUCED (log 40). -/
def Group.ownByte (g : Group) (r : Reader) (l : Loc) (i : Nat) : Option Held :=
  g.ownBytes.find? fun h => h.covers l i && r.follows h.po

/-- A byte as the group reads it in a lane (R168): its own latest held byte, else what the home gives it. -/
def State.viewByte (s : State) (g : Group) (r : Reader) (lane : Nat) (l : Loc) (i : Nat) : Byte :=
  match g.ownByte r l i with
  | some h => h.val
  | none => s.raceByte r lane l i

/-- The number that `n` bytes stand for in the group's view. -/
def State.viewRead (s : State) (g : Group) (r : Reader) (lane : Nat) (l : Loc) (n : Nat) : Nat :=
  leNat ((List.range n).map (s.viewByte g r lane l))

/-- The held and draining bytes of a group whose pages a shootdown has touched. Held tensor elements and side-log entries are
translated at their drain and their replay in any case (R308). -/
def Group.touch (f : Held → Held) (g : Group) : Group :=
  { g with
    held := g.held.map f
    drains := g.drains.map fun d => match d with
      | .byte h b sc => .byte (f h) b sc
      | d => d }

/-- Held bytes that have been touched have the homes that their pages give them now (R308). DEDUCED (log 44). -/
def State.rehomeAll (s : State) : State :=
  s.mapGroups fun g => if g.ownBytes.any Held.again then g.touch (s.rehome (s.reachOf g.launch)) else g

/-- The mark of a poisoned held word. DEDUCED (log 33). -/
def heldMark (k : Nat) : Mark := .word (wordKey k)

/-- A byte that a group holds or drains is poisoned. -/
def Group.badByte (g : Group) (h : Held) : Bool :=
  g.poison.contains (if g.held.contains h then heldMark h.key else .drain (wordKey h.key))

/-- Whether a load of `n` bytes consumes an uncorrectable error (R311), from a held entry or from the home. -/
def State.viewPoisoned (s : State) (g : Group) (r : Reader) (l : Loc) (n : Nat) : Bool :=
  (List.range n).any fun i =>
    match g.ownByte r l i with
    | some h => g.badByte h
    | none => s.poisoned (l.key + i) 1

/-- The byte of an access `i` bytes on. -/
def Loc.plus (i : Nat) (l : Loc) : Loc := { l with key := l.key + i, va := l.va.map (· + i) }

/-- A store replaces a held byte (R167): one of the same epoch at its home, or under its virtual address where that had no home. -/
def Held.replacedBy (l : Loc) (epoch : Nat) (h : Held) : Bool :=
  h.epoch == epoch && (h.key == l.key || (h.va.isSome && h.va == l.va && h.va.map absentKey == some h.key))

/-- Bytes are held from a place on, in the current epoch (R167). DEDUCED (log 40). -/
def Group.hold (g : Group) (l : Loc) : List Byte → Group
  | [] => g
  | b :: bs =>
    let rest := g.held.filter fun h => !h.replacedBy l g.epoch
    Group.hold { g with held := { loc := l, val := b, epoch := g.epoch, po := g.retired.toNat, again := false } :: rest } (l.plus 1) bs

/-- A store of bytes from a place on covers a poisoned held word: it is sound again. -/
def Group.mend (g : Group) (l : Loc) (n : Nat) : Group :=
  { g with poison := g.poison.filter fun x => match x with
      | .word k => !(l.key ≤ k && k + 8 ≤ l.key + n)
      | _ => true }

/-- A store that covers a poisoned held word makes it sound again. -/
def Group.holdWord (g : Group) (l : Loc) (bs : List Byte) : Group := (g.hold l bs).mend l bs.length

/-- A held byte takes its place in program order among those held, the latest first; one that its epoch has replaced since is gone
(R167, R169). DEDUCED (log 40). -/
def rehold (h : Held) (hs : List Held) : List Held :=
  if hs.any fun x => x.replacedBy h.loc h.epoch && h.po < x.po then hs
  else
    let rest := hs.filter fun x => !x.replacedBy h.loc h.epoch
    rest.takeWhile (fun x => h.po < x.po) ++ h :: rest.dropWhile fun x => h.po < x.po

/-- A byte that the group holds lies in the footprint of an access, by its home or by its virtual address (R181). -/
def Held.within (va key : Option Nat) (n : Nat) (h : Held) : Bool :=
  let near := fun (a b : Option Nat) => match a, b with
    | some x, some y => x ≤ y && y < x + n
    | _, _ => false
  near key (some h.key) || near va h.va

/-- A byte that the group has stored and not drained lies in the footprint of an access (R181). -/
def Group.holdsIn (g : Group) (va key : Option Nat) (n : Nat) : Bool := g.ownBytes.any (Held.within va key n)

/-- The side log holds a store to a byte of the footprint (R181). -/
def Group.logsIn (g : Group) (va : Option Nat) (n : Nat) : Bool :=
  g.side.any fun e => match e.op, va with
    | .store bs, some a => e.va < a + n && a < e.va + bs.length
    | _, _ => false

/-- A byte that the group holds, or that its side log holds, lies in the footprint of an access (R181), be its page present or not. -/
def Group.overlaps (g : Group) (h : Hit) (n : Nat) : Bool :=
  match h with
  | .ok p l => g.holdsIn p.va? (some l.key) n || g.logsIn p.va? n
  | .held _ va => g.holdsIn (some va) none n || g.logsIn (some va) n
  | _ => false

/-! The store signature of a paired team (R317). -/

/-- One byte into the CRC-64 of the ECMA-182 polynomial. -/
def crcByte (crc : Word) (b : Byte) : Word :=
  (List.range 8).foldl (fun c _ => if c.msb then (c <<< 1) ^^^ 0x42F0E1EBA9EA3693#64 else c <<< 1)
    (crc ^^^ ((b.setWidth 64) <<< 56))

/-- Bytes into the signature of a twin; a group that has no twin keeps none. DEDUCED (log 36). -/
def Group.feed (g : Group) (bs : List Byte) : Group :=
  if g.twin.isSome then { g with sig := bs.foldl crcByte g.sig } else g

/-- The record of one lane of a store: address, count, data. DEDUCED (log 36). -/
def storeRecord (a : Word) (bs : List Byte) : List Byte := leBytes a.toNat 8 ++ leBytes bs.length 1 ++ bs

/-! Watchpoints (R351). -/

/-- Watchpoint `n` of a core matches a scratchpad byte: enabled, of the right kind, the same word under the windows, BYTES set.
DEDUCED (log 49). -/
def State.watchHits (s : State) (g : Group) (key : Nat) (rd wr : Bool) (n : Nat) : Bool :=
  let c := s.core g.core
  let f := (c.watchctl >>> (16 * n)).toNat % 65536
  let v := { s.viewOf g with
    region := s.regionOf (s.teams.find? fun t => t.launch == g.launch && some t.idx == c.holder && t.core == g.core)
    stack := none }
  f.testBit 10 && ((wr && f.testBit 9) || (rd && f.testBit 8)) &&
    match s.steer v none ((c.watch.getD n 0).toNat / 8 * 8) with
    | some (.pad _ k) => k ≤ key && key < k + 8 && f.testBit (key - k)
    | _ => false

/-- The watchpoints that the `n` bytes of an access hit. -/
def State.hitSet (s : State) (g : Group) (key n : Nat) (rd wr : Bool) : BitVec 4 :=
  bitsOfFn (fun w => (List.range n).any fun i => s.watchHits g (key + i) rd wr w) 4

/-- Records the watchpoint hits of the accesses of an instruction (R351, R352): each is a lane, a scratchpad key and a size. No
watchpoint hits in a handler. -/
def State.watchAll (s : State) (rd wr : Bool) (accs : List (Nat × Nat × Nat)) (g : Group) : Group :=
  let c := s.core g.core
  if g.trapMode || c.owner != some g.launch then g
  else
    let hs := accs.map fun a => (a.1, s.hitSet g a.2.1 a.2.2 rd wr)
    let m := Mask.ofFn fun l => hs.any fun h => h.1 == l && h.2 != 0
    if m = 0 then g
    else
      let w := bitsOfFn (fun n => hs.any fun h => h.2.getLsbD n) 4
      let wrote := wr && accs.any fun a => s.hitSet g a.2.1 a.2.2 false true != 0
      { g with hits := some (m, w, wrote) }

/-- The scratchpad accesses of probes, as `watchAll` takes them. -/
def padAccesses (n : Nat) (ps : List Probe) : List (Nat × Nat × Nat) :=
  ps.filterMap fun p => match p.hit with
    | .ok (.pad _ k) _ => some (p.lane, k, n)
    | _ => none

end Sys2Proof.Machine
end

