-- ==== Sys2Proof/Machine/Trace.lean ====
section
/-! DEFINITION. The Towpath (R354, R355) and the comparison of packets in replay mode (R356). -/
namespace Sys2Proof.Machine

/-- An unsigned little-endian base-128 number (R354); `n` bounds its bytes. -/
def varint : (n x : Nat) → List Byte
  | 0, _ => []
  | n + 1, x => if x < 128 then [BitVec.ofNat 8 x] else BitVec.ofNat 8 (x % 128 + 128) :: varint n (x / 128)

/-- The header byte. -/
def packetHead (type arg : Nat) : Byte := BitVec.ofNat 8 (16 * type + arg % 16)

/-- TYPE, ARG and payload of a packet (R354). -/
def packetBody : Packet → Nat × Nat × List Byte
  | .branch how => (2, how, [])
  | .target off => (3, 0, leBytes off.toNat 4)
  | .em m => (4, 0, leBytes m.toNat 4)
  | .start gid off => (5, 0, leBytes gid.toNat 8 ++ leBytes off.toNat 4)
  | .sev arg lanes val => (7, arg, leBytes lanes.toNat 4 ++ leBytes val.toNat 8)
  | .fin => (8, 0, [])

/-- The bytes of a group's packet. -/
def packetBytes (core slot delta : Nat) (p : Packet) : List Byte :=
  let b := packetBody p
  packetHead b.1 b.2.1 :: leBytes (core * 2 ^ 13 + slot * 2 ^ 7) 2 ++ varint 10 delta ++ b.2.2

/-- Bytes of a trace buffer. -/
def traceCap : Nat := 256 * 1024

/-- The trace buffer of a cluster as reset leaves it. -/
def Trace.init (die cluster : Nat) : Trace :=
  { die := die, cluster := cluster, bytes := [], lastCycle := 0, lastSync := 0, sinceSync := 0, synced := false, lost := 0 }

/-- A trace buffer. -/
def State.traceOf (s : State) (die cluster : Nat) : Trace :=
  (s.traces.find? fun t => t.die == die && t.cluster == cluster).getD (Trace.init die cluster)
/-- Sets a trace buffer. -/
def State.setTrace (s : State) (t : Trace) : State :=
  { s with traces := t :: s.traces.filter fun x => !(x.die == t.die && x.cluster == t.cluster) }

/-- SYNC (R354, R355). -/
def Trace.sync (now : Nat) (t : Trace) : Trace :=
  { t with bytes := t.bytes ++ packetHead 1 0 :: leBytes now 8, lastCycle := now, lastSync := now, sinceSync := 0, synced := true }

/-- The SYNC that stands before a packet which would be the 256th since the last one, or follows it by 8,192 cycles (R355).
DEDUCED (log 37). -/
def Trace.dueSync (now : Nat) (t : Trace) : Trace :=
  if !t.synced || 255 ≤ t.sinceSync || 8192 ≤ now - t.lastSync then t.sync now else t

/-- A packet at a cycle. -/
def Trace.put (now : Nat) (f : Nat → List Byte) (t : Trace) : Trace :=
  let t := t.dueSync now
  { t with bytes := t.bytes ++ f (now - t.lastCycle), lastCycle := now, sinceSync := t.sinceSync + 1 }

/-- LOSS with the count, and then a SYNC, when there is room for both (R355). -/
def Trace.recover (now : Nat) (t : Trace) : Trace :=
  if t.lost == 0 then t
  else
    let u := Trace.sync now (t.put now fun d => packetHead 6 0 :: varint 10 d ++ leBytes t.lost 4)
    if u.bytes.length ≤ traceCap then { u with lost := 0 } else t

/-- A packet is written, or dropped and counted where the buffer has no room (R355). -/
def Trace.write (now core slot : Nat) (p : Packet) (t : Trace) : Trace :=
  let t := t.recover now
  let u := t.put now fun d => packetBytes core slot d p
  if t.lost == 0 && u.bytes.length ≤ traceCap then u else { t with lost := t.lost + 1 }

/-- A packet that replay compares (R356). -/
def compared : Packet → Bool
  | .start _ _ => false
  | _ => true

/-- A group in replay mode has produced a packet that is not the recorded one (R356): where it does not run free, it halts, and its port
is free. -/
def State.diverge (s : State) (g : Group) (pc : Word) : State :=
  let s := s.report .divergence g [g.launch.toNat, pc.toNat, g.packets]
  let free := (((s.launch? g.launch).bind Launch.replay).map Prod.snd).getD false
  if free then s.onGroup g.key fun g => { g with replay := none }
  else
    let stop := fun g : Group => { g.offPort s.fresh with haltTick := s.tick, replay := none }
    { s.onGroup g.key fun g =>
        if g.trapMode then { stop g with halted := some .frozen }
        else { stop ((g.settleAll s.tick).unwait.recordTrap 0x1D (BitVec.ofNat 64 g.packets) g.em pc) with pc := pc, halted := some .trap }
      with fresh := s.fresh + 2 }

/-- A packet of a group is compared with the next one of its recording (R356). DEDUCED (log 37). -/
def State.comparePacket (s : State) (g : Group) (p : Packet) (pc : Word) : State :=
  match g.replay with
  | none => s
  | some rec =>
    if !compared p then s
    else if rec.head? == some p then s.onGroup g.key fun g => { g with replay := some rec.tail, packets := g.packets + 1 }
    else s.diverge g pc

/-- A packet of a group goes to its cluster's trace buffer. `pc` is the instruction that produced it. -/
def State.tracePacket (s : State) (k : Nat) (p : Packet) (pc : Word) : State :=
  match s.group? k with
  | none => s
  | some g =>
    let t := (s.traceOf g.core.die g.core.cluster).write (Config.cycles s.tick) g.core.core g.slot p
    (s.setTrace t).comparePacket g p pc

/-- A group with DBGCTL.TRC writes a packet (R354); of a pair, only the leader does (R359). Behind a packet that waits, it waits too, as a
group's packets stand in program order. DEDUCED (log 37). -/
def State.packet (s : State) (k : Nat) (p : Packet) (pc : Word) : State :=
  match s.group? k with
  | none => s
  | some g =>
    if !g.dbgctl.getLsbD 1 || g.follower then s
    else if !g.owed.isEmpty then s.onGroup k fun g => { g with owed := g.owed ++ [{ pkt := p, pc := pc, po := none }] }
    else s.tracePacket k p pc

/-- The SEV of an atomic with lanes that are held waits for them (R354). DESIGN CHOICE (log 11); DEDUCED (log 37). -/
def State.owe (s : State) (k : Nat) (o : Owed) : State :=
  s.onGroup k fun g => if !g.dbgctl.getLsbD 1 || g.follower then g else { g with owed := g.owed ++ [o] }

/-- The value of the lowest lane of some. -/
def lowestVal (m : Mask) (x : Lanes) : Word := match m.lanes with | l :: _ => x.at l | [] => 0

/-- Lanes of an atomic have been served: they join its SEV, whose value is that of the lowest lane (R354). -/
def Group.addSev (po : Nat) (m : Mask) (f : Nat → Word) (g : Group) : Group :=
  { g with owed := g.owed.map fun o => match o.po == some po, o.pkt with
      | true, .sev a lanes v =>
        let both := lanes ||| m
        let low := (both.lanes.head?).getD 0
        { o with pkt := .sev a both (if m.has low then f low else v) }
      | _, _ => o }

/-- The group still has held lanes of the atomic that a packet waits for. -/
def Group.owes (g : Group) (o : Owed) : Bool := o.po.any fun p => g.heldOps.any fun h => h.po == p

/-- The oldest packets of a group that wait for nothing any longer are written; `n` bounds how many. An atomic none of whose lanes has
been served writes no SEV. DEDUCED (log 37). -/
def State.pay : (n : Nat) → Nat → State → State
  | 0, _, s => s
  | n + 1, k, s =>
    match s.group? k with
    | none => s
    | some g =>
      match g.owed with
      | [] => s
      | o :: rest =>
        if g.owes o then s
        else
          let s := s.onGroup k fun g => { g with owed := rest }
          State.pay n k (match o.pkt with
            | .sev 2 0 _ => s
            | p => s.tracePacket k p o.pc)

/-- Every group's packets that wait for nothing any longer are written. -/
def State.paid (s : State) : State :=
  (s.groups.filter fun g => !g.owed.isEmpty).foldl (fun s g => State.pay g.owed.length g.key s) s

/-- A group's EM has changed: its packet (R354). `pc` is the instruction that changed it. DEDUCED (log 37). -/
def State.emPacket (s : State) (k : Nat) (pc : Word) : State :=
  match s.group? k with
  | some x => if x.em == x.emTraced then s else (s.onGroup k fun x => { x with emTraced := x.em }).packet k (.em x.em) pc
  | none => s

/-- A code offset of a launch (R45): words from its code base. -/
def State.codeOffset (s : State) (lid : BitVec 32) (pc : Word) : BitVec 32 := ((pc - LaunchDesc.code (s.desc lid)) >>> 2).setWidth 32

end Sys2Proof.Machine
end

