-- ==== Sys2Proof/Machine/Place.lean ====
section
/-! DEFINITION. Room on cores and placement of teams (R123–R128, R130, R137), spilling and swapping out (R141, R328–R330), and the
restart of a group at REGPC (R314). -/
namespace Sys2Proof.Machine

/-! Room (R125). -/

/-- The dimensions of R125. -/
structure Room where
  slots : Nat
  rows : Nat
  shapes : Nat
  scratch : Nat
  deriving DecidableEq, Repr

/-- No room. -/
def Room.zero : Room := { slots := 0, rows := 0, shapes := 0, scratch := 0 }
/-- The sum of two rooms. -/
def Room.add (a b : Room) : Room :=
  { slots := a.slots + b.slots, rows := a.rows + b.rows, shapes := a.shapes + b.shapes, scratch := a.scratch + b.scratch }
/-- The sum over a list. -/
def Room.sum (l : List Room) : Room := l.foldl Room.add Room.zero
/-- A core holds the room, with a core scratchpad partition of `cscr` KiB (R125). -/
def Room.ok (cscr : Nat) (r : Room) : Bool :=
  r.slots ≤ 64 && r.rows ≤ 4080 && r.shapes ≤ 32 && r.scratch ≤ cscr
/-- A room covers another in every dimension (R137). -/
def Room.covers (a b : Room) : Bool :=
  b.slots ≤ a.slots && b.rows ≤ a.rows && b.shapes ≤ a.shapes && b.scratch ≤ a.scratch

/-- The least power of two at or above a number; 0 for 0. -/
def powerAbove (n : Nat) : Nat := if n ≤ 1 then n else 2 ^ (Nat.log2 (n - 1) + 1)
/-- A room in the blocks of the buddy allocator (R126). DEDUCED (log 75). -/
def Room.blocks (r : Room) : Room := { r with rows := powerAbove r.rows, scratch := powerAbove r.scratch }

/-- The budget byte of a role (R46). -/
def LaunchDesc.budget (d : LaunchDesc) (role : Nat) : Nat := ((d.roles[role]?).map Prod.snd).getD 0
/-- Rows of a group of a role (R125). -/
def groupRows (d : LaunchDesc) (role : Nat) : Nat := 8 * LaunchDesc.budget d role + 11
/-- The role of a group: roles take the groups in role order (R123). -/
def roleFrom (role idx : Nat) : List (Nat × Nat) → Nat
  | [] => role
  | (n, _) :: rest => if idx < n then role else roleFrom (role + 1) (idx - n) rest
/-- The role of GROUPIDX `idx` (R123). -/
def roleOf (d : LaunchDesc) (idx : Nat) : Nat := roleFrom 0 idx d.roles
/-- The room of one team (R125). -/
def teamRoom (d : LaunchDesc) : Room :=
  { slots := d.groups, rows := (d.roles.map fun r => r.1 * (8 * r.2 + 11)).foldl (· + ·) 0
    shapes := d.shapes, scratch := d.scratch }

/-- Every core, in ascending number (die, cluster, core). -/
def allCores : List CoreId :=
  (List.range 4).flatMap fun d => (List.range 5).flatMap fun c => (List.range 8).map fun k => ⟨d, c, k⟩

/-- The order of cores. -/
def coreNum (c : CoreId) : Nat := unitNum (.core c)

/-- The core scratchpad partition of a reach in KiB (R335). -/
def State.cscr (s : State) (r : BitVec 4) (c : CoreId) : Nat := s.partition r (.core c) / 1024

/-- The groups of a team, the ended ones too. -/
def State.members (s : State) (t : Team) : List Group := s.groups.filter t.holds

/-- A core on which a reach has been pre-empted and not resumed (R326). -/
def State.coreOff (s : State) (r : BitVec 4) (c : CoreId) : Bool :=
  match s.reach? r with
  | some x => x.off.contains c
  | none => true

/-- A halted group whose room a group of reach `r` may claim: its own reach is another and out of slice there (R328). -/
def State.lendable (s : State) (r : BitVec 4) (g : Group) : Bool :=
  g.preempted && !g.spilled && !g.ended && s.reachOf g.launch != r && s.coreOff (s.reachOf g.launch) g.core

/-- What a resident team uses of its core, as a team of reach `r` finds it. With `lend`, room that halted groups of other reaches
hold counts as free (R328). DEDUCED (log 74). -/
def State.teamUse (s : State) (lend : Bool) (r : BitVec 4) (t : Team) : Room :=
  let d := s.desc t.launch
  let own := d.reach == r
  let gs := (s.members t).filter fun g => !g.spilled && !(lend && s.lendable r g)
  { slots := (gs.filter fun g => !g.ended).length
    rows := (gs.map fun g => groupRows d g.role).foldl (· + ·) 0
    shapes := if gs.isEmpty then 0 else d.shapes
    scratch := if own then d.scratch else 0 }

/-- What a reserve slot of a launch on a core uses, as a team of reach `r` finds it: the slot's room, whole, but where it is charged by a
team whose halted groups have been spilled or lend their room (R328). DEDUCED (log 76). -/
def State.slotUse (s : State) (lend : Bool) (r : BitVec 4) (l : Launch) (x : CoreId × Option Nat) : Room :=
  let room := if l.desc.reach == r then teamRoom l.desc else { teamRoom l.desc with scratch := 0 }
  match s.teams.find? fun t => t.at_ == .resident && t.core == x.1 && t.charged.isSome && t.charged == x.2 with
  | none => room
  | some t =>
    if l.desc.reach != r && (s.liveOf t).any fun g => g.spilled || (lend && s.lendable r g) then s.teamUse lend r t else room

/-- What a core's teams and reserve slots use (R125, R128); `skip` leaves teams out. A team in a charged reserve slot uses the
slot's room. -/
def State.coreUse (s : State) (lend : Bool) (r : BitVec 4) (c : CoreId) (skip : Team → Bool) : Room :=
  let ts := s.teams.filter fun t => t.at_ == .resident && t.core == c && t.charged.isNone && !skip t
  let block := fun room : Room => if (s.core c).allocator then room.blocks else room
  let slots := (s.launches.filter fun l => !l.ended).flatMap fun l =>
    (l.reserve.filter fun x => x.1 == c).map (s.slotUse lend r l)
  Room.sum ((ts.map (s.teamUse lend r) ++ slots).map block)

/-- The cluster of a core is fenced (R320). -/
def State.isFenced (s : State) (c : CoreId) : Bool := s.fenced.contains (c.die, c.cluster)

/-- A team of reach `r` that needs `room` fits on a core. -/
def State.fitsOn (s : State) (lend : Bool) (r : BitVec 4) (c : CoreId) (room : Room) (skip : Team → Bool) : Bool :=
  let room := if (s.core c).allocator then room.blocks else room
  !s.isFenced c && ((s.coreUse lend r c skip).add room).ok (s.cscr r c)

/-- A team that holds no operand slot and no accumulator tile. -/
def Team.clear (t : Team) : Bool := t.slots.isEmpty && t.tiles.isEmpty

/-- A team that holds operand slots or accumulator tiles may stand only on the core that holds them; one whose cluster is fenced,
where the same numbers are free (R279). DEDUCED (log 62). -/
def State.mayStand (s : State) (t : Team) (c : CoreId) : Bool :=
  let r := s.reachOf t.launch
  t.clear || t.core == c
    || (s.isFenced t.core && (t.slots.all (s.freeSlots r c).contains) && t.tiles.all (s.freeTiles r c).contains)

/-- Teams are old in the order of their submission or return, then by TEAMIDX (R130). -/
def Team.older (a b : Team) : Bool := a.order < b.order || (a.order == b.order && a.idx < b.idx)

/-- One team: launch, index and twin. -/
def Team.same (a b : Team) : Bool := a.launch == b.launch && a.idx == b.idx && a.follower == b.follower

/-- Changes one team. -/
def State.onTeamOnly (s : State) (t : Team) (f : Team → Team) : State := { s with teams := updAll (fun x => x.same t) f s.teams }

/-! Regions of the core scratchpad. -/

/-- A key that follows `n` bytes of storage from one place to another. -/
def moveKey (src dst n k : Nat) : Nat := if src ≤ k && k < src + n then k - src + dst else k

/-- A held byte whose storage has moved. -/
def Held.move (f : Nat → Nat) (h : Held) : Held := { h with loc := { h.loc with key := f h.loc.key } }

/-- What a group keeps under keys of storage follows the storage: held stores, drained bytes, and words that it waits for. -/
def Group.rekey (src dst n : Nat) (g : Group) : Group :=
  let f := moveKey src dst n
  { g with
    held := g.held.map (Held.move f)
    drains := g.drains.map fun d => match d with | .byte h x sc => .byte (h.move f) x sc | d => d
    wait := g.wait.map fun w => match w with
      | .lanes e d n todo => .lanes e d n (todo.map fun l => { l with word := f l.word })
      | w => w
    poison := g.poison.map fun p => match p with | .word k => .word (f k) | .drain k => .drain (f k) | p => p }

/-- Moves `n` bytes of storage, with their full bits, bindings and poison, and what groups keep for them, from one key to another. -/
def State.copyPad (s : State) (src dst n : Nat) : State :=
  if src == dst then s
  else
    let inn := fun k => decide (src ≤ k) && decide (k < src + n)
    let out := fun k => !(decide (dst ≤ k) && decide (k < dst + n))
    let s := s.mapGroups (Group.rekey src dst n)
    { s with
      olds := s.olds.filter fun o => !inn o.key && out o.key
      mem := (s.mem.filter fun c => inn c.1).foldl (fun m c => memPut (c.1 - src + dst) c.2 m) (s.mem.filter fun c => out c.1)
      full := ((s.full.filter inn).map fun k => k - src + dst) ++ s.full.filter out
      bindings := ((s.bindings.filter fun b => inn b.granule).map fun b => { b with granule := b.granule - src + dst })
        ++ s.bindings.filter fun b => out b.granule
      poison := ((s.poison.filter inn).map fun k => k - src + dst) ++ s.poison.filter out }

/-- The lowest gap of `n` bytes between regions in ascending order, or the end of the last one. -/
def gapFrom (n pos : Nat) : List (Nat × Nat) → Nat
  | [] => pos
  | (b, k) :: rest => if pos + n ≤ b then pos else gapFrom n (max pos (b + k)) rest

/-- Where a region of `kib` KiB goes in a tenant's core scratchpad. DEDUCED (log 74). -/
def State.freeBase (s : State) (r : BitVec 4) (c : CoreId) (kib : Nat) : Nat :=
  let ts := s.teams.filter fun t => t.at_ == .resident && t.core == c && s.reachOf t.launch == r
  gapFrom (1024 * kib) 0 (sortBy (fun a b => a.1 < b.1) (ts.map fun t => (t.scrBase, 1024 * (s.desc t.launch).scratch)))

/-! Watchpoints that travel with their holder (R352). -/

/-- The watchpoint state of a core goes into its holder team's context, and the core's watchpoints become unowned and disabled.
DEDUCED (log 49). -/
def State.saveWatch (s : State) (t : Team) : State :=
  let c := s.core t.core
  if c.owner == some t.launch && c.holder == some t.idx then
    (s.onTeamOnly t fun t => { t with watch := some (c.watch, c.watchctl) }).onCore t.core fun c =>
      { c with watch := [0, 0, 0, 0], watchctl := 0, owner := none, holder := none }
  else s

/-- A team that stands on a core takes its saved watchpoints back when they are unowned; a conflict is reported. DEDUCED (log 49). -/
def State.restoreWatch (s : State) (t : Team) : State :=
  match t.watch with
  | none => s
  | some w =>
    let c := s.core t.core
    match c.owner with
    | none =>
      (s.onTeamOnly t fun t => { t with watch := none }).onCore t.core fun c =>
        { c with watch := w.1, watchctl := w.2, owner := some t.launch, holder := some t.idx }
    | some o =>
      if o == t.launch then s
      else { s with events := s.events ++ (s.liveOf t).map fun g =>
        { kind := .watchConflict, pid := ((s.launch? g.launch).map Launch.pid).getD 0, tid := g.tid, gid := g.gid, detail := [] } }

/-- Watchpoints of a core that have become unowned go to a resident team whose saved state waits for them, and whose groups have not been
spilled. -/
def State.applyWatches (s : State) (c : CoreId) : State :=
  match s.teams.find? fun t => t.core == c && t.at_ == .resident && t.watch.isSome && (s.liveOf t).any fun g => !g.spilled with
  | some t => if (s.core c).owner.isNone then s.restoreWatch t else s
  | none => s

/-! Halting, spilling, restarting. -/

/-- A step of the group that completes before the group halts is under way: a trap entry (R21, R117, R326), or an EXIT whose stores are on
their way home (R122). DEDUCED (log 27). -/
def Group.entering (g : Group) : Bool :=
  g.bound == some .exit || match g.wait with
    | some (.entry _ _ _ _) => true
    | _ => false

/-- The debugger's HALT has stopped the group (R347). -/
def Group.dbgStopped (g : Group) : Bool := g.dbgHalt && !g.entering

/-- A group halts at an instruction boundary (R146, R326): its results are written, its windows and its run end, its port is free. The run
that it begins when it goes on keeps the e registers. -/
def Group.halt (tick age : Nat) (g : Group) : Group :=
  { (g.settleAll tick).offPort age with
    pendS := g.pendS.map fun p => { p with left := 0 }
    heldOps := g.heldOps.map fun h => { h with left := 0 }
    runLen := 0
    trailer := []
    haltTick := tick }

/-- Groups whose run has ended fetch afresh (R119). DESIGN CHOICE (log 24). -/
def State.refetch (s : State) (ks : List Nat) : State :=
  { s with icache := s.icache.map fun x => { x with groups := x.groups.filter fun k => !ks.contains k } }

/-- The groups that `p` picks become what `f` makes of them with the next place in the order of age: a core has two ports, so at most
two of its groups end their run at once. DESIGN CHOICE (log 24). -/
def State.endRuns (s : State) (p : Group → Bool) (f : (age : Nat) → Group → Group) : State :=
  State.refetch { s.mapGroups fun g => if p g then f s.fresh g else g with fresh := s.fresh + 2 } ((s.groups.filter p).map Group.key)

/-- What a mark is of is still there: a discarded entry takes its mark with it. -/
def Group.bears (g : Group) : Mark → Bool
  | .word k => g.held.any fun h => heldMark h.key == .word k
  | .elem a c => g.heldT.any fun t => t.attach == a && t.coord == c
  | .side va => g.side.any fun e => e.va == va
  | .drain k => g.drains.any fun d => d.held?.any fun h => wordKey h.key == k
  | .drainElem a c => g.drains.any fun d => d.elem?.any fun t => t.attach == a && t.coord == c
  | _ => true

/-- The current epoch of a group is discarded, with what a boundary has not drained of it (R170). DEDUCED (log 32). -/
def Group.discard (g : Group) : Group :=
  let r := g.recall
  let g' := { r with
    held := r.held.filter fun h => h.epoch != g.epoch
    heldT := r.heldT.filter fun h => h.epoch != g.epoch
    side := r.side.filter fun e => e.epoch != g.epoch }
  { g' with poison := g'.poison.filter g'.bears }

/-- A restart at REGPC (R314). DEDUCED (log 32). -/
def Group.restart (age : Nat) (g : Group) : Group :=
  { (g.offPort age).discard with
    inflight := []
    pendS := []
    heldOps := []
    sig := match g.region with | some r => r.sig | none => g.sig
    pc := g.regpc &&& ~~~3#64
    runLen := 0
    eWritten := 0
    trailer := []
    wait := none
    waitEnd := .pending
    holds := []
    served := 0
    rdv := none
    restarts := g.restarts + 1
    last := .stalled }

/-- A group's state goes to its context. What is poisoned of it is consumed by the spill, which marks the context (R340).
DEDUCED (log 76). -/
def Group.spill (g : Group) : Group := { g with spilled := true, marked := g.marked || !g.poison.isEmpty }

/-- The header of a reach's context area: 64 bytes, from its first byte (R331). -/
def Reach.header (x : Reach) : List Byte :=
  leBytes 1 2 ++ leBytes x.id.toNat 1 ++ leBytes ((if x.timex then 1 else 0) + if x.evac then 2 else 0) 1 ++ leBytes x.blocks 4
    ++ leBytes x.size 8 ++ leBytes (x.tsaved % 2 ^ 64).toNat 8 ++ leBytes (x.offset % 2 ^ 64).toNat 8 ++ leBytes x.root 8
    ++ leBytes x.snapgen.toNat 8 ++ List.replicate 16 0

/-- A place in a reach's context area. -/
def State.areaLoc (s : State) (pa : Nat) : Loc :=
  { key := globalKey s.device.toNat pa, cipher := some 0, foreign := false, pte := none, va := none }

/-- What stands behind the header of a context area: bytes of the device's own layout, of which the manual gives none (R331).
DESIGN CHOICE (log 89). -/
def areaBody (tick n : Nat) : List Byte := (List.range n).map fun i => (Config.freeWord tick (2 ^ 90 + i)).setWidth 8

/-- The device writes a reach's context area: the header, with the group blocks that are there and the bytes in use, and behind it the
contexts and images (R331). DESIGN CHOICE (log 89). -/
def State.keepHeader (s : State) (r : BitVec 4) : State :=
  let n := (s.groups.filter fun g => s.reachOf g.launch == r && g.spilled && !g.ended && g.key != 0).length
  let used := (Config.reading s.tick 16).toNat % (2 ^ 20 * (n + 1))
  let s := s.onReach r fun x => { x with blocks := n, size := 64 + used }
  match s.reach? r with
  | none => s
  | some x => match x.area with
    | none => s
    | some pa => s.homeWrite (s.areaLoc pa) (x.header ++ areaBody s.tick used)

/-- The waiting claims of a team that comes to another core leave the one where they wait (R281). DEDUCED (log 62). -/
def State.dropClaims (s : State) (t : Team) : State :=
  let ks := (s.members t).map Group.key
  s.onCore t.core fun c => { c with claims := c.claims.filter fun x => !ks.contains x.2.1 }

/-- The claims of a team that wait in no FIFO of its core join it, in the order in which they began (R281). DEDUCED (log 62). -/
def State.joinClaims (s : State) (t : Team) : State :=
  let gs := sortBy (fun a b => a.since < b.since) (s.liveOf t)
  let here := (s.core t.core).claims
  let cs := gs.filterMap fun g => match g.wait with
    | some (.aclaim n _) =>
      if g.waitEnd == .pending && !here.any (fun x => x.2.1 == g.key) then some (s.reachOf t.launch, g.key, n) else none
    | _ => none
  s.onCore t.core fun c => { c with claims := c.claims ++ cs }

/-- A team is swapped out whole: its groups halt where they stand and its state goes to its context (R130, R137, R141). A claim that waits
keeps its place in the FIFO of its core (R141, R279). DEDUCED (log 62). -/
def State.swapOne (s : State) (t : Team) : State :=
  let s := s.saveWatch t
  let s := s.copyPad (s.regionKey t) (ctxKey t) (1024 * (s.desc t.launch).scratch)
  let s := s.endRuns (fun g => t.holds g && !g.ended && !g.spilled) fun age g => (g.halt s.tick age).spill
  ((s.onTeamOnly t fun t => { t with at_ := .swapped, charged := none }).applyWatches t.core).keepHeader (s.reachOf t.launch)

/-- The spill of one halted group. A team whose groups have all been spilled is off its core; one in a charged slot returns there.
DEDUCED (log 76). -/
def State.spillOne (s : State) (k : Nat) : State :=
  match s.group? k with
  | none => s
  | some g =>
    if g.ended || g.spilled then s
    else
      let s := s.endRuns (fun g => g.key == k) fun age g => { (g.halt s.tick age).spill with haltTick := g.haltTick }
      match s.teamOf? g with
      | none => s
      | some t =>
        if !((s.liveOf t).all fun g => g.spilled) then s.keepHeader (s.reachOf t.launch)
        else if t.charged.isSome then ((s.saveWatch t).applyWatches t.core).keepHeader (s.reachOf t.launch)
        else s.swapOne t

/-- The spill of a halted group (R328); of a pair, both twins' (R315). -/
def State.spillGroup (s : State) (k : Nat) : State :=
  match (s.group? k).bind Group.twin with
  | some t => (s.spillOne k).spillOne t
  | none => s.spillOne k

/-- The groups of a core whose room a group of reach `r` may claim: the earliest halt first, then the lowest slot (R328). -/
def State.lenders (s : State) (r : BitVec 4) (c : CoreId) : List Group :=
  sortBy (fun a b => a.haltTick < b.haltTick || (a.haltTick == b.haltTick && a.slot < b.slot))
    (s.groups.filter fun g => g.core == c && s.lendable r g)

/-- Takes room on a core from halted groups of other reaches (R328). DEDUCED (log 76). -/
def State.makeRoom (s : State) (r : BitVec 4) (c : CoreId) (room : Room) : State :=
  (s.lenders r c).foldl (fun s g => if s.fitsOn false r c room fun _ => false then s else s.spillGroup g.key) s

/-- The side-log entries of a core (R169); with `lend`, those that a group of reach `r` may claim are left out (R328).
DEDUCED (log 41). -/
def State.sideUse (s : State) (lend : Bool) (r : BitVec 4) (c : CoreId) : Nat :=
  ((s.groups.filter fun g => g.core == c && !g.spilled && !g.ended && !(lend && s.lendable r g)).map fun g => g.side.length).foldl (· + ·) 0

/-- The phase-buffer entries of a group (R167, R268): one for each block of 64 bytes and epoch that it holds bytes of, and for each block
of elements; what is beyond 64 lies in its spill area. DEDUCED (log 76). -/
def Group.phaseEntries (g : Group) : Nat :=
  let blocks := (g.ownBytes.map fun h => (h.key / 64, h.epoch)).eraseDups
  let elems := ((g.heldT ++ g.drains.filterMap Drain.elem?).map fun t =>
    (t.attach, (t.coord.headD 0) / (8 * [8, 4, 2, 1, 2, 4, 4, 8, 8, 16, 16].getD t.desc.type 8), t.coord.tail, t.epoch)).eraseDups
  min 64 (blocks.length + elems.length)

/-- The phase-buffer entries in use on a core (R167). -/
def State.phaseUse (s : State) (c : CoreId) : Nat :=
  ((s.groups.filter fun g => g.core == c && !g.spilled && !g.ended).map Group.phaseEntries).foldl (· + ·) 0

/-- Entries that have come to the side log or the phase buffer of a core take their room from halted groups of other reaches that hold
such entries (R328); a phase buffer that is full even so spills to the groups' own areas (R167). DEDUCED (log 41, 76). -/
def State.claimSide (s : State) (r : BitVec 4) (c : CoreId) : State :=
  (s.lenders r c).foldl (fun s g =>
    if (1024 < s.sideUse false r c && !g.side.isEmpty) || (256 < s.phaseUse c && g.phaseEntries != 0) then s.spillGroup g.key else s) s

/-- The lowest free group slot of a core. -/
def State.freeSlot (s : State) (c : CoreId) : Nat :=
  let used := (s.groups.filter fun g => g.core == c && !g.ended && !g.spilled).map Group.slot
  ((List.range 64).find? fun n => !used.contains n).getD 0

/-- A group takes a slot of a core. A group that starts is given its GID, with the slot's next generation (R346), and, in replay
mode, its recording (R356). One whose context is marked restarts at REGPC (R340); a fourth consecutive restart is uncontained when it
issues (R314). DEDUCED (log 76). -/
def State.seat (s : State) (c : CoreId) (k : Nat) : State :=
  match s.group? k with
  | none => s
  | some g =>
    if g.ended then s
    else
      let slot := s.freeSlot c
      let gen : BitVec 42 := (((s.gens.find? fun x => x.1 == c && x.2.1 == slot).map fun x => x.2.2).getD 0) + 1
      let fresh := g.gid == 0
      let gid := if fresh then gidOf s.device c slot gen else g.gid
      let rec? := ((s.launch? g.launch).bind Launch.replay).map fun r => ((r.1.find? fun x => x.1 == g.team && x.2.1 == g.idx).map fun x => x.2.2).getD []
      let back := g.spilled && g.marked && g.restarts < 3
      let s := (if back then s.cutWait g else s).onGroup k fun g =>
        let g := if back then { g.restart s.fresh with marked := false } else g
        { g with
          core := c
          slot := slot
          gid := gid
          spilled := false
          port := none
          age := s.fresh
          replay := if fresh then rec? else g.replay }
      let s : State := { s with
        fresh := s.fresh + 1
        gens := if fresh then (c, slot, gen) :: s.gens.filter fun x => !(x.1 == c && x.2.1 == slot) else s.gens }
      if fresh || g.spilled then s.packet k (.start gid (s.codeOffset g.launch g.pc)) g.pc else s

/-- Both twins of a team are swapped out together (R315). -/
def State.swapOut (s : State) (lid : BitVec 32) (idx : Nat) : State :=
  (s.teams.filter fun t => t.launch == lid && t.idx == idx && t.at_ == .resident).foldl State.swapOne s

/-! Starting and returning. -/

/-- A group at its first instruction (R11, R123). DESIGN CHOICE (log 7, 73); DEDUCED (log 23). -/
def startGroup (l : Launch) (t : Team) (tick key idx : Nat) (twin : Option Nat) : Group :=
  let d := l.desc
  let m : Mask := Mask.ofFn fun x => x < d.lanes
  let tid := ((l.tids.find? fun x => x.1 == t.idx && x.2.1 == idx).map fun x => x.2.2).getD l.tid
  { Group.vacant with
    key := key
    launch := l.lid
    team := t.idx
    idx := idx
    role := roleOf d idx
    core := t.core
    tid := tid
    em := m
    emTraced := m
    live := m
    launched := m
    pc := LaunchDesc.code d + BitVec.ofNat 64 (4 * d.entry.toNat)
    domain := d.domain
    startTick := tick
    twin := twin
    leader := twin.isSome && !t.follower
    ended := false }

/-- The team of a launch that takes its place for the first time: empty shape slots, no barrier, MSEQ 0 (R11, R262). -/
def freshTeam (d : LaunchDesc) (t : Team) : Team :=
  { t with
    shapes := List.replicate d.shapes none
    bars := []
    gone := 0
    mseq := 0
    tickets := 0
    queue := []
    slots := []
    tiles := [] }

/-- The slots and tiles of a team whose cluster is fenced are granted again on another core, with their bytes (R279).
DEDUCED (log 62). -/
def State.moveClaims (s : State) (t : Team) (c : CoreId) : State :=
  if t.clear || t.core == c then s
  else
    let s := t.slots.foldl (fun s n => s.copyPad (slotKey t.core n 0) (slotKey c n 0) 32768) s
    t.tiles.foldl (fun s n => s.copyPad (tileKey t.core n 0) (tileKey c n 0) 65536) s

/-- The teams of an index: one, or the twins of a pair (R316). -/
def State.twinsOf (s : State) (lid : BitVec 32) (team : Nat) : List Team :=
  s.teams.filter fun t => t.launch == lid && t.idx == team

/-- The reach of a team has been pre-empted where it stands, or where its twin stands: twins act together (R315). -/
def State.teamOff (s : State) (t : Team) : Bool :=
  s.coreOff (s.reachOf t.launch) t.core
    || (s.twinsOf t.launch t.idx).any fun x => x.at_ == .resident && s.coreOff (s.reachOf x.launch) x.core

/-- The groups of a team on a core where its reach has been pre-empted stay halted until it resumes; on another core they go on, and with
them the engine operations of their launch, where a pre-emption has stopped them (R326, R327). -/
def State.settle (s : State) (t : Team) : State :=
  let off := s.teamOff t
  let was := (s.liveOf t).any Group.preempted
  let s := s.mapGroups fun g => if t.holds g && !g.ended then { g with preempted := off, haltTick := if off then s.tick else g.haltTick } else g
  if was && !off then s.onLaunch t.launch fun l => { l with stopped := [] } else s

/-- One team comes to stand on a core: room is taken, its region is placed, and its groups take slots. `keys` are the numbers of
the first group of a starting team and of its twin's; `need` is the room that has not been set aside. -/
def State.placeOne (s : State) (t : Team) (c : CoreId) (key twinKey : Nat) (need : Room) : State :=
  match s.launch? t.launch with
  | none => s
  | some l =>
    let s := s.makeRoom l.desc.reach c need
    let base := s.freeBase l.desc.reach c l.desc.scratch
    let s := s.moveClaims t c
    let t1 := { t with at_ := .resident, core := c, scrBase := base, waitSwapped := false, waited := 0 }
    let s : State := { s with hosted := (c.die, c.cluster, l.lid) :: s.hosted.filter fun x => x != (c.die, c.cluster, l.lid) }
    if t.at_ == .unstarted then
      let s := s.onTeamOnly t fun _ => freshTeam l.desc t1
      let gs := (List.range l.desc.groups).map fun i =>
        startGroup l t1 s.tick (key + i) i (if l.desc.paired then some (twinKey + i) else none)
      (gs.foldl (fun s g => State.seat { s with others := s.others ++ [g] } c g.key) s).settle t1
    else
      let s := s.onTeamOnly t fun _ => t1
      let s := if t.core == c then s else s.dropClaims t
      let s := s.copyPad (ctxKey t) (s.regionKey t1) (1024 * l.desc.scratch)
      let s := (s.liveOf t1).foldl (fun s g => s.seat c g.key) s
      ((s.joinClaims t1).settle t1).restoreWatch t1

/-- The cores of a leader and its follower when one twin stands on `c`: two clusters of one die, the leader on the lower core (R315);
the other twin takes the lowest core that will do. -/
def State.pairCores (s : State) (d : LaunchDesc) (lead follow : Team) (c : CoreId)
    (skip : Team → Bool) : Option (CoreId × CoreId) :=
  let fits := fun x => s.fitsOn true d.reach x (teamRoom d) skip
  let order := fun x => if coreNum c < coreNum x then (c, x) else (x, c)
  if !fits c then none
  else (allCores.find? fun x => x.die == c.die && x.cluster != c.cluster && fits x
    && s.mayStand lead (order x).1 && s.mayStand follow (order x).2).map order

/-- The teams of an index that do not stand on a core, the leader first. -/
def State.absent (s : State) (lid : BitVec 32) (idx : Nat) : List Team :=
  sortBy (fun a b => !a.follower && b.follower)
    (s.teams.filter fun t => t.launch == lid && t.idx == idx && (t.at_ == .unstarted || t.at_ == .swapped))

/-- A team, or a pair of twins on two clusters of one die with the leader on the lower core, comes to stand on a core. -/
def State.place (s : State) (lid : BitVec 32) (idx : Nat) (c : CoreId) : State :=
  let d := s.desc lid
  let k := s.fresh
  match s.absent lid idx with
  | [t] => State.placeOne { s with fresh := k + d.groups } t c k k (teamRoom d)
  | [lead, follow] =>
    match s.pairCores d lead follow c fun _ => false with
    | none => s
    | some (lo, hi) =>
      let s := State.placeOne { s with fresh := k + 2 * d.groups } lead lo k (k + d.groups) (teamRoom d)
      s.placeOne follow hi (k + d.groups) k (teamRoom d)
  | _ => s

/-- A team can be placed on a core once the teams of `skip` are gone. -/
def State.canPlace (s : State) (lid : BitVec 32) (idx : Nat) (skip : Team → Bool) (c : CoreId) : Bool :=
  let d := s.desc lid
  match s.absent lid idx with
  | [t] => s.fitsOn true d.reach c (teamRoom d) skip && s.mayStand t c
  | [lead, follow] => (s.pairCores d lead follow c skip).isSome
  | _ => false

/-- The core of lowest number on which a team can be placed. -/
def State.firstCore (s : State) (lid : BitVec 32) (idx : Nat) : Option CoreId := allCores.find? (s.canPlace lid idx fun _ => false)

end Sys2Proof.Machine
end

