-- ==== Sys2Proof/Machine/Progress.lean ====
section
/-! DEFINITION. Progress: the check of a blocking wait (R131–R134), promotion (R135–R137), reversion (R138), and the end of a wait. -/
namespace Sys2Proof.Machine

/-! Waits and their targets. -/

/-- The kind of a wait (R131); a BAR, a remote message and a wait for trap entry have none of their own and count as kind 6. -/
def Wait.kind (own : BitVec 9 → Bool) : Wait → Nat
  | .lanes empties _ _ _ => if empties then 0 else 1
  | .deq _ _ _ => 2
  | .quiet _ _ => 3
  | .seq h _ => if own h then 6 else 4
  | .aclaim _ _ => 5
  | _ => 6

/-- A wait whose instruction executes again when it ends; the others take their result as they stand (R142). -/
def Wait.retries : Wait → Bool
  | .chead _ => true
  | .sreg _ => true
  | .mqueue => true
  | .entry _ _ _ _ => true
  | _ => false

/-- A group stands in a wait that has not ended. -/
def Group.waiting (g : Group) : Bool := g.wait.isSome && g.waitEnd == .pending

/-- The group stands in a wait that has not ended, other than for lanes of its own that fault service holds (R131, R309). -/
def Group.standing (g : Group) : Bool :=
  g.waiting && match g.wait with
    | some (.entry _ _ _ _) => g.heldOps.isEmpty
    | _ => true

/-- The group stands in a blocking wait (R131): a BAR is none, nor is fault service. -/
def Group.blocked (g : Group) : Bool :=
  g.standing && match g.wait with
    | some (.bar _) => false
    | _ => true

/-- A target of a wait (R132): the lanes it belongs to, its producer, and the tenant that owns it. -/
structure Target where
  lanes : Mask
  who : Option Producer
  reach : BitVec 4
  deriving DecidableEq, Repr

/-- The lane mask with one lane. -/
def oneLane (l : Nat) : Mask := Mask.ofFn fun i => i == l

/-- The channel that a launch owns. -/
def State.channel? (s : State) (h : BitVec 9) : Option Channel := s.channels.find? fun c => c.handle == h
/-- Changes a channel. -/
def State.onChannel (s : State) (h : BitVec 9) (f : Channel → Channel) : State :=
  { s with channels := updAll (fun c => c.handle == h) f s.channels }

/-- A channel belongs to a launch. -/
def State.ownsChannel (s : State) (lid : BitVec 32) (h : BitVec 9) : Bool :=
  match s.channel? h with
  | some c => c.launch == lid
  | none => false

/-- The launch has not ended. DESIGN CHOICE (log 71). -/
def State.isLive (s : State) (lid : BitVec 32) : Bool := (s.liveLaunch? lid).isSome

/-- The launch is live on a device of the pod (R166). DESIGN CHOICE (log 71). -/
def State.podLive (s : State) (lid : BitVec 32) : Bool := s.isLive lid || s.away.any fun a => a.lid == lid

/-- The tenant of a launch of the pod. -/
def State.podReach (s : State) (lid : BitVec 32) : BitVec 4 :=
  match s.launch? lid, s.away.find? fun a => a.lid == lid with
  | none, some a => a.reach
  | _, _ => s.reachOf lid

/-- A launch of the pod is marked NOPROMOTE. -/
def State.noPromote (s : State) (lid : BitVec 32) : Bool :=
  match s.launch? lid, s.away.find? fun a => a.lid == lid with
  | none, some a => a.noPromote
  | _, _ => (s.desc lid).noPromote

/-- A launch as the target of a uniform wait. -/
def State.launchTarget (s : State) (lid : BitVec 32) : Target :=
  { lanes := 0, who := some (.launch lid), reach := s.podReach lid }

/-- Launches in ascending identifier, each once. -/
def lidSort (l : List (BitVec 32)) : List (BitVec 32) := sortBy (fun a b => a.toNat < b.toNat) l.eraseDups

/-- The target of one lane: the binding of its word's granule (R165). -/
def State.laneTarget (s : State) (l : Lane) : Target :=
  match s.bindings.find? fun b => b.granule == granuleKey l.word with
  | some b => { lanes := oneLane l.lane, who := some b.prod, reach := b.reach }
  | none => { lanes := oneLane l.lane, who := none, reach := 0 }

/-- The launches that hold a tile in a tenant's partition on a core, or wait for one there ahead of a group (R131). -/
def State.tileHolders (s : State) (r : BitVec 4) (c : CoreId) (grp : Nat) : List (BitVec 32) :=
  let held := (s.teams.filter fun t => t.core == c && !t.tiles.isEmpty && s.reachOf t.launch == r).map Team.launch
  let ahead := ((s.core c).claims.takeWhile fun x => x.2.1 != grp).filter fun x => x.1 == r
  held ++ ahead.filterMap fun x => (s.group? x.2.1).map Group.launch

/-- The targets of a wait (R131, R132). -/
def State.targets (s : State) (g : Group) : Wait → List Target
  | .lanes _ _ _ todo => todo.map s.laneTarget
  | .deq r q _ =>
    match s.queues.find? fun x => x.reach == r && x.desc.qnum == q with
    | none => []
    | some x =>
      if strength (s.effective g.launch) ≤ strength x.desc.minClass then []
      else (lidSort (x.producers.filter s.podLive)).map s.launchTarget
  | .quiet r d =>
    match s.roots.find? fun x => x.reach == r && x.domain == d && x.isOpen with
    | none =>
      let far := (s.farRoots.filter fun x => x.reach == r && x.domain == d).flatMap FarRoot.members
      (lidSort (far.filter s.podLive)).map s.launchTarget
    | some x => (lidSort (x.members.filter s.podLive)).map s.launchTarget
  | .seq h _ =>
    match s.channel? h with
    | none => []
    | some c => if c.launch == g.launch then [] else [s.launchTarget c.launch]
  | .aclaim _ _ => (lidSort (s.tileHolders (s.reachOf g.launch) g.core g.key)).map s.launchTarget
  | _ => []

/-! The check (R133). -/

/-- TRAPINFO of a wait's fault (R133). -/
def waitInfo (target kind tclass wclass depth : Nat) : Word :=
  BitVec.ofNat 64 (target * 2 ^ 32 + kind * 2 ^ 28 + tclass * 2 ^ 26 + wclass * 2 ^ 24 + depth % 256 * 2 ^ 16)

/-- What the steps of R133 say of one target: 0 plain, 1 to 5 a fault by its step, 6 promotion; TRAPINFO; and the launch. -/
structure Verdict where
  step : Nat
  info : Word
  lanes : Mask
  lid : BitVec 32
  deriving DecidableEq, Repr

/-- Steps 1 to 6 of R133 for one target. The DEPTH of WAIT_UNBOUND is 0. DESIGN CHOICE (log 71). -/
def State.judge (s : State) (g : Group) (kind depth : Nat) (t : Target) : Verdict :=
  let w := s.effective g.launch
  let own := s.reachOf g.launch
  match t.who with
  | none => { step := 1, info := waitInfo 0 kind 0 (classCode w) 0, lanes := t.lanes, lid := 0 }
  | some .wharf =>
    { step := if t.reach == own then 0 else 2, info := waitInfo 0 kind 0 (classCode w) 0, lanes := t.lanes, lid := 0 }
  | some (.launch lid) =>
    let info := waitInfo lid.toNat kind (classCode (s.effective lid)) (classCode w)
    if t.reach != own then { step := 2, info := info 0, lanes := t.lanes, lid := lid }
    else if !s.podLive lid then
      { step := 1, info := waitInfo lid.toNat kind 0 (classCode w) 0, lanes := t.lanes, lid := lid }
    else if strength w ≤ strength (s.declared lid) then { step := 0, info := 0, lanes := t.lanes, lid := lid }
    else if s.noPromote lid then { step := 4, info := info depth, lanes := t.lanes, lid := lid }
    else if 5 ≤ depth then { step := 5, info := info depth, lanes := t.lanes, lid := lid }
    else { step := 6, info := info depth, lanes := t.lanes, lid := lid }

/-- The cause of a step of R133. -/
def stepCause (n : Nat) : Nat :=
  match n with
  | 1 => 0x0D
  | 2 => 0x0E
  | 4 => 0x0B
  | _ => 0x0C

/-- Sponsor and depth of a promotion by a launch's wait (R135). -/
def State.sponsorOf (s : State) (lid : BitVec 32) : BitVec 32 × Nat :=
  let e := s.effective lid
  if s.declared lid == e then (lid, 1)
  else
    match firstBy (fun a b => a.depth < b.depth || (a.depth == b.depth && a.id < b.id))
        (s.proms.filter fun p => p.target == lid && p.cls == e) with
    | some p => (p.sponsor, p.depth + 1)
    | none => (lid, 1)

/-! Placement of a promotion to Held (R137). -/

/-- Every choice of `k` elements of a list, in order. -/
def choose {α : Type} : (k : Nat) → List α → List (List α)
  | 0, _ => [[]]
  | _ + 1, [] => []
  | k + 1, x :: xs => (choose k xs).map (x :: ·) ++ choose (k + 1) xs

/-- Every live group of a team stands in a blocking wait. -/
def State.allWaiting (s : State) (t : Team) : Bool :=
  (s.liveOf t).all Group.blocked

/-- A resident that a promotion to Held may halt (R137 step 2). -/
def State.evictable (s : State) (tenant : BitVec 4) (t : Team) : Bool :=
  t.at_ == .resident && !t.follower &&
    match s.effective t.launch with
    | .spare => true
    | .queued => s.reachOf t.launch == tenant && !(s.proms.any fun p => p.target == t.launch) && s.allWaiting t
    | .held => false

/-- Of two sets of victims of one size, the one with fewer Queued teams comes first, then the one whose teams are younger, compared
from the youngest down (R137). -/
def State.victimsBefore (s : State) (a b : List Team) : Bool :=
  let q := fun l : List Team => (l.filter fun t => s.effective t.launch == .queued).length
  let young := fun l : List Team => sortBy (fun x y => y.older x) l
  q a < q b || (q a == q b &&
    match ((young a).zip (young b)).find? fun p => !(p.1.same p.2) with
    | some p => p.2.older p.1
    | none => false)

/-- Teams of which a twin stands where a team of launch `lid` would take room on core `c`. -/
def State.near (s : State) (lid : BitVec 32) (c : CoreId) (t : Team) : Bool :=
  s.teams.any fun x => x.launch == t.launch && x.idx == t.idx && (x.core == c || ((s.desc lid).paired && x.core.die == c.die))

/-- A team is one of some teams, or a twin of one. -/
def among (l : List Team) (t : Team) : Bool := l.any fun v => v.launch == t.launch && v.idx == t.idx

/-- The teams, of those that `may` picks, that must be halted for a team to fit on a core: the smallest number, and the best set of
that size. DESIGN CHOICE (log 72). -/
def State.victimsFor (s : State) (may : Team → Bool) (lid : BitVec 32) (idx : Nat) (c : CoreId) : Option (List Team) :=
  let cand := s.teams.filter fun t => may t && s.near lid c t
  (List.range (cand.length + 1)).findSome? fun k =>
    firstBy s.victimsBefore ((choose k cand).filter fun l => s.canPlace lid idx (among l) c)

/-- The lowest core on which a team fits once the smallest set of victims is halted. -/
def State.evictionCore (s : State) (tenant : BitVec 4) (lid : BitVec 32) (idx : Nat) : Option (CoreId × List Team) :=
  (allCores.filter fun c => !s.coreOff (s.reachOf lid) c).findSome? fun c => (s.victimsFor (s.evictable tenant) lid idx c).map fun v => (c, v)

/-- Halts teams and swaps them out. -/
def State.swapAll (s : State) (ts : List Team) : State := ts.foldl (fun s t => s.swapOut t.launch t.idx) s

/-- The cores of unused reserve slots of the sponsor that cover a team and on which it may stand, the lowest core first.
DESIGN CHOICE (log 72). -/
def State.reserveCores (s : State) (sponsor : BitVec 32) (t : Team) : List CoreId :=
  match s.liveLaunch? sponsor with
  | none => []
  | some l =>
    if !(teamRoom l.desc).covers (teamRoom (s.desc t.launch)) then []
    else sortBy (fun a b => coreNum a < coreNum b)
      ((l.reserve.filter fun x => x.2.isNone && s.mayStand t x.1 && !s.isFenced x.1 && !s.coreOff (s.reachOf t.launch) x.1).map Prod.fst)

/-- The lowest of them. -/
def State.reserveCore (s : State) (sponsor : BitVec 32) (t : Team) : Option CoreId := (s.reserveCores sponsor t).head?

/-- Reserve slots for both twins of a pair, on two clusters of one die with the leader on the lower core (R315).
DESIGN CHOICE (log 72). -/
def State.reservePair (s : State) (sponsor : BitVec 32) (lead follow : Team) : Option (CoreId × CoreId) :=
  let fs := s.reserveCores sponsor follow
  (s.reserveCores sponsor lead).findSome? fun a =>
    (fs.find? fun b => b.die == a.die && b.cluster != a.cluster && coreNum a < coreNum b).map fun b => (a, b)

/-- Charges one unused reserve slot of a sponsor on a core to a record. -/
def chargeSlot (c : CoreId) (id : Nat) : List (CoreId × Option Nat) → List (CoreId × Option Nat)
  | [] => []
  | x :: xs => if x.1 == c && x.2.isNone then (c, some id) :: xs else x :: chargeSlot c id xs

/-- A team sits in a reserve slot of a sponsor on a core, charged to a record. -/
def State.charge (s : State) (sponsor : BitVec 32) (c : CoreId) (id : Nat) (t : Team) : State :=
  let s := s.onLaunch sponsor fun l => { l with reserve := chargeSlot c id l.reserve }
  let s := s.onTeamOnly t fun t => { t with charged := some id }
  { s with proms := updAll (fun p => p.id == id) (fun p => { p with charged := p.charged + 1 }) s.proms }

/-- A team takes a reserve slot of a record's sponsor on a core, with groups numbered from `key` and its twin's from `twin`. -/
def State.placeReserved (s : State) (p : Prom) (t : Team) (c : CoreId) (key twin : Nat) : State :=
  (s.charge p.sponsor c p.id t).placeOne { t with charged := some p.id } c key twin Room.zero

/-- Step 1 of R137: the team, or both twins of a pair, take reserve slots of the sponsor. DESIGN CHOICE (log 72). -/
def State.placeInReserve (s : State) (p : Prom) (t : Team) : Option State :=
  let n := (s.desc t.launch).groups
  let k := s.fresh
  match s.absent t.launch t.idx with
  | [t] => (s.reserveCore p.sponsor t).map fun c => State.placeReserved { s with fresh := k + n } p t c k k
  | [lead, follow] => (s.reservePair p.sponsor lead follow).map fun x =>
    (State.placeReserved { s with fresh := k + 2 * n } p lead x.1 k (k + n)).placeReserved p follow x.2 (k + n) k
  | _ => none

/-- Places one team of a target that a record promotes to Held (R137); none: the plan fails. DESIGN CHOICE (log 72). -/
def State.placeHeld (s : State) (tenant : BitVec 4) (p : Prom) (t : Team) : Option State :=
  (s.placeInReserve p t).orElse fun _ =>
    (s.evictionCore tenant t.launch t.idx).map fun x => (s.swapAll x.2).place t.launch t.idx x.1

/-- Places every team of a record's target that does not stand on a core, the oldest first; none: some team finds no place.
DESIGN CHOICE (log 72). -/
def State.placeTarget (s : State) (tenant : BitVec 4) (p : Prom) : Option State :=
  let ts := sortBy Team.older (s.teams.filter fun t =>
    t.launch == p.target && !t.follower && (t.at_ == .unstarted || t.at_ == .swapped))
  ts.foldl (fun o t => o.bind fun s => s.placeHeld tenant p t) (some s)

/-- What a check answers: a fault (cause, TRAPINFO, TRAPLANES), or the records that the wait holds; and the state after. -/
structure Checked where
  fault : Option (Nat × Word × Mask)
  st : State
  holds : List Nat

/-- Step 6 for one launch: a matching record counts the wait; else a record is made, and promotion to Held places the target. -/
def State.promote (s : State) (g : Group) (sponsor : BitVec 32) (depth : Nat) (lid : BitVec 32) : Option (State × Nat) :=
  let w := s.effective g.launch
  let tenant := s.reachOf g.launch
  match s.proms.find? fun p => p.target == lid && p.sponsor == sponsor && p.cls == w with
  | some p => some (s, p.id)
  | none =>
    if 256 ≤ (s.proms.filter fun p => p.reach == tenant).length then none
    else
      let p : Prom := { id := s.fresh, reach := tenant, target := lid, cls := w, sponsor := sponsor, depth := depth
                        count := 0, charged := 0 }
      let s1 : State := { s with fresh := s.fresh + 1, proms := s.proms ++ [p] }
      if w == .held then (s1.placeTarget tenant p).map fun s2 => (s2, p.id) else some (s1, p.id)

/-- One more wait is held through each record. -/
def State.countWaits (s : State) (ids : List Nat) : State :=
  { s with proms := s.proms.map fun p => { p with count := p.count + (ids.filter fun i => i == p.id).length } }

/-- The check of R133 for the targets of a wait of a group: nothing changes unless every target passes. The weaker producers of a lane-set
wait are promoted, and placed, in the order of their lowest lanes. DESIGN CHOICE (log 71). -/
def State.checkWait (s : State) (g : Group) (kind : Nat) (ts : List Target) : Checked :=
  let sd := s.sponsorOf g.launch
  let vs := ts.map (s.judge g kind sd.2)
  let bad := fun (vs : List Verdict) (n : Nat) =>
    let hit := vs.filter fun v => v.step == n
    (stepCause n, ((hit.head?).map Verdict.info).getD 0,
      if kind ≤ 1 then hit.foldl (fun m v => m ||| v.lanes) 0 else g.em)
  match [1, 2, 4, 5].find? fun n => vs.any fun v => v.step == n with
  | some n => { fault := some (bad vs n), st := s, holds := [] }
  | none =>
    let lids := ((vs.filter fun v => v.step == 6).map Verdict.lid).eraseDups
    let r := lids.foldl (fun (acc : State × List Nat × List (BitVec 32)) lid =>
      match acc.1.promote g sd.1 sd.2 lid with
      | some (s, id) => (s, acc.2.1 ++ [id], acc.2.2)
      | none => (acc.1, acc.2.1, acc.2.2 ++ [lid])) (s, [], [])
    if r.2.2.isEmpty then { fault := none, st := r.1.countWaits r.2.1, holds := r.2.1 }
    else { fault := some (bad (vs.filter fun v => v.step == 6 && r.2.2.contains v.lid) 6), st := s, holds := [] }

/-- The group in turn begins a blocking wait, under the check of R133. -/
def State.waitOn (s : State) (w : Wait) : Out :=
  let c := s.checkWait s.g (w.kind fun h => s.ownsChannel s.g.launch h) (s.targets s.g w)
  match c.fault with
  | some (cause, info, lanes) => s.trapAt cause info lanes
  | none => c.st.beginWait w c.holds

/-! The end of a wait. -/

/-- The teams that wait-swap took out may return when one of their waits has ended; they count as submitted then (R130, R141). -/
def State.mayReturn (s : State) (g : Group) : State :=
  { s with
    fresh := s.fresh + 1
    teams := updAll (fun t => t.holds g && t.waitSwapped) (fun t => { t with waitSwapped := false, order := s.fresh }) s.teams }

/-- Satisfies the wait of one group. -/
def State.satisfyOne (s : State) (k : Nat) : State :=
  match s.group? k with
  | none => s
  | some g =>
    if !g.waiting then s
    else
      let s := (s.dropWaits g.holds).mayReturn g
      s.onGroup k fun g => { g with waitEnd := .satisfied, holds := [] }

/-- Makes the wait of one group end in a trap, which it takes when it next issues. -/
def State.failOne (s : State) (k : Nat) (cause : Nat) (info : Word) (lanes : Mask) : State :=
  match s.group? k with
  | none => s
  | some g =>
    if !g.waiting then s
    else
      let s := (s.dropWaits g.holds).mayReturn g
      s.onGroup k fun g => { g with waitEnd := .trap cause info lanes, holds := [] }

/-- The groups whose wait `p` picks, in the order in which they began to wait. -/
def State.waiters (s : State) (p : Group → Wait → Bool) : List Group :=
  sortBy (fun a b => a.since < b.since) (s.groups.filter fun g => !g.ended && g.waiting &&
    match g.wait with
    | some w => p g w
    | none => false)

/-- Satisfies the waits that `p` picks. -/
def State.satisfyAll (s : State) (p : Group → Wait → Bool) : State :=
  (s.waiters p).foldl (fun s g => s.satisfyOne g.key) s

/-- A wait for an s register, or for the results before a trap, that nothing keeps any longer (R18, R117). -/
def Group.resultsIn (g : Group) : Wait → Bool
  | .sreg r => !(g.pendS.any fun p => p.reg == r)
  | .yielded r => !(g.pendS.any fun p => p.reg == r)
  | .entry _ _ _ _ => !g.entryWaits
  | _ => false

/-- An engine writes the status of an operation, in a pair for both twins (R201, R316), and the waits for it end. -/
def State.writeStatus (s : State) (op : Nat) (x : Word) (j : Option Join := none) : State :=
  (s.mapGroups fun g => g.writeStatus op x j).satisfyAll Group.resultsIn

/-- Makes the waits that `p` picks end in the same trap; TRAPLANES receives each group's EM. -/
def State.failAll (s : State) (p : Group → Wait → Bool) (cause : Nat) (info : Group → Word) : State :=
  (s.waiters p).foldl (fun s g => s.failOne g.key cause (info g) g.em) s

/-! Checks made again (R134, and the last of R132). -/

/-- The lanes of a wait that have not been served. -/
def Wait.todo : Wait → List Lane
  | .lanes _ _ _ l => l
  | _ => []

/-- The mask of unserved lanes. -/
def Wait.unserved (w : Wait) : Mask := w.todo.foldl (fun m l => m ||| oneLane l.lane) 0

/-- The launches that a wait's targets name. -/
def State.targetLids (s : State) (g : Group) (w : Wait) : List (BitVec 32) :=
  (s.targets g w).filterMap fun t => match t.who with
    | some (.launch lid) => some lid
    | _ => none

/-- A wait of a group is checked against some targets while it is pending: a fault ends the wait, otherwise it holds what the check
gives, and what it held on launches that are still targets. -/
def State.recheck (s : State) (g : Group) (w : Wait) (ts : List Target) : State :=
  let c := s.checkWait g (w.kind fun h => s.ownsChannel g.launch h) ts
  match c.fault with
  | some (cause, info, _) =>
    s.failOne g.key cause info (match w with | .lanes _ _ _ _ => w.unserved | _ => g.em)
  | none =>
    let lids := s.targetLids g w
    let keep := g.holds.filter fun i => s.proms.any fun p => p.id == i && lids.contains p.target
    let twice := c.holds.filter keep.contains
    let s := c.st.dropWaits (twice ++ g.holds.filter fun i => !keep.contains i)
    s.onGroup g.key fun g => { g with holds := keep ++ c.holds.filter fun i => !keep.contains i }

/-- Granules have been bound again: the lanes whose words lie in them are checked against the new binding (R134). DEDUCED (log 46). -/
def State.recheckGranules (s : State) (grans : List Nat) : State :=
  let touched := fun (w : Wait) => w.todo.filter fun l => grans.contains (granuleKey l.word)
  (s.waiters fun _ w => !(touched w).isEmpty).foldl (fun s g =>
    match g.wait with
    | some w => s.recheck ((s.group? g.key).getD g) w ((touched w).map s.laneTarget)
    | none => s) s

/-- A launch has joined a queue's producer set or a domain's member set: the waits on it are checked (R132). -/
def State.recheckJoin (s : State) (lid : BitVec 32) (p : Wait → Bool) : State :=
  (s.waiters fun _ w => p w).foldl (fun s g =>
    match g.wait with
    | some w =>
      let g := (s.group? g.key).getD g
      s.recheck g w ((s.targets g w).filter fun t => t.who == some (.launch lid))
    | none => s) s

/-! Reversion (R138, R140). -/

/-- A record's charged slots are free. -/
def State.freeCharges (s : State) (id : Nat) : State :=
  { s with launches := s.launches.map fun l => { l with reserve := l.reserve.map fun x => (x.1, if x.2 == some id then none else x.2) } }

/-- A record leaves: the slots that it charges are free, and no wait holds it. -/
def State.forget (s : State) (id : Nat) : State :=
  let s := s.freeCharges id
  State.mapGroups { s with proms := s.proms.filter fun p => p.id != id } fun g => { g with holds := g.holds.filter fun i => i != id }

/-- A team leaves its charged slot (R138): another Held record of the target takes over its residency, in a free reserve slot of its own
sponsor on the team's core, or uncharged; else it stays where free room covers it, or is swapped out. No slot on
another core is taken. DESIGN CHOICE (log 72). -/
def State.leaveSlot (s : State) (t : Team) : State :=
  let others := s.proms.filter fun p => p.target == t.launch && p.cls == .held
  let s := s.onTeamOnly t fun t => { t with charged := none }
  let t := { t with charged := none }
  match others.find? fun p => match s.liveLaunch? p.sponsor with
      | some l => (l.reserve.any fun x => x.1 == t.core && x.2.isNone) && (teamRoom l.desc).covers (teamRoom (s.desc t.launch))
      | none => false with
  | some p => s.charge p.sponsor t.core p.id t
  | none =>
    if !others.isEmpty then s
    else if s.fitsOn false (s.reachOf t.launch) t.core (teamRoom (s.desc t.launch)) fun x => x.same t then s
    else s.swapOut t.launch t.idx

/-- The teams that sit in a record's charged slots. -/
def State.chargedBy (s : State) (p : Prom) : List Team := s.teams.filter fun t => t.charged == some p.id && t.at_ == .resident

/-- The waits that hold one record hold another instead. -/
def State.rehold (s : State) (a b : Nat) : State :=
  s.mapGroups fun g => if g.holds.contains a then { g with holds := (b :: g.holds.filter fun i => i != a && i != b) } else g

/-- A record takes a lower class, with its charges gone, or becomes one with the record that the target has from its sponsor at that
class (R135, R140). DESIGN CHOICE (log 72). -/
def State.lowerRecord (s : State) (p : Prom) (e : Class) : State :=
  let ts := s.chargedBy p
  let s := s.freeCharges p.id
  let s := match s.proms.find? fun q => q.id != p.id && q.target == p.target && q.sponsor == p.sponsor && q.cls == e with
    | some q =>
      let s := s.rehold p.id q.id
      { s with proms := updAll (fun x => x.id == q.id) (fun x => { x with count := x.count + p.count }) (s.proms.filter fun x => x.id != p.id) }
    | none => { s with proms := updAll (fun x => x.id == p.id) (fun x => { x with cls := e, charged := 0 }) s.proms }
  ts.foldl State.leaveSlot s

/-- The wait of a group, whose launch has the class `e` now, lets go of a record of a stronger class (R134): where the wait has become
plain it holds nothing; where no wait of a stronger class holds the record, the record is lowered; else the wait holds one of its own at
the lower class, while the tenant has room for one (R133), and with no room goes on holding the record. Where the new record's depth would
be 5 (R135), it takes the sponsor and the depth of the record that it leaves. DESIGN CHOICE (log 72). -/
def State.lowerHold (s : State) (e : Class) (k : Nat) (p : Prom) : State :=
  if strength e ≤ strength (s.declared p.target) then
    (s.dropWaits [p.id]).onGroup k fun g => { g with holds := g.holds.filter fun i => i != p.id }
  else if (s.waiters fun g _ => g.holds.contains p.id).all fun g => strength (s.effective g.launch) ≤ strength e then s.lowerRecord p e
  else
    let sd := s.sponsorOf (((s.group? k).map Group.launch).getD 0)
    let sd := if 5 ≤ sd.2 then (p.sponsor, p.depth) else sd
    let move := fun (s : State) (id : Nat) =>
      ((s.dropWaits [p.id]).countWaits [id]).onGroup k fun g => { g with holds := id :: g.holds.filter fun i => i != p.id }
    match s.proms.find? fun q => q.target == p.target && q.sponsor == sd.1 && q.cls == e with
    | some q => move s q.id
    | none =>
      if 256 ≤ (s.proms.filter fun q => q.reach == p.reach).length then s
      else
        let q : Prom := { id := s.fresh, reach := p.reach, target := p.target, cls := e, sponsor := sd.1, depth := sd.2, count := 0, charged := 0 }
        move { s with fresh := s.fresh + 1, proms := s.proms ++ [q] } q.id

/-- The effective class of a launch may have fallen: the records that its waits hold are lowered or dropped, and those of their targets'
waits in turn (R134, R138); `n` bounds the depth. -/
def State.lowerWaits : (n : Nat) → (lid : BitVec 32) → State → State
  | 0, _, s => s
  | n + 1, lid, s =>
    let holds := (s.waiters fun g _ => g.launch == lid).flatMap fun g => g.holds.map fun i => (g.key, i)
    holds.foldl (fun s x =>
      match s.proms.find? fun p => p.id == x.2 with
      | none => s
      | some p =>
        let e := s.effective lid
        if strength p.cls ≤ strength e || !((s.group? x.1).map fun g => g.holds.contains p.id).getD false then s
        else State.lowerWaits n p.target (s.lowerHold e x.1 p)) s

/-- How many records can revert at one boundary: those that there are, and one that each hold may make of its own. -/
def State.revertBound (s : State) : Nat := s.proms.length + (s.groups.map fun g => g.holds.length).foldl (· + ·) 0

/-- A record reverts (R138). The holds of a chain are lowered down to its end: each is lowered at most twice. -/
def State.revert (s : State) (p : Prom) : State :=
  let ts := s.chargedBy p
  let s := s.forget p.id
  let s := ts.foldl State.leaveSlot s
  State.lowerWaits (2 * s.revertBound + 1) p.target s

/-- A reach is not halted: it holds its slice. DEDUCED (log 77). -/
def State.inSlice (s : State) (r : BitVec 4) : Bool :=
  match s.reach? r with
  | some x => !x.halted
  | none => false

/-- The idle records of tenants that hold a slice revert, nested ones too; `n` bounds how many. -/
def State.revertIdle : (n : Nat) → State → State
  | 0, s => s
  | n + 1, s =>
    match s.proms.find? fun p => p.count == 0 && s.inSlice p.reach with
    | some p => State.revertIdle n (s.revert p)
    | none => s

end Sys2Proof.Machine
end

