-- ==== Sys2Proof/Machine/Exchange.lean ====
section
/-! DEFINITION. Exchange between the lanes of a group (R147–R155), with the tree and the scan of R60, and barriers between the groups
of a team (R156–R158). -/
namespace Sys2Proof.Machine

/-- What lane `k` supplies to PERM, LXCH and SGET (R103, R147): a never-launched lane supplies 0. -/
def Group.source (g : Group) (a : LReg) (k : Nat) : Word := if g.launched.has k then g.lane a k else 0

/-- PERM (R150). -/
def execPerm (w : Width) (d a b : LReg) (gd : Guard) (s : State) : Out :=
  let n := widthBits w
  s.done (s.g.writeL (s.g.acts gd) d fun l =>
    ofElems n fun i => elem n i (s.g.source a (elem n i (s.g.lane b l) % 32)))

/-- The source lane of LXCH (R151). -/
def xchLane (x : Xch) (l : Nat) : Nat :=
  match x with
  | .bcast n => n.toNat
  | .rot n => (l + n.toNat) % 32
  | .mirror n => (l ^^^ (2 ^ n.toNat - 1)) % 32
  | .xor n => (l ^^^ n.toNat) % 32

/-- LXCH (R151). -/
def execLxch (x : Xch) (d a : LReg) (gd : Guard) (s : State) : Out :=
  s.done (s.g.writeL (s.g.acts gd) d fun l => s.g.source a (xchLane x l))

/-! The tree and the scan of R60. -/

/-- The element width of a reduction (R152). -/
def redWidth : Reduce → Nat
  | .int _ w => widthBits w
  | .flt _ f => (fmtOf f).width

/-- The identity of a reduction (R60). -/
def redIdentity : Reduce → Nat
  | .int .add _ => 0
  | .int .and w => 2 ^ widthBits w - 1
  | .int .or _ => 0
  | .int .xor _ => 0
  | .int .smin w => 2 ^ (widthBits w - 1) - 1
  | .int .smax w => 2 ^ (widthBits w - 1)
  | .int .umin w => 2 ^ widthBits w - 1
  | .int .umax _ => 0
  | .flt .fadd f => (fmtOf f).signBit true
  | .flt .fmin f => (fmtOf f).infCode
  | .flt .fmax f => (fmtOf f).infCode + (fmtOf f).signBit true

/-- The operation of a reduction (R152); `u` has the lower index. -/
def redOp (r : Reduce) (rm : BitVec 2) (u w : Nat) : FRes :=
  match r with
  | .int .add n => ((u + w) % 2 ^ widthBits n, 0)
  | .int .and _ => (u &&& w, 0)
  | .int .or _ => (u ||| w, 0)
  | .int .xor _ => (u ^^^ w, 0)
  | .int .smin n => (if sval (widthBits n) w < sval (widthBits n) u then w else u, 0)
  | .int .smax n => (if sval (widthBits n) u < sval (widthBits n) w then w else u, 0)
  | .int .umin _ => (if w < u then w else u, 0)
  | .int .umax _ => (if u < w then w else u, 0)
  | .flt .fadd f => (fmtOf f).add rm u w
  | .flt .fmin f => (fmtOf f).minMax false u w
  | .flt .fmax f => (fmtOf f).minMax true u w

/-- One level of the tree: neighbours are combined. -/
def pairUp (op : Nat → Nat → FRes) : List Nat → List Nat × BitVec 5
  | a :: b :: rest =>
    let x := op a b
    let y := pairUp op rest
    (x.1 :: y.1, x.2 ||| y.2)
  | l => (l, 0)

/-- The tree of R60 over 2^n values. -/
def treeOf (op : Nat → Nat → FRes) : (n : Nat) → List Nat → FRes
  | 0, l => (l.headD 0, 0)
  | n + 1, l =>
    let p := pairUp op l
    let r := treeOf op n p.1
    (r.1, p.2 ||| r.2)

/-- One level of the scan: every value from `k` on is combined with the one `k` places below. -/
def scanLevel (op : Nat → Nat → FRes) (k : Nat) (l : List Nat) : List Nat × BitVec 5 :=
  let r := List.zipWith op l (l.drop k)
  (l.take k ++ r.map Prod.fst, r.foldl (fun f x => f ||| x.2) 0)

/-- The scan of R60: levels 2^0 to 2^4. -/
def scanOf (op : Nat → Nat → FRes) (l : List Nat) : List Nat × BitVec 5 :=
  [1, 2, 4, 8, 16].foldl (fun (acc : List Nat × BitVec 5) k =>
    let r := scanLevel op k acc.1
    (r.1, acc.2 ||| r.2)) (l, 0)

/-- The 32 values that enter at an element position (R60): a lane that does not act enters as the identity. -/
def Group.redInputs (g : Group) (r : Reduce) (m : Mask) (a : LReg) (i : Nat) : List Nat :=
  (List.range 32).map fun l => if m.has l then elem (redWidth r) i (g.lane a l) else redIdentity r

/-- LRED (R153). -/
def execLred (r : Reduce) (d a : LReg) (gd : Guard) (s : State) : Out :=
  let m := s.g.acts gd
  let res := fun i => treeOf (redOp r s.g.frm) 5 (s.g.redInputs r m a i)
  let g := s.g.writeL m d fun _ => ofElems (redWidth r) fun i => (res i).1
  s.done (if m = 0 then g else g.raise (flagsN (fun i => (res i).2) (64 / redWidth r)))

/-- LSCAN (R154). -/
def execLscan (r : Reduce) (exc : Bool) (d a : LReg) (gd : Guard) (s : State) : Out :=
  let m := s.g.acts gd
  let res := fun i => scanOf (redOp r s.g.frm) (s.g.redInputs r m a i)
  let y := fun i l => if exc then (if l == 0 then redIdentity r else (res i).1.getD (l - 1) 0) else (res i).1.getD l 0
  let g := s.g.writeL m d fun l => ofElems (redWidth r) fun i => y i l
  s.done (if m = 0 then g else g.raise (flagsN (fun i => (res i).2) (64 / redWidth r)))

/-- The result of VOTE (R155). -/
def voteOf (mode : VoteMode) (em b : Mask) : Word :=
  match mode with
  | .all => if b = em then 1 else 0
  | .any => if b = 0 then 0 else 1
  | .ballot => b.setWidth 64
  | .count => BitVec.ofNat 64 b.lanes.length

/-- VOTE (R155). -/
def execVote (sd : SReg) (p : PReg) (mode : VoteMode) (s : State) : Out :=
  s.done (s.g.setS sd (voteOf mode s.g.em (s.g.em &&& s.g.preg p)))

/-! Barriers. -/

/-- TRAPINFO of BAR_MASK (R157). -/
def barInfo (other : Mask) (reason grp : Nat) : Word :=
  BitVec.ofNat 64 (other.toNat * 2 ^ 32 + reason * 2 ^ 30 + grp)

/-- BAR_MASK. -/
def barMask : Nat := 0x0A

/-- The lowest group that a mask names and that is outside the team or has ended (R156). -/
def badMember (groups : Nat) (gone m : Mask) : Option Nat :=
  m.lanes.find? fun i => groups ≤ i || gone.has i

/-- A barrier of a team. -/
def Team.bar? (t : Team) (n : BitVec 4) : Option Barrier := t.bars.find? fun b => b.n == n
/-- The barriers of a team with one of them changed, or emptied. -/
def Team.setBar (t : Team) (n : BitVec 4) (b : Option Barrier) : Team :=
  { t with bars := b.toList ++ t.bars.filter fun x => x.n != n }

/-- Every group that stands at a barrier of a team and has arrived traps BAR_MASK. -/
def State.breakBar (s : State) (t : Team) (b : Barrier) (other : Mask) (reason grp : Nat) : State :=
  let s := (s.waiters fun g w => t.holds g && b.arrived.contains g.idx && w == .bar b.n).foldl
    (fun s g => s.failOne g.key barMask (barInfo other reason grp) g.em) s
  s.onTeamOnly t fun t => t.setBar b.n none

/-- The barrier is complete: every recorded group is released, and the team's counts since its last BAR start again (R145, R156). The
retirement of the completing BAR itself comes after that and counts 1. DEDUCED (log 82). -/
def State.releaseBar (s : State) (t : Team) (n : BitVec 4) : State :=
  let s := s.satisfyAll fun g w => t.holds g && w == .bar n
  let s := s.mapGroups fun g => if t.holds g then { g with sinceBar := 0 } else g
  s.onTeamOnly t fun t => t.setBar n none

/-- BAR (R156). DEDUCED (log 82). -/
def execBar (n : BitVec 4) (sa : SReg) (s : State) : Out :=
  let m : Mask := (s.g.sreg sa).setWidth 32
  match s.teamOf? s.g with
  | none => s.trapU barMask (barInfo 0 2 s.g.idx)
  | some t =>
    if !m.has s.g.idx then s.trapU barMask (barInfo 0 1 s.g.idx)
    else
      match badMember s.gdesc.groups t.gone m with
      | some i => s.trapU barMask (barInfo 0 2 i)
      | none =>
        let b : Barrier := (t.bar? n).getD { n := n, mask := m, arrived := [] }
        if b.mask != m then (s.breakBar t b m 0 s.g.idx).trapU barMask (barInfo b.mask 0 s.g.idx)
        else
          let b := { b with arrived := s.g.idx :: b.arrived }
          if Mask.ofFn b.arrived.contains = b.mask then
            let s := s.releaseBar t n
            s.done s.g
          else (s.onTeamOnly t fun t => t.setBar n (some b)).beginWait (.bar n)

/-- A group has ended: every barrier of its team that names it and that it has not joined breaks (R158). DEDUCED (log 82). -/
def State.memberEnded (s : State) (t : Team) (idx : Nat) : State :=
  (t.bars.filter fun b => b.mask.has idx && !b.arrived.contains idx).foldl (fun s b => s.breakBar t b 0 2 idx) s

end Sys2Proof.Machine
end

