-- ==== Sys2Proof/Machine/Weir.lean ====
section
/-! DEFINITION. The Weir: quiescence weight, roots, proxies and return messages (R235–R241, R376), and the QOP instructions. -/
namespace Sys2Proof.Machine

/-- A reach that this device has evacuated has gone to another device, and its roots with it (R377). -/
def State.movedAway (s : State) (r : BitVec 4) : Bool :=
  (s.rehomed.any fun x => x.1 == r && x.2 != s.device) && s.contexts.any fun c => c.reach.id == r && c.device == s.device

/-- The open root of a domain on this device. -/
def State.root? (s : State) (r : BitVec 4) (d : BitVec 10) : Option Root :=
  if s.movedAway r then none else s.roots.find? fun x => x.reach == r && x.domain == d && x.isOpen
/-- Changes the root of a domain. -/
def State.onRoot (s : State) (r : BitVec 4) (d : BitVec 10) (f : Root → Root) : State :=
  { s with roots := updAll (fun x => x.reach == r && x.domain == d) f s.roots }
/-- The root becomes Closed and keeps its counts. DEDUCED (log 66). -/
def State.closeRoot (s : State) (r : BitVec 4) (d : BitVec 10) : State := s.onRoot r d fun x => { x with isOpen := false }
/-- The proxy of a domain whose root is on another device (R376). -/
def State.proxy? (s : State) (r : BitVec 4) (d : BitVec 10) : Option Proxy := s.proxies.find? fun x => x.reach == r && x.domain == d

/-- Where the root of a domain is that is not on this device, as far as this device knows: its proxy's, or an Open one's.
DEDUCED (log 66). -/
def State.farRoot? (s : State) (r : BitVec 4) (d : BitVec 10) : Option (BitVec 8) :=
  match s.proxy? r d with
  | some p => some p.root
  | none => (s.farRoots.find? fun x => x.reach == r && x.domain == d).map FarRoot.dev
/-- Changes what this device knows of a root on another device. -/
def State.onFarRoot (s : State) (r : BitVec 4) (d : BitVec 10) (f : FarRoot → FarRoot) : State :=
  { s with farRoots := updAll (fun x => x.reach == r && x.domain == d) f s.farRoots }
/-- A root on another device is known, or no longer. -/
def State.setFarRoot (s : State) (r : BitVec 4) (d : BitVec 10) (dev : BitVec 8) (isOpen : Bool) : State :=
  let rest := s.farRoots.filter fun x => !(x.reach == r && x.domain == d)
  { s with farRoots := if isOpen then { reach := r, domain := d, dev := dev, members := [] } :: rest else rest }

/-! Messages between devices (R370, R372, R375, R376). -/

/-- How many messages of a class this device has sent. -/
def State.sentCount (s : State) (cls : Nat) : Nat := ((s.sent.find? fun x => x.1 == cls).map Prod.snd).getD 0

/-- The nonce of a message (R372): its source device, its class and the class's message count. DEDUCED (log 87). -/
def OutMsg.nonce (m : OutMsg) (dev : BitVec 8) : BitVec 96 := dev ++ BitVec.ofNat 8 m.cls ++ BitVec.ofNat 80 m.count

/-- A message to another device (R375, R376). -/
def State.send (s : State) (dest : BitVec 8) (m : RemoteMsg) (grp op : Nat) (tag : Nat) : State :=
  let n := s.sentCount 2 + 1
  { s with
    outbox := s.outbox ++ [{ tag := tag, dest := dest, cls := 2, msg := m, grp := grp, op := op, count := n, flying := true }]
    sent := (2, n) :: s.sent.filter fun x => x.1 != 2
    traffic := ((s.agentReach (.group grp)).map fun r => { reach := r, rd := 0, wr := 0, sent := 1 : Traffic }).toList ++ s.traffic }

/-- A message to another device that no reply follows. -/
def State.answer (s : State) (dev : BitVec 8) (m : RemoteMsg) : State :=
  { s.send dev m 0 0 s.fresh with fresh := s.fresh + 1 }

/-- Which replies to a message keep their order (R370): 1 a status, 2 a borrow's; 0: no reply follows, or not at once. -/
def replied : RemoteMsg → Nat
  | .enq _ _ _ _ _ _ => 1
  | .deparm _ _ _ _ _ _ _ _ _ => 1
  | .depdec _ _ _ _ _ => 1
  | .weirBorrow _ _ _ _ _ _ => 2
  | _ => 0

/-- A message that is over when it has arrived. -/
def oneWay (m : RemoteMsg) : Bool := replied m == 0 && match m with
  | .quiet _ _ _ _ => false
  | _ => true

/-- A message has arrived at its device, and those that were sent there before it (R370). -/
def land (dest : BitVec 8) (tag : Nat) : List OutMsg → List OutMsg
  | [] => []
  | m :: ms =>
    if m.dest != dest then m :: land dest tag ms
    else
      (if oneWay m.msg then [] else [{ m with flying := false }]) ++ if m.tag == tag then ms else land dest tag ms

/-- A message of the outbox. -/
def State.sent? (s : State) (tag : Nat) : Option OutMsg := s.outbox.find? fun m => m.tag == tag

/-- A message arrives. DEDUCED (log 87). -/
def State.landed (s : State) (tag : Nat) : State :=
  match s.sent? tag with
  | none => s
  | some m => { s with outbox := land m.dest tag s.outbox }

/-- The answer to a message has come: the state without it, and the message; none: no such message, or one that another answer of its
device comes before (R370). DEDUCED (log 87). -/
def State.answered (s : State) (tag : Nat) : Option (State × OutMsg) :=
  match s.sent? tag with
  | none => none
  | some m =>
    let first := s.outbox.find? fun x => x.dest == m.dest && replied x.msg == replied m.msg
    if replied m.msg != 0 && first.map OutMsg.tag != some tag then none
    else some ({ s with outbox := (land m.dest tag s.outbox).filter fun x => x.tag != tag }, m)

/-- The balance that a root keeps for a device (R376). -/
def Root.balance (x : Root) (dev : BitVec 8) : Int := ((x.balances.find? fun y => y.1 == dev).map Prod.snd).getD 0

/-- Changes the balance that a root keeps for a device. -/
def Root.setBalance (x : Root) (dev : BitVec 8) (f : Int → Int) : Root :=
  let rest := x.balances.filter fun y => y.1 != dev
  { x with balances := if f (x.balance dev) == 0 then rest else (dev, f (x.balance dev)) :: rest }

/-- A root's balance for another device changes; where it comes to 0, the device's proxy is freed (R376). DEDUCED (log 65). -/
def State.onBalance (s : State) (r : BitVec 4) (d : BitVec 10) (dev : BitVec 8) (f : Int → Int) : State :=
  match s.root? r d with
  | none => s
  | some x =>
    if dev == s.device then s
    else
      let t := s.onRoot r d fun x => x.setBalance dev f
      if x.balance dev != 0 && f (x.balance dev) == 0 then t.answer dev (.proxyFree s.device r d) else t

/-- Weight goes back to its root as a message (R235, R239). -/
def State.giveBack (s : State) (r : BitVec 4) (d : BitVec 10) (units : Nat) (lost : Bool) : State :=
  if units == 0 then s else { s with returns := s.returns ++ [{ reach := r, domain := d, units := units, lost := lost, src := none }] }

/-- TRAPINFO of DEP_UNDERFLOW, QUOTA and QUIET_FAULTED (R245). -/
def detailInfo (x : Nat) : Word := BitVec.ofNat 64 (x % 2 ^ 48)

/-- The QWAITs of a domain end at quiescence (R238): here, and by an answer on the devices that wait for this root. DEDUCED (log 66). -/
def State.endQuiet (s : State) (x : Root) : State :=
  let p := fun (_ : Group) w => w == Wait.quiet x.reach x.domain
  let s := x.remote.foldl (fun s y => s.answer y.1 (.quietReply y.2 x.lost)) s
  let s := if x.lost == 0 then s.satisfyAll p else s.failAll p 0x1F fun _ => detailInfo x.lost
  (s.onRoot x.reach x.domain fun x => { x with remote := [] }).closeRoot x.reach x.domain

/-- Quiescence (R238): when a QWAIT is pending and everything issued has returned, the root closes; every QWAIT on the domain
completes, or with lost weight traps QUIET_FAULTED. DEDUCED (log 66). -/
def State.quiesce (s : State) (r : BitVec 4) (d : BitVec 10) : State :=
  match s.root? r d with
  | none => s
  | some x =>
    if x.returned != x.issued || ((s.waiters fun _ w => w == Wait.quiet r d).isEmpty && x.remote.isEmpty) then s else s.endQuiet x

/-- A root applies a return. -/
def State.applyReturn (s : State) (r : BitVec 4) (d : BitVec 10) (units lost : Nat) : State :=
  (s.onRoot r d fun x => { x with returned := x.returned + units, lost := x.lost + lost }).quiesce r d

/-- A proxy forwards what has been returned to it (R376). DEDUCED (log 65). -/
def State.forward (s : State) (p : Proxy) : State :=
  if p.back == 0 then s
  else
    { s.answer p.root (.weirReturn s.device p.reach p.domain p.back p.lost) with
      proxies := updAll (· == p) (fun x => { x with back := 0, lost := 0 }) s.proxies }

/-- A return whose root has moved with its reach goes on to the new root device (R377); where the reach is evacuated and has not gone
yet, the return waits. -/
def State.sendOn (s : State) (m : Return) : State :=
  match s.rehomed.find? fun x => x.1 == m.reach with
  | some x => s.answer x.2 (.weirReturn (m.src.getD x.2) m.reach m.domain m.units (if m.lost then m.units else 0))
  | none => if s.contexts.any fun c => c.reach.id == m.reach then { s with returns := s.returns ++ [m] } else s

/-- A return message arrives: at the root, or at the proxy that stands for it on this device. -/
def State.deliver (s : State) (m : Return) : State :=
  match s.root? m.reach m.domain with
  | some _ =>
    let s := match m.src with
      | some dev => s.onBalance m.reach m.domain dev (· - m.units)
      | none => s
    s.applyReturn m.reach m.domain m.units (if m.lost then m.units else 0)
  | none =>
    match s.proxy? m.reach m.domain with
    | none => s.sendOn m
    | some p =>
      let p' := { p with units := p.units - m.units, back := p.back + m.units, lost := p.lost + if m.lost then m.units else 0 }
      let s := { s with proxies := updAll (· == p) (fun _ => p') s.proxies }
      if p'.units == 0 then s.forward p' else s

/-- The QWAITs of other devices on a domain are told its root's member launches, for their check (R238). -/
def State.tellMembers (s : State) (r : BitVec 4) (d : BitVec 10) : State :=
  match s.root? r d with
  | none => s
  | some x => x.remote.foldl (fun s y => s.answer y.1 (.quietMembers y.2 x.members)) s

/-- A launch joins the member set of a domain's root (R235), and waits on the domain are checked against it (R132); the root on another
device is told once. DEDUCED (log 66). -/
def State.joinDomain (s : State) (r : BitVec 4) (d : BitVec 10) (lid : BitVec 32) : State :=
  match s.root? r d, s.proxy? r d with
  | some x, _ =>
    if x.members.contains lid then s
    else ((s.onRoot r d fun x => { x with members := lid :: x.members }).tellMembers r d).recheckJoin lid fun w => w == .quiet r d
  | none, some p =>
    if p.told.contains lid then s
    else
      { s.answer p.root (.weirJoin s.device r d lid) with
        proxies := updAll (· == p) (fun p => { p with told := lid :: p.told }) s.proxies }
  | none, none => s

/-- Does something with a group in turn, and gives the turn back. -/
def State.asGroup (s : State) (k : Nat) (f : State → State) : State := (f (s.turnTo k)).turnTo s.g.key

/-- give (R236), on the group in turn. -/
def State.give (s : State) (d : BitVec 10) : State :=
  if s.g.qw != 0 && s.g.domain != d then
    (s.giveBack s.greach s.g.domain s.g.qw.toNat false).onG fun g => { g with qw := 0, domain := d }
  else s.onG fun g => { g with domain := d }

/-- take (R236), on the group in turn. -/
def State.take (s : State) (u : Nat) : State :=
  if 2 ^ 48 - 1 < s.g.qw.toNat + u then
    (s.giveBack s.greach s.g.domain s.g.qw.toNat false).onG fun g => { g with qw := BitVec.ofNat 48 u }
  else s.onG fun g => { g with qw := g.qw + BitVec.ofNat 48 u }

/-- QW goes back to DOMAIN's root (R237). -/
def State.retQw (s : State) (lost : Bool) : State :=
  (s.giveBack s.greach s.g.domain s.g.qw.toNat lost).onG fun g => { g with qw := 0 }

/-- What a borrow adds (R236). -/
def borrowUnits : Nat := 2 ^ 24

/-- The weight exponent that split gives from `q` units (R236): the largest power of two not above half of it. -/
def splitExp (q : Nat) : Nat := Nat.log2 (q / 2)

/-- What split answers: the exponent, a borrow that the group waits for, or NODOMAIN. -/
inductive Split where
  | done (s : State) (e : Nat)
  | wait (s : State)
  | nodomain (s : State)

/-- The group asks for units of a domain: through its device's proxy where the root is on another device (R376). -/
def State.askBorrow (s : State) (units : Nat) : State :=
  let r := s.greach
  let d := s.g.domain
  let s := s.onG fun g => { g with borrow := .asked, last := .stalled }
  match s.root? r d, s.farRoot? r d with
  | none, some dev =>
    { s.send dev (.weirBorrow s.device r d units s.g.launch s.fresh) s.g.key 0 s.fresh with fresh := s.fresh + 1 }
  | _, _ => s

/-- split (R236), on the group in turn. What a granted borrow adds is in QW when the instruction goes on. -/
def State.split (s : State) : Split :=
  if 1 < s.g.qw.toNat then
    let e := splitExp s.g.qw.toNat
    .done (s.onG fun g => { g with qw := g.qw - BitVec.ofNat 48 (2 ^ e), borrow := .idle }) e
  else
    match s.g.borrow with
    | .refused => .nodomain (s.onG fun g => { g with borrow := .idle })
    | .asked => .wait (s.onG fun g => { g with last := .stalled })
    | _ => .wait (s.askBorrow borrowUnits)

/-- Units come to a group that has asked for them (R236, R237); one that no longer waits for them sends them back. DEDUCED (log 65). -/
def State.lend (s : State) (k : Nat) (r : BitVec 4) (d : BitVec 10) (units : Nat) : State :=
  match s.group? k with
  | none => s.giveBack r d units false
  | some g =>
    if g.borrow == .asked && g.domain == d then
      let past : Bool := 2 ^ 48 ≤ g.qw.toNat + units
      (if past then s.giveBack r d g.qw.toNat false else s).onGroup k fun g =>
        { g with qw := (if past then 0 else g.qw) + BitVec.ofNat 48 units, borrow := .granted }
    else s.giveBack r d units false

/-- The state after the split of an instruction ends or waits. -/
def Split.elim (x : Split) (done : State → Nat → Out) (nodomain : State → Out) : Out :=
  match x with
  | .done s e => done s e
  | .wait s => .next s
  | .nodomain s => nodomain s

/-! The QOP instructions (R237, R238). -/

/-- Weight that QOPEN opens a domain with. -/
def openUnits : Nat := 2 ^ 32

/-- A root that QOPEN has just opened (R237). -/
def freshRoot (r : BitVec 4) (d : BitVec 10) : Root :=
  { reach := r, domain := d, isOpen := true, issued := openUnits, returned := 0, lost := 0, members := [], balances := [], remote := [] }

/-- The Weir of a domain keeps 256 open roots (R235). -/
def State.rootsFull (s : State) (d : BitVec 10) : Bool :=
  256 ≤ (s.roots.filter fun x => x.isOpen && x.domain.toNat % 4 == d.toNat % 4).length

/-- QOPEN of a domain that is Closed (R237): it stalls while its Weir keeps 256 other roots (R235). DEDUCED (log 66). -/
def State.openHere (s : State) : Out :=
  let r := s.greach
  let d := s.g.domain
  if s.rootsFull d then s.stall
  else
    let s : State := { s with roots := freshRoot r d :: s.roots.filter fun x => !(x.reach == r && x.domain == d) }
    let s := (s.take openUnits).joinDomain r d s.g.launch
    s.done s.g

/-- QOPEN (R237): an Open root on another device issues its weight as it does a borrow (R376). DEDUCED (log 66). -/
def execQopen (s : State) : Out :=
  let r := s.greach
  let d := s.g.domain
  match s.root? r d, s.farRoot? r d with
  | some _, _ =>
    let s := s.onRoot r d fun x => { x with issued := x.issued + openUnits }
    let s := (s.take openUnits).joinDomain r d s.g.launch
    s.done s.g
  | none, none => s.openHere
  | none, some _ =>
    let s' := s.onG fun g => { g with borrow := .idle }
    match s.g.borrow with
    | .idle => .next (s.askBorrow openUnits)
    | .asked => s.stall
    | .granted => s'.done s'.g
    | .refused => s'.openHere

/-- QRET (R237). DEDUCED (log 66). -/
def execQret (s : State) : Out :=
  let s := s.retQw false
  s.done s.g

/-- QREAD (R237). -/
def execQread (sd : SReg) (s : State) : Out := s.done (s.g.setS sd (s.g.qw.setWidth 64))

/-- QWAIT (R238). DEDUCED (log 66). -/
def execQwait (s : State) : Out :=
  let s := s.retQw false
  let r := s.greach
  let d := s.g.domain
  match s.root? r d with
  | none =>
    match s.farRoot? r d with
    | none => s.done s.g
    | some dev =>
      let tag := s.fresh
      let s : State := { s.send dev (.quiet s.device r d tag) s.g.key 0 tag with fresh := tag + 1 }
      s.waitOn (.quiet r d)
  | some x =>
    if x.returned != x.issued then s.waitOn (.quiet r d)
    else
      let s := s.endQuiet x
      if x.lost == 0 then s.done s.g else s.trapU 0x1F (detailInfo x.lost)

/-- A return has somewhere to go: not so while its root lies in the area of an evacuated reach that has not gone yet (R377). -/
def State.canDeliver (s : State) (m : Return) : Bool :=
  (s.root? m.reach m.domain).isSome || (s.proxy? m.reach m.domain).isSome || (s.rehomed.any fun x => x.1 == m.reach)
    || !(s.contexts.any fun c => c.reach.id == m.reach)

/-- WEIR_RETURN (R235): the oldest return message that has somewhere to go arrives. -/
def execWeirReturn (s : State) : Out :=
  match takeBy s.canDeliver 1 s.returns with
  | (m :: _, rest) => .next (State.deliver { s with returns := rest } m)
  | _ => .next s

/-- WEIR_BORROW (R236): the root of the domain answers the borrow that a group waits for. -/
def execWeirBorrow (grp : Nat) (s : State) : Out :=
  match s.group? grp with
  | none => .next s
  | some g =>
    let r := s.reachOf g.launch
    if g.borrow != .asked || (s.outbox.any fun m => m.grp == grp && match m.msg with | .weirBorrow _ _ _ _ _ _ => true | _ => false)
    then .next s
    else
      match s.root? r g.domain with
      | some _ =>
        .next ((s.onRoot r g.domain fun x => { x with issued := x.issued + borrowUnits }).lend grp r g.domain borrowUnits)
      | none => .next (s.onGroup grp fun g => { g with borrow := .refused })

/-- Weight that a Tug channel holds goes back to its root (R241). DEDUCED (log 57). -/
def State.returnCqw (s : State) (c : Channel) (lost : Bool) : State :=
  (s.giveBack (s.reachOf c.launch) c.cdom c.cqw.toNat lost).onChannel c.handle fun c => { c with cqw := 0 }

end Sys2Proof.Machine
end

