-- ==== Sys2Proof/Machine/Life.lean ====
section
/-! DEFINITION. Claims of operand slots and accumulator tiles (R277–R281), the end of groups, teams, launches and queues (R112, R124,
R134, R228, R239, R279), the time-accounting record (R357), and consumed errors (R312–R314). -/
namespace Sys2Proof.Machine

/-! Claims. -/

/-- A mask of the numbers of a list. -/
def maskOf (ns : List Nat) : Word := bitsOfFn ns.contains 64

/-- The heads of a partition's FIFO of waiting claims are granted while enough tiles are free (R281); `n` bounds how many.
DEDUCED (log 62). -/
def State.serveClaims (r : BitVec 4) (c : CoreId) : (n : Nat) → State → State
  | 0, s => s
  | n + 1, s =>
    match (s.core c).claims.find? fun x => x.1 == r with
    | none => s
    | some x =>
      let free := s.freeTiles r c
      if free.length < x.2.2 then s
      else
        let got := free.take x.2.2
        let s := s.onCore c fun k => { k with claims := k.claims.filter fun y => y.2.1 != x.2.1 }
        match s.group? x.2.1 with
        | none => State.serveClaims r c n s
        | some g =>
          let s := s.onTeamOf g fun t => { t with tiles := t.tiles ++ got }
          let s := s.onGroup g.key fun g =>
            match g.wait with
            | some (.aclaim _ sd) => g.setS sd (maskOf got)
            | _ => g
          State.serveClaims r c n (s.satisfyOne g.key)

/-- Tiles have come free on a core. -/
def State.tilesFreed (s : State) (r : BitVec 4) (c : CoreId) : State := State.serveClaims r c ((s.core c).claims.length) s

/-! The time-accounting record (R357). -/

/-- The 64 bytes of the record. -/
def acctBytes (a : Acct) : List Byte :=
  leBytes a.start 8 ++ leBytes a.syscall 8 ++ leBytes a.fault 8 ++ leBytes a.iowait 8 ++ leBytes a.queue 8
    ++ leBytes a.engine 8 ++ leBytes a.other 8 ++ leBytes a.seq.toNat 4 ++ leBytes (if a.final then 1 else 0) 4

/-- The device writes bytes at a virtual address of a reach; a page that is not mapped for it takes nothing. -/
def State.deviceWrite (s : State) (r : BitVec 4) (va : Nat) (bs : List Byte) : State :=
  match s.lookHit r 0 .ewrite va with
  | .ok _ l =>
    let s := match l.pte with | some e => s.install true e | none => s
    s.homeWrite l bs
  | _ => s

/-- An update of a launch's record: SEQ advances before and after it. -/
def State.updateAcct (s : State) (lid : BitVec 32) (final : Bool) : State :=
  match s.launch? lid with
  | none => s
  | some l =>
    let a := { l.acct with seq := l.acct.seq + 2, final := final }
    (s.onLaunch lid fun l => { l with acct := a }).deviceWrite l.desc.reach l.desc.acctRec.toNat (acctBytes a)

/-! Queues. -/

/-- The quiescence domain that an entry names (R227). -/
def entryDomain (e : Entry) : BitVec 10 := e.w0.extractLsb' 32 10
/-- WEXP (R227). -/
def entryWexp (e : Entry) : Nat := (e.w0.extractLsb' 42 6).toNat
/-- The units that an entry carries. -/
def entryUnits (e : Entry) : Nat := if entryWexp e == 63 then 0 else 2 ^ entryWexp e

/-- An entry's weight goes back to its root. -/
def State.entryBack (s : State) (q : QEntry) (lost : Bool) : State := s.giveBack q.reach (entryDomain q.e) (entryUnits q.e) lost

/-- A queue is destroyed (R228, R239): its entries, and those parked for it, are removed and their weight returned lost.
DEDUCED (log 67). -/
def State.destroyQueue (s : State) (r : BitVec 4) (q : BitVec 32) : State :=
  let mine := fun e : QEntry => e.reach == r && e.qnum == q
  let parked := (s.counters.filterMap Counter.parked).filter mine
  let s := (s.entries.filter mine ++ parked).foldl (fun s e => s.entryBack e true) s
  { s with
    queues := s.queues.filter fun x => !(x.reach == r && x.desc.qnum == q)
    entries := s.entries.filter fun e => !mine e
    counters := s.counters.filter fun c => match c.parked with | some e => !mine e | none => true }

/-! Ends. -/

/-- TRAPINFO of the WAIT_UNBOUND that a wait takes when its target ends (R134). -/
def State.endedInfo (s : State) (lid : BitVec 32) (g : Group) : Word :=
  waitInfo lid.toNat (match g.wait with
    | some w => w.kind fun h => s.ownsChannel g.launch h
    | none => 0) 0 (classCode (s.effective g.launch)) 0

/-- A launch has ended as the target of waits and promotions (R134, R140): waits of kinds 0, 1 and 4 on it trap WAIT_UNBOUND, the
others go on without it, its records are gone, and the charges of records that it sponsors are dropped. -/
def State.targetEnded (s : State) (lid : BitVec 32) : State :=
  let hit := fun (s : State) (g : Group) (w : Wait) => g.launch != lid &&
    match w with
    | .lanes _ _ _ _ => (s.targets g w).any fun t => t.who == some (.launch lid)
    | .seq h _ => s.ownsChannel lid h
    | _ => false
  let s := (s.waiters (hit s)).foldl (fun s g =>
    s.failOne g.key 0x0D (s.endedInfo lid g) (match g.wait with
      | some (.lanes e d n l) => Wait.unserved (.lanes e d n l)
      | _ => g.em)) s
  let s := (s.proms.filter fun p => p.target == lid).foldl (fun s p =>
    let s : State := { s with teams := updAll (fun t => t.charged == some p.id) (fun t => { t with charged := none }) s.teams }
    s.forget p.id) s
  let mine := (s.proms.filter fun p => p.sponsor == lid).map Prom.id
  { s with
    teams := updAll (fun t => match t.charged with | some i => mine.contains i | none => false)
      (fun t => { t with charged := none }) s.teams
    proms := updAll (fun p => p.sponsor == lid) (fun p => { p with charged := 0 }) s.proms }

/-- A grid has ended (R124): its reserve, channels, template queues and watchpoints are released, and its record is final. -/
def State.endLaunch (s : State) (lid : BitVec 32) : State :=
  match s.liveLaunch? lid with
  | none => s
  | some l =>
    let s := s.updateAcct lid true
    let s := s.targetEnded lid
    let s := s.onLaunch lid fun l => { l with ended := true, reserve := [] }
    let s := (s.channels.filter fun c => c.launch == lid).foldl (fun s c => s.returnCqw c true) s
    let s : State := { s with channels := s.channels.filter fun c => c.launch != lid }
    let s := (s.queues.filter fun q => q.reach == l.desc.reach && q.owner == some lid).foldl
      (fun s q => s.destroyQueue q.reach q.desc.qnum) s
    (s.cores.filter fun c => c.owner == some lid).foldl (fun s c =>
      (s.onCore c.id fun c => { c with watch := [0, 0, 0, 0], watchctl := 0, owner := none, holder := none }).applyWatches c.id) s

/-- A team whose groups have all ended, and whose matrix queue is empty, ends: its claims and its room are released (R124, R279), and
with the last team the grid ends. -/
def State.endTeam (s : State) (t : Team) : State :=
  if !(s.liveOf t).isEmpty || !t.queue.isEmpty || t.at_ == .ended || t.at_ == .unstarted then s
  else
    let r := s.reachOf t.launch
    let s : State := match t.charged with
      | none => s
      | some id =>
        { s with
          launches := s.launches.map fun l =>
            { l with reserve := l.reserve.map fun x => (x.1, if x.1 == t.core && x.2 == some id then none else x.2) }
          proms := updAll (fun p => p.id == id) (fun p => { p with charged := p.charged - 1 }) s.proms }
    let s := s.onTeamOnly t fun t => { t with at_ := .ended, slots := [], tiles := [], charged := none, watch := none }
    let s : State := { s with others := s.others.filter fun g => !t.holds g }
    let s := s.tilesFreed r t.core
    if (s.teams.filter fun x => x.launch == t.launch).all fun x => x.at_ == .ended then s.endLaunch t.launch else s

/-- A group ends (R112) or is removed (R239): its weight is returned, as lost for a removed group; the claim it waits for is dropped,
its team's barriers and its team learn of it. A follower's weight is its leader's. DEDUCED (log 82). -/
def State.endGroup (s : State) (k : Nat) (lost : Bool) : State :=
  match s.group? k with
  | none => s
  | some g =>
    if g.ended then s
    else
      let r := s.reachOf g.launch
      let s := s.dropWaits g.holds
      let s := if g.follower then s else s.giveBack r g.domain g.qw.toNat lost
      let s := s.onGroup k fun g =>
        { g.unwait with
          qw := 0
          em := 0
          live := 0
          ended := true
          borrow := .idle
          port := none
          held := []
          heldT := []
          side := []
          heldOps := []
          drains := []
          bound := none
          reds := []
          pendS := []
          joins := []
          inflight := []
          runLen := 0 }
      let s := s.onCore g.core fun c => { c with claims := c.claims.filter fun x => x.2.1 != k }
      let s := s.tilesFreed r g.core
      match s.teamOf? g with
      | none => s
      | some t =>
        let s := s.onTeamOnly t fun t => { t with gone := t.gone ||| oneLane g.idx }
        let s := s.memberEnded { t with gone := t.gone ||| oneLane g.idx } g.idx
        match s.teamOf? g with
        | some t => s.endTeam t
        | none => s

/-- The twin of a group. -/
def State.twinKey (s : State) (k : Nat) : Option Nat := (s.group? k).bind Group.twin

/-- An uncontained error (R312): the group, with its twin, is removed, its weight is returned lost, and the wharf cores are told. -/
def State.uncontain (s : State) (k : Nat) (detail : Nat) : State :=
  match s.group? k with
  | none => s
  | some g =>
    let s := (s.report .uncontained g [detail, g.pc.toNat]).box 5 g.core.die g.gid
    let s := s.endGroup k true
    match g.twin with
    | some t => s.endGroup t true
    | none => s

/-- A group restarts at REGPC (R314): the wait that it stands in is over. -/
def State.restartAt (s : State) (k : Nat) : State :=
  match s.group? k with
  | none => s
  | some g => (s.cutWait g).endRuns (fun x => x.key == k) Group.restart

/-- A group consumes an uncorrectable error (R312, R314): inside a region it restarts at REGPC, and the fourth time in a row, or
outside a region, it is removed. -/
def State.consumeBy (s : State) (k : Nat) : State :=
  match s.group? k with
  | none => s
  | some g => if g.region.isSome && g.restarts < 3 then s.restartAt k else s.uncontain k 0

/-- The group in turn consumes an uncorrectable error. DEDUCED (log 34). -/
def State.consume (s : State) : Out := .next (s.consumeBy s.g.key)

/-- An error that a region cannot contain (R312). -/
def State.consumeOutside (s : State) : Out := .next (s.uncontain s.g.key 0)

end Sys2Proof.Machine
end

