-- ==== Sys2Proof/Machine/Boundary.lean ====
section
/-! DEFINITION. Phase boundaries: draining held stores (R171–R173), the implicit PHASE of R181, PHASE and XFENCE, and the service of
full/empty waiters (R178). -/
namespace Sys2Proof.Machine

/-- ATOM or CAS. -/
def isAtomic : Instr → Bool
  | .cas _ _ _ _ _ _ => true
  | .atomAdd _ _ _ _ _ _ => true
  | .atomSmin _ _ _ _ _ _ => true
  | .atomSmax _ _ _ _ _ _ => true
  | .atomUmin _ _ _ _ _ _ => true
  | .atomUmax _ _ _ _ _ _ => true
  | .atomAnd _ _ _ _ _ _ => true
  | .atomOr _ _ _ _ _ _ => true
  | .atomXchg _ _ _ _ _ _ => true
  | _ => false

/-- The entry of a held byte covers its aligned word in full. -/
def coversWord (hs : List Held) (h : Held) : Bool :=
  (List.range 8).all fun i => hs.any fun x => x.epoch == h.epoch && x.key == wordKey h.key + i

/-- A scratchpad byte of a core's own core or cluster window (R316). -/
def ownWindow (c : CoreId) (key : Nat) : Bool :=
  let u := (key - scratchTop) / 2 ^ 32 / 16
  isScratch key && (u == unitNum (.core c) || u == unitNum (.cluster c.die c.cluster))

/-- The writes that a boundary of a group drains, with its scope (R171): every held entry, the latest first. In a pair, the leader drains
everything and the follower only what lies in its own core and cluster windows (R316): whether a tensor element does shows when it drains.
DEDUCED (log 47). -/
def Group.drainList (g : Group) (sc : Option Nat) : List Drain :=
  let hs := if g.follower then g.held.filter fun h => ownWindow g.core h.key else g.held
  (hs.map fun h => Drain.byte h (coversWord hs h) sc) ++ g.heldT.map fun t => Drain.elem t sc

/-- A group's held stores go to their homes with a boundary of a scope. DEDUCED (log 47). -/
def Group.startDrains (sc : Option Nat) (g : Group) : Group :=
  { g with drains := g.drainList sc ++ g.drains, held := [], heldT := [] }

/-- A boundary still waits: for drained writes, side-log entries or acknowledgements. -/
def Group.bounded (g : Group) : Bool := !g.drains.isEmpty || !g.side.isEmpty || !g.reds.isEmpty

/-- A held entry of the group is poisoned. -/
def Group.heldPoison (g : Group) : Bool :=
  (g.held.any fun h => g.poison.contains (heldMark h.key)) || g.heldT.any fun t => g.poison.contains (.elem t.attach t.coord)

/-- Changes the group in turn, and its twin with it: at a boundary the twins act together (R319). -/
def State.onPair (s : State) (f : Group → Group) : State :=
  let t := s.onG f
  match s.g.twin with
  | some k => t.onGroup k f
  | none => t

/-- The group in turn and its twin. -/
def State.pair (s : State) : List Group := s.g :: (s.g.twin.bind s.group?).toList

/-- The code of a PHASE's scope (R171, R184). -/
def phaseCode : PScope → Nat
  | .group => 0
  | .core => 1
  | .cluster => 2
  | .die => 3
  | .device => 4
  | .pod => 5

/-- The scope of a boundary (R171); XFENCE makes nothing visible to others (R172), and the end of a group is of pod scope (R112).
DEDUCED (log 47). -/
def Bound.scope : Bound → Option Nat
  | .phase sc => some (phaseCode sc)
  | .xfence => none
  | .exit => some 5
  | .implicit sc => some sc

/-- A boundary closes: nothing of it is out. What its writes replaced can no longer be read, but XFENCE is no PHASE and orders no
reader's view (R172, R198). DESIGN CHOICE (log 2). -/
def State.closeBound (b : Bound) (s : State) : State :=
  let s := match b.scope with
    | some sc => s.visible sc (s.pair.map Group.key)
    | none => s
  s.onPair fun g => { g with bound := none, sig := 0 }

/-- An entry's page takes it now: a store needs write, a RED its read-modify-write. -/
def State.sideHit (s : State) (r : BitVec 4) (e : Side) : Hit :=
  s.lookHit r 0 (match e.op with | .red _ _ _ _ _ => .rmw | _ => .write) e.va

/-- The lost device that a side-log entry names as its home (R323). -/
def State.sideLost (s : State) (g : Group) (e : Side) : Option Nat :=
  match s.look (s.reachOf g.launch) 0 (match e.op with | .red _ _ _ _ _ => .rmw | _ => .write) e.va with
  | .at_ key _ _ => match s.lostHome (homeOf key) with
    | some true => some (homeOf key)
    | _ => none
  | _ => none

/-- The lost device that a side-log entry of the group in turn, or of its twin, is for. DEDUCED (log 50). -/
def State.pairLost (s : State) : Option Nat := s.pair.findSome? fun g => g.side.findSome? (s.sideLost g)

/-- The group in turn stands at a boundary: `finish` when nothing is left to wait for. With `drains`, its held stores go home first. A read
that fault service holds comes before the boundary's writes (R187). Side-log entries for lost devices are discarded, and the trap follows
(R323). DEDUCED (log 38, 47). -/
def State.atBound (s : State) (b : Bound) (drains : Bool) (finish : State → Out) : Out :=
  let close := fun s : State => finish (s.closeBound b)
  if s.g.bound == some b then
    if s.pair.any Group.bounded then s.stall else close s
  else if s.pair.any fun g => !g.side.isEmpty || !g.heldOps.isEmpty then
    match s.pairLost with
    | some dev =>
      let t := s.onPair fun g => { g with side := g.side.filter fun e => (s.sideLost g e).isNone }
      t.trapU 0x19 (lostInfo dev 9)
    | none => s.stall
  else
    match if drains then s.pair.find? Group.heldPoison else none with
    | some g => .next (s.consumeBy g.key)
    | none =>
      let s := s.onPair fun g => if drains then g.startDrains b.scope else g
      if s.pair.any Group.bounded then .next (s.onPair fun g => { g with bound := some b, last := .stalled }) else close s

/-- The group stands at the implicit PHASE of a synchronising access. -/
def Group.inImplicit (g : Group) : Bool := match g.bound with | some (.implicit _) => true | _ => false

/-- A synchronising access of a scope that overlaps the group's own held bytes first performs an implicit PHASE of that scope (R181); `go` is
the access. DEDUCED (log 47). -/
def State.afterImplicit (s : State) (sc : Nat) (overlap : Bool) (go : State → Out) : Out :=
  match s.g.bound with
  | some (.implicit sc) => s.atBound (.implicit sc) true go
  | _ => if overlap then s.atBound (.implicit sc) true go else go s

/-- The group's region is closed by the boundary that has completed (R313). -/
def Group.closeRegion (g : Group) : Group := if g.region.isSome then { g with region := none, restarts := 0 } else g

/-- PHASE (R171). A PHASE of scope 0 drains nothing. DEDUCED (log 47). -/
def execPhase (sc : PScope) (s : State) : Out :=
  s.atBound (.phase sc) (sc != .group) fun s => s.done s.g.closeRegion

/-- XFENCE (R172). DEDUCED (log 47). -/
def execXfence (s : State) : Out := s.atBound .xfence true fun s => s.done s.g.closeRegion

/-! Full/empty words. -/

/-- A full word. -/
def State.isFull (s : State) (w : Nat) : Bool := s.full.contains w
/-- A word becomes empty. -/
def State.emptyWord (s : State) (w : Nat) : State := { s with full := s.full.filter fun x => x != w }
/-- A word becomes full. -/
def State.setFull (s : State) (w : Nat) : State := if s.full.contains w then s else { s with full := w :: s.full }

/-- The place that carries the order from a record's fill of a word, whose scope does not cover the device (R220). -/
def fillSpot (w : Nat) : Nat := 2 ^ 80 + w

/-- What carries an order from an earlier fill of a word carries none from the next. -/
def State.newFill (s : State) (w : Nat) : State :=
  s.unlearn fun a => match a with
    | .word x _ _ => x == w
    | .spot k _ _ _ => k == fillSpot w
    | _ => false

/-- An agent reads `n` bytes of a full word at a key for a core: it is ordered after the fill, where it reads all that the fill wrote and the
fill's scope covers the core, and has seen the bytes (R189, R190, R192, R220). DESIGN CHOICE (log 2). -/
def State.acquireFill (s : State) (a : Agent) (core : CoreId) (key n : Nat) : State :=
  let w := wordKey key
  let from_ := fun (a : Agent) => match a with
    | .word x lo m => x == w && key ≤ lo && lo + m ≤ key + n
    | .spot k _ sc c => k == fillSpot w && n == 8 && inScope sc c core
    | _ => false
  s.order a fun o => o.known.any from_ || (key ≤ o.key && o.key < key + n)

/-- A group reads `n` bytes of a full word. DESIGN CHOICE (log 2). -/
def State.acquireWord (s : State) (g : Group) (key n : Nat) : State := s.acquireFill (.group g.key) g.core key n

/-- One lane of a waiting group is served: its value goes to d, and the wait ends with its last lane. A poisoned word is consumed (R312).
The value is in d at once, in a halted group too, where R178 and R332 leave open whether d has it before the group next issues.
DEDUCED (log 76). -/
def State.serveLane (s : State) (k : Nat) (l : Lane) : State :=
  match s.group? k with
  | none => s
  | some g =>
    match g.wait with
    | some (.lanes e d n todo) =>
      if s.poisoned (l.word + l.off) n then (if e then s.uncontain k 0 else s.consumeBy k)
      else
        let rest := todo.filter fun x => x.lane != l.lane
        let x := BitVec.ofNat 64 (memRead s.mem (l.word + l.off) n)
        let s := (s.acquireWord g (l.word + l.off) n).onGroup k fun g =>
          { g.writeL (oneLane l.lane) d fun _ => x with
            wait := some (.lanes e d n rest)
            served := g.served ||| oneLane l.lane }
        if rest.isEmpty then s.satisfyOne k else s
    | _ => s

/-- The lanes of a group's wait on a word, of LDFE or of LDFW. -/
def Group.lanesOn (g : Group) (empties : Bool) (w : Nat) : List Lane :=
  match g.wait with
  | some (.lanes e _ _ todo) => if e == empties && g.waiting then todo.filter fun l => l.word == w else []
  | _ => []

/-- The agent that a command of a team's matrix queue is (R293); TILE is in bits [5:0] of its word. -/
def MCmd.agent (c : MCmd) (t : Team) : Agent := .cmd t.launch t.idx c.ticket t.core (c.word.toNat % 64)

/-- The matrix engine that waits as an LDFE waiter on a word (R290): the team, its command, and since when. DEDUCED (log 63). -/
def State.engineOn (s : State) (w : Nat) : Option (Team × MCmd × Nat) :=
  s.teams.findSome? fun t => t.queue.head?.bind fun c => c.waits.bind fun x =>
    if !c.granted && s.regionOf (some t) + x.1 == w then some (t, c, x.2) else none

/-- The header that a matrix engine has waited for is read for it, and emptied: it acquires (R290, R293). -/
def State.grantHeader (s : State) (t : Team) (c : MCmd) (w : Nat) : State :=
  ((s.acquireFill (c.agent t) t.core w 8).onTeamOnly t fun t =>
    { t with queue := { c with waits := none, granted := true } :: t.queue.drop 1 }).emptyWord w

/-- A word has been filled (R178): every LDFW waiter reads it, then the oldest LDFE waiter, which may be a matrix engine (R290), reads and
empties it; a poisoned word is read by one after another, as each consumes the error. -/
def State.serveWord (s : State) (w : Nat) : State :=
  let readers := (s.waiters fun g _ => !(g.lanesOn false w).isEmpty).flatMap fun g => (g.lanesOn false w).map fun l => (g.key, l)
  let s := readers.foldl (fun s r => s.serveLane r.1 r.2) s
  let takers := (s.waiters fun g _ => !(g.lanesOn true w).isEmpty).flatMap fun g => ((g.lanesOn true w).head?.map fun l => (g.key, l)).toList
  if s.poisoned w 8 then takers.foldl (fun s r => s.serveLane r.1 r.2) s
  else
    match takers, s.engineOn w with
    | [], none => s
    | [], some x => s.grantHeader x.1 x.2.1 w
    | r :: _, none => (s.serveLane r.1 r.2).emptyWord w
    | r :: _, some x =>
      if (s.group? r.1).any fun g => g.since < x.2.2 then (s.serveLane r.1 r.2).emptyWord w else s.grantHeader x.1 x.2.1 w

/-- A word is filled as by STFE, and its waiters are served. -/
def State.fillWord (s : State) (w : Nat) : State := (s.setFull w).serveWord w

/-! Bindings (R165, R166). -/

/-- The mode of FEBIND on one word. -/
def State.modeWord8 (s : State) (m : BindMode) (w : Nat) : State :=
  match m with
  | .bind => s
  | .empty => s.emptyWord w
  | .full => (s.newFill w).fillWord w

/-- Granules are bound or unbound, waits on them are checked again, and the mode acts on every word (R134, R166). DEDUCED (log 46). -/
def State.bindRange (s : State) (key len : Nat) (b : Option (Producer × BitVec 4)) (m : BindMode) : State :=
  let grans := (List.range (len / 256)).map fun i => key + 256 * i
  let old := s.bindings.filter fun x => !(key ≤ x.granule && x.granule < key + len)
  let new := match b with
    | none => []
    | some (p, r) => grans.map fun g => { granule := g, prod := p, reach := r : Binding }
  let s := State.recheckGranules { s with bindings := new ++ old } grans
  ((List.range (len / 8)).map fun i => key + 8 * i).foldl (fun s w => s.modeWord8 m w) s

/-- A range that lies within one scratchpad window (R161); a length of 0 lies nowhere and is not asked for. -/
def State.padRange (s : State) (v : View) (a len : Nat) : Option Nat :=
  match s.steer v none a, s.steer v none (a + len - 1) with
  | some (.pad u k), some (.pad u' k') => if u == u' && k' == k + len - 1 then some k else none
  | _, _ => none

/-- FEBIND (R166). DEDUCED (log 46). -/
def execFebind (sa sb sc : SReg) (mode : BindMode) (s : State) : Out :=
  let a := s.g.sreg sa
  let n := (s.g.sreg sb).toNat
  let c := s.g.sreg sc
  if a.toNat % 256 != 0 || n % 256 != 0 then s.trapU 4 a
  else if n == 0 then s.done s.g
  else
    match s.padRange { s.viewOf s.g with stack := none } a.toNat n with
    | none => s.trapU 5 a
    | some key =>
      let lid : BitVec 32 := c.setWidth 32
      if c = 0 then
        let s := s.bindRange key n none mode
        s.done s.g
      else if c = 0xFFFFFFFF then
        let s := s.bindRange key n (some (.wharf, s.greach)) mode
        s.done s.g
      else if c.toNat < 2 ^ 32 && s.podLive lid then
        let s := s.bindRange key n (some (.launch lid, s.podReach lid)) mode
        s.done s.g
      else s.trapU 6 c

end Sys2Proof.Machine
end

