-- ==== Sys2Proof/Machine/MemInstr.lean ====
section
/-! DEFINITION. Memory instructions (R104, R174–R182): loads and stores, full/empty accesses, ATOM, CAS and RED. -/
namespace Sys2Proof.Machine

/-- The probe of a lane. -/
def probeOf (ps : List Probe) (l : Nat) : Option Probe := ps.find? fun p => p.lane == l

/-- The address of lane `l` of an LM instruction (R174). -/
def lmAddr (g : Group) (w : Width) (a : LReg) (off : BitVec 3) (l : Nat) : Word :=
  g.lane a l + BitVec.ofNat 64 (off.toNat * widthBytes w)

/-- The low `n` bytes of a register lane. -/
def lowBytes (x : Word) (n : Nat) : List Byte := leBytes x.toNat n

/-- Zero or sign extension of an `n`-byte value (R176). -/
def extend (signed : Bool) (n x : Nat) : Word := if signed then wordOf (sval (8 * n) x) else BitVec.ofNat 64 x

/-- Lanes of an instruction that fault service holds, with the operands it read (R22), or that read later. -/
def Group.holdLanes (g : Group) (i : Instr) (m : Mask) (tick : Nat) (la : La) (a b d : Lanes) : Group :=
  if m = 0 then g
  else { g with heldOps := g.heldOps ++ [{ i := i, lanes := m, a := a, b := b, d := d, left := la.toNat, at_ := g.pc, kept := false
                                           po := g.retired.toNat, issued := tick, late := false }] }

/-- A load whose checks have passed issues and reads later (R197): its lanes are held, and no page holds them. DESIGN CHOICE (log 2). -/
def Group.holdLate (g : Group) (i : Instr) (m : Mask) (tick : Nat) (la : La) (a d : Lanes) : Group :=
  let h : HeldOp := { i := i, lanes := m, a := a, b := d, d := d, left := la.toNat, at_ := g.pc, kept := false, po := g.retired.toNat
                      issued := tick, late := true }
  { g with late := false, heldOps := if m = 0 then g.heldOps else g.heldOps ++ [h] }

/-- Whether any lane of an access that passed consumes an uncorrectable error. -/
def State.consumes (s : State) (g : Group) (r : Reader) (n : Nat) (ps : List Probe) : Bool :=
  ps.any fun p => match p.place with
    | some (_, l) => s.viewPoisoned g r l n
    | none => false

/-- What lane `l` loads in the group's own view (R168). -/
def State.loaded (s : State) (g : Group) (r : Reader) (n : Nat) (ps : List Probe) (l : Nat) : Nat :=
  match (probeOf ps l).bind Probe.place with
  | some (_, loc) => s.viewRead g r l loc n
  | none => 0

/-- A group has read the bytes of the lanes that passed. -/
def State.seenAll (s : State) (r : Reader) (n : Nat) (ps : List Probe) : State :=
  ps.foldl (fun s p => match p.place with
    | some (_, loc) => s.seen r p.lane loc n
    | none => s) s

/-- The lanes whose access passed. -/
def passed (ps : List Probe) : Mask := lanesWhere ps fun p => p.place.isSome
/-- The lanes that fault service holds. -/
def faulted (ps : List Probe) : Mask := lanesWhere ps Probe.faults

/-- LD and LDS (R176): the lanes whose pages are absent are held, the others complete. -/
def State.load (s : State) (signed : Bool) (i : Instr) (w : Width) (d a : LReg) (off : BitVec 3) (la : La) (gd : Guard) : Out :=
  let n := widthBytes w
  let ps := s.probes s.g .read false n (s.g.acts gd) (lmAddr s.g w a off)
  s.checked ps 8 <|
    if s.g.late then
      s.done (s.watchAll true false (padAccesses n ps) (s.g.holdLate i (s.g.acts gd) s.tick la (s.g.lreg a) (s.g.lreg d)))
    else if s.consumes s.g s.g.reader n ps then s.consume
    else
      let g := s.g.writeL (passed ps) d fun l => extend signed n (s.loaded s.g s.g.reader n ps l)
      let g := g.holdLanes i (faulted ps) s.tick la (s.g.lreg a) (s.g.lreg d) (s.g.lreg d)
      let g := s.watchAll true false (padAccesses n ps) g
      ((s.seenAll s.g.reader n ps).installAll .read ps).done g

/-- LD (R176). -/
def execLd (w : Width) (d a : LReg) (off : BitVec 3) (la : La) (g : Guard) (s : State) : Out :=
  s.load false (.ld w d a off la g) w d a off la g
/-- LDS (R176). -/
def execLds (w : Width) (d a : LReg) (off : BitVec 3) (la : La) (g : Guard) (s : State) : Out :=
  s.load true (.lds w d a off la g) w d a off la g

/-! Stores. -/

/-- The side log has room for `n` more entries of the group in turn. DEDUCED (log 41). -/
def State.sideRoom (s : State) (n : Nat) : Bool := s.sideUse true s.greach s.g.core + n ≤ 1024

/-- The group in turn becomes `g`, which may have new side-log entries, and its instruction retires. -/
def State.doneSide (s : State) (g : Group) : Out := .next (State.claimSide { s with g := g.step4 } s.greach s.g.core)

/-- One lane of a store: held (R167), or into the side log when its page takes no write (R169). -/
def Group.storeLane (g : Group) (p : Probe) (bs : List Byte) : Group :=
  match p.hit with
  | .ok _ l => g.holdWord l bs
  | .held _ va => { g with side := g.side ++ [{ va := va, op := .store bs, epoch := g.epoch, po := g.retired.toNat }] }
  | _ => g

/-- The lanes of a store, in ascending order, so that the higher lane's byte is held; each feeds the signature (R317). -/
def Group.storeAll (g : Group) (ps : List Probe) (data : Nat → List Byte) : Group :=
  ps.foldl (fun g p => (g.storeLane p (data p.lane)).feed (storeRecord p.addr (data p.lane))) g

/-- The end of a store whose checks passed; the watchpoints see it where the instruction is one that hits (R351). -/
def State.store (s : State) (n : Nat) (ps : List Probe) (data : Nat → List Byte) (watched : Bool := true) : Out :=
  if !s.sideRoom (faulted ps).lanes.length then s.stall
  else
    let g := s.watchAll false true (if watched then padAccesses n ps else []) (s.g.storeAll ps data)
    (s.installAll .write ps).doneSide g

/-- ST (R176). -/
def execSt (w : Width) (d a : LReg) (off : BitVec 3) (_la : La) (g : Guard) (s : State) : Out :=
  let n := widthBytes w
  let ps := s.probes s.g .write false n (s.g.acts g) (lmAddr s.g w a off)
  s.checked ps 8 <| s.store n ps fun l => lowBytes (s.g.lane d l) n

/-! Uniform loads and stores (R104). -/

/-- The address of SLD and SST. -/
def umAddr (g : Group) (w : Width) (sa : SReg) (off : BitVec 7) : Word :=
  g.sreg sa + wordOf (sext off * widthBytes w)

/-- The one probe of a uniform access. -/
def State.uprobe (s : State) (acc : Acc) (n : Nat) (a : Word) : Probe :=
  { lane := 0, addr := a, hit := s.probe s.g none acc false n a }

/-- SLD (R104): a page fault holds the whole group. -/
def execSld (w : Width) (sd sa : SReg) (off : BitVec 7) (la : La) (s : State) : Out :=
  let n := widthBytes w
  let a := umAddr s.g w sa off
  let p := s.uprobe .read n a
  match p.hit with
  | .cause c => s.trapU c a
  | .lost dev gone => if gone then s.trapU 0x19 (lostInfo dev 8) else s.suspend dev
  | .held _ _ =>
    (s.installAll .read [p]).done
      (s.g.holdLanes (.sld w sd sa off la) 1 s.tick la (Lanes.all a) (Lanes.all 0) (Lanes.all 0))
  | .ok _ l =>
    if s.g.late then
      s.done (s.watchAll true false (padAccesses n [p]) (s.g.holdLate (.sld w sd sa off la) 1 s.tick la (Lanes.all a) (Lanes.all 0)))
    else if s.viewPoisoned s.g s.g.reader l n then s.consume
    else
      let g := s.g.setS sd (BitVec.ofNat 64 (s.viewRead s.g s.g.reader 0 l n))
      ((s.seenAll s.g.reader n [p]).installAll .read [p]).done (s.watchAll true false (padAccesses n [p]) g)

/-- SST (R104). -/
def execSst (w : Width) (sd sa : SReg) (off : BitVec 7) (_la : La) (s : State) : Out :=
  let n := widthBytes w
  let a := umAddr s.g w sa off
  let p := s.uprobe .write n a
  match p.hit with
  | .cause c => s.trapU c a
  | _ => s.store n [p] fun _ => lowBytes (s.g.sreg sd) n

/-! Full/empty instructions (R177, R178). -/

/-- The scratchpad key of a probe that passed. -/
def Probe.key (p : Probe) : Nat :=
  match p.hit with
  | .ok _ l => l.key
  | _ => 0

/-- The scope at which a full/empty word of a scratchpad releases (R177): core, cluster, die, or device for another die's scratchpad. -/
def wordScope (c : CoreId) (key : Nat) : Nat :=
  let u := (key - scratchTop) / 2 ^ 32 / 16
  if 24 ≤ u then 1 else if 4 ≤ u then 2 else if u == c.die then 3 else 4

/-- The scope of a full/empty access: the widest of its words' levels. DEDUCED (log 47). -/
def feScope (c : CoreId) (ps : List Probe) : Nat := ps.foldl (fun n p => max n (wordScope c p.key)) 1

/-- An access of the instruction overlaps bytes that the group holds (R181). -/
def Group.anyOverlap (g : Group) (n : Nat) (ps : List Probe) : Bool := ps.any fun p => g.overlaps p.hit n

/-- The lanes of LDFE or LDFW that find their word full, and those that wait. An LDFE lane takes the fill that it finds. -/
def State.splitLanes (s : State) (empties : Bool) (ps : List Probe) : List Probe × List Probe :=
  let r := ps.foldl (fun (acc : List Nat × List Probe × List Probe) p =>
    let w := wordKey p.key
    if acc.1.contains w then (if empties then acc.1.filter (· != w) else acc.1, acc.2.1 ++ [p], acc.2.2)
    else (acc.1, acc.2.1, acc.2.2 ++ [p])) (s.full, [], [])
  (r.2.1, r.2.2)

/-- A lane that waits on its word. -/
def Probe.waits (p : Probe) : Lane := { lane := p.lane, word := wordKey p.key, off := p.key % 8 }

/-- The check of R133 for the lanes of LDFE or LDFW that wait. -/
def State.feCheck (s : State) (empties : Bool) (w : Wait) (waits : List Probe) : Checked :=
  if waits.isEmpty then { fault := none, st := s, holds := [] } else s.checkWait s.g (if empties then 0 else 1) (s.targets s.g w)

/-- LDFE and LDFW: the waiting lanes are checked before any lane reads (R178), and before an implicit PHASE has any effect (R175). -/
def State.feLoad (s : State) (empties : Bool) (w : Width) (d a : LReg) (off : BitVec 3) (gd : Guard) : Out :=
  let n := widthBytes w
  let ps := s.probes s.g .read true n (s.g.acts gd) (lmAddr s.g w a off)
  let split := fun s : State => s.splitLanes empties ps
  let wait := fun (sp : List Probe × List Probe) => Wait.lanes empties d n (sp.2.map Probe.waits)
  let first := if s.g.inImplicit then none else (s.feCheck empties (wait (split s)) (split s).2).fault
  s.checked ps 10 <| match first with
  | some (cause, info, lanes) => s.trapAt cause info lanes
  | none => s.afterImplicit (feScope s.g.core ps) (s.g.anyOverlap n ps) fun s =>
    let sp := split s
    if sp.1.any fun p => s.poisoned p.key n then (if empties then s.consumeOutside else s.consume)
    else
      let wait := wait sp
      let c := s.feCheck empties wait sp.2
      match c.fault with
      | some (cause, info, lanes) => s.trapAt cause info lanes
      | none =>
        let s := sp.1.foldl (fun s p => s.acquireWord s.g p.key n) c.st
        let m := lanesWhere sp.1 fun _ => true
        let g := s.g.writeL m d fun l => BitVec.ofNat 64 (memRead s.mem ((probeOf sp.1 l).map Probe.key |>.getD 0) n)
        let g := s.watchAll true false (padAccesses n ps) g
        let s : State := { s with
          g := g
          full := if empties then s.full.filter fun x => !(sp.1.any fun p => wordKey p.key == x) else s.full }
        if sp.2.isEmpty then s.done s.g
        else State.beginWait (s.onG fun g => { g with served := m }) wait c.holds

/-- LDFE (R177). -/
def execLdfe (w : Width) (d a : LReg) (off : BitVec 3) (_la : La) (g : Guard) (s : State) : Out := s.feLoad true w d a off g
/-- LDFW (R177). -/
def execLdfw (w : Width) (d a : LReg) (off : BitVec 3) (_la : La) (g : Guard) (s : State) : Out := s.feLoad false w d a off g

/-- The lanes of STFE that would find their word full: it is full, or a lower lane fills it (R177). -/
def State.overruns (s : State) (ps : List Probe) : List Probe :=
  (ps.foldl (fun (acc : List Nat × List Probe) p =>
    let w := wordKey p.key
    if acc.1.contains w then (acc.1, acc.2 ++ [p]) else (w :: acc.1, acc.2)) (s.full, [])).2

/-- One lane of STFE: the word's bytes are written at its home, and what the group releases goes with the fill (R188, R189). -/
def State.fillBy (s : State) (g : Group) (key : Nat) (bs : List Byte) : State :=
  let s := (s.homeWriteBy (.group g.key) (some 5) true g.core (padLoc key) bs).unlearn (Agent.broken key bs.length)
  ((s.newFill (wordKey key)).releaseTo g (wordScope g.core key) (.word (wordKey key) key bs.length)).fillWord (wordKey key)

/-- STFE (R177). -/
def execStfe (w : Width) (d a : LReg) (off : BitVec 3) (_la : La) (gd : Guard) (s : State) : Out :=
  let n := widthBytes w
  let ps := s.probes s.g .write true n (s.g.acts gd) (lmAddr s.g w a off)
  s.checked ps 10 <|
    match s.overruns ps with
    | p :: rest => s.trapAt 0x0F p.addr (lanesWhere (p :: rest) fun _ => true)
    | [] => s.afterImplicit (feScope s.g.core ps) (s.g.anyOverlap n ps) fun s =>
      if n < 8 && ps.any fun p => s.poisoned p.key n then s.consumeOutside
      else
        let t := ps.foldl (fun t p => t.fillBy s.g p.key (lowBytes (s.g.lane d p.lane) n)) s
        t.done (s.watchAll false true (padAccesses n ps) t.g)

/-! Atomics (R179, R180). -/

/-- The size of an LX access. -/
def lxBytes (w64 : Bool) : Nat := if w64 then 8 else 4

/-- What an atomic does to the `n` bytes M with B: the operations of RED 0 to 6 too (R179). -/
def atomNew (op : RedOp) (n m b : Nat) : Nat :=
  match op with
  | .add => (m + b) % 2 ^ (8 * n)
  | .smin => if sval (8 * n) b < sval (8 * n) m then b else m
  | .smax => if sval (8 * n) m < sval (8 * n) b then b else m
  | .umin => if b < m then b else m
  | .umax => if m < b then b else m
  | .and => m &&& b
  | .or => m ||| b
  | .fadd32 => m

/-- The code of an atomic's scope, as PHASE numbers it (R184). -/
def LxScope.code : Sys2Proof.LxScope → Nat
  | .core => 1
  | .die => 3
  | .device => 4
  | .pod => 5

/-- A read-modify-write of a group at a home acquires what earlier ones at the place released, where each scope covers the other's core,
and releases in its turn (R188, R189). DESIGN CHOICE (log 2). -/
def State.rmwOrder (s : State) (g : Group) (scope : Nat) (l : Loc) (n : Nat) : State :=
  let tok := fun (a : Agent) => match a with
    | .spot k m sc c => l.key ≤ k && k + m ≤ l.key + n && inScope sc c g.core && inScope scope g.core c
    | _ => false
  let s := s.order (.group g.key) fun o => (l.key ≤ o.key && o.key < l.key + n) || o.known.any tok
  s.releaseTo g scope (.spot l.key n scope g.core)

/-- Bytes of a read-modify-write of a group are performed at a home (R188, R194). -/
def State.rmwWrite (s : State) (g : Group) (scope : Nat) (l : Loc) (bs : List Byte) : State :=
  State.rmwOrder (State.homeWriteBy { s with traffic := s.carried (.group g.key) l bs.length 0 ++ s.traffic }
    (.group g.key) (some 5) true g.core l bs) g scope l bs.length

/-- One read-modify-write at a home: the old value, and the state after. -/
def State.rmw (s : State) (g : Group) (scope : Nat) (l : Loc) (n : Nat) (f : Nat → Nat) : State × Nat :=
  let old := s.homeRead l n
  (s.rmwWrite g scope l (leBytes (f old) n), old)

/-- The lanes of an atomic, in ascending order, each seeing the one before (R179): the old values by lane. -/
def State.rmwLanes (s : State) (g : Group) (scope n : Nat) (ps : List Probe) (f : Nat → Nat → Nat) : State × List (Nat × Nat) :=
  ps.foldl (fun acc p => match p.place with
    | some (_, l) =>
      let r := acc.1.rmw g scope l n (f p.lane)
      (r.1, acc.2 ++ [(p.lane, r.2)])
    | none => acc) (s, [])

/-- The scope of an atomic. -/
def scopeOf : Instr → Nat
  | .cas _ sc _ _ _ _ => LxScope.code sc
  | .atomAdd _ sc _ _ _ _ => LxScope.code sc
  | .atomSmin _ sc _ _ _ _ => LxScope.code sc
  | .atomSmax _ sc _ _ _ _ => LxScope.code sc
  | .atomUmin _ sc _ _ _ _ => LxScope.code sc
  | .atomUmax _ sc _ _ _ _ => LxScope.code sc
  | .atomAnd _ sc _ _ _ _ => LxScope.code sc
  | .atomOr _ sc _ _ _ _ => LxScope.code sc
  | .atomXchg _ sc _ _ _ _ => LxScope.code sc
  | _ => 5

/-- The value that a list of lanes and values holds for a lane. -/
def laneVal (vs : List (Nat × Nat)) (l : Nat) : Nat := ((vs.find? fun v => v.1 == l).map Prod.snd).getD 0

/-- ATOM and CAS (R179): `f l m` is what lane `l` makes of M. -/
def State.atomic (s : State) (i : Instr) (w64 : Bool) (d a b : LReg) (la : La) (f : Group → Nat → Nat → Nat) : Out :=
  let n := lxBytes w64
  let ps := s.probes s.g .rmw false n s.g.em (s.g.lane a)
  s.checked ps 10 <| s.afterImplicit (scopeOf i) (s.g.anyOverlap n ps) fun s =>
    if s.consumes s.g s.g.reader n ps then s.consumeOutside
    else
      let r := (s.installAll .rmw ps).rmwLanes s.g (scopeOf i) n ps (f s.g)
      let g := s.g.writeL (passed ps) d fun l => BitVec.ofNat 64 (laneVal r.2 l)
      let g := g.holdLanes i (faulted ps) s.tick la (s.g.lreg a) (s.g.lreg b) (s.g.lreg d)
      r.1.done (s.watchAll true true (padAccesses n ps) g)

/-- What a held or issued atomic makes of M in a lane, from its operands (R179). -/
def atomFun (i : Instr) (b d : Nat → Word) (l m : Nat) : Nat :=
  let op := fun (w64 : Bool) (o : RedOp) => atomNew o (lxBytes w64) m (elem (8 * lxBytes w64) 0 (b l))
  match i with
  | .cas w64 _ _ _ _ _ =>
    if m == elem (8 * lxBytes w64) 0 (d l) then elem (8 * lxBytes w64) 0 (b l) else m
  | .atomAdd w64 _ _ _ _ _ => op w64 .add
  | .atomSmin w64 _ _ _ _ _ => op w64 .smin
  | .atomSmax w64 _ _ _ _ _ => op w64 .smax
  | .atomUmin w64 _ _ _ _ _ => op w64 .umin
  | .atomUmax w64 _ _ _ _ _ => op w64 .umax
  | .atomAnd w64 _ _ _ _ _ => op w64 .and
  | .atomOr w64 _ _ _ _ _ => op w64 .or
  | .atomXchg w64 _ _ _ _ _ => elem (8 * lxBytes w64) 0 (b l)
  | _ => m

/-- An atomic of the group in turn. -/
def State.atom (s : State) (i : Instr) (w64 : Bool) (d a b : LReg) (la : La) : Out :=
  s.atomic i w64 d a b la fun g l m => atomFun i (g.lane b) (g.lane d) l m

/-- CAS (R179). -/
def execCas (w64 : Bool) (sc : LxScope) (d a b : LReg) (la : La) (s : State) : Out := s.atom (.cas w64 sc d a b la) w64 d a b la
/-- ATOM_ADD (R179). -/
def execAtomAdd (w64 : Bool) (sc : LxScope) (d a b : LReg) (la : La) (s : State) : Out :=
  s.atom (.atomAdd w64 sc d a b la) w64 d a b la
/-- ATOM_SMIN (R179). -/
def execAtomSmin (w64 : Bool) (sc : LxScope) (d a b : LReg) (la : La) (s : State) : Out :=
  s.atom (.atomSmin w64 sc d a b la) w64 d a b la
/-- ATOM_SMAX (R179). -/
def execAtomSmax (w64 : Bool) (sc : LxScope) (d a b : LReg) (la : La) (s : State) : Out :=
  s.atom (.atomSmax w64 sc d a b la) w64 d a b la
/-- ATOM_UMIN (R179). -/
def execAtomUmin (w64 : Bool) (sc : LxScope) (d a b : LReg) (la : La) (s : State) : Out :=
  s.atom (.atomUmin w64 sc d a b la) w64 d a b la
/-- ATOM_UMAX (R179). -/
def execAtomUmax (w64 : Bool) (sc : LxScope) (d a b : LReg) (la : La) (s : State) : Out :=
  s.atom (.atomUmax w64 sc d a b la) w64 d a b la
/-- ATOM_AND (R179). -/
def execAtomAnd (w64 : Bool) (sc : LxScope) (d a b : LReg) (la : La) (s : State) : Out :=
  s.atom (.atomAnd w64 sc d a b la) w64 d a b la
/-- ATOM_OR (R179). -/
def execAtomOr (w64 : Bool) (sc : LxScope) (d a b : LReg) (la : La) (s : State) : Out :=
  s.atom (.atomOr w64 sc d a b la) w64 d a b la
/-- ATOM_XCHG (R179). -/
def execAtomXchg (w64 : Bool) (sc : LxScope) (d a b : LReg) (la : La) (s : State) : Out :=
  s.atom (.atomXchg w64 sc d a b la) w64 d a b la

/-- What RED makes of M with B, and its flags (R180). -/
def redNew (op : RedOp) (rm : BitVec 2) (n m b : Nat) : FRes :=
  if op == .fadd32 then fp32.add rm m b else (atomNew op n m b, 0)

/-- One RED at a home: the state after, and the flags. -/
def State.redAt (s : State) (g : Group) (scope : Nat) (l : Loc) (op : RedOp) (rm : BitVec 2) (n b : Nat) : State × BitVec 5 :=
  let r := redNew op rm n (s.homeRead l n) b
  (s.rmwWrite g scope l (leBytes r.1 n), r.2)

/-- The group has a RED in its side log. -/
def Group.sideRed (g : Group) : Bool := g.side.any fun e => match e.op with
  | .red _ _ _ _ _ => true
  | _ => false

/-- RED (R180): performed at the home when it issues, acknowledged later; a lane whose page takes no write enters the side log. It does not
pass an earlier RED that waits there (R188). DEDUCED (log 48). -/
def execRed (op : RedOp) (w64 : Bool) (sc : LxScope) (a b : LReg) (_la : La) (s : State) : Out :=
  let n := lxBytes w64
  let ps := s.probes s.g .rmw false n s.g.em (s.g.lane a)
  s.checked ps 10 <| s.afterImplicit (LxScope.code sc) (s.g.anyOverlap n ps) fun s =>
    if s.consumes s.g s.g.reader n ps then s.consumeOutside
    else if !s.sideRoom (faulted ps).lanes.length || (s.g.sideRed && passed ps != 0) then s.stall
    else
      let rm := s.g.frm
      let r := ps.foldl (fun (acc : State × BitVec 5) p => match p.place with
        | some (_, l) =>
          let x := acc.1.redAt s.g (LxScope.code sc) l op rm n (elem (8 * n) 0 (s.g.lane b p.lane))
          (x.1, acc.2 ||| x.2)
        | none => acc) (s.installAll .rmw ps, 0)
      let side := ps.filterMap fun p => match p.hit with
        | .held _ va => some { va := va, op := .red op w64 (s.g.lane b p.lane) rm (LxScope.code sc), epoch := s.g.epoch, po := s.g.retired.toNat : Side }
        | _ => none
      let g := { s.g with
        side := s.g.side ++ side
        reds := if passed ps = 0 then s.g.reds else s.g.reds ++ [r.2] }
      r.1.doneSide (s.watchAll true true (padAccesses n ps) g)

end Sys2Proof.Machine
end

