-- ==== Sys2Proof/Machine/Control.lean ====
section
/-! DEFINITION. Control transfers (R105–R113), traps, breakpoints and return (R115–R117), regions, instruction storage and NOP
(R118–R120). -/
namespace Sys2Proof.Machine

/-- The target of a branch offset in words (R35). DEDUCED (log 31). -/
def branchTo (pc : Word) {n : Nat} (off : BitVec n) : Word := pc + (off.signExtend 64) * 4

/-- The group in turn retires its instruction and goes on at `pc`. DEDUCED (log 31). -/
def State.jump (s : State) (g : Group) (pc : Word) : Out := .next { s with g := g.retireTo pc }

/-- The instruction retires to an address, where the group waits. -/
def State.jumpWait (s : State) (g : Group) (pc : Word) (w : Wait) : Out :=
  .next { s with
    g := { g.retireTo pc with wait := some w, waitEnd := .pending, holds := [], since := s.fresh }
    fresh := s.fresh + 1 }

/-- The condition of BRA over the predicate in the active lanes (R32). -/
def braHolds (c : BCond) (em p : Mask) : Bool :=
  match c with
  | .always => true
  | .any => em &&& p != 0
  | .all => em &&& p == em
  | .none => em &&& p == 0
  | .notAll => em &&& p != em

/-- BRA (R106). -/
def execBra (c : BCond) (p : PReg) (off : BitVec 15) (s : State) : Out :=
  if braHolds c s.g.em (s.g.preg p) then s.jump s.g (branchTo s.g.pc off) else s.done s.g

/-- BRL (R106). -/
def execBrl (off : BitVec 25) (s : State) : Out := s.jump s.g (branchTo s.g.pc off)

/-- CALL (R107). -/
def execCall (off : BitVec 25) (s : State) : Out := s.jump (s.g.setS 63 (s.g.pc + 4)) (branchTo s.g.pc off)

/-- RET (R107). -/
def execRet (s : State) : Out :=
  let t := s.g.sreg 63
  if t.toNat % 4 != 0 then s.trapU 4 t else s.jump s.g t

/-- TRAPINFO of STACK_OVERFLOW (R108). DEDUCED (log 30). -/
def stackInfo (empty : Bool) (depth : Nat) : Word := BitVec.ofNat 64 ((if empty then 128 else 0) + depth)

/-- STACK_OVERFLOW for want of room. -/
def State.stackFull (s : State) : Out := s.trapU 0x12 (stackInfo false s.g.stack.length)

/-- BRD (R109). -/
def execBrd (p : PReg) (off : BitVec 18) (s : State) : Out :=
  let t := s.g.em &&& s.g.preg p
  let f := s.g.em &&& ~~~(s.g.preg p)
  if t = 0 then s.done s.g
  else if f = 0 then s.jump s.g (branchTo s.g.pc off)
  else if 32 ≤ s.g.stack.length then s.stackFull
  else s.jump { s.g with stack := (f, s.g.pc + 4) :: s.g.stack, em := t } (branchTo s.g.pc off)

/-- JPUSH (R110). -/
def execJpush (off : BitVec 25) (s : State) : Out :=
  if 32 ≤ s.g.stack.length then s.stackFull
  else s.done { s.g with stack := (s.g.em, branchTo s.g.pc off) :: s.g.stack }

/-- The entries of a stack from the first one with a live lane on (R110). -/
def liveStack (live : Mask) (st : List (Mask × Word)) : List (Mask × Word) := st.dropWhile fun e => e.1 &&& live == 0

/-- JOIN (R110). DEDUCED (log 30). -/
def execJoin (s : State) : Out :=
  match liveStack s.g.live s.g.stack with
  | (m, pc) :: rest => s.jump { s.g with stack := rest, em := m &&& s.g.live } pc
  | [] => (s.onG fun g => { g with stack := [] }).trapU 0x12 (stackInfo true 0)

/-- A read that the instruction itself makes of `n` bytes at a generic address, in the group's own view: a forbidden address traps, an
absent page holds the group (R309). With `once` it is single-copy atomic over what it takes from the home (R264). -/
def State.readAt (s : State) (once : Bool) (n : Nat) (a : Word) (k : State → Nat → Out) : Out :=
  let p := s.uprobe .read n a
  match p.hit with
  | .cause c => s.trapU c a
  | .lost dev gone => if gone then s.trapU 0x19 (lostInfo dev 8) else s.suspend dev
  | .held _ va => .next ((s.installAll .read [p]).onG fun g => { g with fetchHeld := some va, last := .stalled })
  | .ok _ l =>
    let r := if once then s.atOnce s.g.reader l n else s.g.reader
    if s.viewPoisoned s.g r l n then s.consume
    else k ((s.seenAll r n [p]).installAll .read [p]) (s.viewRead s.g r 0 l n)

/-- Reads at several addresses, in order. DEDUCED (log 30). -/
def State.readEach (n : Nat) : (as : List Word) → State → (State → List Nat → Out) → Out
  | [], s, k => k s []
  | a :: as, s, k => s.readAt false n a fun s x => State.readEach n as s fun s xs => k s (x :: xs)

/-- The lanes of each distinct target, in the order of the lowest entry that names the target (R111). -/
def brxGroups (entries : List Nat) (em : Mask) (idx : Nat → Nat) : List (Mask × Nat) :=
  (entries.eraseDups.map fun t => (Mask.ofFn fun l => em.has l && entries.getD (idx l) 0 == t, t)).filter fun x => x.1 != 0

/-- BRX (R111). DEDUCED (log 30). -/
def execBrx (va : LReg) (table : BitVec 19) (s : State) : Out :=
  let d := s.gdesc
  let base := d.ttabBase + BitVec.ofNat 64 (8 * table.toNat)
  let codeAt := fun off : Nat => LaunchDesc.code d + BitVec.ofNat 64 (4 * off)
  s.readAt false 4 base fun s join => s.readAt false 4 (base + 4) fun s count =>
    let idx := fun l => elem 32 0 (s.g.lane va l)
    let bad := Mask.ofFn fun l => s.g.em.has l && count ≤ idx l
    if s.g.em = 0 then s.jump s.g (codeAt join)
    else if bad != 0 then
      s.trapAt 0x13 (BitVec.ofNat 64 (count + 2 ^ 32 * idx (bad.lanes.headD 0))) bad
    else
      let top := s.g.em.lanes.foldl (fun m l => max m (idx l)) 0
      State.readEach 4 ((List.range (top + 1)).map fun i => base + BitVec.ofNat 64 (8 + 4 * i)) s fun s entries =>
        match brxGroups entries s.g.em idx with
        | [] => s.jump s.g (codeAt join)
        | m :: rest =>
          if 32 < s.g.stack.length + rest.length + 1 then s.stackFull
          else s.jump { s.g with
            stack := (rest.map fun x => (x.1, codeAt x.2)) ++ (s.g.em, codeAt join) :: s.g.stack
            em := m.1 } (codeAt m.2)

/-- EXIT (R112): when no live lane remains, or no entry of the stack has one, the group's results complete, its held stores go home
as by PHASE of pod scope, and the group ends. Every EXIT closes the group's region (R313). DEDUCED (log 47). -/
def execExit (s : State) : Out :=
  let live := s.g.live &&& ~~~s.g.em
  match liveStack live s.g.stack with
  | (m, pc) :: rest => s.jump { s.g.closeRegion with live := live, stack := rest, em := m &&& live } pc
  | [] =>
    if s.g.entryWaits then s.stall
    else s.atBound .exit true fun s =>
      let s := s.onG fun g => (g.settleAll s.tick).step4
      .next (s.endGroup s.g.key false)

/-- The v registers that a RUNEND trailer names (R18). -/
def trailerRegs (wa : BitVec 3) (ma : BitVec 8) (wb : BitVec 3) (mb : BitVec 8) : List Nat :=
  ((List.range 8).filter ma.getLsbD).map (fun i => 8 * wa.toNat + i)
    ++ ((List.range 8).filter mb.getLsbD).map fun i => 8 * wb.toNat + i

/-- RUNEND (R113): the named registers that have a result in flight stay on the scoreboard (R18). -/
def execRunend (wa : BitVec 3) (ma : BitVec 8) (wb : BitVec 3) (mb : BitVec 8) (s : State) : Out :=
  s.done { s.g with trailer := trailerRegs wa ma wb mb }

/-- TRAP (R115). -/
def execTrap (imm : BitVec 16) (s : State) : Out := s.trapU 0x18 (imm.setWidth 64)
/-- BKPT (R115). -/
def execBkpt (imm : BitVec 16) (s : State) : Out := s.trapU 0x15 (imm.setWidth 64)

/-- A result that is still to come belongs to the handler's copy of a register. DEDUCED (log 28). -/
def Group.bankBusy (g : Group) : Bool := (g.pendS.any fun p => 56 ≤ p.reg.toNat) || !g.heldOps.isEmpty

/-- RFT (R21, R116). DEDUCED (log 28). -/
def execRft (s : State) : Out :=
  if !s.g.trapMode then s.trapU 3 0
  else if s.g.bankBusy then s.stall
  else s.jump (s.g.settleAll s.tick).rft s.g.trapPc

/-- RGN (R48, R118): REGPC, a new epoch, and the region that the group enters (R313), with its signature (R318). DEDUCED (log 32). -/
def execRgn (region : BitVec 18) (s : State) : Out :=
  let d := s.gdesc
  let a := d.rgnBase + BitVec.ofNat 64 (48 * region.toNat)
  s.readAt false 4 a fun s entry => s.readAt false 4 (a + 4) fun s len =>
    let first := LaunchDesc.code d + BitVec.ofNat 64 (4 * entry)
    s.done { s.g with
      regpc := d.codeBase + BitVec.ofNat 64 (4 * entry)
      epoch := s.g.epoch + 1
      region := some { first := first, last := first + BitVec.ofNat 64 (4 * len) - 4, sig := s.g.sig }
      restarts := 0 }

/-- A cluster's instruction buffer, as a core's instruction cache is named by its core. -/
def bufferOf (c : CoreId) : CoreId := { c with core := 8 }

/-- An invalidation of a core's instruction cache, its cluster's buffer, or both (R119). A core's cache that is invalidated before the
buffer may take the old word from it again. Groups of the core that are in a run may have fetched a word that the core loses now; the
issuing one fetches afresh. DESIGN CHOICE (log 24). -/
def State.invalidate (s : State) (lv : IcLevel) (c : CoreId) (self : Nat) : State :=
  let b := bufferOf c
  let running := (s.groups.filter fun g => g.core == c && g.runLen != 0).map Group.key
  { s with icache := s.icache.map fun x =>
      let gone := if lv != .core then b :: x.gone else x.gone
      let gone := if lv != .cluster && gone.contains b then c :: gone else gone
      let groups := if gone.contains c && !x.gone.contains c then running ++ x.groups else x.groups
      { x with gone := gone, groups := groups.filter (· != self) } }

/-- ICINV (R119). -/
def execIcinv (lv : IcLevel) (s : State) : Out := (s.invalidate lv s.g.core s.g.key).done s.g

/-- NOP (R120). -/
def execNop (s : State) : Out := s.done s.g

/-- EM_WRITE (R9). -/
def execEmWrite (val : Word) (s : State) : Out := .next (s.onG fun g => { g with em := val.setWidth 32 &&& g.live })

end Sys2Proof.Machine
end

