-- ==== Sys2Proof/Machine/Csr.lean ====
section
/-! DEFINITION. Control and status registers (R11, R12, R114, R349, R351, R353): their values, their RW fields, CSRR and CSRW. -/
namespace Sys2Proof.Machine

/-- A word of a list of words; one beyond its end reads as 0. -/
def wordAt (ws : List Word) (n : Nat) : Word := ws.getD n 0

/-- The group whose CORE, CLUSTER, GID, TIME and CYCLE a read returns: the leader of a pair (R315). -/
def State.nameOf (s : State) (g : Group) : Group :=
  if g.follower then (g.twin.bind s.group?).getD g else g

/-- Guest TIME of a reach in nanoseconds (R11, R337). -/
def State.guestTime (s : State) (r : BitVec 4) : Word :=
  match s.reach? r with
  | some x => BitVec.ofInt 64 (if x.halted then x.tsaved else Int.ofNat (Config.wallNs s.tick) - x.offset)
  | none => BitVec.ofNat 64 (Config.wallNs s.tick)

/-- Core cycles since a group started (R11). -/
def State.cycleOf (s : State) (g : Group) : Word := BitVec.ofNat 64 (Config.cycles s.tick - Config.cycles g.startTick)

/-- Any watchpoint of a core is enabled (R351). -/
def CoreSt.watching (c : CoreSt) : Bool := (List.range 4).any fun n => c.watchctl.getLsbD (16 * n + 10)

/-- A group that may not reach its core's watchpoints: they are enabled, and another launch owns them (R351). DEDUCED (log 49). -/
def State.watchBarred (s : State) (g : Group) : Bool :=
  let c := s.core g.core
  c.watching && c.owner != some g.launch

/-- The team's own watchpoint state waits in its context for a core whose watchpoints another launch owns: WATCHCTL reads 0 (R352).
DEDUCED (log 49). -/
def State.watchWaits (s : State) (g : Group) : Bool :=
  ((s.teamOf? g).bind Team.watch).isSome && (s.core g.core).owner != some g.launch

/-- WATCHn and, with `n` 4, WATCHCTL as a group reads them (R351). -/
def State.watchGet (s : State) (g : Group) (n : Nat) : Word :=
  let c := s.core g.core
  if s.watchBarred g then 0 else if n == 4 then (if s.watchWaits g then 0 else c.watchctl) else wordAt c.watch n

/-- The fields of WATCHCTL (R349). -/
def watchctlMask : Word := 0x07FF07FF07FF07FF

/-- A write of WATCHn or WATCHCTL by a group (R351): its launch becomes the owner, its team the holder. DEDUCED (log 49). -/
def State.watchSet (s : State) (g : Group) (n : Nat) (x : Word) : State :=
  if s.watchBarred g then s
  else s.onCore g.core fun c =>
    { c with
      watch := if n < 4 then c.watch.set n x else c.watch
      watchctl := if n == 4 then x &&& watchctlMask else c.watchctl
      owner := some g.launch
      holder := some g.team }

/-- The value of a CSR in lane `l` (R11, R12, R349). -/
def State.csrGet (s : State) (g : Group) (n l : Nat) : Word :=
  let d := s.desc g.launch
  match n with
  | 0x000 => g.em.setWidth 64
  | 0x001 => g.regpc
  | 0x002 => g.qw.setWidth 64
  | 0x003 => g.domain.setWidth 64
  | 0x004 => g.frm.setWidth 64
  | 0x005 => g.fflags.setWidth 64
  | 0x006 => modeWord d g.trapMode
  | 0x010 => g.trapCause.setWidth 64
  | 0x011 => g.trapPc
  | 0x012 => g.trapLanes.setWidth 64
  | 0x013 => g.trapInfo
  | 0x014 => g.trapEm.setWidth 64
  | 0x015 => d.trapVec
  | 0x020 => BitVec.ofNat 64 g.idx
  | 0x021 => BitVec.ofNat 64 g.team
  | 0x022 => BitVec.ofNat 64 d.teams
  | 0x023 => BitVec.ofNat 64 g.role
  | 0x024 => BitVec.ofNat 64 (s.nameOf g).core.core
  | 0x025 => BitVec.ofNat 64 (s.nameOf g).core.cluster
  | 0x026 => BitVec.ofNat 64 g.core.die
  | 0x027 => s.device.setWidth 64
  | 0x028 => (s.nameOf g).gid
  | 0x029 => g.launch.setWidth 64
  | 0x02A => stackBase d g.team g.idx
  | 0x030 => BitVec.ofNat 64 l
  | 0x031 => g.tasklink.setWidth 64
  | 0x040 => s.guestTime d.reach
  | 0x041 => s.cycleOf (s.nameOf g)
  | 0x042 => g.retired
  | 0x080 => (((s.teamOf? g).map Team.mseq).getD 0).setWidth 64
  | 0x081 => BitVec.ofNat 64 (if d.waitSwap == 0 then 50 else d.waitSwap)
  | 0x100 => g.dbgctl.setWidth 64
  | 0x101 => g.dbgstat
  | _ =>
    if 0x110 ≤ n && n < 0x120 then (g.dbgout[n - 0x110]?).getD 0
    else if 0x120 ≤ n && n < 0x130 then (g.dbgin[n - 0x120]?).getD 0
    else if 0x130 ≤ n && n < 0x135 then s.watchGet g (n - 0x130)
    else 0

/-- DBGOUTn is written; DBGOUT15 completes a message and tells the wharf cores (R353). -/
def State.mailOut (s : State) (k n : Nat) (x : Word) : State :=
  let s := s.onGroup k fun g => { g with dbgout := g.dbgout.setIfInBounds n x, outv := g.outv || n == 15 }
  match s.group? k with
  | some g => if n == 15 then s.report .mailbox g [] else s
  | none => s

/-- A write of a CSR's RW fields by a group, or by the debugger for it (R12, R114, R347); RO registers ignore it (R4). -/
def State.csrSet (s : State) (k n : Nat) (x : Word) : State :=
  let on := fun f => s.onGroup k f
  match n with
  | 0x000 => on fun g => { g with em := x.setWidth 32 &&& g.live }
  | 0x001 => on fun g => { g with regpc := x }
  | 0x004 => on fun g => { g with frm := x.setWidth 2 }
  | 0x005 => on fun g => { g with fflags := x.setWidth 5 }
  | 0x011 => on fun g => { g with trapPc := x &&& ~~~3#64 }
  | 0x014 => on fun g => { g with trapEm := x.setWidth 32 }
  | 0x100 => on fun g => { g with dbgctl := x.setWidth 2 }
  | _ =>
    if 0x110 ≤ n && n < 0x120 then s.mailOut k (n - 0x110) x
    else if 0x130 ≤ n && n < 0x135 then
      match s.group? k with
      | some g => s.watchSet g (n - 0x130) x
      | none => s
    else s

/-- What a read of a CSR changes: DBGIN15 clears INV (R353). -/
def Group.afterRead (g : Group) (n : Nat) : Group := if n == 0x12F then { g with inv := false } else g

/-- TRAPINFO of a FIELD trap (R37): the first bit of the field, the reason, and the word. -/
def fieldInfo (reason bit : Nat) (w : BitVec 32) : Word := BitVec.ofNat 64 (reason * 2 ^ 37 + bit * 2 ^ 32 + w.toNat)

/-- A RED of the group has not been acknowledged: on its way, or still in the side log (R180). -/
def Group.redsOut (g : Group) : Bool := !g.reds.isEmpty || g.sideRed

/-- An instruction that reads or writes FFLAGS waits for the acknowledgements of REDs (R114, R180). DEDUCED (log 48). -/
def State.flagWait (s : State) (n : Nat) (go : Out) : Out := if n == 5 && s.g.redsOut then s.stall else go

/-- CSRR (R114). -/
def execCsrr (dst : CsrDst) (csr : BitVec 12) (s : State) : Out :=
  let n := csr.toNat
  if csrPrivileged n then s.trapU 3 (BitVec.ofNat 64 n)
  else s.flagWait n <|
    match dst with
    | .s r => s.done ((s.g.setS r (s.csrGet s.g n 0)).afterRead n)
    | .v r => s.done ((s.g.writeL s.g.em r fun l => s.csrGet s.g n l).afterRead n)

/-- CSRW (R114). -/
def execCsrw (csr : BitVec 12) (sa : SReg) (s : State) : Out :=
  let n := csr.toNat
  if csrPrivileged n then s.trapU 3 (BitVec.ofNat 64 n)
  else s.flagWait n <|
    let s := s.csrSet s.g.key n (s.g.sreg sa)
    s.done s.g

/-- FFLAGS_ACCESS (R114): an access of FFLAGS stalls the group while acknowledgements are outstanding. -/
def execFflagsAccess (s : State) : Out := s.flagWait 5 (.next s)

/-- DBGOUT15_WRITE (R353). -/
def execDbgout15Write (val : Word) (s : State) : Out := .next (s.mailOut s.g.key 15 val)

/-- DBGIN15_READ (R353). -/
def execDbgin15Read (sd : SReg) (s : State) : Out :=
  .next (s.onG fun g => (g.setS sd (s.csrGet s.g 0x12F 0)).afterRead 0x12F)

/-- WATCH_WRITE (R351). -/
def execWatchWrite (n : BitVec 3) (val : Word) (s : State) : Out := .next (s.watchSet s.g n.toNat val)

end Sys2Proof.Machine
end

