-- ==== Sys2Proof/Decode.lean ====
section
/-! DEFINITION. Decoding of the 32-bit instruction words (R23–R37) and the encoder of the same tables. `decode` answers none for a
word that is not an instruction; `reserved` and `causes` say why (R36). -/
namespace Sys2Proof

/-- Bits `lo` to `lo + n - 1` of a word. -/
def fld (w : BitVec 32) (lo n : Nat) : BitVec n := w.extractLsb' lo n

/-- A value that a check `c` admits. -/
def need {α : Type} (c : Bool) (o : Option α) : Option α := if c then o else none

/-- sz as a width (R26). -/
def widthOf (x : BitVec 2) : Width :=
  match x.toNat with
  | 0 => .w8
  | 1 => .w16
  | 2 => .w32
  | _ => .w64

/-- The code of a value in its field. -/
def Width.code : Width → BitVec 2
  | .w8 => 0
  | .w16 => 1
  | .w32 => 2
  | .w64 => 3

/-- sz as a float format (R26). -/
def ffmt? (x : BitVec 2) : Option FFmt :=
  match x.toNat with
  | 0 => some .bf16
  | 1 => some .f16
  | 2 => some .f32
  | _ => none

/-- The code of a value in its field. -/
def FFmt.code : FFmt → BitVec 2
  | .bf16 => 0
  | .f16 => 1
  | .f32 => 2

/-- cond of ICMP and SCMP (R30). -/
def condOf (x : BitVec 3) : Cond :=
  match x.toNat with
  | 0 => .eq
  | 1 => .ne
  | 2 => .lt
  | 3 => .ge
  | 4 => .ltu
  | 5 => .geu
  | 6 => .le
  | _ => .gt

/-- The code of a value in its field. -/
def Cond.code : Cond → BitVec 3
  | .eq => 0
  | .ne => 1
  | .lt => 2
  | .ge => 3
  | .ltu => 4
  | .geu => 5
  | .le => 6
  | .gt => 7

/-- cond of FCMP (R30). -/
def fcondOf (x : BitVec 3) : FCond :=
  match x.toNat with
  | 0 => .eq
  | 1 => .ne
  | 2 => .lt
  | 3 => .ge
  | 4 => .le
  | 5 => .gt
  | 6 => .ord
  | _ => .uno

/-- The code of a value in its field. -/
def FCond.code : FCond → BitVec 3
  | .eq => 0
  | .ne => 1
  | .lt => 2
  | .ge => 3
  | .le => 4
  | .gt => 5
  | .ord => 6
  | .uno => 7

/-- m (R30). -/
def combOf (x : BitVec 2) : Comb :=
  match x.toNat with
  | 0 => .set
  | 1 => .and
  | 2 => .or
  | _ => .andn

/-- The code of a value in its field. -/
def Comb.code : Comb → BitVec 2
  | .set => 0
  | .and => 1
  | .or => 2
  | .andn => 3

/-- The selector of FSPEC (R89). -/
def ffun? (x : BitVec 6) : Option FFun :=
  match x.toNat with
  | 0 => some .rcp
  | 1 => some .sqrt
  | 2 => some .rsq
  | 3 => some .exp2
  | 4 => some .log2
  | 5 => some .sin
  | 6 => some .cos
  | 7 => some .tanh
  | _ => none

/-- The code of a value in its field. -/
def FFun.code : FFun → BitVec 6
  | .rcp => 0
  | .sqrt => 1
  | .rsq => 2
  | .exp2 => 3
  | .log2 => 4
  | .sin => 5
  | .cos => 6
  | .tanh => 7

/-- The format pair of DOT (R94). -/
def dotPairOf (x : BitVec 2) : DotPair :=
  match x.toNat with
  | 0 => .e4m3
  | 1 => .e5m2
  | 2 => .e2m1
  | _ => .i8

/-- The code of a value in its field. -/
def DotPair.code : DotPair → BitVec 2
  | .e4m3 => 0
  | .e5m2 => 1
  | .e2m1 => 2
  | .i8 => 3

/-- mode of VOTE (R155). -/
def voteOf (x : BitVec 2) : VoteMode :=
  match x.toNat with
  | 0 => .all
  | 1 => .any
  | 2 => .ballot
  | _ => .count

/-- The code of a value in its field. -/
def VoteMode.code : VoteMode → BitVec 2
  | .all => 0
  | .any => 1
  | .ballot => 2
  | .count => 3

/-- scope of LX (R31). -/
def scopeOf (x : BitVec 2) : LxScope :=
  match x.toNat with
  | 0 => .core
  | 1 => .die
  | 2 => .device
  | _ => .pod

/-- The code of a value in its field. -/
def LxScope.code : LxScope → BitVec 2
  | .core => 0
  | .die => 1
  | .device => 2
  | .pod => 3

/-- The operation of RED (R31). -/
def redOf (x : BitVec 3) : RedOp :=
  match x.toNat with
  | 0 => .add
  | 1 => .smin
  | 2 => .smax
  | 3 => .umin
  | 4 => .umax
  | 5 => .and
  | 6 => .or
  | _ => .fadd32

/-- The code of a value in its field. -/
def RedOp.code : RedOp → BitVec 3
  | .add => 0
  | .smin => 1
  | .smax => 2
  | .umin => 3
  | .umax => 4
  | .and => 5
  | .or => 6
  | .fadd32 => 7

/-- cond of UB (R32). -/
def bcond? (x : BitVec 3) : Option BCond :=
  match x.toNat with
  | 0 => some .always
  | 1 => some .any
  | 2 => some .all
  | 3 => some .none
  | 4 => some .notAll
  | _ => none

/-- The code of a value in its field. -/
def BCond.code : BCond → BitVec 3
  | .always => 0
  | .any => 1
  | .all => 2
  | .none => 3
  | .notAll => 4

/-- scope of PHASE (R33). -/
def pscope? (x : BitVec 3) : Option PScope :=
  match x.toNat with
  | 0 => some .group
  | 1 => some .core
  | 2 => some .cluster
  | 3 => some .die
  | 4 => some .device
  | 5 => some .pod
  | _ => none

/-- The code of a value in its field. -/
def PScope.code : PScope → BitVec 3
  | .group => 0
  | .core => 1
  | .cluster => 2
  | .die => 3
  | .device => 4
  | .pod => 5

/-- f of COLL (R202). -/
def collKind? (x : BitVec 3) : Option CollKind :=
  match x.toNat with
  | 0 => some .allReduce
  | 1 => some .reduceScatter
  | 2 => some .allGather
  | 3 => some .broadcast
  | _ => none

/-- The code of a value in its field. -/
def CollKind.code : CollKind → BitVec 3
  | .allReduce => 0
  | .reduceScatter => 1
  | .allGather => 2
  | .broadcast => 3

/-- f of RELAYOUT (R263). -/
def tag? (x : BitVec 3) : Option Tag :=
  match x.toNat with
  | 0 => some .row
  | 1 => some .col
  | 2 => some .tile16
  | 3 => some .tile128
  | 4 => some .kblk32
  | 5 => some .swz
  | _ => none

/-- The code of a value in its field. -/
def Tag.code : Tag → BitVec 3
  | .row => 0
  | .col => 1
  | .tile16 => 2
  | .tile128 => 3
  | .kblk32 => 4
  | .swz => 5

/-- f of AREAD (R280). -/
def afmt? (x : BitVec 3) : Option AFmt :=
  match x.toNat with
  | 0 => some .f32
  | 1 => some .bf16
  | 2 => some .i32
  | _ => none

/-- The code of a value in its field. -/
def AFmt.code : AFmt → BitVec 3
  | .f32 => 0
  | .bf16 => 1
  | .i32 => 2

/-- mode of FEBIND (R33). -/
def bind? (x : BitVec 2) : Option BindMode :=
  match x.toNat with
  | 0 => some .bind
  | 1 => some .empty
  | 2 => some .full
  | _ => none

/-- The code of a value in its field. -/
def BindMode.code : BindMode → BitVec 2
  | .bind => 0
  | .empty => 1
  | .full => 2

/-- level of ICINV (R33). -/
def icLevel? (x : BitVec 2) : Option IcLevel :=
  match x.toNat with
  | 0 => some .core
  | 1 => some .cluster
  | 2 => some .both
  | _ => none

/-- The code of a value in its field. -/
def IcLevel.code : IcLevel → BitVec 2
  | .core => 0
  | .cluster => 1
  | .both => 2

/-- Selectors 0 to 7 of LRED and LSCAN (R152). -/
def ired? (x : BitVec 3) : IRed :=
  match x.toNat with
  | 0 => .add
  | 1 => .and
  | 2 => .or
  | 3 => .xor
  | 4 => .smin
  | 5 => .smax
  | 6 => .umin
  | _ => .umax

/-- The code of a value in its field. -/
def IRed.code : IRed → BitVec 3
  | .add => 0
  | .and => 1
  | .or => 2
  | .xor => 3
  | .smin => 4
  | .smax => 5
  | .umin => 6
  | .umax => 7

/-- g (R27). -/
def guard? (x : BitVec 4) : Option Guard :=
  if x = 0 then some .always
  else if x = 8 then none
  else if x.getLsbD 3 then some (.ifClear (x.extractLsb' 0 3))
  else some (.ifSet (x.extractLsb' 0 3))

/-- The g field of a guard. -/
def Guard.code : Guard → BitVec 4
  | .always => 0
  | .ifSet p => 0#1 ++ p
  | .ifClear p => 1#1 ++ p

/-- h (R28). -/
def hsel? (x : BitVec 3) : Option HSel :=
  match x.toNat with
  | 4 => some .sext
  | 5 => some .zext
  | 6 => none
  | 7 => none
  | _ => some (.quarter (x.extractLsb' 0 2))

/-- The h field. -/
def HSel.code : HSel → BitVec 3
  | .quarter k => 0#1 ++ k
  | .sext => 4
  | .zext => 5

/-- Mode and number of LXCH (R151). -/
def xch? (sz : BitVec 2) (imm : BitVec 7) : Option Xch :=
  need (imm.extractLsb' 5 2 = 0) (
    let n : BitVec 5 := imm.extractLsb' 0 5
    match sz.toNat with
    | 0 => some (.bcast n)
    | 1 => some (.rot n)
    | 2 => need (Xch.mirror n).wf (some (.mirror n))
    | _ => some (.xor n))

/-- The sz field of LXCH. -/
def Xch.szCode : Xch → BitVec 2
  | .bcast _ => 0
  | .rot _ => 1
  | .mirror _ => 2
  | .xor _ => 3

/-- The number of LXCH. -/
def Xch.num : Xch → BitVec 5
  | .bcast n => n
  | .rot n => n
  | .mirror n => n
  | .xor n => n

/-- Selector and width of LRED and LSCAN (R152). -/
def reduce? (b : BitVec 6) (sz : BitVec 2) : Option Reduce :=
  if b.extractLsb' 3 3 = 0 then some (.int (ired? (b.extractLsb' 0 3)) (widthOf sz))
  else match b.toNat with
    | 8 => (ffmt? sz).map (.flt .fadd)
    | 9 => (ffmt? sz).map (.flt .fmin)
    | 10 => (ffmt? sz).map (.flt .fmax)
    | _ => none

/-- The b field of LRED and LSCAN. -/
def Reduce.selCode : Reduce → BitVec 6
  | .int op _ => 0#3 ++ op.code
  | .flt .fadd _ => 8
  | .flt .fmin _ => 9
  | .flt .fmax _ => 10

/-- The sz field of LRED and LSCAN. -/
def Reduce.szCode : Reduce → BitVec 2
  | .int _ w => w.code
  | .flt _ f => f.code

/-! The lane formats (R24). -/

/-- LA with all of its fields. -/
def asLA (w : BitVec 32) (k : Width → LReg → LReg → LReg → Guard → Instr) : Option Instr :=
  (guard? (fld w 0 4)).map (k (widthOf (fld w 5 2)) (fld w 19 6) (fld w 13 6) (fld w 7 6))

/-- LA whose b field is zero. -/
def asLA1 (w : BitVec 32) (k : Width → LReg → LReg → Guard → Instr) : Option Instr :=
  need (fld w 7 6 = 0) ((guard? (fld w 0 4)).map (k (widthOf (fld w 5 2)) (fld w 19 6) (fld w 13 6)))

/-- LA with a float format. -/
def asLF (w : BitVec 32) (k : FFmt → LReg → LReg → LReg → Guard → Instr) : Option Instr :=
  (ffmt? (fld w 5 2)).bind fun f => (guard? (fld w 0 4)).map (k f (fld w 19 6) (fld w 13 6) (fld w 7 6))

/-- LA with a float format, whose b field is zero. -/
def asLF1 (w : BitVec 32) (k : FFmt → LReg → LReg → Guard → Instr) : Option Instr :=
  need (fld w 7 6 = 0)
    ((ffmt? (fld w 5 2)).bind fun f => (guard? (fld w 0 4)).map (k f (fld w 19 6) (fld w 13 6)))

/-- LI. -/
def asLI (w : BitVec 32) (k : Width → LReg → LReg → BitVec 7 → Guard → Instr) : Option Instr :=
  (guard? (fld w 0 4)).map (k (widthOf (fld w 11 2)) (fld w 19 6) (fld w 13 6) (fld w 4 7))

/-- LM. -/
def asLM (w : BitVec 32) (k : Width → LReg → LReg → BitVec 3 → La → Guard → Instr) : Option Instr :=
  (guard? (fld w 0 4)).map (k (widthOf (fld w 11 2)) (fld w 19 6) (fld w 13 6) (fld w 8 3) (fld w 4 4))

/-- LM whose d field is a destination (R25). -/
def asLMd (w : BitVec 32) (k : Width → LReg → LReg → BitVec 3 → La → Guard → Instr) : Option Instr :=
  need (isV (fld w 19 6)) (asLM w k)

/-- LX whose d field is a destination (R25). -/
def asLX (w : BitVec 32) (k : Bool → LxScope → LReg → LReg → LReg → La → Instr) : Option Instr :=
  need (isV (fld w 19 6))
    (some (k (w.getLsbD 6) (scopeOf (fld w 4 2)) (fld w 19 6) (fld w 13 6) (fld w 7 6) (fld w 0 4)))

/-- The x field of LA. -/
def pickX (w : BitVec 32) (o0 o1 : Option Instr) : Option Instr := if w.getLsbD 4 then o1 else o0

/-- The instruction of a lane-set word (R31). -/
def decodeLane (w : BitVec 32) : Option Instr :=
  match (fld w 25 6).toNat with
  | 0x00 => pickX w (asLA w .iadd) (asLA w .isub)
  | 0x01 => asLI w .iaddi
  | 0x02 => pickX w (asLA w .imin) (asLA w .imax)
  | 0x03 => pickX w (asLA w .umin) (asLA w .umax)
  | 0x04 => pickX w (asLA w .imul) (asLA w .imulhi)
  | 0x05 => pickX w (asLA w .imad) (asLA w .imsb)
  | 0x06 => pickX w (asLA w .iaddsat) (asLA w .isubsat)
  | 0x07 => pickX w (asLA w .uaddsat) (asLA w .usubsat)
  | 0x08 => pickX w (asLA w .land) (asLA w .landn)
  | 0x09 => pickX w (asLA w .lor) (asLA w .lorn)
  | 0x0A => pickX w (asLA w .lxor) (asLA w .lxnor)
  | 0x0B => pickX w (asLA w .shl) (asLA w .shr)
  | 0x0C => pickX w (asLA w .sar) (asLA w .rol)
  | 0x0D => asLI w .shli
  | 0x0E => asLI w .shri
  | 0x0F => asLI w .sari
  | 0x10 => pickX w (asLA1 w .popc) (asLA1 w .clz)
  | 0x11 => pickX w (asLA1 w .brev) (asLA1 w .ctz)
  | 0x12 => pickX w (asLA w .bfx) (asLA w .bfxs)
  | 0x13 => pickX w (asLA w .bfi) none
  | 0x14 => pickX w (asLA1 w .iabs) (asLA1 w .ineg)
  | 0x15 => need (fld w 5 2 = 0) (pickX w (asLA1 w fun _ d a g => .mov d a g) (asLA1 w fun _ d a g => .movs d a g))
  | 0x16 => (hsel? (fld w 0 3)).map fun h => .movi (fld w 19 6) h (fld w 3 16)
  | 0x17 => some (.sel (fld w 19 6) (fld w 13 6) (fld w 7 6) (fld w 0 7))
  | 0x18 => some (.icmp (fld w 18 7) (fld w 12 6) (fld w 6 6) (condOf (fld w 3 3)) (w.getLsbD 2) (combOf (fld w 0 2)))
  | 0x19 => need (!w.getLsbD 2)
      (some (.fcmp (fld w 18 7) (fld w 12 6) (fld w 6 6) (fcondOf (fld w 3 3)) (combOf (fld w 0 2))))
  | 0x1A => some (.plop (fld w 18 7) (fld w 11 7) (fld w 4 7) (fld w 0 4))
  | 0x1B => need (!w.getLsbD 6) (pickX w
      (need (fld w 13 6 = 0) (asLA1 w fun _ d _ g => .pmovGet d (w.getLsbD 5) g))
      (need (fld w 19 6 = 0) (asLA1 w fun _ _ a g => .pmovSet a (w.getLsbD 5) g)))
  | 0x1C => pickX w (asLF w .fadd) (asLF w .fsub)
  | 0x1D => pickX w (asLF w .fmul) none
  | 0x1E => pickX w (asLF w .ffma) (asLF w .ffms)
  | 0x1F => pickX w (asLF w .fmin) (asLF w .fmax)
  | 0x20 => pickX w ((ffun? (fld w 7 6)).bind fun fn => asLF w fun f d a _ g => .fspec fn f d a g) none
  | 0x21 => pickX w (need (cvtOk (fld w 7 6) (fld w 5 2)) (asLA w fun _ d a b g => .cvt b (fld w 5 2) d a g)) none
  | 0x22 => asLA w fun _ d a b g => .dot (dotPairOf (fld w 5 2)) (w.getLsbD 4) d a b g
  | 0x23 => pickX w (asLF1 w .fabs) (asLF1 w .fneg)
  | 0x24 => pickX w (asLA w .perm) none
  | 0x25 => (xch? (fld w 11 2) (fld w 4 7)).bind fun x => asLI w fun _ d a _ g => .lxch x d a g
  | 0x26 => pickX w ((reduce? (fld w 7 6) (fld w 5 2)).bind fun op => asLA w fun _ d a _ g => .lred op d a g) none
  | 0x27 => (reduce? (fld w 7 6) (fld w 5 2)).bind fun op => asLA w fun _ d a _ g => .lscan op (w.getLsbD 4) d a g
  | 0x28 => need (fld w 0 10 = 0) (some (.vote (fld w 19 6) (fld w 12 7) (voteOf (fld w 10 2))))
  | 0x2A => asLMd w .ld
  | 0x2B => need (fld w 11 2 ≠ 3) (asLMd w .lds)
  | 0x2C => asLM w .st
  | 0x2D => asLMd w .ldfe
  | 0x2E => asLMd w .ldfw
  | 0x2F => asLM w .stfe
  | 0x30 => asLX w .cas
  | 0x31 => need (fld w 19 3 = 0) (need (redWf (redOf (fld w 22 3)) (w.getLsbD 6))
      (some (.red (redOf (fld w 22 3)) (w.getLsbD 6) (scopeOf (fld w 4 2)) (fld w 13 6) (fld w 7 6) (fld w 0 4))))
  | 0x32 => need (isV (fld w 19 6))
      ((guard? (fld w 0 4)).map (.tload (fld w 8 5) (fld w 19 6) (fld w 13 6) (fld w 4 4)))
  | 0x33 => (guard? (fld w 0 4)).map (.tstore (fld w 8 5) (fld w 19 6) (fld w 13 6) (fld w 4 4))
  | 0x34 => asLX w .atomAdd
  | 0x35 => asLX w .atomSmin
  | 0x36 => asLX w .atomSmax
  | 0x37 => asLX w .atomUmin
  | 0x38 => asLX w .atomUmax
  | 0x39 => asLX w .atomAnd
  | 0x3A => asLX w .atomOr
  | 0x3B => asLX w .atomXchg
  | _ => none

/-- SALU, by f (R34). -/
def salu? (f : BitVec 7) (sd sa sb : SReg) : Option Instr :=
  match f.toNat with
  | 0 => some (.sadd sd sa sb)
  | 1 => some (.ssub sd sa sb)
  | 2 => some (.smul sd sa sb)
  | 3 => some (.smulhi sd sa sb)
  | 4 => some (.sand sd sa sb)
  | 5 => some (.sor sd sa sb)
  | 6 => some (.sxor sd sa sb)
  | 7 => some (.sandn sd sa sb)
  | 8 => some (.sshl sd sa sb)
  | 9 => some (.sshr sd sa sb)
  | 10 => some (.ssar sd sa sb)
  | 11 => some (.smin sd sa sb)
  | 12 => some (.smax sd sa sb)
  | 13 => some (.sminu sd sa sb)
  | 14 => some (.smaxu sd sa sb)
  | _ => none

/-- UE with f = 0, and with `sb` zero where `z` says so. -/
def asUE (w : BitVec 32) (f : Nat) (i : Instr) : Option Instr := need ((fld w 4 3).toNat == f) (some i)

/-- The QOP forms (R33). -/
def qop? (w : BitVec 32) : Option Instr :=
  need (fld w 0 17 = 0) (
    match (fld w 23 2).toNat with
    | 0 => need (fld w 17 6 = 0) (some .qopen)
    | 1 => need (fld w 17 6 = 0) (some .qret)
    | 2 => need (fld w 17 6 = 0) (some .qwait)
    | _ => some (.qread (fld w 17 6)))

/-- The destination of CSRR. -/
def csrDst (w : BitVec 32) : CsrDst := if w.getLsbD 23 then .v (fld w 17 6) else .s (fld w 17 6)

/-- CSRR and CSRW (R33). -/
def csr? (w : BitVec 32) : Option Instr :=
  need (fld w 0 5 = 0) (
    if w.getLsbD 24 then need (!w.getLsbD 23 && csrKnown (fld w 5 12)) (some (.csrw (fld w 5 12) (fld w 17 6)))
    else need (csrrWf (csrDst w) (fld w 5 12)) (some (.csrr (csrDst w) (fld w 5 12))))

/-- The instruction of a uniform-set word (R34). -/
def decodeUniform (w : BitVec 32) : Option Instr :=
  let sd := fld w 19 6
  let sa := fld w 13 6
  let sb := fld w 7 6
  let la := fld w 0 4
  let f := (fld w 4 3).toNat
  match (fld w 25 6).toNat with
  | 0x00 => salu? (fld w 0 7) sd sa sb
  | 0x01 => some (.saddi sd sa (fld w 0 13))
  | 0x02 => (hsel? (fld w 16 3)).map fun h => .sli sd h (fld w 0 16)
  | 0x03 => some (.scmp (fld w 18 7) (fld w 12 6) (fld w 6 6) (condOf (fld w 3 3)) (w.getLsbD 2) (combOf (fld w 0 2)))
  | 0x04 => need (isV sa && fld w 0 8 == 0) (some (.sget sd sa (fld w 8 5)))
  | 0x06 => some (.sld (widthOf (fld w 11 2)) sd sa (fld w 4 7) la)
  | 0x07 => some (.sst (widthOf (fld w 11 2)) sd sa (fld w 4 7) la)
  | 0x08 => (bcond? (fld w 22 3)).bind fun c => need (braWf c (fld w 15 7)) (some (.bra c (fld w 15 7) (fld w 0 15)))
  | 0x09 => some (.brl (fld w 0 25))
  | 0x0A => some (.brd (fld w 18 7) (fld w 0 18))
  | 0x0B => some (.jpush (fld w 0 25))
  | 0x0C => need (fld w 0 25 = 0) (some .join)
  | 0x0D => need (isV sd) (some (.brx sd (fld w 0 19)))
  | 0x0E => some (.call (fld w 0 25))
  | 0x0F => need (fld w 0 25 = 0) (some .ret)
  | 0x10 => need (fld w 0 25 = 0) (some .exit)
  | 0x11 => some (.yield sd (fld w 0 19))
  | 0x12 => need (fld w 0 3 = 0 && windowWf (fld w 22 3) (fld w 14 8) && windowWf (fld w 11 3) (fld w 3 8))
      (some (.runend (fld w 22 3) (fld w 14 8) (fld w 11 3) (fld w 3 8)))
  | 0x13 => need (fld w 0 15 = 0) (some (.bar (fld w 21 4) (fld w 15 6)))
  | 0x14 => need (fld w 0 22 = 0) ((pscope? (fld w 22 3)).map .phase)
  | 0x15 => need (fld w 0 25 = 0) (some .xfence)
  | 0x16 => need (fld w 0 13 = 0) (some (.waitseq sd sa))
  | 0x17 => qop? w
  | 0x18 => need (sa.toNat ≤ 60) (asUE w 0 (.enq sd sa sb la))
  | 0x19 => need (sd.toNat ≤ 60 && sb == 0) (
      match f with
      | 0 => some (.deq sd sa la)
      | 1 => some (.deqNb sd sa la)
      | _ => none)
  | 0x1A => need (sa.toNat ≤ 60 && sb.toNat ≤ 62) (asUE w 0 (.deparm sd sa sb la))
  | 0x1B => need (sb = 0) (asUE w 0 (.depdec sd sa la))
  | 0x1C => need (sb.toNat ≤ 62 && f ≤ 1) (some (.cpy sd sa sb (f == 1) la))
  | 0x1D => asUE w 0 (.chead sd sa sb la)
  | 0x1E => asUE w 0 (.ctail sd sa sb la)
  | 0x1F => need (sa.toNat ≤ 62 && sb.toNat ≤ 62 && f ≤ 1) (some (.tmove sd sa sb (f == 1) la))
  | 0x20 => (collKind? (fld w 4 3)).map fun k => .coll k sd sa sb la
  | 0x21 => need (fld w 0 14 = 0) (some (.tsload (fld w 20 5) (fld w 14 6)))
  | 0x22 => need (fld w 0 14 = 0) (some (.tsevict (fld w 20 5) (fld w 14 6)))
  | 0x23 => (tag? (fld w 4 3)).map fun t => .relayout t sd sa sb la
  | 0x24 => need (sb = 0) (
      match f with
      | 0 => some (.oclaim sd sa la)
      | 1 => some (.orelease sd sa la)
      | _ => none)
  | 0x25 => need (sb = 0) (
      match f with
      | 0 => some (.aclaim sd sa la)
      | 1 => some (.arelease sd sa la)
      | _ => none)
  | 0x26 =>
      match f with
      | 0 => some (.mloop sd sa sb la)
      | 1 => need (sd == 0 && sb == 0) (some (.mloopWait sa la))
      | _ => none
  | 0x28 => need (sb == 0 && isV sd) ((afmt? (fld w 4 3)).map fun k => .aread k sd sa la)
  | 0x29 => need (sb == 0 && sd == 0) (asUE w 0 (.azero sa la))
  | 0x2A => csr? w
  | 0x2C => need (fld w 0 9 = 0) (some (.trap (fld w 9 16)))
  | 0x2D => need (fld w 0 25 = 0) (some .rft)
  | 0x2E => need (fld w 0 9 = 0) (some (.bkpt (fld w 9 16)))
  | 0x2F => need (fld w 0 7 = 0) (some (.rgn (fld w 7 18)))
  | 0x30 => need (fld w 0 5 = 0) ((bind? (fld w 5 2)).map (.febind sd sa sb))
  | 0x32 => need (fld w 0 25 = 0) (some .nop)
  | 0x34 => need (fld w 0 23 = 0) ((icLevel? (fld w 23 2)).map .icinv)
  | _ => none

/-- The instruction that a word stands for; none for a word that is not an instruction (R36). DEDUCED (log 22). -/
def decode (w : BitVec 32) : Option Instr := if w.getLsbD 31 then decodeUniform w else decodeLane w

/-! Why a word is no instruction (R36, R37). -/

/-- The reserved opcodes of R31 and R34: ILLEGAL. -/
def reserved (w : BitVec 32) : Bool :=
  let op := (fld w 25 6).toNat
  if w.getLsbD 31 then op == 0x05 || op == 0x27 || op == 0x2B || op == 0x31 || op == 0x33 || 0x35 ≤ op
  else op == 0x29 || 0x3C ≤ op

/-- A FIELD cause: the lowest bit of its field, and its REASON (R37). -/
structure Cause where
  bit : Nat
  reason : Nat
  deriving DecidableEq, Repr

/-- An illegal value of a field (REASON 1). -/
def bad (lo : Nat) (c : Bool) : List Cause := if c then [⟨lo, 1⟩] else []
/-- A zero field that is not zero (REASON 2). -/
def zf (w : BitVec 32) (lo n : Nat) : List Cause := if fld w lo n = 0 then [] else [⟨lo, 2⟩]
/-- A register field that accepts no e register (REASON 4, R25). -/
def onlyV (w : BitVec 32) (lo : Nat) : List Cause := if isV (fld w lo 6) then [] else [⟨lo, 4⟩]
/-- The guard value that is illegal (R27). -/
def badG (w : BitVec 32) : List Cause := bad 0 ((guard? (fld w 0 4)).isNone)
/-- The format value that is illegal (R26). -/
def badF (w : BitVec 32) : List Cause := bad 5 ((ffmt? (fld w 5 2)).isNone)
/-- The x value that is illegal. -/
def badX (w : BitVec 32) : List Cause := bad 4 (w.getLsbD 4)

/-- FIELD causes of a lane-set word (R26–R31, R65, R85, R149, R263). -/
def causesLane (w : BitVec 32) : List Cause :=
  match (fld w 25 6).toNat with
  | 0x10 => badG w ++ zf w 7 6
  | 0x11 => badG w ++ zf w 7 6
  | 0x13 => badG w ++ zf w 4 1
  | 0x14 => badG w ++ zf w 7 6
  | 0x15 => badG w ++ zf w 5 2 ++ zf w 7 6
  | 0x16 => bad 0 ((hsel? (fld w 0 3)).isNone)
  | 0x17 => []
  | 0x18 => []
  | 0x19 => bad 2 (w.getLsbD 2)
  | 0x1A => []
  | 0x1B => badG w ++ bad 5 (w.getLsbD 6) ++ zf w 7 6 ++ (if w.getLsbD 4 then zf w 19 6 else zf w 13 6)
  | 0x1C => badG w ++ badF w
  | 0x1D => badG w ++ badX w ++ badF w
  | 0x1E => badG w ++ badF w
  | 0x1F => badG w ++ badF w
  | 0x20 => badG w ++ badX w ++ badF w ++ bad 7 ((ffun? (fld w 7 6)).isNone)
  | 0x21 => badG w ++ badX w ++ bad 5 ((cvtRow (fld w 7 6)).isSome && !cvtOk (fld w 7 6) (fld w 5 2))
      ++ bad 7 ((cvtRow (fld w 7 6)).isNone)
  | 0x23 => badG w ++ badF w ++ zf w 7 6
  | 0x24 => badG w ++ badX w
  | 0x25 => badG w ++ bad 4 ((xch? (fld w 11 2) (fld w 4 7)).isNone)
  | 0x26 => badG w ++ badX w ++ bad 5 (8 ≤ (fld w 7 6).toNat && (fld w 7 6).toNat ≤ 10 && fld w 5 2 == 3)
      ++ bad 7 (11 ≤ (fld w 7 6).toNat)
  | 0x27 => badG w ++ bad 5 (8 ≤ (fld w 7 6).toNat && (fld w 7 6).toNat ≤ 10 && fld w 5 2 == 3)
      ++ bad 7 (11 ≤ (fld w 7 6).toNat)
  | 0x28 => zf w 0 10
  | 0x2A => badG w ++ onlyV w 19
  | 0x2B => badG w ++ bad 11 (fld w 11 2 == 3) ++ onlyV w 19
  | 0x2C => badG w
  | 0x2D => badG w ++ onlyV w 19
  | 0x2E => badG w ++ onlyV w 19
  | 0x2F => badG w
  | 0x31 => bad 6 (!redWf (redOf (fld w 22 3)) (w.getLsbD 6)) ++ zf w 19 3
  | 0x32 => badG w ++ onlyV w 19
  | 0x33 => badG w
  | op => if 0x30 ≤ op then onlyV w 19 else badG w

/-- FIELD causes of a uniform-set word (R32–R34, R202, R234, R263, R280). -/
def causesUniform (w : BitVec 32) : List Cause :=
  let sd := (fld w 19 6).toNat
  let sa := (fld w 13 6).toNat
  let sb := (fld w 7 6).toNat
  let f := (fld w 4 3).toNat
  match (fld w 25 6).toNat with
  | 0x00 => bad 0 (15 ≤ (fld w 0 7).toNat)
  | 0x02 => bad 16 ((hsel? (fld w 16 3)).isNone)
  | 0x04 => zf w 0 8 ++ onlyV w 13
  | 0x08 => (if fld w 22 3 = 0 then zf w 15 7 else []) ++ bad 22 ((bcond? (fld w 22 3)).isNone)
  | 0x0C => zf w 0 25
  | 0x0D => onlyV w 19
  | 0x0F => zf w 0 25
  | 0x10 => zf w 0 25
  | 0x12 => zf w 0 3 ++ bad 11 (!windowWf (fld w 11 3) (fld w 3 8)) ++ bad 22 (!windowWf (fld w 22 3) (fld w 14 8))
  | 0x13 => zf w 0 15
  | 0x14 => zf w 0 22 ++ bad 22 ((pscope? (fld w 22 3)).isNone)
  | 0x15 => zf w 0 25
  | 0x16 => zf w 0 13
  | 0x17 => zf w 0 17 ++ (if fld w 23 2 = 3 then [] else zf w 17 6)
  | 0x18 => bad 4 (f != 0) ++ bad 13 (61 ≤ sa)
  | 0x19 => bad 4 (2 ≤ f) ++ zf w 7 6 ++ bad 19 (61 ≤ sd)
  | 0x1A => bad 4 (f != 0) ++ bad 7 (sb == 63) ++ bad 13 (61 ≤ sa)
  | 0x1B => bad 4 (f != 0) ++ zf w 7 6
  | 0x1C => bad 4 (2 ≤ f) ++ bad 7 (sb == 63)
  | 0x1D => bad 4 (f != 0)
  | 0x1E => bad 4 (f != 0)
  | 0x1F => bad 4 (2 ≤ f) ++ bad 7 (sb == 63) ++ bad 13 (sa == 63)
  | 0x20 => bad 4 (4 ≤ f)
  | 0x21 => zf w 0 14
  | 0x22 => zf w 0 14
  | 0x23 => bad 4 (6 ≤ f)
  | 0x24 => bad 4 (2 ≤ f) ++ zf w 7 6
  | 0x25 => bad 4 (2 ≤ f) ++ zf w 7 6
  | 0x26 => bad 4 (2 ≤ f) ++ (if f == 1 then zf w 7 6 ++ zf w 19 6 else [])
  | 0x28 => bad 4 (3 ≤ f) ++ zf w 7 6 ++ onlyV w 19
  | 0x29 => bad 4 (f != 0) ++ zf w 7 6 ++ zf w 19 6
  | 0x2A => zf w 0 5 ++ (if csrKnown (fld w 5 12) then [] else [⟨5, 5⟩])
      ++ (if w.getLsbD 24 then bad 23 (w.getLsbD 23)
          else if w.getLsbD 23 then onlyV w 17 else bad 23 (csrPerLane (fld w 5 12).toNat))
  | 0x2C => zf w 0 9
  | 0x2D => zf w 0 25
  | 0x2E => zf w 0 9
  | 0x2F => zf w 0 7
  | 0x30 => zf w 0 5 ++ bad 5 ((bind? (fld w 5 2)).isNone)
  | 0x32 => zf w 0 25
  | 0x34 => zf w 0 23 ++ bad 23 ((icLevel? (fld w 23 2)).isNone)
  | _ => []

/-- The FIELD causes that the word alone shows. -/
def causes (w : BitVec 32) : List Cause := if w.getLsbD 31 then causesUniform w else causesLane w

/-- The lowest bits of the fields that name a v or e register (R8). -/
def vregFields (w : BitVec 32) : List Nat :=
  let op := (fld w 25 6).toNat
  if w.getLsbD 31 then
    if op == 0x04 then [13]
    else if op == 0x0D || op == 0x28 then [19]
    else if op == 0x2A && !w.getLsbD 24 && w.getLsbD 23 then [17]
    else []
  else if op == 0x15 then (if w.getLsbD 4 then [19] else [13, 19])
  else if op == 0x16 then [19]
  else if op == 0x17 then [7, 13, 19]
  else if op == 0x18 || op == 0x19 then [6, 12]
  else if op == 0x1A || op == 0x28 then []
  else if op == 0x1B then (if w.getLsbD 4 then [13] else [19])
  else if op == 0x31 then [7, 13]
  else if op == 0x01 || op == 0x0D || op == 0x0E || op == 0x0F || op == 0x10 || op == 0x11 || op == 0x14
      || op == 0x20 || op == 0x21 || op == 0x23 || op == 0x25 || op == 0x26 || op == 0x27
      || (0x2A ≤ op && op ≤ 0x2F) || op == 0x32 || op == 0x33 then [13, 19]
  else [7, 13, 19]

/-- The FIELD causes that a group's budget and shape slots add (R8, R263): `limit r` says that v register `r` is beyond them.
DEDUCED (log 22). -/
def causesIn (beyond : Nat → Bool) (shapes : Nat) (w : BitVec 32) : List Cause :=
  let op := (fld w 25 6).toNat
  let slot :=
    if w.getLsbD 31 then
      if op == 0x21 || op == 0x22 then bad 20 (shapes ≤ (fld w 20 5).toNat) else []
    else if op == 0x32 || op == 0x33 then bad 8 (shapes ≤ (fld w 8 5).toNat) else []
  causes w ++ slot
    ++ ((vregFields w).filter fun lo => isV (fld w lo 6) && beyond (fld w lo 6).toNat).map fun lo => ⟨lo, 3⟩

/-- The cause that is reported: the field with the lowest starting bit (R36). -/
def lowest : List Cause → Option Cause
  | [] => none
  | c :: cs =>
    match lowest cs with
    | some d => if d.bit < c.bit then some d else some c
    | none => some c

/-! The encoder. -/

/-- A lane-set word. -/
def laneWord (op : BitVec 6) (body : BitVec 25) : BitVec 32 := 0#1 ++ op ++ body
/-- A uniform-set word. -/
def uniWord (op : BitVec 6) (body : BitVec 25) : BitVec 32 := 1#1 ++ op ++ body
/-- LA. -/
def encLA (op : BitVec 6) (x : Bool) (sz : BitVec 2) (d a b : BitVec 6) (g : Guard) : Option (BitVec 32) :=
  some (laneWord op (d ++ a ++ b ++ sz ++ BitVec.ofBool x ++ g.code))
/-- LI. -/
def encLI (op : BitVec 6) (sz : BitVec 2) (d a : BitVec 6) (imm : BitVec 7) (g : Guard) : Option (BitVec 32) :=
  some (laneWord op (d ++ a ++ sz ++ imm ++ g.code))
/-- LP, and SCMP in the uniform set. -/
def encLP (pd : PReg) (a b : BitVec 6) (c : BitVec 3) (w : Bool) (m : Comb) : BitVec 25 :=
  pd ++ a ++ b ++ c ++ BitVec.ofBool w ++ m.code
/-- LM. -/
def encLM (op : BitVec 6) (sz : Width) (d a : BitVec 6) (off : BitVec 3) (la : La) (g : Guard) : Option (BitVec 32) :=
  some (laneWord op (d ++ a ++ sz.code ++ off ++ la ++ g.code))
/-- LX. -/
def encLX (op : BitVec 6) (w64 : Bool) (sc : LxScope) (d a b : BitVec 6) (la : La) : Option (BitVec 32) :=
  some (laneWord op (d ++ a ++ b ++ BitVec.ofBool w64 ++ sc.code ++ la))
/-- LT. -/
def encLT (op : BitVec 6) (slot : BitVec 5) (d a : BitVec 6) (la : La) (g : Guard) : Option (BitVec 32) :=
  some (laneWord op (d ++ a ++ slot ++ la ++ g.code))
/-- UA. -/
def encUA (f : BitVec 7) (sd sa sb : SReg) : Option (BitVec 32) := some (uniWord 0x00 (sd ++ sa ++ sb ++ f))
/-- UM. -/
def encUM (op : BitVec 6) (sz : Width) (sd sa : SReg) (off : BitVec 7) (la : La) : Option (BitVec 32) :=
  some (uniWord op (sd ++ sa ++ sz.code ++ off ++ la))
/-- UE. -/
def encUE (op : BitVec 6) (f : BitVec 3) (sd sa sb : BitVec 6) (la : La) : Option (BitVec 32) :=
  some (uniWord op (sd ++ sa ++ sb ++ f ++ la))

/-- The word of an instruction (R24, R31–R34); none for an event, which has no word. -/
def encode : Instr → Option (BitVec 32)
  | .iadd sz d a b g => encLA 0x00 false sz.code d a b g
  | .isub sz d a b g => encLA 0x00 true sz.code d a b g
  | .iaddi sz d a imm g => encLI 0x01 sz.code d a imm g
  | .imin sz d a b g => encLA 0x02 false sz.code d a b g
  | .imax sz d a b g => encLA 0x02 true sz.code d a b g
  | .umin sz d a b g => encLA 0x03 false sz.code d a b g
  | .umax sz d a b g => encLA 0x03 true sz.code d a b g
  | .imul sz d a b g => encLA 0x04 false sz.code d a b g
  | .imulhi sz d a b g => encLA 0x04 true sz.code d a b g
  | .imad sz d a b g => encLA 0x05 false sz.code d a b g
  | .imsb sz d a b g => encLA 0x05 true sz.code d a b g
  | .iaddsat sz d a b g => encLA 0x06 false sz.code d a b g
  | .isubsat sz d a b g => encLA 0x06 true sz.code d a b g
  | .uaddsat sz d a b g => encLA 0x07 false sz.code d a b g
  | .usubsat sz d a b g => encLA 0x07 true sz.code d a b g
  | .land sz d a b g => encLA 0x08 false sz.code d a b g
  | .landn sz d a b g => encLA 0x08 true sz.code d a b g
  | .lor sz d a b g => encLA 0x09 false sz.code d a b g
  | .lorn sz d a b g => encLA 0x09 true sz.code d a b g
  | .lxor sz d a b g => encLA 0x0A false sz.code d a b g
  | .lxnor sz d a b g => encLA 0x0A true sz.code d a b g
  | .shl sz d a b g => encLA 0x0B false sz.code d a b g
  | .shr sz d a b g => encLA 0x0B true sz.code d a b g
  | .sar sz d a b g => encLA 0x0C false sz.code d a b g
  | .rol sz d a b g => encLA 0x0C true sz.code d a b g
  | .shli sz d a imm g => encLI 0x0D sz.code d a imm g
  | .shri sz d a imm g => encLI 0x0E sz.code d a imm g
  | .sari sz d a imm g => encLI 0x0F sz.code d a imm g
  | .popc sz d a g => encLA 0x10 false sz.code d a 0 g
  | .clz sz d a g => encLA 0x10 true sz.code d a 0 g
  | .brev sz d a g => encLA 0x11 false sz.code d a 0 g
  | .ctz sz d a g => encLA 0x11 true sz.code d a 0 g
  | .bfx sz d a b g => encLA 0x12 false sz.code d a b g
  | .bfxs sz d a b g => encLA 0x12 true sz.code d a b g
  | .bfi sz d a b g => encLA 0x13 false sz.code d a b g
  | .iabs sz d a g => encLA 0x14 false sz.code d a 0 g
  | .ineg sz d a g => encLA 0x14 true sz.code d a 0 g
  | .mov d a g => encLA 0x15 false 0 d a 0 g
  | .movs d sa g => encLA 0x15 true 0 d sa 0 g
  | .movi d h imm => some (laneWord 0x16 (d ++ imm ++ h.code))
  | .sel d a b p => some (laneWord 0x17 (d ++ a ++ b ++ p))
  | .icmp pd a b c w64 m => some (laneWord 0x18 (encLP pd a b c.code w64 m))
  | .plop pd pa pb f => some (laneWord 0x1A (pd ++ pa ++ pb ++ f))
  | .pmovGet d hi g => encLA 0x1B false (0#1 ++ BitVec.ofBool hi) d 0 0 g
  | .pmovSet a hi g => encLA 0x1B true (0#1 ++ BitVec.ofBool hi) 0 a 0 g
  | .fadd sz d a b g => encLA 0x1C false sz.code d a b g
  | .fsub sz d a b g => encLA 0x1C true sz.code d a b g
  | .fmul sz d a b g => encLA 0x1D false sz.code d a b g
  | .ffma sz d a b g => encLA 0x1E false sz.code d a b g
  | .ffms sz d a b g => encLA 0x1E true sz.code d a b g
  | .fmin sz d a b g => encLA 0x1F false sz.code d a b g
  | .fmax sz d a b g => encLA 0x1F true sz.code d a b g
  | .fabs sz d a g => encLA 0x23 false sz.code d a 0 g
  | .fneg sz d a g => encLA 0x23 true sz.code d a 0 g
  | .fcmp pd a b c m => some (laneWord 0x19 (encLP pd a b c.code false m))
  | .fspec fn f d a g => encLA 0x20 false f.code d a fn.code g
  | .cvt sel part d a g => encLA 0x21 false part d a sel g
  | .dot pair hi d a b g => encLA 0x22 hi pair.code d a b g
  | .perm sz d a b g => encLA 0x24 false sz.code d a b g
  | .lxch x d a g => encLI 0x25 x.szCode d a (0#2 ++ x.num) g
  | .lred op d a g => encLA 0x26 false op.szCode d a op.selCode g
  | .lscan op exc d a g => encLA 0x27 exc op.szCode d a op.selCode g
  | .vote sd p mode => some (laneWord 0x28 (sd ++ p ++ mode.code ++ 0#10))
  | .ld sz d a off la g => encLM 0x2A sz d a off la g
  | .lds sz d a off la g => encLM 0x2B sz d a off la g
  | .st sz d a off la g => encLM 0x2C sz d a off la g
  | .ldfe sz d a off la g => encLM 0x2D sz d a off la g
  | .ldfw sz d a off la g => encLM 0x2E sz d a off la g
  | .stfe sz d a off la g => encLM 0x2F sz d a off la g
  | .cas w64 sc d a b la => encLX 0x30 w64 sc d a b la
  | .red op w64 sc a b la => encLX 0x31 w64 sc (op.code ++ 0#3) a b la
  | .atomAdd w64 sc d a b la => encLX 0x34 w64 sc d a b la
  | .atomSmin w64 sc d a b la => encLX 0x35 w64 sc d a b la
  | .atomSmax w64 sc d a b la => encLX 0x36 w64 sc d a b la
  | .atomUmin w64 sc d a b la => encLX 0x37 w64 sc d a b la
  | .atomUmax w64 sc d a b la => encLX 0x38 w64 sc d a b la
  | .atomAnd w64 sc d a b la => encLX 0x39 w64 sc d a b la
  | .atomOr w64 sc d a b la => encLX 0x3A w64 sc d a b la
  | .atomXchg w64 sc d a b la => encLX 0x3B w64 sc d a b la
  | .tload slot d a la g => encLT 0x32 slot d a la g
  | .tstore slot d a la g => encLT 0x33 slot d a la g
  | .sadd sd sa sb => encUA 0 sd sa sb
  | .ssub sd sa sb => encUA 1 sd sa sb
  | .smul sd sa sb => encUA 2 sd sa sb
  | .smulhi sd sa sb => encUA 3 sd sa sb
  | .sand sd sa sb => encUA 4 sd sa sb
  | .sor sd sa sb => encUA 5 sd sa sb
  | .sxor sd sa sb => encUA 6 sd sa sb
  | .sandn sd sa sb => encUA 7 sd sa sb
  | .sshl sd sa sb => encUA 8 sd sa sb
  | .sshr sd sa sb => encUA 9 sd sa sb
  | .ssar sd sa sb => encUA 10 sd sa sb
  | .smin sd sa sb => encUA 11 sd sa sb
  | .smax sd sa sb => encUA 12 sd sa sb
  | .sminu sd sa sb => encUA 13 sd sa sb
  | .smaxu sd sa sb => encUA 14 sd sa sb
  | .saddi sd sa imm => some (uniWord 0x01 (sd ++ sa ++ imm))
  | .sli sd h imm => some (uniWord 0x02 (sd ++ h.code ++ imm))
  | .scmp pd sa sb c w64 m => some (uniWord 0x03 (encLP pd sa sb c.code w64 m))
  | .sget sd va lane => some (uniWord 0x04 (sd ++ va ++ lane ++ 0#8))
  | .sld sz sd sa off la => encUM 0x06 sz sd sa off la
  | .sst sz sd sa off la => encUM 0x07 sz sd sa off la
  | .bra c p off => some (uniWord 0x08 (c.code ++ p ++ off))
  | .brl off => some (uniWord 0x09 off)
  | .brd p off => some (uniWord 0x0A (p ++ off))
  | .jpush off => some (uniWord 0x0B off)
  | .join => some (uniWord 0x0C 0)
  | .brx va table => some (uniWord 0x0D (va ++ table))
  | .call off => some (uniWord 0x0E off)
  | .ret => some (uniWord 0x0F 0)
  | .exit => some (uniWord 0x10 0)
  | .yield sd off => some (uniWord 0x11 (sd ++ off))
  | .runend wa ma wb mb => some (uniWord 0x12 (wa ++ ma ++ wb ++ mb ++ 0#3))
  | .bar n sa => some (uniWord 0x13 (n ++ sa ++ 0#15))
  | .phase sc => some (uniWord 0x14 (sc.code ++ 0#22))
  | .xfence => some (uniWord 0x15 0)
  | .waitseq sa sb => some (uniWord 0x16 (sa ++ sb ++ 0#13))
  | .qopen => some (uniWord 0x17 (0#2 ++ 0#23))
  | .qret => some (uniWord 0x17 (1#2 ++ 0#23))
  | .qwait => some (uniWord 0x17 (2#2 ++ 0#23))
  | .qread sd => some (uniWord 0x17 (3#2 ++ sd ++ 0#17))
  | .enq sd sa sb la => encUE 0x18 0 sd sa sb la
  | .deq sd sa la => encUE 0x19 0 sd sa 0 la
  | .deqNb sd sa la => encUE 0x19 1 sd sa 0 la
  | .deparm sd sa sb la => encUE 0x1A 0 sd sa sb la
  | .depdec sd sa la => encUE 0x1B 0 sd sa 0 la
  | .cpy sd sa sb sched la => encUE 0x1C (0#2 ++ BitVec.ofBool sched) sd sa sb la
  | .chead sd sa sb la => encUE 0x1D 0 sd sa sb la
  | .ctail sd sa sb la => encUE 0x1E 0 sd sa sb la
  | .tmove sd sa sb sched la => encUE 0x1F (0#2 ++ BitVec.ofBool sched) sd sa sb la
  | .coll k sd sa sb la => encUE 0x20 k.code sd sa sb la
  | .tsload slot sa => some (uniWord 0x21 (slot ++ sa ++ 0#14))
  | .tsevict slot sa => some (uniWord 0x22 (slot ++ sa ++ 0#14))
  | .relayout t sd sa sb la => encUE 0x23 t.code sd sa sb la
  | .oclaim sd sa la => encUE 0x24 0 sd sa 0 la
  | .orelease sd sa la => encUE 0x24 1 sd sa 0 la
  | .aclaim sd sa la => encUE 0x25 0 sd sa 0 la
  | .arelease sd sa la => encUE 0x25 1 sd sa 0 la
  | .mloop sd sa sb la => encUE 0x26 0 sd sa sb la
  | .mloopWait sa la => encUE 0x26 1 0 sa 0 la
  | .aread f vd sa la => encUE 0x28 f.code vd sa 0 la
  | .azero sa la => encUE 0x29 0 0 sa 0 la
  | .csrr (.s r) csr => some (uniWord 0x2A (0#1 ++ 0#1 ++ r ++ csr ++ 0#5))
  | .csrr (.v r) csr => some (uniWord 0x2A (0#1 ++ 1#1 ++ r ++ csr ++ 0#5))
  | .csrw csr sa => some (uniWord 0x2A (1#1 ++ 0#1 ++ sa ++ csr ++ 0#5))
  | .trap imm => some (uniWord 0x2C (imm ++ 0#9))
  | .rft => some (uniWord 0x2D 0)
  | .bkpt imm => some (uniWord 0x2E (imm ++ 0#9))
  | .rgn region => some (uniWord 0x2F (region ++ 0#7))
  | .febind sa sb sc mode => some (uniWord 0x30 (sa ++ sb ++ sc ++ mode.code ++ 0#5))
  | .nop => some (uniWord 0x32 0)
  | .icinv lv => some (uniWord 0x34 (lv.code ++ 0#23))
  | .emWrite _ => none
  | .fflagsAccess => none
  | .dbgout15Write _ => none
  | .dbgin15Read _ => none
  | .watchWrite _ _ => none
  | .almcauseWrite _ => none
  | .longLatencyResult _ _ => none
  | .drainComplete _ _ => none
  | .redAck _ => none
  | .faultServiceEnd _ => none
  | .sideLogReplay _ _ => none
  | .portAssignment _ _ => none
  | .launchSubmit _ _ _ => none
  | .teamStart _ _ _ => none
  | .waitSwap _ _ => none
  | .schedulingBoundary => none
  | .sliceEnd _ _ => none
  | .sliceGrant _ _ => none
  | .preemptionRequest _ _ => none
  | .reachResume _ _ _ _ _ => none
  | .evacuate _ => none
  | .reachRecordWrite _ _ _ _ => none
  | .allocatorMode _ _ => none
  | .compactorMove _ => none
  | .bindRequest _ _ _ _ _ _ => none
  | .queueInstantiate _ _ _ => none
  | .queueDestroy _ _ => none
  | .channelAssign _ _ => none
  | .counterAssign _ _ _ _ => none
  | .oneShotCompletion _ => none
  | .recordTake _ => none
  | .recordCompletion _ _ => none
  | .collCompletion _ _ => none
  | .basinMove _ => none
  | .unadmittedAdmit _ _ => none
  | .weirReturn => none
  | .weirBorrow _ => none
  | .remoteTaskMessage _ => none
  | .rehome _ _ => none
  | .dredgerBegin _ => none
  | .slabCommit _ => none
  | .dredgerComplete _ => none
  | .kStep _ _ => none
  | .ringEntryAcquire _ _ => none
  | .watchdog _ => none
  | .infieldTest _ _ _ => none
  | .fabricRecovery _ _ => none
  | .recoveryWindowEnd _ => none
  | .pteUpdate _ _ _ _ => none
  | .shootdown _ _ _ => none
  | .halt _ => none
  | .resume _ => none
  | .writecode _ _ _ => none
  | .inval _ => none
  | .readState _ _ => none
  | .writeState _ _ _ => none
  | .readtile _ _ _ _ => none
  | .readout _ => none
  | .writein _ _ => none
  | .replayStart _ _ _ _ _ _ => none
  | .flitReplay _ _ => none
  | .routeTableWrite _ _ => none
  | .fabricMessage _ _ _ _ => none
  | .remoteCall _ _ _ _ _ _ => none
  | .rdmaWrite _ _ _ _ => none
  | .rdmaRead _ _ _ _ => none
  | .wharfReply _ _ _ _ _ => none
  | .deviceReset _ _ => none
  | .attestationRequest _ _ => none
  | .migrationKeyTransfer _ _ _ _ => none
  | .securityAlarm _ => none
  | .managementRead _ => none
  | .firmwareUpdate _ => none
  | .powerCapSet _ => none
  | .powerCapExceeded => none
  | .thermalLimit _ => none
  | .softError _ _ => none
  | .launchRemoval _ _ => none
  | .groupResume _ => none
  | .recoveredWithinWindow _ => none
  | .keyIdAssignment _ _ => none
  | .traceBufferDrain _ _ _ => none

/-- The instruction that a table row's bits decode to: one 32-bit word (R13). -/
def decodeTableWord (nbits w : Nat) : Option Instr :=
  if nbits = 32 then decode (BitVec.ofNat 32 w) else none

end Sys2Proof
end

