-- ==== Sys2Proof/Machine/Integer.lean ====
section
/-! DEFINITION. Integer, logic, bit, compare, select and predicate instructions (R63–R82). -/
namespace Sys2Proof.Machine

/-- The loop of R63 with three sources per sub-element: a, b and the old d. -/
def Group.int3 (g : Group) (w : Width) (d a b : LReg) (gd : Guard) (f : Nat → Nat → Nat → Nat → Nat) : Group :=
  g.writeL (g.acts gd) d fun l => mapElems (widthBits w) (f (widthBits w)) (g.lane a l) (g.lane b l) (g.lane d l)

/-- The loop of R63 with two sources. -/
def Group.int2 (g : Group) (w : Width) (d a b : LReg) (gd : Guard) (f : Nat → Nat → Nat → Nat) : Group :=
  g.int3 w d a b gd fun n x y _ => f n x y

/-- The loop of R63 with one source. -/
def Group.int1 (g : Group) (w : Width) (d a : LReg) (gd : Guard) (f : Nat → Nat → Nat) : Group :=
  g.int3 w d a a gd fun n x _ _ => f n x

/-- The loop of R63 for LI: B is imm7 sign-extended to the element. -/
def Group.intI (g : Group) (w : Width) (d a : LReg) (imm : BitVec 7) (gd : Guard) (f : Nat → Nat → Nat → Nat) : Group :=
  g.int3 w d a a gd fun n x _ _ => f n x (ofInt n (sext imm))

/-- A 64-bit operation in the lanes that the instruction acts in. -/
def Group.lanes2 (g : Group) (d a b : LReg) (gd : Guard) (f : Word → Word → Word) : Group :=
  g.writeL (g.acts gd) d fun l => f (g.lane a l) (g.lane b l)

/-! Results per sub-element of width `w`. -/

/-- ADD and SUB modulo 2^w (R66). -/
def wrapAdd (w a b : Nat) : Nat := (a + b) % 2 ^ w
def wrapSub (w a b : Nat) : Nat := (a + 2 ^ w - b) % 2 ^ w
/-- Signed saturation (R67). -/
def satS (w : Nat) (x : Int) : Nat := ofInt w (clampInt true w x)
/-- Unsigned saturation (R67). -/
def satU (w : Nat) (x : Int) : Nat := ofInt w (clampInt false w x)
/-- Signed and unsigned minimum and maximum (R68). -/
def minS (w a b : Nat) : Nat := if sval w b < sval w a then b else a
def maxS (w a b : Nat) : Nat := if sval w a < sval w b then b else a
def minU (_w a b : Nat) : Nat := if b < a then b else a
def maxU (_w a b : Nat) : Nat := if a < b then b else a
/-- Negation (R68). -/
def negW (w a : Nat) : Nat := ofInt w (-sval w a)
/-- Absolute value (R68). -/
def absW (w a : Nat) : Nat := if 0 ≤ sval w a then a else negW w a
/-- Products (R69). -/
def mulLo (w a b : Nat) : Nat := a * b % 2 ^ w
def mulHi (w a b : Nat) : Nat := ofInt w (sval w a * sval w b / ((2 ^ w : Nat) : Int))
def mulAdd (w a b c : Nat) : Nat := (c + a * b) % 2 ^ w
def mulSub (w a b c : Nat) : Nat := ofInt w ((c : Int) - (a : Int) * b)
/-- Shifts by `b mod w` (R71). -/
def shlW (w a b : Nat) : Nat := a * 2 ^ (b % w) % 2 ^ w
def shrW (w a b : Nat) : Nat := a / 2 ^ (b % w)
def sarW (w a b : Nat) : Nat := ofInt w (sval w a / ((2 ^ (b % w) : Nat) : Int))
def rolW (w a b : Nat) : Nat := (a * 2 ^ (b % w) % 2 ^ w) ||| (a / 2 ^ (w - b % w))
/-- The number of ones below bit `n` (R73). -/
def popcount (a : Nat) : (n : Nat) → Nat
  | 0 => 0
  | n + 1 => popcount a n + if a.testBit n then 1 else 0
/-- Leading zeros of a `w`-bit value (R73). -/
def clzW (a : Nat) : (w : Nat) → Nat
  | 0 => 0
  | n + 1 => if a.testBit n then 0 else clzW a n + 1
/-- Bits 0 to n − 1 of `a` in reverse order (R73). -/
def brevW (a : Nat) : (n : Nat) → Nat
  | 0 => 0
  | n + 1 => 2 * brevW (a % 2 ^ n) n % 2 ^ (n + 1) + if a.testBit n then 1 else 0
/-- Trailing zeros of a `w`-bit value (R73). -/
def ctzW (w a : Nat) : Nat := clzW (brevW a w) w
/-- log2 of a width (R74). -/
def logW (w : Nat) : Nat := if w == 8 then 3 else if w == 16 then 4 else if w == 32 then 5 else 6
/-- Position and clipped length of a bit field (R74). -/
def fieldOf (w b : Nat) : Nat × Nat :=
  let k := logW w
  let p := b % 2 ^ k
  (p, min (b / 2 ^ k % 2 ^ (k + 1)) (w - p))
/-- BFX (R74). -/
def bfxW (w a b : Nat) : Nat := a / 2 ^ (fieldOf w b).1 % 2 ^ (fieldOf w b).2
/-- BFXS (R74). -/
def bfxsW (w a b : Nat) : Nat :=
  let m := (fieldOf w b).2
  if m == 0 then 0 else ofInt w (sval m (bfxW w a b))
/-- BFI (R74): the low m bits of a replace the field of c. -/
def bfiW (w a b c : Nat) : Nat :=
  let p := (fieldOf w b).1
  let m := (fieldOf w b).2
  c % 2 ^ p + a % 2 ^ m * 2 ^ p + c / 2 ^ (p + m) * 2 ^ (p + m)

/-- imm16 under the h rule of R28. -/
def immInto (h : HSel) (imm : BitVec 16) (old : Word) : Word :=
  match h with
  | .quarter k =>
    let n := 16 * k.toNat
    (old &&& ~~~((0xFFFF#64) <<< n)) ||| ((imm.setWidth 64) <<< n)
  | .sext => imm.signExtend 64
  | .zext => imm.setWidth 64

/-- IADD (R66). -/
def execIadd (w : Width) (d a b : LReg) (gd : Guard) (s : State) : Out := s.done (s.g.int2 w d a b gd wrapAdd)
/-- ISUB (R66). -/
def execIsub (w : Width) (d a b : LReg) (gd : Guard) (s : State) : Out := s.done (s.g.int2 w d a b gd wrapSub)
/-- IADDI (R66). -/
def execIaddi (w : Width) (d a : LReg) (imm : BitVec 7) (gd : Guard) (s : State) : Out :=
  s.done (s.g.intI w d a imm gd wrapAdd)
/-- IMIN (R68). -/
def execImin (w : Width) (d a b : LReg) (gd : Guard) (s : State) : Out := s.done (s.g.int2 w d a b gd minS)
/-- IMAX (R68). -/
def execImax (w : Width) (d a b : LReg) (gd : Guard) (s : State) : Out := s.done (s.g.int2 w d a b gd maxS)
/-- UMIN (R68). -/
def execUmin (w : Width) (d a b : LReg) (gd : Guard) (s : State) : Out := s.done (s.g.int2 w d a b gd minU)
/-- UMAX (R68). -/
def execUmax (w : Width) (d a b : LReg) (gd : Guard) (s : State) : Out := s.done (s.g.int2 w d a b gd maxU)
/-- IMUL (R69). -/
def execImul (w : Width) (d a b : LReg) (gd : Guard) (s : State) : Out := s.done (s.g.int2 w d a b gd mulLo)
/-- IMULHI (R69). -/
def execImulhi (w : Width) (d a b : LReg) (gd : Guard) (s : State) : Out := s.done (s.g.int2 w d a b gd mulHi)
/-- IMAD (R69). -/
def execImad (w : Width) (d a b : LReg) (gd : Guard) (s : State) : Out := s.done (s.g.int3 w d a b gd mulAdd)
/-- IMSB (R69). -/
def execImsb (w : Width) (d a b : LReg) (gd : Guard) (s : State) : Out := s.done (s.g.int3 w d a b gd mulSub)
/-- IADDSAT (R67). -/
def execIaddsat (w : Width) (d a b : LReg) (gd : Guard) (s : State) : Out :=
  s.done (s.g.int2 w d a b gd fun n x y => satS n (sval n x + sval n y))
/-- ISUBSAT (R67). -/
def execIsubsat (w : Width) (d a b : LReg) (gd : Guard) (s : State) : Out :=
  s.done (s.g.int2 w d a b gd fun n x y => satS n (sval n x - sval n y))
/-- UADDSAT (R67). -/
def execUaddsat (w : Width) (d a b : LReg) (gd : Guard) (s : State) : Out :=
  s.done (s.g.int2 w d a b gd fun n x y => satU n ((x : Int) + y))
/-- USUBSAT (R67). -/
def execUsubsat (w : Width) (d a b : LReg) (gd : Guard) (s : State) : Out :=
  s.done (s.g.int2 w d a b gd fun n x y => satU n ((x : Int) - y))
/-- AND (R70). -/
def execLand (_w : Width) (d a b : LReg) (gd : Guard) (s : State) : Out :=
  s.done (s.g.lanes2 d a b gd fun x y => x &&& y)
/-- ANDN (R70). -/
def execLandn (_w : Width) (d a b : LReg) (gd : Guard) (s : State) : Out :=
  s.done (s.g.lanes2 d a b gd fun x y => x &&& ~~~y)
/-- OR (R70). -/
def execLor (_w : Width) (d a b : LReg) (gd : Guard) (s : State) : Out :=
  s.done (s.g.lanes2 d a b gd fun x y => x ||| y)
/-- ORN (R70). -/
def execLorn (_w : Width) (d a b : LReg) (gd : Guard) (s : State) : Out :=
  s.done (s.g.lanes2 d a b gd fun x y => x ||| ~~~y)
/-- XOR (R70). -/
def execLxor (_w : Width) (d a b : LReg) (gd : Guard) (s : State) : Out :=
  s.done (s.g.lanes2 d a b gd fun x y => x ^^^ y)
/-- XNOR (R70). -/
def execLxnor (_w : Width) (d a b : LReg) (gd : Guard) (s : State) : Out :=
  s.done (s.g.lanes2 d a b gd fun x y => ~~~(x ^^^ y))
/-- SHL (R71). -/
def execShl (w : Width) (d a b : LReg) (gd : Guard) (s : State) : Out := s.done (s.g.int2 w d a b gd shlW)
/-- SHR (R71). -/
def execShr (w : Width) (d a b : LReg) (gd : Guard) (s : State) : Out := s.done (s.g.int2 w d a b gd shrW)
/-- SAR (R71). -/
def execSar (w : Width) (d a b : LReg) (gd : Guard) (s : State) : Out := s.done (s.g.int2 w d a b gd sarW)
/-- ROL (R71). -/
def execRol (w : Width) (d a b : LReg) (gd : Guard) (s : State) : Out := s.done (s.g.int2 w d a b gd rolW)
/-- SHLI (R72). -/
def execShli (w : Width) (d a : LReg) (imm : BitVec 7) (gd : Guard) (s : State) : Out :=
  s.done (s.g.intI w d a imm gd shlW)
/-- SHRI (R72). -/
def execShri (w : Width) (d a : LReg) (imm : BitVec 7) (gd : Guard) (s : State) : Out :=
  s.done (s.g.intI w d a imm gd shrW)
/-- SARI (R72). -/
def execSari (w : Width) (d a : LReg) (imm : BitVec 7) (gd : Guard) (s : State) : Out :=
  s.done (s.g.intI w d a imm gd sarW)
/-- POPC (R73). -/
def execPopc (w : Width) (d a : LReg) (gd : Guard) (s : State) : Out :=
  s.done (s.g.int1 w d a gd fun n x => popcount x n)
/-- CLZ (R73). -/
def execClz (w : Width) (d a : LReg) (gd : Guard) (s : State) : Out :=
  s.done (s.g.int1 w d a gd fun n x => clzW x n)
/-- BREV (R73). -/
def execBrev (w : Width) (d a : LReg) (gd : Guard) (s : State) : Out :=
  s.done (s.g.int1 w d a gd fun n x => brevW x n)
/-- CTZ (R73). -/
def execCtz (w : Width) (d a : LReg) (gd : Guard) (s : State) : Out := s.done (s.g.int1 w d a gd ctzW)
/-- BFX (R74). -/
def execBfx (w : Width) (d a b : LReg) (gd : Guard) (s : State) : Out := s.done (s.g.int2 w d a b gd bfxW)
/-- BFXS (R74). -/
def execBfxs (w : Width) (d a b : LReg) (gd : Guard) (s : State) : Out := s.done (s.g.int2 w d a b gd bfxsW)
/-- BFI (R74). -/
def execBfi (w : Width) (d a b : LReg) (gd : Guard) (s : State) : Out := s.done (s.g.int3 w d a b gd bfiW)
/-- IABS (R68). -/
def execIabs (w : Width) (d a : LReg) (gd : Guard) (s : State) : Out := s.done (s.g.int1 w d a gd absW)
/-- INEG (R68). -/
def execIneg (w : Width) (d a : LReg) (gd : Guard) (s : State) : Out := s.done (s.g.int1 w d a gd negW)
/-- MOV (R75). -/
def execMov (d a : LReg) (gd : Guard) (s : State) : Out :=
  s.done (s.g.writeL (s.g.acts gd) d fun l => s.g.lane a l)
/-- MOVS (R75). -/
def execMovs (d : LReg) (sa : SReg) (gd : Guard) (s : State) : Out :=
  s.done (s.g.writeL (s.g.acts gd) d fun _ => s.g.sreg sa)
/-- MOVI (R76). -/
def execMovi (d : LReg) (h : HSel) (imm : BitVec 16) (s : State) : Out :=
  s.done (s.g.writeL s.g.em d fun l => immInto h imm (s.g.lane d l))
/-- SEL (R77). -/
def execSel (d a b : LReg) (p : PReg) (s : State) : Out :=
  s.done (s.g.writeL s.g.em d fun l => if (s.g.preg p).has l then s.g.lane a l else s.g.lane b l)
/-- ICMP (R78). -/
def execIcmp (pd : PReg) (a b : LReg) (c : Cond) (w64 : Bool) (m : Comb) (s : State) : Out :=
  s.done (s.g.writeP s.g.em pd
    (combine m (s.g.preg pd) (Mask.ofFn fun l => compare c w64 (s.g.lane a l) (s.g.lane b l))))
/-- PLOP (R79). -/
def execPlop (pd pa pb : PReg) (f : BitVec 4) (s : State) : Out :=
  s.done (s.g.writeP s.g.em pd (Mask.ofFn fun l =>
    f.getLsbD (2 * (if (s.g.preg pa).has l then 1 else 0) + (if (s.g.preg pb).has l then 1 else 0))))
/-- The predicate `j` of a bank of 64 (R80). -/
def bankP (hi : Bool) (j : Nat) : PReg := BitVec.ofNat 7 ((if hi then 64 else 0) + j)
/-- PMOV get (R80). -/
def execPmovGet (d : LReg) (hi : Bool) (gd : Guard) (s : State) : Out :=
  s.done (s.g.writeL (s.g.acts gd) d fun l => bitsOfFn (fun j => (s.g.preg (bankP hi j)).has l) 64)
/-- PMOV set on the predicates below bank index `n` (R80). -/
def setBank (g : Group) (m : Mask) (hi : Bool) (a : Lanes) : (n : Nat) → Group
  | 0 => g
  | n + 1 => (setBank g m hi a n).writeP m (bankP hi n) (Mask.ofFn fun l => (a.at l).getLsbD n)
/-- PMOV set (R80). -/
def execPmovSet (a : LReg) (hi : Bool) (gd : Guard) (s : State) : Out :=
  s.done (setBank s.g (s.g.acts gd) hi (s.g.lreg a) 64)

end Sys2Proof.Machine
end

