-- ==== Sys2Proof/Machine/Tasks.lean ====
section
/-! DEFINITION. Task entries, queues and basins (R226–R233), dependency counters (R246–R248, R252), the task messages between devices
(R375–R377), and ENQ, DEQ, DEPARM and DEPDEC (R242–R244). -/
namespace Sys2Proof.Machine

/-! Entries and handles (R227, R228). -/

/-- PRIO of an entry. -/
def entryPrio (e : Entry) : Nat := (e.w0.extractLsb' 48 4).toNat
/-- LINK of an entry. -/
def entryLink (e : Entry) : BitVec 32 := e.w3.extractLsb' 32 32
/-- An entry that breaks R227. -/
def badEntry (e : Entry) : Bool :=
  e.w0.setWidth 32 == (0xFFFFFFFF : BitVec 32) || 1 < (e.w0.extractLsb' 52 4).toNat || e.w0.extractLsb' 58 6 != 0
/-- The entry with the fields that the device writes (R227). -/
def stampEntry (e : Entry) (wexp : Nat) (remote parked : Bool) (link : BitVec 32) : Entry :=
  { e with
    w0 := 0#6 ++ BitVec.ofBool parked ++ BitVec.ofBool remote ++ e.w0.extractLsb' 48 8 ++ BitVec.ofNat 6 wexp ++ e.w0.extractLsb' 0 42
    w3 := link ++ e.w3.extractLsb' 0 32 }
/-- No counter link. -/
def noLink : BitVec 32 := 0xFFFFFFFF
/-- The link of a counter (R227). -/
def linkOf (die ctr : Nat) : BitVec 32 := BitVec.ofNat 32 (die % 4 * 65536 + ctr % 65536)
/-- The entry in four uniform registers. -/
def Group.entryAt (g : Group) (sa : SReg) : Entry :=
  { w0 := g.sregAt sa 0, w1 := g.sregAt sa 1, w2 := g.sregAt sa 2, w3 := g.sregAt sa 3 }

/-- The device that a queue handle or counter register names. -/
def State.deviceOf (s : State) (h : Word) : BitVec 8 := if h.getLsbD 40 then h.extractLsb' 32 8 else s.device
/-- Bits [63:41] of a handle are zero. -/
def handleOk (h : Word) : Bool := h.toNat < 2 ^ 41
/-- The queue number that a handle names for a launch. -/
def State.qnumOf (s : State) (lid : BitVec 32) (h : Word) : BitVec 32 :=
  if h.setWidth 32 == (0xFFFFFFFF : BitVec 32) then (s.desc lid).queue else h.setWidth 32
/-- A queue of a tenant. -/
def State.queue? (s : State) (r : BitVec 4) (q : BitVec 32) : Option Queue := s.queues.find? fun x => x.reach == r && x.desc.qnum == q
/-- Changes a queue. -/
def State.onQueue (s : State) (r : BitVec 4) (q : BitVec 32) (f : Queue → Queue) : State :=
  { s with queues := updAll (fun x => x.reach == r && x.desc.qnum == q) f s.queues }
/-- An entry belongs to a queue. -/
def QEntry.of (e : QEntry) (r : BitVec 4) (q : BitVec 32) : Bool := e.reach == r && e.qnum == q

/-! Basins (R229–R231). -/

/-- How many entries a level takes. -/
def levelCap : Place → Nat
  | .core _ => 64
  | .cluster _ _ => 512
  | .die _ => 4096
  | .overflow _ => 0
/-- Above how many entries a level's oldest move up. -/
def levelHigh (p : Place) : Nat := levelCap p - 8

/-- The entries of a level. -/
def State.level (s : State) (p : Place) : List QEntry := s.entries.filter fun e => e.place == p
/-- Ready order (R231). -/
def QEntry.before (a b : QEntry) : Bool :=
  entryPrio b.e < entryPrio a.e || (entryPrio a.e == entryPrio b.e && a.stamp < b.stamp)
/-- Oldest first. -/
def oldest (l : List QEntry) : List QEntry := sortBy (fun a b => a.stamp < b.stamp) l
/-- Best first. -/
def best (l : List QEntry) : List QEntry := sortBy QEntry.before l

/-- An overflow slot is in use. -/
def QEntry.slotIs (n : Nat) (e : QEntry) : Bool := e.place == .overflow n
/-- An entry stands in its queue's overflow area. -/
def QEntry.spilled (e : QEntry) : Bool := match e.place with | .overflow _ => true | _ => false

/-- The bytes of an overflow slot. -/
def slotBytes (e : Entry) (stamp : Nat) : List Byte :=
  leBytes e.w0.toNat 8 ++ leBytes e.w1.toNat 8 ++ leBytes e.w2.toNat 8 ++ leBytes e.w3.toNat 8 ++ leBytes stamp 8
    ++ List.replicate 24 0

/-- An entry goes to its queue's overflow area, if that has room. DEDUCED (log 64). -/
def State.toOverflow (s : State) (e : QEntry) : Option State :=
  match s.queue? e.reach e.qnum with
  | none => none
  | some q =>
    let used := s.entries.filter fun x => x.of e.reach e.qnum && x.spilled
    match (List.range (used.length + 1)).find? fun n => !(used.any fun x => x.slotIs n) with
    | none => none
    | some n =>
      if q.desc.ovfCap ≤ n then none
      else
        let s : State := { s with entries := s.entries ++ [{ e with place := .overflow n }] }
        some (s.deviceWrite e.reach (q.desc.ovfBase.toNat + 64 * n) (slotBytes e.e (Config.cycles e.stamp)))

/-- The share of a reach in the basins (R335). -/
def State.basinShare (s : State) (r : BitVec 4) : Nat := ((s.reach? r).map fun x => x.cfg.basin).getD 0

/-- The tenant whose entries most exceed its share of a level (R230). -/
def State.mostOver (s : State) (p : Place) : Option (BitVec 4) :=
  let held := fun r => ((s.level p).filter fun e => e.reach == r).length
  firstBy (fun a b => held b * s.basinShare a < held a * s.basinShare b) ((s.level p).map QEntry.reach).eraseDups

/-- Entries move, each where `f` puts it; one that `f` cannot put anywhere stays. -/
def State.moveEach (s : State) (es : List QEntry) (f : State → QEntry → Option State) : State :=
  es.foldl (fun s e => (f { s with entries := s.entries.erase e } e).getD s) s

/-- A full level spills a block of 8 (R230). -/
def State.spillLevel (s : State) (p : Place) : State :=
  match s.mostOver p with
  | none => s
  | some r => s.moveEach ((oldest ((s.level p).filter fun e => e.reach == r)).take 8) State.toOverflow

/-- A level takes an entry, after a spill where it is full. -/
def State.placeAt (s : State) (e : QEntry) (p : Place) : Option State :=
  let put := fun (s : State) =>
    if (s.level p).length < levelCap p then some { s with entries := s.entries ++ [{ e with place := p }] } else none
  (put s).orElse fun _ => put (s.spillLevel p)

/-- The levels from a place up. -/
def levelsFrom (home : Nat) : Place → List Place
  | .core c => [.core c, .cluster c.die c.cluster, .die home]
  | .cluster d c => [.cluster d c, .die home]
  | .die d => [.die d]
  | .overflow _ => []

/-- An entry is placed at its place, or at the next level that has room (R229, R232). -/
def State.placeEntry (s : State) (home : Nat) (e : QEntry) : Option State :=
  ((levelsFrom home e.place).findSome? (s.placeAt e)).orElse fun _ => s.toOverflow e

/-! DEQ is served (R243). -/

/-- The first entry in ready order of a queue in a core's basin. -/
def State.ready (s : State) (r : BitVec 4) (q : BitVec 32) (c : CoreId) : Option QEntry :=
  (best ((s.level (.core c)).filter fun e => e.of r q)).head?

/-- The DEQ that pops an entry comes after the releases that made it (R249), and after the record that enqueued it, where the record's
scope covers the group's core (R220). -/
def State.joinEntry (s : State) (g : Group) (x : QEntry) : State :=
  let s := (s.orderAfter (.entry x.tok) (.group g.key)).unorder (.entry x.tok)
  match x.maker with
  | some (.record h n scope) => if inScope scope x.core g.core then s.orderAfter (.record h n scope) (.group g.key) else s
  | _ => s

/-- An entry reaches a group: its words, TASKLINK, and its weight (R243). -/
def State.popTo (s : State) (k : Nat) (sd : SReg) (x : QEntry) : State :=
  State.asGroup { s with entries := s.entries.erase x } k fun s =>
    let s := s.joinEntry s.g x
    let e := x.e
    let s := s.onG fun g =>
      { ((((g.setS sd e.w0).setS (sd + 1) e.w1).setS (sd + 2) e.w2).setS (sd + 3) e.w3) with tasklink := entryLink e }
    if entryWexp e == 63 then s
    else ((s.give (entryDomain e)).take (entryUnits e)).joinDomain s.greach (entryDomain e) s.g.launch

/-- DEQ reads a poisoned entry: no region can contain that (R51, R312). DEDUCED (log 33). -/
def State.popBad (s : State) (k : Nat) (sd : SReg) (x : QEntry) : State := (s.popTo k sd x).uncontain k 0

/-- A group waits in DEQ on a queue. -/
def Wait.isDeq (r : BitVec 4) (q : BitVec 32) : Wait → Bool
  | .deq r' q' _ => r' == r && q' == q
  | _ => false

/-- The groups of a core that wait in DEQ on a queue are served in the order in which they began, halted ones and those of swapped-out
teams too (R141, R332); `n` bounds how many. DEDUCED (log 67). -/
def State.serveDeq (r : BitVec 4) (q : BitVec 32) (c : CoreId) : (n : Nat) → State → State
  | 0, s => s
  | n + 1, s =>
    match (s.waiters fun g w => g.core == c && w.isDeq r q).head?, s.ready r q c with
    | some g, some x =>
      match g.wait with
      | some (.deq _ _ sd) => State.serveDeq r q c n (if x.bad then s.popBad g.key sd x else (s.popTo g.key sd x).satisfyOne g.key)
      | _ => s
    | _, _ => s

/-- Every core serves the groups that wait in DEQ on a queue. -/
def State.serveQueue (s : State) (r : BitVec 4) (q : BitVec 32) : State :=
  let ws := s.waiters fun _ w => w.isDeq r q
  (ws.map Group.core).eraseDups.foldl (fun s c => State.serveDeq r q c ws.length s) s

/-- Groups that have come back to a core are served there. -/
def State.serveAll (s : State) : State := s.queues.foldl (fun s q => s.serveQueue q.reach q.desc.qnum) s

/-- The wharf cores may pop an entry of a wharf queue as soon as it arrives (R381). DEDUCED (log 70). -/
def State.wharfTake (s : State) (r : BitVec 4) (q : BitVec 32) : State :=
  match (best (s.entries.filter fun e => e.of r q)).head? with
  | none => s
  | some e => { s with entries := s.entries.erase e, calls := s.calls ++ [e] }

/-- An entry arrives at its queue; none: there is no room (R232). -/
def State.arrive (s : State) (q : Queue) (e : QEntry) : Option State :=
  (s.placeEntry q.desc.home e).map fun s =>
    if q.desc.wharf then (if Config.freeBit s.tick 0 then s.wharfTake e.reach e.qnum else s) else s.serveQueue e.reach e.qnum

/-! Admission (R232). -/

/-- What a queue counts: the entries that it holds, and those parked on counters towards it. -/
def State.counted (s : State) (r : BitVec 4) (q : BitVec 32) : List QEntry :=
  (s.entries ++ s.counters.filterMap Counter.parked).filter fun e => e.of r q

/-- A producer's entry is admitted: against its RESERVE, else against QUOTA. DEDUCED (log 64). -/
def State.admits (s : State) (q : Queue) (lid : BitVec 32) : Bool :=
  let es := s.counted q.reach q.desc.qnum
  let count := fun p => (es.filter fun e => e.producer == p).length
  let shared := ((es.map QEntry.producer).eraseDups.map fun p => count p - q.desc.reserve).foldl (· + ·) 0
  count lid < q.desc.reserve || shared < q.desc.quota

/-- A launch has sent an entry towards a queue: it joins the producer set, and waits on the queue are checked against it (R132). -/
def State.produce (s : State) (q : Queue) (lid : BitVec 32) : State :=
  if lid == 0 || q.producers.contains lid then s
  else (s.onQueue q.reach q.desc.qnum fun q => { q with producers := lid :: q.producers }).recheckJoin lid
    fun w => w.isDeq q.reach q.desc.qnum

/-- An entry reaches its queue: the state after, and the code of its status (R233). -/
def State.enqueue (s : State) (e : QEntry) : State × Nat :=
  match s.queue? e.reach e.qnum with
  | none => (s, 0x10)
  | some q =>
    let s := s.produce q e.producer
    if !s.admits q e.producer then (s, 0x0E)
    else
      match s.arrive q e with
      | none => (s, 0x0D)
      | some s => (s, 0)

/-! Counters (R246–R248). -/

/-- A counter, as it stands when it is free. -/
def State.counter (s : State) (die ctr : Nat) : Counter :=
  (s.counters.find? fun c => c.die == die && c.ctr == ctr).getD { die := die, ctr := ctr, count := 0, parked := none, unadmitted := false }
/-- Sets a counter; a free one is not listed. -/
def State.setCounter (s : State) (c : Counter) : State :=
  let rest := s.counters.filter fun x => !(x.die == c.die && x.ctr == c.ctr)
  { s with counters := if c.count == 0 && c.parked.isNone then rest else c :: rest }
/-- A free counter. -/
def Counter.free (c : Counter) : Bool := c.count == 0 && c.parked.isNone
/-- A counter is assigned to a reach. -/
def State.ownsCounter (s : State) (r : BitVec 4) (die ctr : Nat) : Bool :=
  s.ranges.any fun x => x.1 == die && x.2.1 ≤ ctr && ctr ≤ x.2.2.1 && x.2.2.2 == r
/-- Bits [63:41] and [31:18] of a counter register are zero; DEPARM has its count in [57:42]. DEDUCED (log 68). -/
def counterOk (arm : Bool) (x : Word) : Bool :=
  x.extractLsb' 18 14 == 0 && if arm then x.extractLsb' 58 6 == 0 && !x.getLsbD 41 else x.toNat < 2 ^ 41
/-- The die that a counter register names. -/
def counterDie (x : Word) : Nat := (x.extractLsb' 16 2).toNat
/-- The counter that a counter register names. -/
def counterNum (x : Word) : Nat := (x.setWidth 16).toNat

/-- Groups of a Held launch that wait in DEQ on a queue trap QUOTA when an entry of theirs waits unadmitted for it (R244). -/
def State.quotaTrap (s : State) (e : QEntry) : State :=
  s.failAll (fun g w => g.launch == e.producer && s.effective g.launch == .held && w.isDeq e.reach e.qnum) 0x11
    fun _ => detailInfo e.qnum.toNat

/-- An entry is admitted and arrives at its queue, or cannot be now (R232). -/
def State.admitEntry (s : State) (q : Queue) (e : QEntry) : Option State := if s.admits q e.producer then s.arrive q e else none

/-- A counter's entry is released, stamped with the cycle of the decrement (R248); one that cannot be admitted waits unadmitted
(R232). The quota test counts it as not yet in the queue. DEDUCED (log 68). -/
def State.release (s : State) (c : Counter) : State :=
  match c.parked with
  | none => s
  | some e =>
    let e := if c.unadmitted then e else { e with stamp := s.tick }
    match s.queue? e.reach e.qnum with
    | none => s
    | some q =>
      match (s.setCounter { c with parked := none, unadmitted := false }).admitEntry q e with
      | some s => s
      | none => (s.setCounter { c with parked := some e, unadmitted := true }).quotaTrap e

/-- A decrement (R248): the state after, and the new count; none: DEP_UNDERFLOW. -/
def State.decrement (s : State) (die ctr : Nat) : Option (State × Nat) :=
  let c := s.counter die ctr
  if c.count == 0 then none
  else
    let c := { c with count := c.count - 1 }
    some (if c.count == 0 then s.release c else s.setCounter c, c.count)

/-- An entry is parked on a counter, or released at once for a count of 0 (R247): the state after, and the code of its status. -/
def State.park (s : State) (e : QEntry) (die ctr count : Nat) : State × Nat :=
  match s.queue? e.reach e.qnum with
  | none => (s, 0x10)
  | some q =>
    let s := s.produce q e.producer
    if !(s.counter die ctr).free then (s, 0x13)
    else if !s.admits q e.producer then (s, 0x0E)
    else
      let c : Counter := { die := die, ctr := ctr, count := count, parked := some e, unadmitted := false }
      if count == 0 then
        match s.arrive q e with
        | none => (s, 0x0D)
        | some s => (s, 0)
      else if (s.placeEntry q.desc.home e).isNone then (s, 0x0D)
      else (s.setCounter c, 0)

/-! Weight of an entry (R242). -/

/-- The entry that the group in turn sends. -/
def State.outEntry (s : State) (e : Entry) (qnum : BitVec 32) : QEntry :=
  { reach := s.greach, qnum := qnum, e := e, stamp := s.tick, place := .core s.g.core, producer := s.g.launch
    gid := s.g.gid, core := s.g.core, team := s.g.team, tok := s.fresh, maker := none }

/-- The entry that the group in turn sends has been made: its ENQ or DEPARM is its release (R249). -/
def State.made (s : State) (x : QEntry) : State :=
  State.releaseTo { s with fresh := s.fresh + 1 } s.g 4 (.entry x.tok)

/-- ENQ or DEPARM ends with a status in s(sd). -/
def State.statusDone (s : State) (sd : SReg) (code count : Nat) : Out := s.done (s.g.setS sd (statusWord code count))

/-- The checks and the split of R242; `go` receives the entry's weight exponent. DEDUCED (log 64). -/
def State.weigh (s : State) (sd : SReg) (e : Entry) (go : State → Nat → Out) : Out :=
  if badEntry e then s.statusDone sd 0x0F 0
  else if entryWexp e == 63 then go s 63
  else if entryDomain e != s.g.domain && s.g.qw != 0 then s.statusDone sd 0x12 0
  else (s.give (entryDomain e)).split.elim
    (fun s w => go (s.joinDomain s.greach (entryDomain e) s.g.launch) w) fun s => s.statusDone sd 0x11 0

/-- The end of ENQ or DEPARM at a queue of this device: a refusal returns the weight (R240). DEDUCED (log 65). -/
def State.weighedDone (s : State) (sd : SReg) (e : QEntry) (code : Nat) : Out :=
  if code == 0 then s.statusDone sd 0 (entryWexp e.e) else (s.entryBack e false).statusDone sd code 0

/-- The device of a domain's root (R376). -/
def State.rootDevice (s : State) (r : BitVec 4) (d : BitVec 10) : BitVec 8 :=
  match s.root? r d, s.proxy? r d with
  | none, some p => p.root
  | _, _ => s.device

/-- Changes the proxy of a domain. DEDUCED (log 65). -/
def State.onProxy (s : State) (r : BitVec 4) (d : BitVec 10) (f : Proxy → Proxy) : State :=
  { s with proxies := updAll (fun p => p.reach == r && p.domain == d) f s.proxies }

/-- Weight leaves for another device (R376): the root's balance for that device grows, or a proxy here holds less, and its root is told
where neither device has it. DEDUCED (log 65). -/
def State.sendUnits (s : State) (r : BitVec 4) (d : BitVec 10) (dev : BitVec 8) (units : Nat) : State :=
  if units == 0 then s
  else
    match s.root? r d, s.proxy? r d with
    | some _, _ => s.onBalance r d dev (· + units)
    | none, some p =>
      let s := s.onProxy r d fun p => { p with units := p.units - units }
      if dev == p.root then s else s.answer p.root (.weirMoved r d s.device dev units)
    | none, none => s

/-- Weight that was sent to another device has come back (R240). DEDUCED (log 65). -/
def State.unsendUnits (s : State) (r : BitVec 4) (d : BitVec 10) (dev : BitVec 8) (units : Nat) : State :=
  if units == 0 then s
  else
    match s.root? r d, s.proxy? r d with
    | some _, _ => s.onBalance r d dev (· - units)
    | none, some p =>
      let s := s.onProxy r d fun p => { p with units := p.units + units }
      if dev == p.root then s else s.answer p.root (.weirMoved r d dev s.device units)
    | none, none => s

/-- ENQ or DEPARM sends its entry to another device (R375), and `sent` says how it goes on; a lost device answers REMOTE (R323). -/
def State.sendEntry (s : State) (dev : BitVec 8) (e : QEntry) (sent : State → Nat → Out) (lost : State → Out) (op : Nat → Nat)
    (m : Nat → RemoteMsg) : Out :=
  if s.lost.contains dev then lost s
  else
    let tag := s.fresh
    let s := s.sendUnits e.reach (entryDomain e.e) dev (entryUnits e.e)
    let s : State := { s.send dev (m tag) s.g.key (op tag) tag with fresh := tag + 1 }
    sent s tag

/-- ENQ (R242, R375). DEDUCED (log 64). -/
def execEnq (sd sa sb : SReg) (la : La) (s : State) : Out :=
  let e := s.g.entryAt sa
  let h := s.g.sreg sb
  s.weigh sd e fun s w =>
    let x := s.outEntry (stampEntry e w false false noLink) (s.qnumOf s.g.launch h)
    let dev := s.deviceOf h
    if !handleOk h then s.weighedDone sd x 0x10
    else if dev == s.device then
      let r := (s.made x).enqueue x
      r.1.weighedDone sd x r.2
    else s.sendEntry dev x (fun s tag => s.done (s.g.pend sd la tag)) (fun s => s.weighedDone sd x 0x0B) id fun tag => .enq s.device x.reach x.qnum x.e (s.rootDevice x.reach (entryDomain x.e)) tag

/-- An entry of a launch waits unadmitted for a queue (R244). -/
def State.unadmittedOf (s : State) (r : BitVec 4) (q : BitVec 32) (lid : BitVec 32) : Bool :=
  s.counters.any fun c => c.unadmitted && match c.parked with
    | some e => e.of r q && e.producer == lid
    | none => false

/-- DEQ and DEQ_NB (R243, R244). -/
def State.dequeue (s : State) (sd sa : SReg) (blocking : Bool) : Out :=
  let h := s.g.sreg sa
  let r := s.greach
  let q := s.qnumOf s.g.launch h
  if !handleOk h || s.deviceOf h != s.device then s.trapU 6 h
  else
    match s.queue? r q with
    | none => s.trapU 6 h
    | some x =>
      if x.desc.wharf then s.trapU 6 h
      else
        match s.ready r q s.g.core with
        | some e =>
          if e.bad then .next (s.popBad s.g.key sd e)
          else
            let s := s.popTo s.g.key sd e
            s.done s.g
        | none =>
          if !blocking then s.done (s.g.setS sd (BitVec.allOnes 64))
          else if s.effective s.g.launch == .held && s.unadmittedOf r q s.g.launch then s.trapU 0x11 (detailInfo q.toNat)
          else s.waitOn (.deq r q sd)

/-- DEQ (R243). DEDUCED (log 67). -/
def execDeq (sd sa : SReg) (_la : La) (s : State) : Out := s.dequeue sd sa true
/-- DEQ_NB (R243). -/
def execDeqNb (sd sa : SReg) (_la : La) (s : State) : Out := s.dequeue sd sa false

/-- DEPARM (R247, R375): one on another device waits until that device has answered, as it may trap PROTECTION. DEDUCED (log 68, 69). -/
def execDeparm (sd sa sb : SReg) (la : La) (s : State) : Out :=
  let e := s.g.entryAt sa
  let c := s.g.sreg sb
  let h := s.g.sregAt sb 1
  let dev := s.deviceOf c
  let count := (c.extractLsb' 42 16).toNat
  let die := counterDie c
  let ctr := counterNum c
  if counterOk true c && dev == s.device && !s.ownsCounter s.greach die ctr then s.trapU 6 c
  else s.weigh sd e fun s w =>
    let x := s.outEntry (stampEntry e w false true (linkOf die ctr)) (s.qnumOf s.g.launch h)
    if !counterOk true c || !handleOk h || s.deviceOf h != dev then s.weighedDone sd x 0x10
    else if dev == s.device then
      let r := (s.made x).park x die ctr count
      r.1.weighedDone sd x r.2
    else s.sendEntry dev x (fun s tag => s.waitOn (.remote tag)) (fun s => s.weighedDone sd x 0x0B)
        (fun _ => sd.toNat + 64 * la.toNat) fun tag =>
      .deparm s.device x.reach die ctr count x.qnum x.e (s.rootDevice x.reach (entryDomain x.e)) tag

/-- A DEPDEC of the group in turn is a release towards the entry that is parked on the counter (R249). -/
def State.decrements (s : State) (die ctr : Nat) : State :=
  match (s.counter die ctr).parked with
  | some e => s.releaseTo s.g 4 (.entry e.tok)
  | none => s

/-- DEPDEC (R248, R375): one on another device waits for the answer. DEDUCED (log 69). -/
def execDepdec (sd sa : SReg) (_la : La) (s : State) : Out :=
  let c := s.g.sreg sa
  let dev := s.deviceOf c
  let die := counterDie c
  let ctr := counterNum c
  if !counterOk false c then s.trapU 6 c
  else if dev != s.device && s.lost.contains dev then s.trapU 0x19 (lostInfo dev.toNat 6)
  else if dev != s.device then
    let tag := s.fresh
    let s : State := { s.send dev (.depdec s.device s.greach die ctr tag) s.g.key sd.toNat tag with fresh := tag + 1 }
    s.waitOn (.remote tag)
  else if !s.ownsCounter s.greach die ctr then s.trapU 6 c
  else
    match (s.decrements die ctr).decrement die ctr with
    | none => s.trapU 0x10 (detailInfo (linkOf die ctr).toNat)
    | some r => r.1.done (r.1.g.setS sd (BitVec.ofNat 64 r.2))

/-! Events of queues and counters. -/

/-- QUEUE_INSTANTIATE (R228). DEDUCED (log 64). -/
def execQueueInstantiate (reach : BitVec 4) (owner : Option (BitVec 32)) (bs : List Byte) (s : State) : Out :=
  let q := QueueDesc.ofBytes bs
  let ok := queueZeros bs && 1 ≤ q.quota && q.ovfBase.toNat % 64 == 0 && q.qnum != 0xFFFFFFFF && (s.queue? reach q.qnum).isNone && !(q.wharf && owner.isSome)
  .next (if ok then State.reply { s with queues := s.queues ++ [{ reach := reach, desc := q, owner := owner, producers := [] }] } 0
    else s.reply 1)

/-- QUEUE_DESTROY (R228, R239). -/
def execQueueDestroy (reach : BitVec 4) (qnum : BitVec 32) (s : State) : Out := .next ((s.destroyQueue reach qnum).reply 0)

/-- COUNTER_ASSIGN (R246): counters that another tenant has are not given away. -/
def execCounterAssign (die first last : Nat) (reach : BitVec 4) (s : State) : Out :=
  if s.ranges.any fun x => x.1 == die && x.2.1 ≤ last && first ≤ x.2.2.1 && x.2.2.2 != reach then .next (s.reply 1)
  else .next (State.reply { s with ranges := s.ranges ++ [(die, first, last, reach)] } 0)

/-- The 8 oldest entries of a level that is above its mark move up (R229). -/
def State.moveUp (s : State) (p : Place) : State :=
  if (s.level p).length ≤ levelHigh p then s
  else s.moveEach ((oldest (s.level p)).take 8) fun s e =>
    let home := ((s.queue? e.reach e.qnum).map fun q => q.desc.home).getD 0
    match (levelsFrom home p)[1]? with
    | some up => s.placeAt e up
    | none => s.toOverflow e

/-- The nearest level above a core basin that holds entries of a queue, and those entries. -/
def State.above (s : State) (r : BitVec 4) (q : BitVec 32) (c : CoreId) : List QEntry :=
  let home := ((s.queue? r q).map fun x => x.desc.home).getD 0
  (([Place.cluster c.die c.cluster, .die home].map fun p => (s.level p).filter fun e => e.of r q).find? fun l => !l.isEmpty).getD []

/-- A basin takes entries of a queue from above (R229): it holds fewer than 8, and a group that `on` picks waits in DEQ on the queue. -/
def State.wants (s : State) (p : Place) (on : CoreId → Bool) (r : BitVec 4) (q : BitVec 32) : Bool :=
  ((s.level p).filter fun e => e.of r q).length < 8 && !(s.waiters fun g w => on g.core && w.isDeq r q).isEmpty

/-- The 8 best of some entries move down to a basin, and the groups that wait for them are served. -/
def State.lower (s : State) (p : Place) (es : List QEntry) (r : BitVec 4) (q : BitVec 32) : State :=
  (s.moveEach ((best es).take 8) fun s e => s.placeAt e p).serveQueue r q

/-- Entries of a queue move down to a core on which a group waits for them (R229). -/
def State.moveDown (s : State) (c : CoreId) (r : BitVec 4) (q : BitVec 32) : State :=
  if s.wants (.core c) (· == c) r q then s.lower (.core c) (s.above r q c) r q else s

/-- The same towards a cluster, from the HOME die basin (R229). -/
def State.moveToCluster (s : State) (d c : Nat) (r : BitVec 4) (q : BitVec 32) : State :=
  let home := ((s.queue? r q).map fun x => x.desc.home).getD 0
  if s.wants (.cluster d c) (fun x => x.die == d && x.cluster == c) r q then
    s.lower (.cluster d c) ((s.level (.die home)).filter fun e => e.of r q) r q
  else s

/-- Overflow entries of the queues of a die return, best first, while its basin stays below its mark (R229). -/
def State.ovfDown (s : State) (d : Nat) : State :=
  let mine := s.entries.filter fun e => e.spilled && ((s.queue? e.reach e.qnum).map fun q => q.desc.home) == some d
  let room := levelHigh (.die d) - (s.level (.die d)).length
  s.moveEach ((best mine).take (min 8 room)) fun s e => s.placeAt e (.die d)

/-- BASIN_MOVE (R229, R230). -/
def execBasinMove (dir : BasinDir) (s : State) : Out :=
  match dir with
  | .coreUp c => .next (s.moveUp (.core c))
  | .clusterUp d c => .next (s.moveUp (.cluster d c))
  | .dieUp d => .next (s.moveUp (.die d))
  | .down c q => .next (s.reaches.foldl (fun s r => s.moveDown c r.id q) s)
  | .clusterDown d c q => .next (s.reaches.foldl (fun s r => s.moveToCluster d c r.id q) s)
  | .ovfDown d => .next (s.ovfDown d)
  | .spill d r =>
    .next (if levelCap (.die d) ≤ (s.level (.die d)).length && s.mostOver (.die d) == some r then s.spillLevel (.die d) else s)

/-- An unadmitted entry could be admitted now. -/
def State.couldAdmit (s : State) (c : Counter) : Bool :=
  c.unadmitted && match c.parked with
    | some e => match s.queue? e.reach e.qnum with
      | some q => ((s.setCounter { c with parked := none, unadmitted := false }).admitEntry q e).isSome
      | none => false
    | none => false

/-- UNADMITTED_ADMIT (R232): in ascending counter link, as room frees. DEDUCED (log 68). -/
def execUnadmittedAdmit (die ctr : Nat) (s : State) : Out :=
  let c := s.counter die ctr
  if !s.couldAdmit c || s.counters.any fun x => s.couldAdmit x && linkOf x.die x.ctr < linkOf die ctr then .next s
  else .next (s.release c)

/-! Messages between devices (R375–R377). -/

/-- The proxy of a domain, made where there is none (R376). -/
def State.addProxy (s : State) (r : BitVec 4) (d : BitVec 10) (root : BitVec 8) (units : Nat) : State :=
  let mine := fun p : Proxy => p.reach == r && p.domain == d && p.root == root
  if s.proxies.any mine then { s with proxies := updAll mine (fun p => { p with units := p.units + units }) s.proxies }
  else { s with proxies := s.proxies ++ [{ reach := r, domain := d, root := root, units := units, back := 0, lost := 0, told := [] }] }

/-- A proxy would be needed and none is free (R376). -/
def State.proxiesFull (s : State) (r : BitVec 4) (e : Entry) (root : BitVec 8) : Bool :=
  entryWexp e != 63 && root != s.device && 1024 ≤ s.proxies.length &&
    !(s.proxies.any fun p => p.reach == r && p.domain == entryDomain e && p.root == root)

/-- Weight has come to this device with an entry (R376). -/
def State.bringUnits (s : State) (src : BitVec 8) (r : BitVec 4) (e : Entry) (root : BitVec 8) : State :=
  if entryWexp e == 63 then s
  else if root == s.device then s.onBalance r (entryDomain e) src (· - entryUnits e)
  else s.addProxy r (entryDomain e) root (entryUnits e)

/-- An entry that another device has sent. -/
def State.inEntry (s : State) (r : BitVec 4) (q : BitVec 32) (e : Entry) : QEntry :=
  { reach := r, qnum := q, e := e, stamp := s.tick, place := .die (((s.queue? r q).map fun x => x.desc.home).getD 0)
    producer := 0, gid := 0, core := ⟨0, 0, 0⟩, team := 0, tok := 0, maker := none }

/-- The status that another device's ENQ or DEPARM receives. -/
def State.replyEntry (s : State) (src : BitVec 8) (tag code wexp : Nat) : State :=
  s.answer src (.statusReply tag (statusWord code (if code == 0 then wexp else 0)))

/-- Another device's ENQ or DEPARM is applied by `f` (R375). DEDUCED (log 64). -/
def State.remoteEntry (s : State) (src : BitVec 8) (x : QEntry) (root : BitVec 8) (tag : Nat) (f : State → State × Nat) : State :=
  if s.proxiesFull x.reach x.e root then s.replyEntry src tag 0x0D 0
  else
    let r := f (s.bringUnits src x.reach x.e root)
    if r.2 == 0 then r.1.replyEntry src tag 0 (entryWexp x.e) else (f s).1.replyEntry src tag r.2 0

/-- A status reaches the group that sent the message. What a lost device was sent its balance returns (R377). DEDUCED (log 69). -/
def State.takeStatus (s : State) (m : OutMsg) (status : Word) : State :=
  let code := (status.extractLsb' 56 6).toNat
  let back := fun (r : BitVec 4) (e : Entry) =>
    if code == 0 || code == 0x0B || entryWexp e == 63 then s
    else (s.unsendUnits r (entryDomain e) m.dest (entryUnits e)).giveBack r (entryDomain e) (entryUnits e) false
  match m.msg with
  | .enq _ r _ e _ _ => (back r e).writeStatus m.op status
  | .deparm _ r die ctr count _ e _ _ =>
    let s := back r e
    if code == 6 then
      s.failOne m.grp 6 (BitVec.ofNat 64 (count * 2 ^ 42 + 2 ^ 40 + m.dest.toNat * 2 ^ 32 + (linkOf die ctr).toNat)) (((s.group? m.grp).map Group.em).getD 0)
    else
      State.satisfyOne (s.onGroup m.grp fun g =>
        (g.pend (BitVec.ofNat 6 m.op) (BitVec.ofNat 4 (m.op / 64)) m.tag).writeStatus m.tag status none) m.grp
  | .depdec _ _ die ctr _ =>
    if code == 0 then
      let s := s.onGroup m.grp fun g => g.setS (BitVec.ofNat 6 m.op) ((status.setWidth 32).setWidth 64)
      s.satisfyOne m.grp
    else
      let link := (linkOf die ctr).toNat
      let info := if code == 6 then BitVec.ofNat 64 (2 ^ 40 + m.dest.toNat * 2 ^ 32 + link) else detailInfo link
      s.failOne m.grp (if code == 6 then 6 else 0x10) info (((s.group? m.grp).map Group.em).getD 0)
  | _ => s

/-- The root on another device has answered a borrow of a group, or with `m.op` one more than its handle of a channel (R236, R241): the
units come to this device's proxy. -/
def State.borrowed (s : State) (m : OutMsg) (r : BitVec 4) (d : BitVec 10) (units : Nat) (granted : Bool) : State :=
  let s := if granted then s.addProxy r d (((s.proxy? r d).map Proxy.root).getD m.dest) units else s
  if m.op != 0 then
    let h := BitVec.ofNat 9 (m.op - 1)
    let asked := (s.channel? h).any fun c => c.borrow == .asked && c.cdom == d
    if asked then
      s.onChannel h fun c =>
        if granted then { c with cqw := c.cqw + BitVec.ofNat 48 units, borrow := .granted } else { c with borrow := .refused }
    else if granted then s.giveBack r d units false
    else s
  else if granted then s.lend m.grp r d units
  else s.onGroup m.grp fun g => if g.borrow == .asked then { g with borrow := .refused } else g

/-- The member launches of a root on another device have come: the waits on the domain are checked against those that are new (R132,
R238). DEDUCED (log 66). -/
def State.membersIn (s : State) (r : BitVec 4) (d : BitVec 10) (dev : BitVec 8) (ms : List (BitVec 32)) : State :=
  let was := (s.farRoots.filter fun x => x.reach == r && x.domain == d).flatMap FarRoot.members
  let s := (s.setFarRoot r d dev true).onFarRoot r d fun x => { x with members := ms }
  (ms.filter fun l => !was.contains l).foldl (fun s l => s.recheckJoin l fun w => w == .quiet r d) s

/-- The new root device of a migrated reach, where this device knows it (R377). -/
def State.newRoot? (s : State) (r : BitVec 4) : Option (BitVec 8) :=
  ((s.rehomed.find? fun x => x.1 == r && x.2 != s.device)).map Prod.snd

/-- REMOTE_TASK_MESSAGE (R375–R377): a message of another device arrives; a lost device's is discarded. DEDUCED (log 69). -/
def State.remoteMessage (s : State) (m : RemoteMsg) : State :=
  match m with
  | .enq src r q e root tag =>
    if s.lost.contains src then s
    else
      let x := s.inEntry r q (stampEntry e (entryWexp e) true false noLink)
      s.remoteEntry src x root tag fun s => s.enqueue x
  | .deparm src r die ctr count q e root tag =>
    if s.lost.contains src then s
    else
      let x := s.inEntry r q (stampEntry e (entryWexp e) true true (linkOf die ctr))
      if !s.ownsCounter r die ctr then s.replyEntry src tag 6 0
      else s.remoteEntry src x root tag fun s => s.park x die ctr count
  | .depdec src r die ctr tag =>
    if s.lost.contains src then s
    else if !s.ownsCounter r die ctr then s.answer src (.statusReply tag (statusWord 6 0))
    else
      match s.decrement die ctr with
      | none => s.answer src (.statusReply tag (statusWord 0x10 0))
      | some x => x.1.answer src (.statusReply tag (statusWord 0 x.2))
  | .weirReturn src r d units lost =>
    if s.lost.contains src then s
    else
      match s.root? r d with
      | some _ => (s.onBalance r d src (· - units)).applyReturn r d units lost
      | none => (s.sendOn { reach := r, domain := d, units := units - lost, lost := false, src := some src }).sendOn
          { reach := r, domain := d, units := lost, lost := true, src := some src }
  | .weirBorrow src r d units lid tag =>
    if s.lost.contains src then s
    else
      match s.root? r d, s.newRoot? r with
      | some _, _ =>
        (((s.onRoot r d fun x => { x with issued := x.issued + units }).onBalance r d src (· + units)).joinDomain r d lid).answer src
          (.borrowReply tag true)
      | none, some x => s.answer x (.weirBorrow src r d units lid tag)
      | none, none => s.answer src (.borrowReply tag false)
  | .weirJoin src r d lid =>
    if s.lost.contains src then s
    else
      match s.root? r d, s.newRoot? r with
      | none, some x => s.answer x (.weirJoin src r d lid)
      | _, _ => s.joinDomain r d lid
  | .weirMoved r d src dst units =>
    match s.root? r d, s.newRoot? r with
    | none, some x => s.answer x (.weirMoved r d src dst units)
    | _, _ => (s.onBalance r d dst (· + units)).onBalance r d src (· - units)
  | .proxyFree src r d =>
    { s with proxies := s.proxies.filter fun p => !(p.reach == r && p.domain == d && p.root == src && p.units == 0 && p.back == 0) }
  | .borrowReply tag granted =>
    match s.answered tag with
    | none => s
    | some (s, m) =>
      match m.msg with
      | .weirBorrow _ r d units _ _ => s.borrowed m r d units granted
      | _ => s
  | .statusReply tag status =>
    match s.answered tag with
    | none => s
    | some (s, m) => s.takeStatus m status
  | .quiet src r d tag =>
    if s.lost.contains src then s
    else
      match s.root? r d, s.newRoot? r with
      | some _, _ => ((s.onRoot r d fun x => { x with remote := x.remote ++ [(src, tag)] }).quiesce r d).tellMembers r d
      | none, some x => s.answer x (.quiet src r d tag)
      | none, none => s.answer src (.quietReply tag 0)
  | .quietMembers tag ms =>
    match s.sent? tag with
    | none => s
    | some m =>
      match m.msg with
      | .quiet _ r d _ => s.membersIn r d m.dest ms
      | _ => s
  | .quietReply tag lost =>
    match s.answered tag with
    | none => s
    | some (s, m) =>
      let s := match m.msg with
        | .quiet _ r d _ => s.setFarRoot r d m.dest false
        | _ => s
      match (s.group? m.grp).bind Group.wait with
      | some (.quiet _ _) =>
        if lost == 0 then s.satisfyOne m.grp else s.failOne m.grp 0x1F (detailInfo lost) (((s.group? m.grp).map Group.em).getD 0)
      | _ => s

/-- REMOTE_TASK_MESSAGE (R375–R377). -/
def execRemoteTaskMessage (m : RemoteMsg) (s : State) : Out := .next (s.remoteMessage m)

/-- REHOME (R377): every proxy of the reach points at the new root device. -/
def execRehome (reach : BitVec 4) (root : BitVec 8) (s : State) : Out :=
  .next { s with
    proxies := updAll (fun p => p.reach == reach) (fun p => { p with root := root }) s.proxies
    rehomed := (reach, root) :: s.rehomed.filter fun x => x.1 != reach }

end Sys2Proof.Machine
end

