-- ==== Sys2Proof/Machine/Engine.lean ====
section
/-! DEFINITION. What every engine operation shares: when it runs (R327), its addresses (R200), fault service (R309, R310), and the
moves of bytes with their errors (R201, R206, R218, R222, R312). -/
namespace Sys2Proof.Machine

/-- The engine operations that a launch has issued from a core run: no pre-emption of the core has stopped them, or a team of the launch
has resumed since (R327). DEDUCED (log 77). -/
def State.enginesRun (s : State) (lid : BitVec 32) (c : CoreId) : Bool :=
  match s.launch? lid with
  | some l => !l.stopped.contains c
  | none => false

/-- The byte that an address names for a view, in a lane where it has one. -/
def State.hitAt (s : State) (v : View) (lane : Option Nat) (acc : Acc) (a : Word) : Hit :=
  match s.steer v lane a.toNat with
  | none => .cause 5
  | some (.pad u k) => .ok (.pad u k) (padLoc k)
  | some (.main va) => s.lookHit v.reach 0 acc va

/-- The byte that an engine's address names (R200). -/
def State.engineHit (s : State) (v : View) (acc : Acc) (a : Word) : Hit := s.hitAt v none acc a

/-- The narrowest scope whose instances hold engines of a kind (R184): a core's matrix engine, a cluster's Tugs, a die's engines. -/
def EngineKind.level : EngineKind → Nat
  | .matrix _ => 1
  | .tug _ _ _ => 2
  | .collective _ => 3
  | .dredger _ => 3

/-- The reader that an operation is (R218). -/
def View.reader? (v : View) : Option Reader :=
  v.who.map fun a => { agent := a, core := v.core, level := (v.kind.map fun k => k.1.level).getD 0, back := none, moment := none }

/-- A byte at a home as an operation reads it (R197, R218). -/
def State.opByte (s : State) (v : View) (l : Loc) : Byte :=
  match v.reader? with
  | some r => s.raceByte r 0 l 0
  | none => s.homeByte l 0

/-! Flits (R321, R369). -/

/-- How many fabric links a device has (R369). -/
def linkCount : Nat := 12

/-- The outbound flit sequence of a link as it stands: what it last was, and the flits sent since. DESIGN CHOICE (log 16). -/
def State.flit (s : State) (l : Nat) : Nat :=
  (((s.flits.find? fun x => x.1.toNat == l).map Prod.snd).getD 0 + (Config.reading s.tick (64 + l)).toNat) % 2 ^ 32

/-- The link by which a class reaches a device (R369, R370). -/
def State.route? (s : State) (cls : Nat) (dev : BitVec 8) : Option (BitVec 4) :=
  (s.routes.find? fun x => x.1 == cls && x.2.1 == dev).map fun x => x.2.2

/-- An engine of a die sends flits to a device for a launch: at least one on the link of its class. DESIGN CHOICE (log 11, 16). -/
def State.sendFlits (s : State) (die : Nat) (lid : BitVec 32) (cls : Nat) (dev : BitVec 8) : State :=
  match s.route? cls dev with
  | none => s
  | some l =>
    let first := s.flit l.toNat
    let last := (first + (Config.reading s.tick (128 + l.toNat)).toNat) % 2 ^ 32
    { s with
      traffic := { reach := s.reachOf lid, rd := 0, wr := 0, sent := 1 } :: s.traffic
      flits := (l, (last + 1) % 2 ^ 32) :: s.flits.filter fun x => x.1 != l
      flitLog := { die := die, launch := lid, link := l, first := first, last := last, tick := s.tick } :: s.flitLog }

/-- The same to the homes of bytes on other devices, for the accesses of an engine (R370: class 1). -/
def State.engineFlits (s : State) (v : View) (ls : List Loc) : State :=
  if v.kind.isNone then s
  else
    let devs := (ls.filterMap fun l => if l.cipher.isSome then some (homeOf l.key) else none).eraseDups.filter (· != s.device.toNat)
    devs.foldl (fun s d => s.sendFlits v.core.die v.owner 1 (BitVec.ofNat 8 d)) s

/-- An operation has read bytes at their homes. -/
def State.opSeen (s : State) (v : View) (ls : List Loc) : State :=
  match v.reader? with
  | some r => ls.foldl (fun s l => s.seen r 0 l 1) (s.engineFlits v ls)
  | none => s

/-- Bytes of an operation in one granule are performed at a home, as one single-copy atomic write (R218). -/
def State.opWrite (s : State) (v : View) (l : Loc) (bs : List Byte) : State :=
  match v.who with
  | some a => (s.unlearn (Agent.broken l.key bs.length)).homeWriteBy a none true v.core l bs
  | none => s.homeWrite l bs

/-- The code of R201 for an access that fails. -/
def hitCode : Hit → Nat
  | .cause 5 => 1
  | .cause _ => 2
  | .lost _ true => 0x0B
  | _ => 0

/-- The thread number that an engine's record shows (R346): that of the group that issued the operation, or of the thread that submitted
the launch. -/
def State.opTid (s : State) (v : View) (lid : BitVec 32) : BitVec 32 :=
  match v.grp.bind s.group? with
  | some g => g.tid
  | none => ((s.launch? lid).map Launch.tid).getD 0

/-- An engine operation stands at a page that is not there: one record in the fault queue when it comes to stand there (R310). -/
def State.engineFault (s : State) (v : View) (lid : BitVec 32) (acc : Acc) (h : Hit) : State :=
  match h with
  | .held (some (reason, lvl)) va =>
    let pid := ((s.launch? lid).map Launch.pid).getD 0
    let r : FaultRec := { pid := pid, tid := s.opTid v lid, gid := 0
                          engine := some ((v.kind.map Prod.fst).getD (.collective v.core.die), lid), va := va, access := acc.code
                          reason := reason, level := lvl }
    let at_ := fun w : Agent => (w, va, acc.code)
    match v.kind.map Prod.snd with
    | none => { s with faultQueue := s.faultQueue ++ [r] }
    | some w =>
      if s.stuck.contains (at_ w) then s
      else { s with faultQueue := s.faultQueue ++ [r], stuck := at_ w :: s.stuck.filter fun x => x.1 != w }
  | _ => s

/-- An engine operation has got past the pages at which it stood. -/
def State.unstick (s : State) (v : View) : State := { s with stuck := s.stuck.filter fun x => some x.1 != v.kind.map Prod.snd }

/-- What a read by an engine of `n` bytes at an address gives: the bytes; a fault that it waits for; or an error. -/
inductive ERead where
  | ok (s : State) (bs : List Byte)
  | wait (s : State)
  | err (s : State) (code : Nat)

/-- A read by an engine (R200, R309, R312). -/
def State.engineRead (s : State) (v : View) (lid : BitVec 32) (n : Nat) (a : Word) : ERead :=
  let hs := (List.range n).map fun i => s.engineHit v .eread (a + BitVec.ofNat 64 i)
  match hs.find? fun h => match h with | .ok _ _ => false | _ => true with
  | some (.held why va) => .wait (s.engineFault v lid .eread (.held why va))
  | some (.lost _ false) => .wait s
  | some h => .err s (hitCode h)
  | none =>
    let ls := hs.filterMap fun h => match h with | .ok _ l => some l | _ => none
    let t := ((ls.filterMap Loc.pte).eraseDups).foldl (fun s p => s.install false p) (s.opSeen v ls)
    if ls.any fun l => s.poisoned l.key 1 then .err t 0x16 else .ok t (ls.map (s.opByte v))

/-! Moves. -/

/-- Where a moved byte comes from: an address, or a value that the operation holds, with its poison. -/
inductive Src where
  | mem (a : Word)
  | lit (b : Byte)
  deriving DecidableEq, Repr

/-- Where a moved byte goes: an address, or a byte of storage of the core itself. -/
inductive Dst where
  | mem (a : Word)
  | key (k : Nat)
  deriving DecidableEq, Repr

/-- One byte of an operation. -/
structure Move where
  src : Src
  dst : Dst
  deriving DecidableEq, Repr

/-- The source byte of a move. -/
def Move.srcHit (s : State) (v : View) (m : Move) : Option Hit :=
  match m.src with
  | .mem a => some (s.engineHit v .eread a)
  | .lit _ => none
/-- The destination byte of a move. -/
def Move.dstHit (s : State) (v : View) (m : Move) : Hit :=
  match m.dst with
  | .mem a => s.engineHit v .ewrite a
  | .key k => .ok (.pad (.die 0) k) (padLoc k)

/-- A move whose bytes have been found: where it goes, its value, and whether the value is poisoned. -/
structure Found where
  loc : Loc
  val : Byte
  bad : Bool
  deriving DecidableEq, Repr

/-- A move that stands at an absent page, with the kind of access. -/
def Move.absent (s : State) (v : View) (m : Move) : Option (Acc × Hit) :=
  match m.srcHit s v, m.dstHit s v with
  | some (.held w a), _ => some (.eread, .held w a)
  | some (.lost d false), _ => some (.eread, .lost d false)
  | _, .held w a => some (.ewrite, .held w a)
  | _, .lost d false => some (.ewrite, .lost d false)
  | _, _ => none

/-- The error of a move (R201). -/
def Move.code (s : State) (v : View) (m : Move) : Nat :=
  let c := ((m.srcHit s v).map hitCode).getD 0
  if c != 0 then c else hitCode (m.dstHit s v)

/-- The moves whose bytes exist, at their homes. A byte of the destination that is one of the source's too ends as some byte of the source
(R222). DEDUCED (log 51). -/
def State.findMoves (s : State) (v : View) (ms : List Move) : List Found :=
  let src := ms.filterMap fun m => (m.srcHit s v).bind Hit.loc?
  let overlap := fun (l : Loc) => src.any fun x => x.key == l.key
  let pick := fun (k : Nat) => (src[(Config.freeWord s.tick (2 * k)).toNat % src.length]?).map (s.opByte v)
  ms.filterMap fun m =>
    (m.dstHit s v).loc?.bind fun l =>
      match m.src, (m.srcHit s v).bind Hit.loc? with
      | .lit b, _ => some { loc := l, val := b, bad := false }
      | .mem _, some x =>
        some { loc := l, val := if overlap l then (pick l.key).getD 0 else s.opByte v x, bad := s.poisoned x.key 1 }
      | .mem _, none => none

/-- The granule of an engine write (R218). -/
def granule64 (k : Nat) : Nat := k / 64

/-- Bytes that follow one another under one cipher key, in one granule. -/
def joins (l : Loc) (n : Nat) (x : Loc) : Bool :=
  x.key == l.key + n && x.cipher == l.cipher && x.foreign == l.foreign && granule64 x.key == granule64 l.key

/-- Found bytes as runs that are written at once. -/
def runsOf : List Found → List (Loc × List Byte)
  | [] => []
  | f :: fs =>
    match runsOf fs with
    | (l, bs) :: rest => if joins f.loc 1 l then (f.loc, f.val :: bs) :: rest else (f.loc, [f.val]) :: (l, bs) :: rest
    | [] => [(f.loc, [f.val])]

/-- Words become poisoned. -/
def State.poisonWords (s : State) (ks : List Nat) : State :=
  { s with poison := (ks.map wordKey).eraseDups ++ s.poison.filter fun p => !(ks.map wordKey).contains p }

/-- Found bytes are written at their homes; a granule that takes a poisoned byte is written poisoned (R312). DEDUCED (log 51). -/
def State.commit (s : State) (v : View) (fs : List Found) : State :=
  let s := ((fs.filterMap fun f => f.loc.pte).eraseDups).foldl (fun s p => s.install true p) (s.engineFlits v (fs.map Found.loc))
  let s := (runsOf fs).foldl (fun s r => s.opWrite v r.1 r.2) s
  let bad := ((fs.filter Found.bad).map fun f => granule64 f.loc.key).eraseDups
  if bad.isEmpty then s else s.poisonWords ((fs.filter fun f => bad.contains (granule64 f.loc.key)).map fun f => f.loc.key)

/-- The destination granule of a move. -/
def Move.granule? (s : State) (v : View) (m : Move) : Option Nat := (m.dstHit s v).loc?.map fun l => granule64 l.key

/-- The operation has read the sources of moves. -/
def State.readSources (s : State) (v : View) (ms : List Move) : State :=
  let ls := ms.filterMap fun m => (m.srcHit s v).bind Hit.loc?
  (((ls.filterMap Loc.pte).eraseDups).foldl (fun s p => s.install false p) s).opSeen v ls

/-- How an operation's moves end: at an absent page, where it stands; or written, with a code and the bytes that were written. -/
inductive Moved where
  | wait (s : State)
  | done (s : State) (code count : Nat)

/-- The moves of an operation (R201, R218); `skip` are the destination granules that it has written already. With an error, each granule
is written in full or not at all, by a free choice, and a poisoned one is written poisoned. DEDUCED (log 51). -/
def State.moves (s : State) (v : View) (lid : BitVec 32) (ms : List Move) (skip : List Nat := []) : Moved :=
  let todo := ms.filter fun m => !(((m.granule? s v).map skip.contains).getD false)
  let past := ms.length - todo.length
  match todo.find? fun m => (m.absent s v).isSome || m.code s v != 0 with
  | some m =>
    match m.absent s v with
    | some (acc, h) => .wait (s.engineFault v lid acc h)
    | none =>
      let lost := (todo.filter fun m => (m.absent s v).isSome || m.code s v != 0).filterMap (Move.granule? s v)
      let keep := fun k => !(lost.contains k) && Config.freeBit s.tick k
      let fs := (s.findMoves v todo).filter fun f => keep (granule64 f.loc.key)
      let t := s.readSources v (todo.filter fun m => ((m.granule? s v).map keep).getD false)
      .done ((t.commit v fs).unstick v) (m.code s v) (past + fs.length)
  | none =>
    let fs := s.findMoves v todo
    let s := s.readSources v todo
    let bad := (fs.filter Found.bad).map fun f => granule64 f.loc.key
    if bad.isEmpty then .done ((s.commit v fs).unstick v) 0 (past + fs.length)
    else
      let fs := fs.filter fun f => bad.contains (granule64 f.loc.key) || Config.freeBit s.tick (granule64 f.loc.key)
      .done ((s.commit v fs).unstick v) 0x16 (past + fs.length)

/-- One destination granule of an operation is written before its completion (R218): the state after; none: it cannot be yet.
DEDUCED (log 51). -/
def State.moveGranule (s : State) (v : View) (ms : List Move) (skip : List Nat) (g : Nat) : Option State :=
  let todo := ms.filter fun m => m.granule? s v == some g
  let fs := s.findMoves v todo
  if skip.contains g || todo.isEmpty || todo.any (fun m => (m.absent s v).isSome || m.code s v != 0) || fs.any Found.bad then none
  else some ((s.readSources v todo).commit v fs)

/-- Rows of bytes: `n` rows of `w` bytes from a source to a destination address. -/
def rowMoves (n w : Nat) (src dst : Nat → Word) : List Move :=
  (List.range n).flatMap fun r => (List.range w).map fun k =>
    { src := .mem (src r + BitVec.ofNat 64 k), dst := .mem (dst r + BitVec.ofNat 64 k) }

/-! Link classes and network slots (R49, R217). -/

/-- The link classes that a transfer of a cluster's Tug to or from an address crosses. -/
def State.classesOf (s : State) (v : View) (a : Word) : List Nat :=
  match s.steer v none a.toNat with
  | none => []
  | some (.main _) => [1, 3]
  | some (.pad (.core _) _) => [0]
  | some (.pad (.cluster d c) _) => if d != v.core.die then [1, 2] else if c == v.core.cluster then [] else [1]
  | some (.pad (.die d) _) => if d == v.core.die then [1] else [1, 2]

/-- The link classes that moves of a cluster's Tug cross. DESIGN CHOICE (log 59). -/
def State.moveClasses (s : State) (v : View) (ms : List Move) : List Nat :=
  ms.flatMap fun m =>
    (match m.src with | .mem a => s.classesOf v a | .lit _ => []) ++ match m.dst with | .mem a => s.classesOf v a | .key _ => [0]

/-- The mask of a launch for a link class, from its slot entry (R46, R49), which the device reads when the command issues, as an engine of
team 0 on core 0 would; an entry that it cannot read has no slot. DESIGN CHOICE (log 59). -/
def State.slotMask (s : State) (lid : BitVec 32) (cl : Nat) : Nat :=
  let d := s.desc lid
  match s.engineRead (s.engineView lid 0 ⟨0, 0, 0⟩) lid 8 (d.slotTab + BitVec.ofNat 64 (8 * cl)) with
  | .ok _ bs => leNat bs
  | _ => 0

/-- The launches other than one that have a team on a core. -/
def State.otherResidents (s : State) (lid : BitVec 32) : List (BitVec 32) :=
  ((s.teams.filter fun t => t.at_ == .resident && t.launch != lid).map Team.launch).eraseDups

/-- The slot hazard of scheduled work that crosses a class (R217): no slot of its own, or one that another launch owns too.
DESIGN CHOICE (log 59). -/
def State.classHazard (s : State) (lid : BitVec 32) (cl : Nat) : Option Word :=
  let m := s.slotMask lid cl
  let other := (s.otherResidents lid).foldl (fun x l => x ||| s.slotMask l cl) 0
  let info := fun slot shared => BitVec.ofNat 64 (slot + 3 * 64 + cl * 256 + if shared then 1024 else 0)
  if m == 0 then some (info 0 false)
  else ((List.range 64).find? fun n => m.testBit n && other.testBit n).map fun n => info n true

/-- The slot hazard of the lowest class. -/
def State.slotHazardIn (s : State) (lid : BitVec 32) (cls : List Nat) : Option Word :=
  ([0, 1, 2, 3].filter cls.contains).findSome? (s.classHazard lid)

end Sys2Proof.Machine
end

