-- ==== Sys2Proof/Machine/Tug.lean ====
section
/-! DEFINITION. Tugs: one-shot copies, channels and barge chains, sequence waits, YIELD (R199–R213), and collectives (R214–R216). -/
namespace Sys2Proof.Machine

/-! One-shot copies (R199, R203). -/

/-- Records that run on the Tugs of a cluster. -/
def State.tugRecords (s : State) (p : BitVec 9 → Bool) : Nat :=
  ((s.channels.filter fun c => p c.handle).map fun c => c.running.length).foldl (· + ·) 0

/-- A handle's cluster. -/
def handleDie (h : BitVec 9) : Nat := (h.extractLsb' 7 2).toNat
/-- A handle's cluster in its die. -/
def handleCluster (h : BitVec 9) : Nat := (h.extractLsb' 4 3).toNat

/-- The operations on one of the two Tugs of a cluster: one-shot commands, and records of the channels that the Tug serves (R199, R204).
DEDUCED (log 52). -/
def State.tugLoad (s : State) (d c : Nat) (tug : Bool) : Nat :=
  (s.oneShots.filter fun o => o.core.die == d && o.core.cluster == c && o.tug == tug).length
    + s.tugRecords fun h => handleDie h == d && handleCluster h == c && h.getLsbD 3 == tug

/-- The Tug of a cluster that takes a one-shot command: one with fewer than 32 operations (R199), by a free choice where both have room.
DEDUCED (log 52). -/
def State.freeTug (s : State) (c : CoreId) : Option Bool :=
  let ok := fun t => s.tugLoad c.die c.cluster t < 32
  if ok false && ok true then some (Config.freeBit s.tick 4) else if ok false then some false else if ok true then some true else none

/-- A one-shot command finds room: 16 of its core, and 32 operations on one of the two Tugs of its cluster (R199). DEDUCED (log 52). -/
def State.oneShotRoom (s : State) (c : CoreId) : Bool :=
  (s.oneShots.filter fun o => o.core == c).length < 16 && (s.freeTug c).isSome

/-- An operation comes after what its issuing group has done and drained (R219). -/
def State.fork (s : State) (op : Nat) : State := s.orderAfter (.group s.g.key) (.op op)

/-- CPY and TMOVE (R203). -/
def State.oneShot (s : State) (sd : SReg) (la : La) (src dst : Word) (sstride dstride rowBytes rows : Nat) : Out :=
  if !s.oneShotRoom s.g.core then s.stall
  else
    let id := s.fresh
    let o : OneShot := { id := id, grp := s.g.key, launch := s.g.launch, team := s.g.team, core := s.g.core, src := src, dst := dst
                         sstride := sstride, dstride := dstride, rowBytes := rowBytes, rows := rows
                         tug := (s.freeTug s.g.core).getD false, wrote := [] }
    State.done { s.fork id with fresh := id + 1, oneShots := s.oneShots ++ [o] } (s.g.pend sd la id)

/-- CPY (R203). DEDUCED (log 52, 53). -/
def execCpy (sd sa sb : SReg) (_sched : Bool) (la : La) (s : State) : Out :=
  s.oneShot sd la (s.g.sreg sa) (s.g.sreg sb) 0 0 (s.g.sregAt sb 1).toNat (if s.g.sregAt sb 1 = 0 then 0 else 1)

/-- TMOVE (R203). DEDUCED (log 52). -/
def execTmove (sd sa sb : SReg) (_sched : Bool) (la : La) (s : State) : Out :=
  let a := s.g.sregAt sa 1
  let b := s.g.sregAt sb 1
  s.oneShot sd la (s.g.sreg sa) (s.g.sreg sb) (a.toNat % 2 ^ 32) (b.toNat % 2 ^ 32) (a.toNat / 2 ^ 32) (b.toNat / 2 ^ 32)

/-- The moves of a one-shot command (R203). -/
def OneShot.moves (o : OneShot) : List Move :=
  rowMoves o.rows o.rowBytes (fun r => o.src + BitVec.ofNat 64 (r * o.sstride)) fun r => o.dst + BitVec.ofNat 64 (r * o.dstride)

/-- Rows of no bytes, or more bytes than a count holds (R203). -/
def OneShot.misshaped (o : OneShot) : Bool := 2 ^ 32 - 1 < o.rowBytes * o.rows || (o.rowBytes == 0 && o.rows != 0)

/-- Whose accesses those of a one-shot command are (R200, R218). -/
def State.oneShotView (s : State) (o : OneShot) : View :=
  s.opView (.tug o.core.die o.core.cluster o.tug) (.op o.id) o.grp o.launch o.team o.core

/-- A one-shot command writes a granule before it completes (R218, R327). -/
def State.oneShotGranule (s : State) (id g : Nat) : State :=
  match s.oneShots.find? fun o => o.id == id with
  | none => s
  | some o =>
    if !s.enginesRun o.launch o.core || o.misshaped then s
    else
      match s.moveGranule (s.oneShotView o) o.moves o.wrote g with
      | none => s
      | some s => { s with oneShots := updAll (fun x => x.id == id) (fun x => { x with wrote := g :: x.wrote }) s.oneShots }

/-- ONE_SHOT_COMPLETION (R203). DEDUCED (log 53). -/
def execOneShotCompletion (id : Nat) (s : State) : Out :=
  match s.oneShots.find? fun o => o.id == id with
  | none => .next s
  | some o =>
    if !s.enginesRun o.launch o.core then .next s
    else
      let end_ := fun (s : State) code count =>
        State.writeStatus { s with oneShots := s.oneShots.filter fun x => x.id != id } id (statusWord code count) (some (.op id))
      if o.misshaped then .next (end_ s 7 0)
      else
        match s.moves (s.oneShotView o) o.launch o.moves o.wrote with
        | .wait s => .next s
        | .done s code count => .next (end_ s code count)

/-! Channels (R204, R208–R211). -/

/-- `n` is reached by SEQ (R211). -/
def reached (seq n : BitVec 32) : Bool := (seq - n).toNat < 2 ^ 31

/-- The completion scope of a record (R205): of codes 0 and 4 the device, of 1 and 2 the cluster. -/
def recScope (bs : List Byte) : Nat :=
  match byteAt bs 11 % 8 with
  | 0 => 4
  | 1 => 2
  | n => n

/-- The Tug that serves a channel (R204). -/
def channelTug (h : BitVec 9) : EngineKind := .tug (handleDie h) (handleCluster h) (h.getLsbD 3)

/-- A core of the cluster whose Tug a channel belongs to (R204). -/
def tugCore (h : BitVec 9) : CoreId := ⟨handleDie h, handleCluster h, 0⟩

/-- A record of a channel up to a number, whose completion scope covers a core (R220). -/
def joinsRecord (c : CoreId) (h : BitVec 9) (n : BitVec 32) : Agent → Bool
  | .record x m scope => x == h && reached n m && inScope scope (tugCore h) c
  | _ => false

/-- A group comes after the records of a channel up to a number (R220). -/
def State.joinUpTo (s : State) (g : Group) (h : BitVec 9) (n : BitVec 32) : State :=
  s.order (.group g.key) (Old.after (joinsRecord g.core h n))

/-- A group reads a status register for the first time (R220). -/
def State.joinBy (s : State) (g : Group) : Join → State
  | .op n => s.orderAfter (.op n) (.group g.key)
  | .upTo h n => s.joinUpTo g h n

/-- The CTAIL whose tail the walk is looking for. -/
def Channel.seeking (c : Channel) : Option CTail := c.ctails.find? fun t => t.num.isNone

/-- The CTAILs whose tails have been taken get their numbers, in order of arrival; the walk goes on while one is left (R209). -/
def aim (taken : List (Word × BitVec 32)) : List CTail → List CTail
  | [] => []
  | t :: ts =>
    match t.num, taken.find? fun x => x.1 == t.tail with
    | none, none => t :: ts
    | none, some x => { t with num := some x.2 } :: aim taken ts
    | some _, _ => t :: aim taken ts

/-- What a channel walks for: the first CTAIL in order of arrival whose tail has not been taken. A stopped channel walks no further, and
gives its later CTAILs no number (R209). DEDUCED (log 54). -/
def Channel.retarget (c : Channel) : Channel :=
  if c.stopped.isSome then { c with walking := false }
  else
    let c := { c with ctails := aim c.taken c.ctails }
    match c.seeking with
    | some t => { c with tail := some t.tail, walking := true }
    | none => { c with walking := false }

/-- A channel stops (R208). -/
def Channel.stop (code : Nat) (num : BitVec 32) (c : Channel) : Channel :=
  { c with stopped := some (c.stopped.getD (code, num)), walking := false }

/-- TRAPINFO of ENGINE (R212). -/
def engineInfo (num : BitVec 32) (code : Nat) (h : BitVec 9) : Word :=
  BitVec.ofNat 64 (num.toNat * 2 ^ 32 + code * 2 ^ 16 + h.toNat)

/-- A stopped channel all of whose taken records have completed. -/
def Channel.dead (c : Channel) : Bool := c.stopped.isSome && c.running.isEmpty

/-- The TRAPINFO with which a channel has stopped. -/
def Channel.stopInfo (c : Channel) : Word :=
  match c.stopped with
  | some x => engineInfo x.2 x.1 c.handle
  | none => 0

/-- CTAILs of a channel that can be answered: their record has completed, or the channel is dead (R209). DEDUCED (log 54). -/
def Channel.answers (c : Channel) : List (CTail × Word) :=
  c.ctails.filterMap fun t =>
    match t.num with
    | some n => if reached c.seq n then some (t, statusWord (if t.refused then 0x11 else 0) n.toNat) else none
    | none =>
      match c.stopped with
      | some x => if c.running.isEmpty then some (t, statusWord x.1 c.issued.toNat) else none
      | none => none

/-- A channel's state has changed: CTAILs are answered, WAITSEQ and CHEAD waits end, an idle channel gives its weight back (R209–R211,
R241). DEDUCED (log 57). -/
def State.settleChannel (s : State) (h : BitVec 9) : State :=
  match s.channel? h with
  | none => s
  | some c =>
    let done := c.answers
    let s := s.onChannel h fun c => { c with ctails := c.ctails.filter fun t => !(done.any fun d => d.1 == t) }
    let s := done.foldl (fun s d => s.writeStatus d.1.op d.2 (some (.upTo h (d.2.setWidth 32)))) s
    let s := (s.waiters fun _ w => match w with | .seq x n => x == h && reached c.seq n | _ => false).foldl (fun s g => match g.wait with
      | some (.seq _ n) => s.joinUpTo g h n
      | _ => s) s
    let s := s.satisfyAll fun _ w => match w with
      | .seq x n => x == h && reached c.seq n
      | .chead x => x == h && c.running.isEmpty
      | _ => false
    let s := if c.dead then s.failAll (fun _ w => match w with | .seq x _ => x == h | _ => false) 0x1E fun _ => c.stopInfo else s
    if c.running.isEmpty && !c.walking && c.cqw != 0 then s.returnCqw c false else s

/-- SEQ advances over contiguous completions (R210); `n` bounds how far. -/
def advance : (n : Nat) → BitVec 32 → List (BitVec 32) → BitVec 32 × List (BitVec 32)
  | 0, seq, done => (seq, done)
  | n + 1, seq, done => if done.contains (seq + 1) then advance n (seq + 1) (done.erase (seq + 1)) else (seq, done)

/-- The channel that a handle names, or the trap that the handle takes (R204, R209, R211). -/
def State.withChannel (s : State) (x : Word) (go : BitVec 9 → Option Channel → Out) : Out :=
  let h : BitVec 9 := x.setWidth 9
  if 512 ≤ x.toNat || 5 ≤ handleCluster h then s.trapU 0x1E (engineInfo 0 0x3F h) else go h (s.channel? h)

/-- A channel of the launch of the group in turn. -/
def State.withOwn (s : State) (x : Word) (go : Channel → Out) : Out :=
  s.withChannel x fun _ c => match c with
    | some c => if c.launch == s.g.launch then go c else s.trapU 6 x
    | none => s.trapU 6 x

/-- A live group stands in CHEAD on a channel: until the CHEAD has ended the Tug takes no record (R209). DEDUCED (log 54). -/
def State.atChead (s : State) (h : BitVec 9) : Bool := s.groups.any fun g => !g.ended && g.wait == some (.chead h)

/-- CHEAD (R209). DEDUCED (log 54). -/
def execChead (sd sa sb : SReg) (_la : La) (s : State) : Out :=
  s.withOwn (s.g.sreg sa) fun c =>
    let s := s.onChannel c.handle fun c => { c with walking := false }
    if !c.running.isEmpty then s.waitOn (.chead c.handle)
    else
      let s := c.ctails.foldl (fun s t => s.writeStatus t.op (statusWord 0x17 c.issued.toNat) (some (.upTo c.handle c.issued))) s
      let head := s.g.sreg sb
      let s := (s.onChannel c.handle fun c =>
        { c with head := some head, pos := head, tail := none, taken := [], stopped := none, walking := false
                 ctails := [] }).settleChannel c.handle
      s.done (s.g.setS sd (c.seq.setWidth 64))

/-- The share of weight that a CTAIL moves into its channel (R241). DEDUCED (log 57). -/
def State.fill (s : State) (c : Channel) (go : State → Out) (refused : State → Out) : Out :=
  if s.g.qw = 0 then go s
  else
    let r := s.greach
    let d := s.g.domain
    let s := if c.cqw != 0 && c.cdom != d then s.returnCqw c false else s
    let s := s.onChannel c.handle fun c => { c with cdom := d, borrow := if c.cdom == d then c.borrow else .idle }
    s.split.elim (fun s e =>
      let past : Bool := match s.channel? c.handle with
        | some c => 2 ^ 48 ≤ c.cqw.toNat + 2 ^ e
        | none => false
      let s := if past then (match s.channel? c.handle with | some c => s.returnCqw c false | none => s) else s
      let s := s.onChannel c.handle fun c => { c with cqw := c.cqw + BitVec.ofNat 48 (2 ^ e) }
      go (s.joinDomain r d s.g.launch)) refused

/-- A CTAIL of the group in turn makes its register pending, and is the last in its channel's order of arrival (R209).
DEDUCED (log 54). -/
def State.sendCtail (s : State) (c : Channel) (sd : SReg) (tail : Word) (la : La) (refused : Bool) (upd : Channel → Channel) : Out :=
  let op := s.fresh
  let t : CTail := { grp := s.g.key, op := op, tail := tail, num := if refused then some c.issued else none, refused := refused
                     team := s.g.team, core := s.g.core }
  let s : State := { s.fork op with fresh := op + 1, g := s.g.pend sd la op }
  let s := (s.onChannel c.handle fun c => upd { c with ctails := c.ctails ++ [t] }).settleChannel c.handle
  s.done s.g

/-- CTAIL (R209): one whose borrow is refused is answered once the records taken have completed (R220). DEDUCED (log 54). -/
def execCtail (sd sa sb : SReg) (la : La) (s : State) : Out :=
  s.withOwn (s.g.sreg sa) fun c =>
    let tail := s.g.sreg sb
    s.fill c (fun s => s.sendCtail c sd tail la false fun x =>
        let x := x.retarget
        { x with walking := x.walking && !s.atChead c.handle })
      fun s => s.sendCtail c sd tail la true id

/-- RECORD_TAKE (R208): the Tug reads the next record. DEDUCED (log 52, 54). -/
def execRecordTake (handle : BitVec 9) (s : State) : Out :=
  match s.channel? handle with
  | none => .next s
  | some c =>
    match c.seeking with
    | none => .next s
    | some t =>
      if !c.walking || !s.enginesRun c.launch t.core || 32 ≤ s.tugLoad (handleDie handle) (handleCluster handle) (handle.getLsbD 3)
      then .next s
      else
        let stop := fun (s : State) code => Host.Outcome.next ((s.onChannel handle (Channel.stop code 0)).settleChannel handle)
        if c.head.isNone || c.pos = 0 then stop s 6
        else if c.pos.toNat % 64 != 0 then stop s 3
        else
          let v := s.opView (channelTug handle) (.op t.op) t.grp c.launch t.team t.core
          match s.engineRead v c.launch 64 c.pos with
          | .wait s => .next s
          | .err s code => stop s code
          | .ok s bs =>
            if !(bs[8]?.getD 0).getLsbD 0 then stop s 4
            else
              let num := c.issued + 1
              let r : Rec := { grp := t.grp, num := num, addr := c.pos.toNat, bytes := bs, team := t.team, core := t.core, wrote := [], stage := none }
              let s := (s.unstick v).orderAfter (.op t.op) (.record handle num (recScope bs))
              .next ((s.onChannel handle fun c => Channel.retarget { c with
                issued := num
                taken := c.taken ++ [(c.pos, num)]
                pos := BitVec.ofNat 64 (field bs 0 8)
                running := c.running ++ [r] }).settleChannel handle)

/-! Records (R205–R207). -/

/-- A record whose fields are defined (R205, R206): an undefined value, or a zero field that is not zero, gives OP. -/
def recordOk (bs : List Byte) : Bool :=
  let op := byteAt bs 9
  let sc := byteAt bs 11
  byteAt bs 8 < 2 && 1 ≤ op && op ≤ 6 && byteAt bs 10 ≤ 3 && sc / 8 % 16 == 0 && sc % 8 ≤ 5 && field bs 44 4 == 0
    && (op != 6 || (field bs 24 8 < 512 && field bs 36 4 == 0))

/-- The moves of a record, its index list read; or an error, or a fault. -/
inductive Plan where
  | moves (s : State) (ms : List Move)
  | wait (s : State)
  | err (s : State) (code : Nat)

/-- The index list of a gather or scatter (R206). -/
def State.readList (s : State) (v : View) (lid : BitVec 32) (a : Word) : (n : Nat) → ERead
  | 0 => .ok s []
  | n + 1 =>
    match s.readList v lid a n with
    | .ok s bs =>
      match s.engineRead v lid 8 (a + BitVec.ofNat 64 (8 * n)) with
      | .ok s b => .ok s (bs ++ b)
      | x => x
    | x => x

/-- Byte moves of a record (R206). Op 0x06 names a core of the cluster of the core whose CTAIL had the record taken.
DEDUCED (log 52). -/
def State.plan (s : State) (v : View) (lid : BitVec 32) (bs : List Byte) : Plan :=
  let op := byteAt bs 9
  let len := field bs 12 4
  let src : Word := BitVec.ofNat 64 (field bs 16 8)
  let dst : Word := BitVec.ofNat 64 (field bs 24 8)
  let ss := field bs 32 4
  let ds := field bs 36 4
  let r := field bs 40 4
  let at_ := fun (a : Word) n => a + BitVec.ofNat 64 n
  if !recordOk bs then .err s 5
  else if (op == 2 || op == 3 || op == 4 || op == 6) && (r == 0 || len % r != 0) then .err s 7
  else
    let n := if r == 0 then 0 else len / r
    match op with
    | 1 => .moves s (rowMoves 1 len (fun _ => src) fun _ => dst)
    | 2 => .moves s (rowMoves n r (fun k => at_ src (k * ss)) fun k => at_ dst (k * ds))
    | 5 =>
      if dst.toNat % 8 != 0 || len % 8 != 0 then .err s 3
      else .moves s ((List.range len).map fun k => { src := .lit (bs[16 + k % 8]?.getD 0), dst := .mem (at_ dst k) })
    | 6 =>
      let slot := dst.toNat % 64
      let core : CoreId := { v.core with core := dst.toNat / 64 }
      if 32768 < len then .err s 7
      else if !(s.teams.any fun t => t.launch == lid && t.core == core && t.slots.contains slot) then .err s 8
      else .moves s ((List.range len).map fun k =>
        { src := .mem (at_ src (k / r * ss + k % r)), dst := .key (slotKey core slot k) })
    | _ =>
      match s.readList v lid (BitVec.ofNat 64 (field bs 32 8)) n with
      | .wait s => .wait s
      | .err s c => .err s c
      | .ok s l =>
        let idx := fun k => field l (8 * k) 8 * r
        if op == 3 then .moves s (rowMoves n r (fun k => at_ src (idx k)) fun k => at_ dst (k * r))
        else .moves s (rowMoves n r (fun k => at_ src (k * r)) fun k => at_ dst (idx k))

/-- Bytes as moves to an address. -/
def litMoves (a : Word) (bs : List Byte) : List Move :=
  (List.range bs.length).map fun i => { src := .lit (bs[i]?.getD 0), dst := .mem (a + BitVec.ofNat 64 i) }

/-- What a record's fill of a word orders before its acquires (R220): the record, where its scope covers them. -/
def State.fillOrder (s : State) (v : View) (k : Nat) : State :=
  let w := wordKey k
  match v.who with
  | some (.record h n scope) =>
    (s.newFill w).orderAfter (.record h n scope) (if 4 ≤ scope then .word w w 8 else .spot (fillSpot w) 8 scope (tugCore h))
  | _ => s.newFill w

/-- ACTION 2 (R207): the status word is stored as by STFE; the code of its failure. -/
def State.fillAction (s : State) (v : View) (arg status : Word) : State × Nat :=
  match s.steer v none arg.toNat with
  | some (.pad _ k) =>
    if k % 8 != 0 then (s, 3)
    else if s.isFull k then (s, 9)
    else (((s.opWrite v (padLoc k) (leBytes status.toNat 8)).fillOrder v k).fillWord k, 0)
  | _ => (s, 1)

/-- What the weighing of a channel's entry answers (R241): the exponent, the code of its refusal, or a borrow that it waits for. -/
inductive Weight where
  | exp (s : State) (e : Nat)
  | fail (s : State) (code : Nat)
  | wait (s : State)

/-- The borrow of a channel from its domain's root (R241), which stands at this device's Weir or behind a proxy (R376).
DEDUCED (log 57). -/
def State.channelBorrow (s : State) (c : Channel) : Weight :=
  let r := s.reachOf c.launch
  match s.root? r c.cdom, s.farRoot? r c.cdom with
  | some _, _ =>
    let q := c.cqw.toNat + borrowUnits
    let x := splitExp q
    .exp ((s.onRoot r c.cdom fun y => { y with issued := y.issued + borrowUnits }).onChannel c.handle fun c =>
      { c with cqw := BitVec.ofNat 48 (q - 2 ^ x) }) x
  | none, some dev =>
    let s : State := { s.send dev (.weirBorrow s.device r c.cdom borrowUnits c.launch s.fresh) 0 (c.handle.toNat + 1) s.fresh with
      fresh := s.fresh + 1 }
    .wait (s.onChannel c.handle fun c => { c with borrow := .asked })
  | none, none => .fail s 0x11

/-- The weight that a channel gives to an entry (R241). DEDUCED (log 57). -/
def State.channelWeight (s : State) (c : Channel) (e : Entry) : Weight :=
  if entryWexp e == 63 then .exp s 63
  else if entryDomain e != c.cdom || c.cqw == 0 then .fail s 0x12
  else if 1 < c.cqw.toNat then
    let x := splitExp c.cqw.toNat
    .exp (s.onChannel c.handle fun c => { c with cqw := c.cqw - BitVec.ofNat 48 (2 ^ x), borrow := .idle }) x
  else
    match c.borrow with
    | .asked => .wait s
    | .refused => .fail (s.onChannel c.handle fun c => { c with borrow := .idle }) 0x11
    | _ => s.channelBorrow c

/-- How a record's action ends (R207): it waits for a page or for weight, or it is done, with the code of its failure. -/
inductive Acted where
  | wait (s : State)
  | done (s : State) (code : Nat)

/-- ACTION 3 (R207): a task entry is enqueued on the owning launch's default queue; the code of its failure. -/
def State.enqueueAction (s : State) (c : Channel) (e : Entry) (r : Rec) : Acted :=
  let q := (s.desc c.launch).queue
  let reach := s.reachOf c.launch
  match s.queue? reach q with
  | none => .done s 0x0A
  | some x =>
    if badEntry e then .done s 0x0A
    else
      match s.channelWeight c e with
      | .wait s => .wait s
      | .fail s code => .done s code
      | .exp s w =>
        let y : QEntry := { reach := reach, qnum := q, e := stampEntry e w false false noLink, stamp := s.tick, place := .die x.desc.home
                            producer := c.launch, gid := 0, core := r.core, team := r.team, tok := s.fresh
                            maker := some (.record c.handle r.num (recScope r.bytes)) }
        let z := State.enqueue { s with fresh := s.fresh + 1 } y
        if z.2 == 0 then .done z.1 0 else .done (z.1.entryBack y false) 0x0A

/-- The action of a record (R207). -/
def State.action (s : State) (c : Channel) (v : View) (r : Rec) (bs : List Byte) (status : Word) : Acted :=
  let arg : Word := BitVec.ofNat 64 (field bs 48 8)
  match byteAt bs 10 with
  | 2 => let x := s.fillAction v arg status; .done x.1 x.2
  | 3 =>
    if arg.toNat % 32 != 0 then .done s 3
    else
      match s.engineRead v c.launch 32 arg with
      | .wait s => .wait s
      | .err s code => .done s code
      | .ok s b =>
        let w := fun i => BitVec.ofNat 64 (field b (8 * i) 8)
        s.enqueueAction c { w0 := w 0, w1 := w 1, w2 := w 2, w3 := w 3 } r
  | _ => .done s 0

/-- COUNT of a record's status word: its number (R201), or 0 where its LENGTH is 0 and it has no error (R222). DEDUCED (log 55). -/
def Rec.count (r : Rec) (bs : List Byte) (code : Nat) : Nat := if code == 0 && field bs 12 4 == 0 then 0 else r.num.toNat

/-- Changes a record that a channel runs. -/
def State.onRec (s : State) (h : BitVec 9) (num : BitVec 32) (f : Rec → Rec) : State :=
  s.onChannel h fun c => { c with running := updAll (fun r => r.num == num) f c.running }

/-- The record has completed with a code (R207 step 4, R208, R210). -/
def State.recordEnd (s : State) (h : BitVec 9) (num : BitVec 32) (code : Nat) : State :=
  (s.onChannel h fun c =>
    let done := num :: c.done
    let a := advance done.length c.seq done
    let c := { c with running := c.running.filter fun r => r.num != num, seq := a.1, done := a.2 }
    if code == 0 then c else c.stop code num).settleChannel h

/-- The end of a record's step 3 that has failed alone: bytes 56–63 are written again (R207). DEDUCED (log 55). -/
def State.recordRewrite (s : State) (c : Channel) (v : View) (r : Rec) (code : Nat) : State :=
  match s.moves v c.launch (litMoves (BitVec.ofNat 64 (r.addr + 56)) (leBytes (statusWord code r.num.toNat).toNat 8)) with
  | .wait s => s.onRec c.handle r.num fun r => { r with stage := some (.acted code) }
  | .done s _ _ => s.recordEnd c.handle r.num code

/-- Steps 3 and 4 of R207, after step 2 with the code of step 1. DEDUCED (log 55). -/
def State.recordAct (s : State) (c : Channel) (v : View) (r : Rec) (bs : List Byte) (code : Nat) : State :=
  match s.action c v r bs (statusWord code (r.count bs code)) with
  | .wait s => s.onRec c.handle r.num fun r => { r with stage := some (.stored code) }
  | .done s code2 =>
    let s := s.unstick v
    if code2 == 0 || code != 0 then s.recordEnd c.handle r.num code else s.recordRewrite c v r code2

/-- Steps 2 to 4 of R207, after the moves have ended with a code. DEDUCED (log 55). -/
def State.recordFinish (s : State) (c : Channel) (v : View) (r : Rec) (bs : List Byte) (code : Nat) : State :=
  let a : Word := BitVec.ofNat 64 r.addr
  let status := if byteAt bs 10 == 0 then [] else litMoves (a + 56) (leBytes (statusWord code (r.count bs code)).toNat 8)
  match s.moves v c.launch (status ++ litMoves (a + 8) [0]) with
  | .wait s => s.onRec c.handle r.num fun r => { r with stage := some (.moved code) }
  | .done s code1 _ => s.recordAct c v r bs (if code == 0 then code1 else code)

/-- Whose accesses those of a record are (R200, R218). -/
def State.recView (s : State) (c : Channel) (r : Rec) : View :=
  s.opView (channelTug c.handle) (.record c.handle r.num (recScope r.bytes)) r.grp c.launch r.team r.core

/-- The bytes that a record is performed with: of each that was rewritten since the record was taken, the old or the new one, as every
byte is read by itself (R209, R218). DEDUCED (log 55). -/
def State.recBytes (s : State) (c : Channel) (r : Rec) : List Byte :=
  match s.engineRead (s.recView c r) c.launch 64 (BitVec.ofNat 64 r.addr) with
  | .ok _ b => (List.range r.bytes.length).map fun i =>
    if Config.freeBit s.tick (2 ^ 70 + i) then r.bytes.getD i 0 else b.getD i 0
  | _ => r.bytes

/-- A record writes a granule before it completes (R218, R327). -/
def State.recordGranule (s : State) (h : BitVec 9) (num : BitVec 32) (g : Nat) : State :=
  match (s.channel? h).bind fun c => (c.running.find? fun r => r.num == num).map fun r => (c, r) with
  | none => s
  | some (c, r) =>
    let v := s.recView c r
    if !s.enginesRun c.launch r.core || r.stage.isSome then s
    else
      match s.plan v c.launch r.bytes with
      | .moves s ms =>
        match s.moveGranule v ms r.wrote g with
        | none => s
        | some s => s.onRec h num fun r => { r with wrote := g :: r.wrote }
      | _ => s

/-- RECORD_COMPLETION (R207): what has been done of its four steps is not done again. DEDUCED (log 55). -/
def execRecordCompletion (handle : BitVec 9) (num : BitVec 32) (s : State) : Out :=
  match s.channel? handle with
  | none => .next s
  | some c =>
    match c.running.find? fun r => r.num == num with
    | none => .next s
    | some r =>
      if !s.enginesRun c.launch r.core then .next s
      else
        let v := s.recView c r
        let bs := if r.wrote.isEmpty then s.recBytes c r else r.bytes
        match r.stage with
        | some (.moved code) => .next (s.recordFinish c v r bs code)
        | some (.stored code) => .next (s.recordAct c v r bs code)
        | some (.acted code) => .next (s.recordRewrite c v r code)
        | none =>
          match s.plan v c.launch bs with
          | .wait s => .next s
          | .err s code => .next (s.recordFinish c v r bs code)
          | .moves s ms =>
            match s.moves v c.launch ms r.wrote with
            | .wait s => .next s
            | .done s code _ => .next (s.recordFinish c v r bs code)

/-- CHANNEL_ASSIGN (R204). -/
def execChannelAssign (handle : BitVec 9) (lid : BitVec 32) (s : State) : Out :=
  if 5 ≤ handleCluster handle || (s.channel? handle).isSome || !s.isLive lid then .next (s.reply 1)
  else .next (State.reply { s with channels := s.channels ++ [{ handle := handle, launch := lid, head := none, pos := 0, tail := none
                                                                taken := [], issued := 0, seq := 0, stopped := none
                                                                walking := false, running := [], done := [], ctails := []
                                                                cqw := 0, cdom := 0, borrow := .idle }] } 0)

/-- WAITSEQ (R211). DEDUCED (log 56). -/
def execWaitseq (sa sb : SReg) (s : State) : Out :=
  s.withChannel (s.g.sreg sa) fun h c => match c with
    | none => s.trapU 0x0D (waitInfo 0 4 0 (classCode (s.effective s.g.launch)) 0)
    | some c =>
      let n : BitVec 32 := (s.g.sreg sb).setWidth 32
      if reached c.seq n then
        let s := s.joinUpTo s.g h n
        s.done s.g
      else if s.reachOf c.launch != s.greach then s.waitOn (.seq h n)
      else if c.dead then s.trapU 0x1E c.stopInfo
      else s.waitOn (.seq h n)

/-- YIELD (R213): its run ends and the PC is at the label, where the group waits until its register has been written. -/
def execYield (sd : SReg) (off : BitVec 19) (s : State) : Out :=
  if s.g.pendS.any fun p => p.reg == sd then
    s.jumpWait s.g (branchTo s.g.pc off) (.yielded sd)
  else s.jump s.g (branchTo s.g.pc off)

/-! Collectives (R214–R216). -/

/-- A COLL of a launch with a tag, on a die whose members have been found to disagree before it issued (R214). DEDUCED (log 58). -/
def State.collLate (s : State) (lid : BitVec 32) (tag : Word) (die : Nat) : Bool :=
  s.collsBad.any fun x => x.1 == lid && x.2.1 == tag && x.2.2.contains die

/-- That COLL has had its status. -/
def State.collTold (s : State) (lid : BitVec 32) (tag : Word) (die : Nat) : State :=
  { s with collsBad := (s.collsBad.map fun x =>
      if x.1 == lid && x.2.1 == tag then (x.1, x.2.1, x.2.2.filter (· != die)) else x).filter fun x => !x.2.2.isEmpty }

/-- COLL (R214): a second one with the tag on one die gives MISMATCH, and so does one whose members have disagreed already. -/
def execColl (k : CollKind) (sd sa sb : SReg) (la : La) (s : State) : Out :=
  let tag := s.g.sreg sb
  let die := s.g.core.die
  if s.colls.any fun c => c.launch == s.g.launch && c.tag == tag && c.core.die == die then
    s.done (s.g.setS sd (statusWord 0x0C 0))
  else if s.collLate s.g.launch tag die then
    let s := s.collTold s.g.launch tag die
    s.done (s.g.setS sd (statusWord 0x0C 0))
  else
    let op := s.fresh
    let c : Coll := { grp := s.g.key, op := op, launch := s.g.launch, team := s.g.team, core := s.g.core, kind := k, tag := tag
                      desc := s.g.sreg sa, wrote := [] }
    State.done { s.fork op with fresh := op + 1, colls := s.colls ++ [c] } (s.g.pend sd la op)

/-- A member's descriptor as the engine has read it (R214). -/
structure CDesc where
  src : Word
  dst : Word
  count : Nat
  type : Nat
  redop : Nat
  root : Nat
  members : List (Nat × Nat)
  /-- Bytes 16–35 apart from the table address. -/
  same : List Byte
  deriving DecidableEq, Repr

/-- What a member's descriptor gives: an error, a fault, or the descriptor. -/
inductive CRead where
  | ok (s : State) (d : CDesc)
  | wait (s : State)
  | err (s : State) (code : Nat)

/-- Fields of a descriptor that are not defined (R214). DEDUCED (log 58). -/
def collBad (k : CollKind) (bs : List Byte) : Bool :=
  let copies := k == .allGather || k == .broadcast
  2 < byteAt bs 20 || 2 < byteAt bs 21 || (copies && byteAt bs 21 != 0) || (k != .broadcast && field bs 22 2 != 0)
    || 1 < byteAt bs 34 || (List.range 29).any (fun i => byteAt bs (35 + i) != 0)
    || field bs 32 2 < 2 || 1024 < field bs 32 2 || (k == .broadcast && field bs 32 2 ≤ field bs 22 2)

/-- Whose accesses those of a member's operation are (R200, R218). -/
def State.collView (s : State) (c : Coll) : View := s.opView (.collective c.core.die) (.op c.op) c.grp c.launch c.team c.core

/-- The engine reads a member's descriptor and table. DEDUCED (log 58). -/
def State.readColl (s : State) (c : Coll) : CRead :=
  let v := s.collView c
  if c.desc.toNat % 64 != 0 then .err s 3
  else
    match s.engineRead v c.launch 64 c.desc with
    | .wait s => .wait s
    | .err s e => .err s e
    | .ok s bs =>
      if collBad c.kind bs then .err s 5
      else if field bs 24 8 % 8 != 0 then .err s 3
      else
        match s.readList v c.launch (BitVec.ofNat 64 (field bs 24 8)) (field bs 32 2) with
        | .wait s => .wait s
        | .err s e => .err s e
        | .ok s tb =>
          let es := (List.range (field bs 32 2)).map fun i => field tb (8 * i) 8
          let ms := es.map fun e => (e / 256 % 256, e % 4)
          let mine := fun d => s.teams.any fun t => t.launch == c.launch && t.core.die == d && t.at_ != .ended
          let here := s.device.toNat
          if es.any fun e => e / 65536 != 0 || e % 256 / 4 != 0 then .err s 5
          else if (ms.filter fun m => m == (here, c.core.die)).length != 1 || ms.any fun m => m.1 == here && !mine m.2 then .err s 0x0C
          else if c.kind == .reduceScatter && field bs 16 4 % field bs 32 2 != 0 then .err s 7
          else .ok s { src := BitVec.ofNat 64 (field bs 0 8), dst := BitVec.ofNat 64 (field bs 8 8), count := field bs 16 4
                       type := byteAt bs 20, redop := byteAt bs 21, root := field bs 22 2, members := ms
                       same := (bs.drop 16).take 8 ++ (bs.drop 32).take 4 }

/-- Bytes of an element (R214). -/
def collBytes (type : Nat) : Nat := if type == 1 then 2 else 4

/-- A full binary tree of additions over contributions, in the order that the free choice gives (R215). -/
def treeAdd (add : Nat → Nat → Nat) (pick : Nat → Nat) : (n : Nat) → List Nat → Nat
  | 0, l => l.headD 0
  | n + 1, l =>
    let i := pick (2 * n) % l.length
    let a := l.getD i 0
    let l1 := l.eraseIdx i
    if l1.isEmpty then a
    else
      let j := pick (2 * n + 1) % l1.length
      treeAdd add pick n (add a (l1.getD j 0) :: l1.eraseIdx j)

/-- The reduction of one element over the members (R215). -/
def reduceOne (tick elem type redop : Nat) (xs : List Nat) : Nat :=
  let fold := fun f => match xs with
    | [] => 0
    | x :: r => r.foldl f x
  let fmt := if type == 1 then bf16 else fp32
  match redop, type with
  | 0, 2 => xs.foldl (fun a b => (a + b) % 2 ^ 32) 0
  | 0, 0 => treeAdd (fun a b => (fp32.add rne a b).1) (Config.collTree tick elem) xs.length xs
  | 0, _ =>
    let r := treeAdd (fun a b => (fp32.add rne a b).1) (Config.collTree tick elem) xs.length (xs.map (· * 65536))
    (cvtFF fp32 bf16 rne r).1
  | 1, 2 => fold fun a b => if sval 32 b < sval 32 a then b else a
  | 1, _ => fold fun a b => (fmt.minMax false a b).1
  | _, 2 => fold fun a b => if sval 32 a < sval 32 b then b else a
  | _, _ => fold fun a b => (fmt.minMax true a b).1

/-- An address of a collective (R214): the global window or a die scratchpad window. -/
def collWindow (a : Word) : Bool := a.toNat / 2 ^ 56 == 0 || a.toNat / 2 ^ 56 == 2

/-- The addresses of an element of a member's contribution. -/
def elemAddrs (d : CDesc) (i : Nat) : List Word :=
  (List.range (collBytes d.type)).map fun b => d.src + BitVec.ofNat 64 (i * collBytes d.type + b)

/-- The bytes of a member's contribution, as moves without a destination of their own. -/
def CDesc.reads (d : CDesc) : List Move :=
  (List.range (d.count * collBytes d.type)).map fun i => { src := .mem (d.src + BitVec.ofNat 64 i), dst := .mem d.dst }

/-- The member of this device with a rank. -/
def State.memberAt (s : State) (all : List (Coll × CDesc)) (ms : List (Nat × Nat)) (rank : Nat) : Option (Coll × CDesc) :=
  all.find? fun x => ms.getD rank (0, 0) == (s.device.toNat, x.1.core.die)

/-- An element of the contribution of a rank. A member on another device, or one whose bytes cannot be read, supplies free values.
DEDUCED (log 58). -/
def State.contribution (s : State) (all : List (Coll × CDesc)) (d : CDesc) (rank i : Nat) : Nat :=
  match s.memberAt all d.members rank with
  | some x =>
    let v := s.collView x.1
    leNat ((elemAddrs x.2 i).map fun a => match (s.engineHit v .eread a).loc? with
      | some l => s.opByte v l
      | none => (Config.freeWord s.tick a.toNat).setWidth 8)
  | none => (Config.freeWord s.tick (2 ^ 32 * (rank + 1) + i)).toNat % 256 ^ collBytes d.type

/-- The element of a rank's contribution is poisoned. -/
def State.contribBad (s : State) (all : List (Coll × CDesc)) (d : CDesc) (rank i : Nat) : Bool :=
  match s.memberAt all d.members rank with
  | some x => (elemAddrs x.2 i).any fun a => match (s.engineHit (s.collView x.1) .eread a).loc? with
    | some l => s.poisoned l.key 1
    | none => false
  | none => false

/-- Of each element that the member of rank `r` receives: the rank and the element of every contribution to it (R215). -/
def collSources (k : CollKind) (d : CDesc) (r : Nat) : List (List (Nat × Nat)) :=
  let m := d.members.length
  let whole := fun i => (List.range m).map fun q => (q, i)
  match k with
  | .allReduce => (List.range d.count).map whole
  | .reduceScatter => (List.range (d.count / m)).map fun i => whole (r * (d.count / m) + i)
  | .allGather => (List.range m).flatMap fun q => (List.range d.count).map fun i => [(q, i)]
  | .broadcast => (List.range d.count).map fun i => [(d.root, i)]

/-- What the member of rank `r` receives (R215), of contributions by rank and element. -/
def delivered (tick : Nat) (k : CollKind) (d : CDesc) (cs : Nat → Nat → Nat) (r : Nat) : List Nat :=
  (collSources k d r).map fun src =>
    let xs := src.map fun x => cs x.1 x.2
    match k with
    | .allReduce | .reduceScatter => reduceOne tick (src.headD (0, 0)).2 d.type d.redop xs
    | _ => xs.headD 0

/-- The code with which a member's bytes fail. -/
def State.collCode (s : State) (c : Coll) (d : CDesc) (n : Nat) : Nat :=
  let v := s.collView c
  let w := collBytes d.type
  if !collWindow d.src || !collWindow d.dst then 1
  else
    let a := (List.range (d.count * w)).map fun i => hitCode (s.engineHit v .eread (d.src + BitVec.ofNat 64 i))
    let b := (List.range (n * w)).map fun i => hitCode (s.engineHit v .ewrite (d.dst + BitVec.ofNat 64 i))
    ((a ++ b).find? (· != 0)).getD 0

/-- A page that a member's bytes wait for. -/
def State.collAbsent (s : State) (c : Coll) (d : CDesc) (n : Nat) : Option (Acc × Hit) :=
  let v := s.collView c
  let w := collBytes d.type
  let at_ := fun acc (a : Word) => match s.engineHit v acc a with
    | .held x va => some (acc, Hit.held x va)
    | .lost d false => some (acc, Hit.lost d false)
    | _ => none
  ((List.range (d.count * w)).findSome? fun i => at_ .eread (d.src + BitVec.ofNat 64 i)).orElse fun _ =>
    (List.range (n * w)).findSome? fun i => at_ .ewrite (d.dst + BitVec.ofNat 64 i)

/-- How many elements a member receives (R215). -/
def deliveredCount (k : CollKind) (d : CDesc) : Nat :=
  match k with
  | .reduceScatter => d.count / d.members.length
  | .allGather => d.count * d.members.length
  | _ => d.count

/-- The members' operations end, each with a code and a count. -/
def State.endColls (s : State) (cs : List (Coll × Nat × Nat)) : State :=
  cs.foldl (fun s c =>
    State.writeStatus { s with colls := s.colls.filter fun x => x.op != c.1.op } c.1.op (statusWord c.2.1 c.2.2) (some (.op c.1.op))) s

/-- The members disagree: those that have issued end, and those of this device that have not are told when they issue (R214); where no
descriptor could be read, they are the dies on which the launch has teams. DEDUCED (log 58). -/
def State.endBad (s : State) (lid : BitVec 32) (tag : Word) (cs : List (Coll × Nat × Nat)) (ds : List CDesc) : State :=
  let named := (ds.flatMap CDesc.members).filterMap fun m => if m.1 == s.device.toNat then some m.2 else none
  let hosts := (s.teams.filter fun t => t.launch == lid && t.at_ != .ended).map fun t => t.core.die
  let dies := ((if ds.isEmpty then hosts else named).filter fun d => !(cs.any fun c => c.1.core.die == d)).eraseDups
  let s := s.endColls cs
  if dies.isEmpty then s else { s with collsBad := (lid, tag, dies) :: s.collsBad }

/-- The seed of a collective's trees (R215): of each element one tree, in whatever order its granules are written. -/
def collSeed (good : List (Coll × CDesc)) : Nat := ((good.head?).map fun x => x.1.op).getD 0

/-- The rank of a member of this device. -/
def State.collRank (s : State) (d : CDesc) (c : Coll) : Nat := d.members.findIdx (· == (s.device.toNat, c.core.die))

/-- The elements that a member receives, each with its poison (R215, R312). -/
def State.collResult (s : State) (good : List (Coll × CDesc)) (d0 : CDesc) (k : CollKind) (c : Coll) : List (Nat × Bool) :=
  let r := s.collRank d0 c
  (delivered (collSeed good) k d0 (s.contribution good d0) r).zip
    ((collSources k d0 r).map fun src => src.any fun x => s.contribBad good d0 x.1 x.2)

/-- A member's result at its homes; a byte of its destination that is one of its source's too ends as some byte of the source (R222).
DEDUCED (log 58). -/
def State.collFound (s : State) (c : Coll) (d : CDesc) (xs : List (Nat × Bool)) : List Found :=
  let v := s.collView c
  let bs := xs.flatMap fun x => (leBytes x.1 (collBytes d.type)).map fun b => (b, x.2)
  let locs := d.reads.filterMap fun m => (m.srcHit s v).bind Hit.loc?
  (List.range bs.length).filterMap fun i =>
    ((s.engineHit v .ewrite (d.dst + BitVec.ofNat 64 i)).loc?).map fun l =>
      let val := if locs.any fun x => x.key == l.key then
          ((locs[(Config.freeWord s.tick (2 * l.key)).toNat % locs.length]?).map (s.opByte v)).getD 0
        else (bs.getD i (0, false)).1
      { loc := l, val := val, bad := (bs.getD i (0, false)).2 : Found }

/-- A member's result goes to its destination (R215), where it has not been written yet. With an error, or with poison, each granule is
written in full or not at all by a free choice, and one that takes a poisoned element is written poisoned (R312).
DESIGN CHOICE (log 17); DEDUCED (log 58). -/
def State.deliverColl (s : State) (c : Coll) (d : CDesc) (xs : List (Nat × Bool)) (code : Nat) : State :=
  let v := s.collView c
  let fs := (s.collFound c d xs).filter fun f => !c.wrote.contains (granule64 f.loc.key)
  let bad := (fs.filter Found.bad).map fun f => granule64 f.loc.key
  let all := code == 0 && bad.isEmpty
  (s.readSources v d.reads).commit v
    (if all then fs else fs.filter fun f => (code == 0 && bad.contains (granule64 f.loc.key)) || Config.freeBit s.tick (granule64 f.loc.key))

/-- The results of a collective whose members have all issued, agree, and reach their pages (R215, R216). -/
def State.finishColl (s : State) (good : List (Coll × CDesc)) (d0 : CDesc) (k : CollKind) : State :=
  let n := deliveredCount k d0
  let codes := good.map fun r => (r, s.collCode r.1 r.2 n)
  let fails := codes.any fun x => x.2 != 0
  let bad := good.any fun x => (List.range x.2.count).any fun i => s.contribBad good d0 (s.collRank d0 x.1) i
  let t := codes.foldl (fun t x => t.deliverColl x.1.1 x.1.2 (s.collResult good d0 k x.1.1) (if fails then 1 else 0)) s
  let t := good.foldl (fun t x => t.unstick (s.collView x.1)) t
  let far := ((d0.members.map fun m => BitVec.ofNat 8 m.1).filter (· != s.device)).eraseDups
  let t := good.foldl (fun t x => far.foldl (fun t dev => t.sendFlits x.1.core.die x.1.launch 3 dev) t) t
  t.endColls (codes.map fun x =>
    let code := if x.2 != 0 then x.2 else if fails then 0x0C else if bad then 0x16 else 0
    (x.1.1, code, if code == 0 then n else 0))

/-- Where a collective stands: it waits, it has ended with an error, or its members have all issued, agree and reach their pages. -/
inductive CollAt where
  | next (s : State)
  | go (s : State) (good : List (Coll × CDesc)) (d0 : CDesc) (k : CollKind)

/-- The members of a collective on this device are looked at (R214, R216). It is suspended while a member's device is under recovery
(R323). DEDUCED (log 58). -/
def State.collAt (s : State) (lid : BitVec 32) (tag : Word) : CollAt :=
  let mine := s.colls.filter fun c => c.launch == lid && c.tag == tag
  let step := mine.foldl (fun (acc : Option State × List (Coll × Nat × Nat) × List (Coll × CDesc) × State) c =>
    match acc.2.2.2.readColl c with
    | .wait s => (acc.1.orElse fun _ => some s, acc.2)
    | .err s e => (acc.1, acc.2.1 ++ [(c, e, 0)], acc.2.2.1, s)
    | .ok s d => (acc.1, acc.2.1, acc.2.2.1 ++ [(c, d)], s)) (none, [], [], s)
  match step with
  | (some s, _) => .next s
  | (none, errs, good, s) =>
    let ds := good.map Prod.snd
    if !errs.isEmpty then .next (s.endBad lid tag (errs ++ good.map fun r => (r.1, 0x0C, 0)) ds)
    else
      match good with
      | [] => .next s
      | (c0, d0) :: _ =>
        let here := d0.members.filter fun m => m.1 == s.device.toNat
        let remote := here.length != d0.members.length
        let mismatch := good.any fun r => r.2.same != d0.same || r.2.members != d0.members || r.1.kind != c0.kind
        let written := good.any fun r => !r.1.wrote.isEmpty
        if d0.members.any fun m => s.recovering.contains (BitVec.ofNat 8 m.1) then .next s
        else if mismatch || (remote && !written && Config.freeBit s.tick 3) then
          .next (s.endBad lid tag (good.map fun r => (r.1, 0x0C, 0)) ds)
        else if d0.members.any fun m => s.lost.contains (BitVec.ofNat 8 m.1) then
          .next (s.endColls (good.map fun r => (r.1, 0x0B, 0)))
        else if here.any fun m => !(good.any fun r => r.1.core.die == m.2) then .next s
        else
          match good.findSome? fun r => (s.collAbsent r.1 r.2 (deliveredCount c0.kind d0)).map fun x => (r.1, x) with
          | some (c, acc, h) => .next (s.engineFault (s.collView c) lid acc h)
          | none => .go s good d0 c0.kind

/-- COLL_COMPLETION (R215, R216): when every member of this device has issued, whether the reach is halted or not (R327); members on other
devices contribute free values, and may disagree. DEDUCED (log 58). -/
def execCollCompletion (lid : BitVec 32) (tag : Word) (s : State) : Out :=
  match s.collAt lid tag with
  | .next s => .next s
  | .go s good d0 k => .next (s.finishColl good d0 k)

/-- A member's operation writes a granule before the collective completes (R218): of whole elements. DEDUCED (log 58). -/
def State.collGranule (s : State) (op g : Nat) : State :=
  match s.colls.find? fun c => c.op == op with
  | none => s
  | some c =>
    match s.collAt c.launch c.tag with
    | .next _ => s
    | .go t good d0 k =>
      match good.find? fun x => x.1.op == op with
      | none => s
      | some x =>
        let v := t.collView c
        let fs := (t.collFound c x.2 (t.collResult good d0 k c)).filter fun f => granule64 f.loc.key == g
        if c.wrote.contains g || fs.isEmpty || fs.any Found.bad || x.2.dst.toNat % collBytes x.2.type != 0
            || good.any fun r => t.collCode r.1 r.2 (deliveredCount k d0) != 0 then s
        else
          let t := (t.readSources v x.2.reads).commit v fs
          { t with colls := updAll (fun y => y.op == op) (fun y => { y with wrote := g :: y.wrote }) t.colls }

/-- The classes that the moves of a record cross, those of its index list too (R206, R217). DESIGN CHOICE (log 59). -/
def State.recClasses (s : State) (v : View) (lid : BitVec 32) (bs : List Byte) : List Nat :=
  let r := field bs 40 4
  let list : Word := BitVec.ofNat 64 (field bs 32 8)
  let lists := if byteAt bs 9 == 3 || byteAt bs 9 == 4 then
      (List.range (if r == 0 then 0 else field bs 12 4 / r)).flatMap fun k => s.classesOf v (list + BitVec.ofNat 64 (8 * k))
    else []
  match s.plan v lid bs with
  | .moves _ ms => lists ++ s.moveClasses v ms
  | _ => lists

/-- The classes that the scheduled records of a chain cross (R217), from an address up to the tail or to the end of what the Tug would take
(R208); `seen` are the addresses that have been looked at. DESIGN CHOICE (log 59). -/
def State.chainClasses (s : State) (v : View) (lid : BitVec 32) (tail : Word) : (n : Nat) → (seen : List Word) → Word → List Nat
  | 0, _, _ => []
  | n + 1, seen, a =>
    if a = 0 || seen.contains a then []
    else
      match s.engineRead v lid 64 a with
      | .ok _ bs =>
        if !(bs[8]?.getD 0).getLsbD 0 then []
        else
          (if byteAt bs 11 / 128 == 1 then s.recClasses v lid bs else []) ++
            if a = tail then [] else s.chainClasses v lid tail n (a :: seen) (BitVec.ofNat 64 (field bs 0 8))
      | _ => []

/-- The classes that scheduled work of an instruction crosses. DESIGN CHOICE (log 59). -/
def State.schedClasses (s : State) (i : Instr) : List Nat :=
  let v := s.engineView s.g.launch s.g.team s.g.core
  match i with
  | .cpy _ sa sb true _ => s.moveClasses v (rowMoves 1 (s.g.sregAt sb 1).toNat (fun _ => s.g.sreg sa) fun _ => s.g.sreg sb)
  | .tmove _ sa sb true _ =>
    let a := s.g.sregAt sa 1
    let b := s.g.sregAt sb 1
    s.moveClasses v (rowMoves (b.toNat / 2 ^ 32) (a.toNat / 2 ^ 32)
      (fun r => s.g.sreg sa + BitVec.ofNat 64 (r * (a.toNat % 2 ^ 32))) fun r => s.g.sreg sb + BitVec.ofNat 64 (r * (b.toNat % 2 ^ 32)))
  | .ctail _ sa sb _ =>
    match s.channel? ((s.g.sreg sa).setWidth 9) with
    | some c => if c.launch == s.g.launch && c.stopped.isNone && !(c.taken.any fun x => x.1 == s.g.sreg sb) then s.chainClasses v c.launch (s.g.sreg sb) (2 ^ 58) [] c.pos
      else []
    | none => []
  | .coll k _ sa _ _ =>
    match s.engineRead v s.g.launch 64 (s.g.sreg sa) with
    | .ok _ bs =>
      let n := field bs 16 4
      let m := field bs 32 2
      let got := match k with
        | .reduceScatter => n / m
        | .allGather => n * m
        | _ => n
      let ends := fun (i n : Nat) => (List.range (n * collBytes (byteAt bs 20))).flatMap fun j =>
        match s.steer v none (BitVec.ofNat 64 (field bs i 8 + j)).toNat with
        | some (.main _) => [3]
        | some (.pad (.die d) _) => if d == v.core.die then [] else [2]
        | _ => []
      if byteAt bs 34 % 2 == 1 then 2 :: (ends 0 n ++ ends 8 got) else []
    | _ => []
  | _ => []

/-- The slot hazard of an instruction (R217). DESIGN CHOICE (log 59). -/
def State.slotHazard (s : State) (i : Instr) : Option Word := s.slotHazardIn s.g.launch (s.schedClasses i)

end Sys2Proof.Machine
end

