-- ==== Sys2Proof/Machine/Tensor.lean ====
section
/-! DEFINITION. Tensor descriptors and layouts (R257–R261), shape slots (R262–R265), TLOAD and TSTORE (R266–R268), RELAYOUT and the
Dredger (R269–R275). -/
namespace Sys2Proof.Machine

/-! Descriptors. -/

/-- Bits of an element type (R257). -/
def typeBits (t : Nat) : Nat := [8, 16, 32, 64, 32, 16, 16, 8, 8, 4, 4].getD t 8
/-- Bytes that hold an element. -/
def typeBytes (t : Nat) : Nat := if typeBits t == 4 then 1 else typeBits t / 8
/-- E: the elements of 8 bytes. -/
def perWord (t : Nat) : Nat := 64 / typeBits t

/-- The byte offset of the first field that makes 64 bytes no valid descriptor (R258, R267): of an extent its own offset, and of scaled
blocks of wide elements that of the tag byte. DEDUCED (log 60). -/
def descFault (bs : List Byte) : Option Nat :=
  let rank := byteAt bs 17
  let ext := fun k => field bs (20 + 4 * k) 4
  let narrow := typeBits (byteAt bs 16) ≤ 8
  let conv := byteAt bs 46 % 2 == 1
  let onB := byteAt bs 46 / 2 % 2 == 1
  let checks : List (Nat × Bool) :=
    [(0, field bs 0 8 % 64 == 0 && (conv || !onB || field bs 0 8 == 0)), (8, field bs 8 8 % 64 == 0 && (conv || onB || field bs 8 8 == 0)), (16, byteAt bs 16 ≤ 10), (17, 1 ≤ rank && rank ≤ 4)
    , (18, byteAt bs 18 ≤ 5 && (byteAt bs 18 != 4 || field bs 0 8 == 0 || narrow))
    , (19, byteAt bs 19 ≤ 5 && (byteAt bs 19 != 4 || field bs 8 8 == 0 || narrow))]
    ++ ((List.range 4).map fun k => (20 + 4 * k, if k < rank then 1 ≤ ext k && ext k ≤ 65536 else ext k == 0))
    ++ [(36, field bs 36 8 % 8 == 0 && field bs 36 8 < 2 ^ 56), (44, field bs 44 2 == 0x0077), (46, field bs 46 2 < 4)
    , (48, field bs 48 8 == 0 && field bs 56 8 == 0)]
  (checks.find? fun c => !c.2).map Prod.fst

/-- The descriptor that valid bytes hold. -/
def descOf (bs : List Byte) : Desc :=
  { baseA := field bs 0 8, baseB := field bs 8 8, type := byteAt bs 16, rank := byteAt bs 17, tagA := byteAt bs 18, tagB := byteAt bs 19
    ext := (List.range 4).map fun k => field bs (20 + 4 * k) 4, dir := field bs 36 8
    conv := byteAt bs 46 % 2 == 1, side := byteAt bs 46 / 2 % 2 == 1 }

/-- The bytes of a descriptor. -/
def descBytes (d : Desc) : List Byte :=
  leBytes d.baseA 8 ++ leBytes d.baseB 8 ++ leBytes d.type 1 ++ leBytes d.rank 1 ++ leBytes d.tagA 1 ++ leBytes d.tagB 1
    ++ (List.range 4).flatMap (fun k => leBytes (d.ext.getD k 0) 4) ++ leBytes d.dir 8 ++ leBytes 0x0077 2
    ++ leBytes ((if d.conv then 1 else 0) + if d.side then 2 else 0) 2 ++ List.replicate 16 0

/-- Ek (R258). -/
def Desc.e (d : Desc) (k : Nat) : Nat := if k < d.rank then d.ext.getD k 0 else 1
/-- ck. -/
def coord (c : List Nat) (k : Nat) : Nat := c.getD k 0
/-- The plane of a coordinate (R258). -/
def Desc.plane (d : Desc) (c : List Nat) : Nat := coord c 2 + d.e 2 * coord c 3
/-- S0. -/
def Desc.s0 (d : Desc) : Nat := (d.e 0 + 127) / 128
/-- S1. -/
def Desc.s1 (d : Desc) : Nat := (d.e 1 + 127) / 128
/-- N, the number of slabs (R259). -/
def Desc.slabs (d : Desc) : Nat := d.s0 * d.s1 * d.e 2 * d.e 3
/-- The slab of a coordinate (R259). -/
def Desc.slab (d : Desc) (c : List Nat) : Nat := coord c 0 / 128 + d.s0 * (coord c 1 / 128 + d.s1 * d.plane c)

/-- n rounded up to a multiple of m. -/
def roundUp (m n : Nat) : Nat := (n + m - 1) / m * m

/-- Bytes of a KBLK32 block: 32 elements and the scale word (R260). -/
def blockBytes (d : Desc) : Nat := 4 * typeBits d.type + 8

/-- The position of an element under a tag, in bits from the base of its side (R260). -/
def Desc.pos (d : Desc) (tag : Nat) (c : List Nat) : Nat :=
  let b := typeBits d.type
  let c0 := coord c 0
  let c1 := coord c 1
  let h := d.plane c
  let row := c1 + d.e 1 * h
  let tile := fun t => b * (t * t * (c0 / t + roundUp t (d.e 0) / t * (c1 / t + roundUp t (d.e 1) / t * h)) + t * (c1 % t) + c0 % t)
  match tag with
  | 0 => b * (c0 + d.e 0 * row)
  | 1 => b * (c1 + d.e 1 * (c0 + d.e 0 * h))
  | 2 => tile 16
  | 3 => tile 128
  | 4 => 8 * blockBytes d * (row * ((d.e 0 + 31) / 32) + c0 / 32) + 64 + b * (c0 % 32)
  | _ =>
    let rb := (d.e 0 * b + 1023) / 1024 * 128
    let x := b * c0
    8 * (row * rb + 128 * (x / 1024) + 8 * (x % 1024 / 64 ^^^ row % 16)) + x % 64

/-- The base of a side. -/
def Desc.base (d : Desc) (side : Bool) : Nat := if side then d.baseB else d.baseA
/-- The tag of a side. -/
def Desc.tag (d : Desc) (side : Bool) : Nat := if side then d.tagB else d.tagA
/-- The address of the first byte of an element on a side, and the bit in it at which the element begins. -/
def Desc.at_ (d : Desc) (side : Bool) (c : List Nat) : Word × Nat :=
  let p := d.pos (d.tag side) c
  (BitVec.ofNat 64 (d.base side + p / 8), p % 8)

/-- The end of a side's footprint from its base, in bytes (R260): the byte that follows the furthest one that an element reaches. In each
layout but SWZ the last coordinate reaches furthest; there it is some 8-byte word of the last 128 bytes of the last row. -/
def Desc.reaches (d : Desc) (side : Bool) : Nat :=
  let last := [d.e 0 - 1, d.e 1 - 1, d.e 2 - 1, d.e 3 - 1]
  let b := typeBits d.type
  if d.tag side == 5 then
    let row := d.e 1 * d.e 2 * d.e 3 - 1
    let x := b * (d.e 0 - 1)
    let w := x % 1024 / 64
    row * ((d.e 0 * b + 1023) / 1024 * 128) + 128 * (x / 1024)
      + (List.range w).foldl (fun m k => max m (8 * (k ^^^ row % 16) + 8)) (8 * (w ^^^ row % 16) + (x % 64 + b + 7) / 8)
  else (d.pos (d.tag side) last + b + 7) / 8

/-- Every byte of a side's footprint lies below the end of the global window (R260, R269). DEDUCED (log 60). -/
def Desc.inWindow (d : Desc) (side : Bool) : Bool := d.base side + d.reaches side ≤ 2 ^ 56

/-! Resolution (R261). -/

/-- An element's place, or what stands in the way of finding it. -/
inductive Place1 where
  | ok (a : Word) (bit : Nat)
  | hit (a : Word) (h : Hit)

/-- The directory byte of an element, where its descriptor has a conversion (R259, R261). -/
def State.dirHit (s : State) (v : View) (d : Desc) (c : List Nat) : Option (Word × Hit) :=
  if d.conv then
    let a : Word := BitVec.ofNat 64 (d.dir + d.slab c / 8)
    some (a, s.hitAt v none .eread a)
  else none

/-- The place of an element for a view, at this moment. -/
def State.resolve (s : State) (v : View) (d : Desc) (c : List Nat) : Place1 :=
  let go := fun side => Place1.ok (d.at_ side c).1 (d.at_ side c).2
  match s.dirHit v d c with
  | none => go d.side
  | some (_, .ok _ l) => go (if (s.homeByte l 0).getLsbD (d.slab c % 8) then d.side else !d.side)
  | some (a, h) => .hit a h

/-- The page of an element's directory byte is accessed (R305). -/
def State.installDir (s : State) (v : View) (d : Desc) (c : List Nat) : State :=
  match (s.dirHit v d c).bind fun x => x.2.loc?.bind Loc.pte with
  | some e => s.install false e
  | none => s

/-- An element's directory byte is poisoned (R311). -/
def State.dirPoisoned (s : State) (v : View) (d : Desc) (c : List Nat) : Bool :=
  match (s.dirHit v d c).bind fun x => x.2.loc? with
  | some l => s.poisoned l.key 1
  | none => false

/-- The coordinates of the elements that a lane moves (R266): those of a run that ends at E0. -/
def runCoords (d : Desc) (x : Word) : List (List Nat) :=
  let c := fun k => elem 16 k x
  ((List.range (perWord d.type)).filter fun i => c 0 + i < d.e 0).map fun i => [c 0 + i, c 1, c 2, c 3]

/-- One element of a lane's access; `dir`: its directory byte stands in the way. -/
structure TElem where
  coord : List Nat
  addr : Word
  bit : Nat
  dir : Bool
  hit : Hit
  deriving DecidableEq, Repr

/-- The elements of a lane's access, resolved and checked (R266, R267 step 4). Where the directory byte cannot be read, its address
takes the place of the element's: in TRAPINFO, in fault service and in the side log. DEDUCED (log 60). -/
def State.tElems (s : State) (g : Group) (lane : Nat) (acc : Acc) (d : Desc) (x : Word) : List TElem :=
  (runCoords d x).map fun c =>
    match s.resolve (s.viewOf g) d c with
    | .ok a b => { coord := c, addr := a, bit := b, dir := false, hit := s.probe g (some lane) acc false (typeBytes d.type) a }
    | .hit a h => { coord := c, addr := a, bit := 0, dir := true, hit := h }

/-- How soon an answer counts among those of one lane's elements: the causes in the order of R175, then a lost device, then fault
service. -/
def Hit.rank : Hit → Nat
  | .cause c => c
  | .lost _ true => 10
  | .lost _ false => 11
  | .held _ _ => 12
  | .ok _ _ => 13

/-- One lane of a tensor access as a probe: the first element of those that count soonest decides (R267). -/
def laneProbe (lane : Nat) (es : List TElem) : Probe :=
  match firstBy (fun a b => a.hit.rank < b.hit.rank) es with
  | some e => { lane := lane, addr := e.addr, hit := e.hit }
  | none => { lane := lane, addr := 0, hit := .ok (.pad (.die 0) 0) (padLoc 0) }

/-- TRAPINFO of the tensor causes (R267). -/
def tensorInfo (slot dim value : Nat) : Word := BitVec.ofNat 64 (slot * 2 ^ 35 + dim * 2 ^ 32 + value % 2 ^ 32)

/-- The lowest dimension in which a coordinate is out of bounds (R267). -/
def badDim (d : Desc) (x : Word) : Option Nat :=
  (List.range 4).find? fun k => if k < d.rank then d.e k ≤ elem 16 k x else elem 16 k x != 0

/-- A loaded slot of the team of a group. -/
def State.slot? (s : State) (g : Group) (slot : Nat) : Option Shape :=
  ((s.teamOf? g).bind fun t => t.shapes[slot]?).bind id

/-- The checks of a tensor access (R267), in the lanes of `m`: a trap, or the slot and the elements of each lane. A poisoned slot is
consumed (R312). DEDUCED (log 33). -/
def State.tensorAccess (s : State) (acc : Acc) (slot : BitVec 5) (m : Mask) (a : LReg)
    (go : Shape → List (Nat × List TElem) → List Probe → Out) : Out :=
  if m = 0 then s.done s.g
  else
    match s.slot? s.g slot.toNat with
    | none => s.trapAt 0x1C (tensorInfo slot.toNat 0 0) m
    | some sh =>
      let d := sh.desc
      if sh.bad then s.consume else
      let oob := m.lanes.filter fun l => (badDim d (s.g.lane a l)).isSome
      let odd := m.lanes.filter fun l => elem 16 0 (s.g.lane a l) % perWord d.type != 0
      match oob, odd with
      | l :: _, _ =>
        let k := (badDim d (s.g.lane a l)).getD 0
        s.trapAt 0x1A (tensorInfo slot.toNat k (elem 16 k (s.g.lane a l))) (Mask.ofFn oob.contains)
      | [], l :: _ => s.trapAt 4 (tensorInfo slot.toNat 0 (elem 16 0 (s.g.lane a l))) (Mask.ofFn odd.contains)
      | [], [] =>
        let es := m.lanes.map fun l => (l, s.tElems s.g l acc d (s.g.lane a l))
        let ps := es.map fun x => laneProbe x.1 x.2
        s.checked ps 8 (go sh es ps)

/-- Bytes and entries of the elements that a tensor access reaches: scratchpad accesses for watchpoints. -/
def tensorPads (n : Nat) (es : List (Nat × List TElem)) : List (Nat × Nat × Nat) :=
  es.flatMap fun x => x.2.filterMap fun e => match e.hit with
    | .ok (.pad _ k) _ => some (x.1, k, n)
    | _ => none

/-- The pages that the elements of an access reach are installed, those of their directory bytes too, and faults recorded. -/
def State.installElems (s : State) (g : Group) (acc : Acc) (d : Desc) (es : List (Nat × List TElem)) : State :=
  (es.flatMap fun x => x.2.map fun e => (x.1, e)).foldl (fun s x =>
    (s.installAll (if x.2.dir then .eread else acc) [{ lane := x.1, addr := x.2.addr, hit := x.2.hit }]).installDir (s.viewOf g) d x.2.coord) s

/-- The value of an element at its home, as a group reads it in a lane. -/
def State.elemAt (s : State) (r : Reader) (lane : Nat) (d : Desc) (e : TElem) : Nat :=
  match e.hit with
  | .ok _ l =>
    leNat ((List.range (typeBytes d.type)).map (s.raceByte r lane l)) / 2 ^ e.bit % 2 ^ typeBits d.type
  | _ => 0

/-- Every element that a group has stored and that has not reached its home: held, draining, or in the side log. DEDUCED (log 60). -/
def Group.ownElems (g : Group) : List HeldT :=
  g.heldT ++ g.drains.filterMap Drain.elem? ++ g.side.reverse.filterMap fun e => match e.op with | .tensor t => some t | _ => none

/-- The latest value that a group has stored in an element through an attachment before a read, and that has not reached its home (R195,
R268). -/
def Group.ownElem (g : Group) (r : Reader) (attach : Nat) (c : List Nat) : Option HeldT :=
  firstBy (fun x y => y.po < x.po) (g.ownElems.filter fun t => t.attach == attach && t.coord == c && r.follows t.po)

/-- An element as a group sees it (R268): its own latest value through the attachment, else the resolved one. -/
def State.tValue (s : State) (g : Group) (r : Reader) (lane : Nat) (sh : Shape) (e : TElem) : Nat :=
  match g.ownElem r sh.attach e.coord with
  | some h => h.bits.toNat
  | none => s.elemAt r lane sh.desc e

/-- What a lane loads (R266). -/
def State.tLoaded (s : State) (g : Group) (r : Reader) (lane : Nat) (sh : Shape) (es : List TElem) : Word :=
  ofElems (typeBits sh.desc.type) fun i => match es[i]? with
    | some e => s.tValue g r lane sh e
    | none => 0

/-- An element that a group holds, drains or has in its side log is poisoned. -/
def Group.badElem (g : Group) (t : HeldT) : Bool :=
  if g.heldT.contains t then g.poison.contains (.elem t.attach t.coord)
  else if (g.drains.filterMap Drain.elem?).contains t then g.poison.contains (.drainElem t.attach t.coord)
  else g.side.any fun e => (match e.op with | .tensor x => x == t | _ => false) && g.poison.contains (.side e.va)

/-- An element that a group reads is poisoned: what it holds of it, its directory byte, or its home (R311). -/
def State.tPoisoned (s : State) (g : Group) (r : Reader) (sh : Shape) (e : TElem) : Bool :=
  s.dirPoisoned (s.viewOf g) sh.desc e.coord ||
    match g.ownElem r sh.attach e.coord with
    | some t => g.badElem t
    | none => match e.hit with
      | .ok _ l => s.poisoned l.key (typeBytes sh.desc.type)
      | _ => false

/-- A group has read elements in a lane. -/
def State.seenElems (s : State) (r : Reader) (sh : Shape) (lane : Nat) (es : List TElem) : State :=
  es.foldl (fun s e => match e.hit with
    | .ok _ l => s.seen r lane l (typeBytes sh.desc.type)
    | _ => s) s

/-- TLOAD (R266). -/
def execTload (slot : BitVec 5) (d a : LReg) (la : La) (gd : Guard) (s : State) : Out :=
  s.tensorAccess .read slot (s.g.acts gd) a fun sh es ps =>
    let ok := es.filter fun x => (passed ps).has x.1
    if s.g.late then
      s.done (s.watchAll true false (tensorPads (typeBytes sh.desc.type) es)
        (s.g.holdLate (.tload slot d a la gd) (s.g.acts gd) s.tick la (s.g.lreg a) (s.g.lreg d)))
    else if ok.any fun x => x.2.any (s.tPoisoned s.g s.g.reader sh) then s.consume
    else
      let g := s.g.writeL (passed ps) d fun l => s.tLoaded s.g s.g.reader l sh (((ok.find? fun x => x.1 == l).map Prod.snd).getD [])
      let g := g.holdLanes (.tload slot d a la gd) (faulted ps) s.tick la (s.g.lreg a) (s.g.lreg d) (s.g.lreg d)
      let g := s.watchAll true false (tensorPads (typeBytes sh.desc.type) es) g
      ((ok.foldl (fun t x => t.seenElems s.g.reader sh x.1 x.2) s).installElems s.g .read sh.desc es).done g

/-- An element is held (R268): it replaces the one that the epoch holds under the same descriptor state, and is sound.
DEDUCED (log 60). -/
def Group.holdT (g : Group) (t : HeldT) : Group :=
  let same := fun h : HeldT => h.attach == t.attach && h.coord == t.coord && h.epoch == t.epoch && h.desc == t.desc
  { g with heldT := t :: g.heldT.filter fun h => !same h, poison := g.poison.filter (· != .elem t.attach t.coord) }

/-- A held element takes its place in program order among those held, the latest first; one that its epoch has replaced since is gone
(R169, R268). DEDUCED (log 60). -/
def reholdT (t : HeldT) (ts : List HeldT) : List HeldT :=
  let same := fun h : HeldT => h.attach == t.attach && h.coord == t.coord && h.epoch == t.epoch && h.desc == t.desc
  if ts.any fun h => same h && t.po < h.po then ts
  else
    let rest := ts.filter fun h => !same h
    rest.takeWhile (fun h => t.po < h.po) ++ t :: rest.dropWhile fun h => t.po < h.po

/-- One lane of TSTORE: its elements are held, or enter the side log where their page takes no write. -/
def Group.storeElems (g : Group) (sh : Shape) (lane : Nat) (es : List TElem) (x : Word) : Group :=
  let b := typeBits sh.desc.type
  let held := fun i (e : TElem) =>
    { attach := sh.attach, coord := e.coord, bits := BitVec.ofNat 64 (elem b i x), desc := sh.desc, epoch := g.epoch, lane := lane
      po := g.retired.toNat : HeldT }
  (List.range es.length).foldl (fun g i => match es[i]? with
    | none => g
    | some e =>
      match e.hit with
      | .held _ va => { g with side := g.side ++ [{ va := va, op := .tensor (held i e), epoch := g.epoch, po := g.retired.toNat }] }
      | .ok _ _ => g.holdT (held i e)
      | _ => g) g

/-- The record of one lane of TSTORE (R317). -/
def tensorRecord (sh : Shape) (c x : Word) (n : Nat) : List Byte :=
  let k := (n * typeBits sh.desc.type + 7) / 8
  leBytes sh.attach 8 ++ leBytes c.toNat 8 ++ leBytes k 1 ++ leBytes x.toNat k

/-- TSTORE (R266, R268). -/
def execTstore (slot : BitVec 5) (d a : LReg) (_la : La) (gd : Guard) (s : State) : Out :=
  s.tensorAccess .write slot (s.g.acts gd) a fun sh es _ =>
    let held := (es.flatMap Prod.snd).filter fun e => match e.hit with | .held _ _ => true | _ => false
    if es.any fun x => x.2.any fun e => s.dirPoisoned (s.viewOf s.g) sh.desc e.coord then s.consume
    else if !s.sideRoom held.length then s.stall
    else
      let g := es.foldl (fun g x =>
        (g.storeElems sh x.1 x.2 (s.g.lane d x.1)).feed (tensorRecord sh (s.g.lane a x.1) (s.g.lane d x.1) x.2.length)) s.g
      (s.installElems s.g .write sh.desc es).doneSide (s.watchAll false true (tensorPads (typeBytes sh.desc.type) es) g)

/-! TSLOAD and TSEVICT (R264, R265). -/

/-- A group of the team has a TLOAD through a slot that fault service holds. -/
def State.slotBusy (s : State) (slot : BitVec 5) : Bool :=
  s.groups.any fun g => g.launch == s.g.launch && g.team == s.g.team && g.heldOps.any fun h => match h.i with
    | .tload k _ _ _ _ => k == slot
    | _ => false

/-- Changes a shape slot of the team of the group in turn. -/
def State.setSlot (s : State) (slot : BitVec 5) (x : Option Shape) : State :=
  s.onTeamOf s.g fun t => { t with shapes := t.shapes.set slot.toNat x }

/-- TSLOAD (R264). DEDUCED (log 60). -/
def execTsload (slot : BitVec 5) (sa : SReg) (s : State) : Out :=
  let a := s.g.sreg sa
  if s.slotBusy slot then s.stall
  else s.readAt true 64 a fun s x =>
    let bs := leBytes x 64
    match descFault bs with
    | some off => s.trapU 0x1B (tensorInfo slot.toNat 0 off)
    | none =>
      let s := s.setSlot slot (some { desc := descOf bs, attach := a.toNat })
      s.done s.g

/-- TSEVICT (R265). DEDUCED (log 36, 49, 60). -/
def execTsevict (slot : BitVec 5) (sa : SReg) (s : State) : Out :=
  let a := s.g.sreg sa
  match s.slot? s.g slot.toNat with
  | none => s.done s.g
  | some sh =>
    if s.slotBusy slot then s.stall
    else if a != 0 && sh.bad then s.consume
    else if a = 0 then
      let s := s.setSlot slot none
      s.done s.g
    else
      let p := s.uprobe .write 64 a
      match p.hit with
      | .cause c => s.trapU c a
      | _ => if !s.sideRoom (if p.faults then 1 else 0) then s.stall else (s.setSlot slot none).store 64 [p] (fun _ => descBytes sh.desc) false

/-! The Dredger (R269–R275). -/

/-- RELAYOUT (R269). -/
def execRelayout (tag : Tag) (sd sa sb : SReg) (la : La) (s : State) : Out :=
  let id := s.fresh
  let c : Conv := { id := id, grp := s.g.key, launch := s.g.launch, team := s.g.team, core := s.g.core, die := s.g.core.die
                    attach := (s.g.sreg sa).toNat, new := (s.g.sreg sb).toNat, tag := tag.casesOn 0 1 2 3 4 5, desc := descOf []
                    running := false, slab := 0, slabs := 0, attempts := 0, dirty := [], copied := false }
  State.done { s with fresh := id + 1, convs := s.convs ++ [c] } (s.g.pend sd la id)

/-- The state of a conversion. -/
def State.conv? (s : State) (id : Nat) : Option Conv := s.convs.find? fun c => c.id == id
/-- Changes a conversion. -/
def State.onConv (s : State) (id : Nat) (f : Conv → Conv) : State := { s with convs := updAll (fun c => c.id == id) f s.convs }
/-- The end of a conversion, with its status. -/
def State.endConv (s : State) (id code count : Nat) : State :=
  State.writeStatus { s with convs := s.convs.filter fun c => c.id != id } id (statusWord code count)

/-- A held tensor element takes a descriptor that a conversion step wrote (R268). -/
def HeldT.renew (attach : Nat) (d : Desc) (t : HeldT) : HeldT := if t.attach == attach then { t with desc := d } else t

/-- One indivisible step of a conversion towards slots, held stores and saved contexts of the tenant (R262, R268, R270, R272). -/
def State.renew (s : State) (r : BitVec 4) (attach : Nat) (d : Desc) : State :=
  let s := s.mapGroups fun g =>
    if s.reachOf g.launch != r then g
    else { g with
      heldT := g.heldT.map (HeldT.renew attach d)
      drains := g.drains.map fun x => match x with | .elem t sc => .elem (t.renew attach d) sc | x => x
      side := g.side.map fun e => match e.op with | .tensor t => { e with op := .tensor (t.renew attach d) } | _ => e }
  { s with teams := s.teams.map fun t =>
      if s.reachOf t.launch != r then t
      else { t with shapes := t.shapes.map fun x => x.map fun sh => if sh.attach == attach then { sh with desc := d } else sh } }

/-- The descriptor with a new side (R270). -/
def Desc.begin_ (d : Desc) (new tag : Nat) : Desc :=
  if d.side then { d with baseA := new, tagA := tag, side := false, conv := true }
  else { d with baseB := new, tagB := tag, side := true, conv := true }

/-- The descriptor once the old side is given up (R272). -/
def Desc.finish (d : Desc) : Desc :=
  if d.side then { d with baseA := 0, tagA := 0, conv := false } else { d with baseB := 0, tagB := 0, conv := false }

/-- The Dredger's view of memory. -/
def State.convView (s : State) (c : Conv) : View :=
  { s.engineView c.launch c.team c.core with kind := some (.dredger c.die, .op c.id), grp := some c.grp }

/-- What a RELAYOUT is refused for, once its descriptor has been read (R269). -/
def convError (c : Conv) (bs : List Byte) : Option Nat :=
  if (descFault bs).isSome || (c.tag == 4 && 8 < typeBits (byteAt bs 16)) then some 0x14
  else
    let d := descOf bs
    if d.conv then some 0x15
    else if !d.inWindow d.side || !(d.begin_ c.new c.tag).inWindow (!d.side) || 2 ^ 56 < d.dir + (d.slabs + 63) / 64 * 8 then some 1
    else none

/-- DREDGER_BEGIN (R269, R270): conversions of a die begin in order of arrival, at most 8 at once. DEDUCED (log 61). -/
def execDredgerBegin (id : Nat) (s : State) : Out :=
  match s.conv? id with
  | none => .next s
  | some c =>
    let mine := s.convs.filter fun x => x.die == c.die
    if c.running || !s.enginesRun c.launch c.core || 8 ≤ (mine.filter Conv.running).length
        || ((mine.find? fun x => !x.running).map Conv.id) != some id then .next s
    else if c.attach % 64 != 0 || c.new % 64 != 0 then .next (s.endConv id 3 0)
    else if 2 ^ 56 ≤ c.attach || 2 ^ 56 ≤ c.new then .next (s.endConv id 1 0)
    else
      let v := s.convView c
      match s.engineRead v c.launch 64 (BitVec.ofNat 64 c.attach) with
      | .wait s => .next s
      | .err s e => .next (s.endConv id e 0)
      | .ok s bs =>
        match convError c bs with
        | some e => .next (s.endConv id e 0)
        | none =>
          let d := (descOf bs).begin_ c.new c.tag
          match s.moves v c.launch (litMoves (BitVec.ofNat 64 c.attach) (descBytes d)) with
          | .wait s => .next s
          | .done s1 code _ =>
            if code != 0 then .next (s.endConv id code 0)
            else
              let zero := litMoves (BitVec.ofNat 64 d.dir) (List.replicate ((d.slabs + 63) / 64 * 8) 0)
              match s1.moves v c.launch zero with
              | .wait s2 => .next { s with faultQueue := s2.faultQueue, stuck := s2.stuck }
              | .done s2 code _ =>
                let s3 := s2.renew v.reach c.attach d
                if code != 0 then .next (s3.endConv id code 0)
                else .next (s3.onConv id fun c => { c with desc := d, running := true, slabs := d.slabs })

/-- The coordinates of a slab (R259). -/
def slabCoords (d : Desc) (n : Nat) : List (List Nat) :=
  let b0 := n % d.s0 * 128
  let b1 := n / d.s0 % d.s1 * 128
  let h := n / d.s0 / d.s1
  (List.range 128).flatMap fun j => (List.range 128).filterMap fun i =>
    if b0 + i < d.e 0 && b1 + j < d.e 1 then some [b0 + i, b1 + j, h % d.e 2, h / d.e 2] else none

/-- One element is written at its home by `put`. -/
def State.putElem (s : State) (put : State → Loc → List Byte → State) (d : Desc) (l : Loc) (bit x : Nat) : State :=
  let n := typeBytes d.type
  let old := s.homeRead l n
  let b := typeBits d.type
  put s l (leBytes (if b == 4 then old - old / 2 ^ bit % 16 * 2 ^ bit + x % 16 * 2 ^ bit else x) n)

/-- The scale words of the blocks of a slab under KBLK32 (R260, R271). -/
def scaleMoves (d : Desc) (side : Bool) (cs : List (List Nat)) : List Move :=
  (cs.filter fun c => coord c 0 % 32 == 0).flatMap fun c =>
    litMoves ((d.at_ side c).1 - 8) (leBytes 0x7F 8)

/-- The races of an element's bytes go with its copy (R273): what a read of the old side might still return, a read of the new side may.
An earlier value keeps the other bits of the byte that it stands in. DEDUCED (log 61). -/
def State.carryOlds (s : State) (d : Desc) (src dst : Loc) (bit up : Nat) : List Old :=
  let mine := s.olds.filter fun o => src.key ≤ o.key && o.key < src.key + typeBytes d.type && o.cipher == src.cipher
  mine.map fun o =>
    let k := o.key - src.key
    let val := if typeBits d.type == 4 then
        let now := (s.homeByte dst k).toNat
        BitVec.ofNat 8 (now - now / 2 ^ up % 16 * 2 ^ up + o.val.toNat / 2 ^ bit % 16 * 2 ^ up)
      else o.val
    { o with key := dst.key + k, cipher := dst.cipher, val := val }

/-- The copy of a slab (R271): the state after, or a page that it waits for, or a code. -/
def State.copySlab (s : State) (c : Conv) : Moved :=
  let v := s.convView c
  let d := c.desc
  let cs := slabCoords d c.slab
  let es := cs.map fun x =>
    let a := d.at_ (!d.side) x
    let b := d.at_ d.side x
    (a, b, s.engineHit v .eread a.1, s.engineHit v .ewrite b.1)
  match es.find? fun e => !(e.2.2.1.loc?.isSome && e.2.2.2.loc?.isSome) with
  | some e =>
    match e.2.2.1, e.2.2.2 with
    | .held w va, _ => .wait (s.engineFault v c.launch .eread (.held w va))
    | .lost _ false, _ => .wait s
    | .lost d true, _ => .done s (hitCode (.lost d true)) 0
    | .cause k, _ => .done s (hitCode (.cause k)) 0
    | _, .lost _ false => .wait s
    | _, .held w va => .wait (s.engineFault v c.launch .ewrite (.held w va))
    | _, h => .done s (hitCode h) 0
  | none =>
    let ok := es.filterMap fun e => match e.2.2.1.loc?, e.2.2.2.loc? with
      | some x, some y => some (e.1, e.2.1, x, y)
      | _, _ => none
    let n := typeBytes d.type
    let bad := ok.filter fun e => s.poisoned e.2.2.1.key n
    let s := (ok.filterMap fun e => e.2.2.1.pte).eraseDups.foldl (fun s p => s.install false p) (s.unstick v)
    let s := (ok.filterMap fun e => e.2.2.2.pte).eraseDups.foldl (fun s p => s.install true p) s
    let s := ok.foldl (fun s e =>
      s.putElem State.homeWrite d e.2.2.2 e.2.1.2 (s.homeRead e.2.2.1 n / 2 ^ e.1.2 % 2 ^ typeBits d.type)) s
    let olds := ok.flatMap fun e => s.carryOlds d e.2.2.1 e.2.2.2 e.1.2 e.2.1.2
    let moved := ok.flatMap fun e => s.carried (.op c.id) e.2.2.1 n 0 ++ s.carried (.op c.id) e.2.2.2 0 n
    let s : State := { s with olds := sortBy (fun a b => b.tick < a.tick) olds ++ s.olds, traffic := moved ++ s.traffic }
    if !bad.isEmpty then .done (s.poisonWords (bad.map fun e => e.2.2.2.key)) 0x16 0
    else if d.tag d.side != 4 then .done s 0 0
    else s.moves v c.launch (scaleMoves d d.side cs)

/-- SLAB_COMMIT (R271): the next half of an attempt, the copy or the commit. DEDUCED (log 61). -/
def execSlabCommit (id : Nat) (s : State) : Out :=
  match s.conv? id with
  | none => .next s
  | some c =>
    if !c.running || c.slabs ≤ c.slab || !s.enginesRun c.launch c.core then .next s
    else if !c.copied then
      match (s.onConv id fun c => { c with dirty := c.dirty.filter (· != c.slab) }).copySlab c with
      | .wait s => .next s
      | .done s code _ =>
        if code != 0 then .next (s.endConv id code 0) else .next (s.onConv id fun c => { c with copied := true })
    else if c.dirty.contains c.slab then .next (s.onConv id fun c => { c with copied := false, attempts := c.attempts + 1 })
    else
      let a : Word := BitVec.ofNat 64 (c.desc.dir + c.slab / 8)
      match s.engineRead (s.convView c) c.launch 1 a with
      | .wait s => .next s
      | .err s code => .next (s.endConv id code 0)
      | .ok s bs =>
        match s.moves (s.convView c) c.launch (litMoves a [bs.headD 0 ||| BitVec.ofNat 8 (2 ^ (c.slab % 8))]) with
        | .wait s => .next s
        | .done s code _ =>
          if code != 0 then .next (s.endConv id code 0)
          else .next (s.onConv id fun c => { c with slab := c.slab + 1, attempts := 0, copied := false })

/-- DREDGER_COMPLETE (R272). -/
def execDredgerComplete (id : Nat) (s : State) : Out :=
  match s.conv? id with
  | none => .next s
  | some c =>
    if !c.running || c.slab < c.slabs || !s.enginesRun c.launch c.core then .next s
    else
      let d := c.desc.finish
      match s.moves (s.convView c) c.launch (litMoves (BitVec.ofNat 64 c.attach) (descBytes d)) with
      | .wait s => .next s
      | .done s code _ =>
        if code != 0 then .next (s.endConv id code 0)
        else .next ((s.renew (s.reachOf c.launch) c.attach d).endConv id 0 c.slabs)

/-- A tensor element reaches its home (R268, R271): where it lands, with its slab marked dirty when the slab has not been committed.
none: the write is held at the directory, its page takes no write, or its directory byte is poisoned. -/
inductive TWrite where
  | ok (s : State)
  | hold
  | held (va : Nat) (h : Hit)
  | bad

/-- Whether a conversion holds writes to a slab at the directory (R271). DEDUCED (log 61). -/
def State.slabHeld (s : State) (r : BitVec 4) (t : HeldT) : Bool :=
  s.convs.any fun c => c.running && s.reachOf c.launch == r && c.attach == t.attach && c.slab == t.desc.slab t.coord && 3 ≤ c.attempts

/-- The slab of a write to the old side is dirty (R271). DEDUCED (log 61). -/
def State.markDirty (s : State) (r : BitVec 4) (t : HeldT) : State :=
  let mine := fun c : Conv => c.running && s.reachOf c.launch == r && c.attach == t.attach
  { s with convs := updAll mine (fun c => { c with dirty := t.desc.slab t.coord :: c.dirty }) s.convs }

/-- A tensor write of a group is performed by `put`. A follower writes only into its own core's and cluster's windows (R316).
DEDUCED (log 60). -/
def State.writeElem (s : State) (g : Group) (put : State → Loc → List Byte → State) (t : HeldT) : TWrite :=
  let v := s.viewOf g
  if t.desc.conv && s.slabHeld v.reach t then .hold
  else if s.dirPoisoned v t.desc t.coord then .bad
  else
    match s.resolve v t.desc t.coord with
    | .hit a h => .held a.toNat h
    | .ok a bit =>
      let s := s.installDir v t.desc t.coord
      match s.hitAt v (some t.lane) .write a with
      | .ok _ l =>
        if (s.lostLoc l).isSome then .held a.toNat (.lost (homeOf l.key) ((s.lostLoc l).getD false))
        else if g.follower && !ownWindow g.core l.key then .ok s
        else
          let s := match l.pte with | some p => s.install true p | none => s
          let old := t.desc.conv && t.desc.at_ (!t.desc.side) t.coord == (a, bit)
          let s := if old then s.markDirty v.reach t else s
          .ok (s.putElem put t.desc l bit t.bits.toNat)
      | .held why va => .held va (.held why va)
      | h => .held a.toNat h

end Sys2Proof.Machine
end

