-- ==== Sys2Proof/Machine/Matrix.lean ====
section
/-! DEFINITION. The matrix engine (R61, R277–R294): claims of operand slots and accumulator tiles, MLOOP and its queue, K-steps, ring
mode, and reading and clearing tiles. -/
namespace Sys2Proof.Machine

/-! Claims (R281–R283). -/

/-- TRAPINFO of ACC_BUSY, ACC_CLAIM and OPSLOT (R283). -/
def claimInfo (ticket reason num : Nat) : Word := BitVec.ofNat 64 (ticket * 2 ^ 32 + reason * 2 ^ 30 + num % 64)

/-- A sum of a field of one reach's record: the size of a partition (R277). -/
def State.partSize (s : State) (f : ReachRec → Nat) : Nat := (s.partNums s.greach s.g.core f).length

/-- OCLAIM (R281): a request beyond the partition names no slot, and NUMBER is 0 (R283). DEDUCED (log 62). -/
def execOclaim (sd sa : SReg) (_la : La) (s : State) : Out :=
  let n := (s.g.sreg sa).toNat
  if s.partSize ReachRec.oslot < n then s.trapU 9 (claimInfo 0 1 0)
  else
    let free := s.freeSlots s.greach s.g.core
    if free.length < n then s.done (s.g.setS sd (BitVec.allOnes 64))
    else
      let got := free.take n
      let s := s.onTeamOf s.g fun t => { t with slots := t.slots ++ got }
      s.done (s.g.setS sd (maskOf got))

/-- ACLAIM (R281): a request beyond the partition names no tile, and NUMBER is 0 (R283). DEDUCED (log 62). -/
def execAclaim (sd sa : SReg) (_la : La) (s : State) : Out :=
  let n := (s.g.sreg sa).toNat
  let r := s.greach
  if s.partSize ReachRec.atile < n then s.trapU 8 (claimInfo 0 1 0)
  else
    let free := s.freeTiles r s.g.core
    if n == 0 then s.done (s.g.setS sd 0)
    else if n ≤ free.length && !((s.core s.g.core).claims.any fun x => x.1 == r) then
      let got := free.take n
      let s := s.onTeamOf s.g fun t => { t with tiles := t.tiles ++ got }
      s.done (s.g.setS sd (maskOf got))
    else if ((s.teamOf? s.g).map fun t => !t.tiles.isEmpty) == some true then s.done (s.g.setS sd (BitVec.allOnes 64))
    else
      let w : Wait := .aclaim n sd
      let c := s.checkWait s.g 5 (s.targets s.g w)
      match c.fault with
      | some (cause, info, lanes) => s.trapAt cause info lanes
      | none => (c.st.onCore s.g.core fun k => { k with claims := k.claims ++ [(r, s.g.key, n)] }).beginWait w c.holds

/-- Fields of a command word (R286). -/
def cmdField (w : Word) (lo n : Nat) : Nat := w.toNat / 2 ^ lo % 2 ^ n
/-- TILE. -/
def cmdTile (w : Word) : Nat := cmdField w 0 6
/-- NSTEP. -/
def cmdSteps (w : Word) : Nat := cmdField w 30 8
/-- The slot of A in a step. -/
def cmdA (w : Word) (t : Nat) : Nat := (cmdField w 6 6 + t * cmdField w 18 6) % 64
/-- The slot of B in a step. -/
def cmdB (w : Word) (t : Nat) : Nat := (cmdField w 12 6 + t * cmdField w 24 6) % 64
/-- FMT of a half of a format block (R284). -/
def halfFmt (h : Word) : Nat := cmdField h 0 4
/-- BLK. -/
def halfBlk (h : Word) : Nat := cmdField h 4 2
/-- SFMT. -/
def halfSfmt (h : Word) : Nat := cmdField h 6 2
/-- SSRC. -/
def halfSrc (h : Word) : Nat := cmdField h 8 8
/-- SADDR. -/
def halfAddr (h : Word) : Nat := h.toNat / 2 ^ 16

/-- The scale slots of a command. -/
def scaleSlots (c : MCmd) : List Nat :=
  [c.fmtA, c.fmtB].filterMap fun h => if halfBlk h != 0 && halfSrc h == 0 then some (halfAddr h % 64) else none
/-- The operand slots that a command names, in the order in which R287 checks them. -/
def cmdSlots (c : MCmd) : List Nat :=
  ((List.range (cmdSteps c.word)).flatMap fun t => [cmdA c.word t, cmdB c.word t]) ++ scaleSlots c

/-- The oldest incomplete command of a team that names a number. -/
def Team.namer (t : Team) (tile : Bool) (n : Nat) : Option MCmd :=
  t.queue.find? fun c => if tile then cmdTile c.word == n else (cmdSlots c).contains n

/-- The numbers of a mask. -/
def numbersOf (m : Word) : List Nat := (List.range 64).filter m.getLsbD

/-- Tug writes into released slots that have not been performed (R282). -/
def State.slotWrites (s : State) (c : CoreId) (ns : List Nat) : Bool :=
  s.channels.any fun ch => ch.running.any fun r => byteAt r.bytes 9 == 6 && r.core.die == c.die && r.core.cluster == c.cluster
    && field r.bytes 24 8 / 64 % 8 == c.core && ns.contains (field r.bytes 24 8 % 64)

/-- ORELEASE and ARELEASE (R282). -/
def State.releaseClaims (s : State) (tile : Bool) (sd sa : SReg) : Out :=
  let ns := numbersOf (s.g.sreg sa)
  match s.teamOf? s.g with
  | none => s.done s.g
  | some t =>
    let held := if tile then t.tiles else t.slots
    match ns.find? fun n => !held.contains n, ns.find? fun n => (t.namer tile n).isSome with
    | some n, _ => s.trapU (if tile then 8 else 9) (claimInfo 0 0 n)
    | none, some n =>
      let ticket := ((t.namer tile n).map fun c => c.ticket.toNat).getD 0
      s.trapU (if tile then 7 else 9) (claimInfo ticket (if tile then 0 else 2) n)
    | none, none =>
      if !tile && s.slotWrites s.g.core ns then s.stall
      else
        let left := held.filter fun n => !ns.contains n
        let s := s.onTeamOf s.g fun t => if tile then { t with tiles := left } else { t with slots := left }
        let s : State := { s with g := s.g.setS sd (maskOf left) }
        let s := if tile then s.tilesFreed s.greach s.g.core else s
        s.done s.g

/-- ORELEASE (R282). DEDUCED (log 62). -/
def execOrelease (sd sa : SReg) (_la : La) (s : State) : Out := s.releaseClaims false sd sa
/-- ARELEASE (R282). -/
def execArelease (sd sa : SReg) (_la : La) (s : State) : Out := s.releaseClaims true sd sa

/-! MLOOP (R284–R287). -/

/-- Bits of an operand format (R284). -/
def fmtBits (f : Nat) : Nat := [16, 16, 8, 8, 4, 8, 4].getD f 8
/-- An integer format. -/
def fmtInt (f : Nat) : Bool := f == 5 || f == 6
/-- The block length of a half (R284); 0: none. -/
def blockLen (h : Word) : Nat := [0, 16, 32].getD (halfBlk h) 0
/-- Scale bytes of a half for `n` steps (R285). -/
def scaleBytes (h : Word) (n : Nat) : Nat := if blockLen h == 0 then 0 else n * 128 * (128 / blockLen h)

/-- An undefined value or a zero field that is not zero in a half (R284). -/
def halfBad (h : Word) : Bool :=
  6 < halfFmt h || 2 < halfBlk h || (halfBlk h == 0 && h.toNat / 64 != 0)
    || (halfBlk h != 0 && (1 < halfSfmt h || 1 < halfSrc h || (halfSrc h == 0 && 64 ≤ halfAddr h)))
    || (fmtInt (halfFmt h) && halfBlk h != 0)

/-- BASE of a ring descriptor (R289). -/
def ringBase (r : Word × Word) : Nat := cmdField r.1 0 32
/-- COUNT. -/
def ringCount (r : Word × Word) : Nat := cmdField r.1 32 16
/-- HEAD. -/
def ringHead (r : Word × Word) : Nat := cmdField r.1 48 16
/-- WHICH [0]. -/
def ringA (r : Word × Word) : Bool := r.2.getLsbD 0
/-- WHICH [1]. -/
def ringB (r : Word × Word) : Bool := r.2.getLsbD 1
/-- An undefined value or a zero field that is not zero in a ring descriptor. -/
def ringBad (r : Word × Word) : Bool :=
  ringBase r % 64 != 0 || ringCount r == 0 || ringCount r ≤ ringHead r || r.2.toNat == 0 || 4 ≤ r.2.toNat
/-- Bytes of a tile in a format (R278). -/
def tileBytes (h : Word) : Nat := 2048 * fmtBits (halfFmt h)
/-- The distance between ring entries (R289). -/
def ringStride (r : Word × Word) (a b : Word) : Nat :=
  64 + (if ringA r then tileBytes a else 0) + if ringB r then tileBytes b else 0
/-- The offset of the entry of a step. -/
def ringEntry (r : Word × Word) (a b : Word) (t : Nat) : Nat :=
  ringBase r + (ringHead r + t) % ringCount r * ringStride r a b

/-- The first failure of the checks of R287: cause and TRAPINFO. DEDUCED (log 63). -/
def State.cmdFault (s : State) (t : Team) (c : MCmd) : Option (Nat × Word) :=
  let size := 1024 * s.gdesc.scratch
  let region := s.regionOf (some t)
  let n := cmdSteps c.word
  let engine := fun code => some (0x1E, engineInfo 0 code 0)
  let halves := [c.fmtA, c.fmtB]
  let unbound : Bool := match c.ring with
    | none => false
    | some r => (List.range (ringCount r)).any fun e =>
        let k := granuleKey (region + ringBase r + e * ringStride r c.fmtA c.fmtB)
        !(s.bindings.any fun b => b.granule == k && b.prod == .launch s.g.launch)
  if halves.any halfBad || fmtInt (halfFmt c.fmtA) != fmtInt (halfFmt c.fmtB) || cmdField c.word 41 7 != 0
      || (c.ring.map ringBad).getD false then engine 5
  else if n == 0 then engine 7
  else if halves.any fun h => halfSrc h == 0 && 32768 < scaleBytes h n then engine 7
  else if halves.any fun h => halfSrc h == 1 && size < halfAddr h + scaleBytes h n then engine 1
  else if (c.ring.map fun r => decide (size < ringBase r + ringCount r * ringStride r c.fmtA c.fmtB)).getD false then engine 1
  else if unbound then engine 5
  else if !t.tiles.contains (cmdTile c.word) then some (8, claimInfo 0 0 (cmdTile c.word))
  else ((cmdSlots c).find? fun x => !t.slots.contains x).map fun x => (9, claimInfo 0 0 x)

/-- The two words of 16 bytes. -/
def twoWords (x : Nat) : Word × Word := (BitVec.ofNat 64 x, BitVec.ofNat 64 (x / 2 ^ 64))

/-- MLOOP is the issue event of its command, on the cores of both twins of a pair (R219, R293). DEDUCED (log 63). -/
def State.forkCmd (s : State) (t : Team) (c : MCmd) : State :=
  ((s.teams.filter fun x => x.launch == t.launch && x.idx == t.idx)).foldl
    (fun s x => s.orderAfter (.group s.g.key) (c.agent x)) s

/-- A command of a team on a core up to a ticket (R293). -/
def isCmd (t : Team) (n : BitVec 32) : Agent → Bool
  | .cmd lid team m core _ => lid == t.launch && team == t.idx && core == t.core && (n - m).toNat < 2 ^ 31
  | _ => false

/-- A command that names a tile of a core (R293). -/
def isTileCmd (core : CoreId) (tile : Nat) : Agent → Bool
  | .cmd _ _ _ c n => c == core && n == tile
  | _ => false

/-- A group whose MLOOP wait is satisfied comes after the commands up to its ticket (R293). DEDUCED (log 63). -/
def State.joinCmds (s : State) (g : Group) (t : Team) (n : BitVec 32) : State := s.order (.group g.key) (Old.after (isCmd t n))

/-- MLOOP once its blocks have been read (R287). -/
def State.queueCmd (s : State) (sd : SReg) (word : Word) (fmt : Word × Word) (ring : Option (Word × Word)) : Out :=
  match s.teamOf? s.g with
  | none => s.trapU 8 (claimInfo 0 0 (cmdTile word))
  | some t =>
    let ticket := t.tickets + 1
    let c : MCmd := { ticket := ticket, word := word, fmtA := fmt.1, fmtB := fmt.2, ring := ring, step := 0, acquired := 0
                      waits := none, granted := false }
    match s.cmdFault t c with
    | some (cause, info) => s.trapU cause info
    | none =>
      if 16 ≤ t.queue.length then s.waitOn .mqueue
      else
        let s := (s.forkCmd t c).onTeamOf s.g fun t => { t with tickets := ticket, queue := t.queue ++ [c] }
        s.done (s.g.setS sd (ticket.setWidth 64))

/-- MLOOP (R287). DEDUCED (log 63). -/
def execMloop (sd sa sb : SReg) (_la : La) (s : State) : Out :=
  let word := s.g.sreg sb
  s.readAt false 16 (s.g.sreg sa) fun s x =>
    if word.getLsbD 39 then
      s.readAt false 16 (BitVec.ofNat 64 (4 * 2 ^ 56 + 16 * cmdField word 48 16)) fun s y =>
        s.queueCmd sd word (twoWords x) (some (twoWords y))
    else s.queueCmd sd word (twoWords x) none

/-- MLOOP wait (R291). -/
def execMloopWait (sa : SReg) (_la : La) (s : State) : Out :=
  let n : BitVec 32 := (s.g.sreg sa).setWidth 32
  match s.teamOf? s.g with
  | none => s.done s.g
  | some t =>
    if reached t.mseq n then
      let s := s.joinCmds s.g t n
      s.done s.g
    else s.waitOn (.ticket n)

/-! The arithmetic of a step (R61, R285). -/

/-- An operand element as a value. -/
def operandVal (f x : Nat) : FVal :=
  match f with
  | 0 => bf16.val x
  | 1 => fp16.val x
  | 2 => e4m3.val x
  | 3 => e5m2.val x
  | _ => e2m1.val x

/-- A scale byte as a value (R54); SFMT 0 is E8M0. -/
def scaleVal (sfmt x : Nat) : FVal :=
  if sfmt == 0 then (if x == 255 then .nan false else .fin false 1 ((x : Int) - 127))
  else if 128 ≤ x then .nan false
  else e4m3.val x

/-- The exact sum of a block's products (R61). -/
def blockSum (ts : List Term) : Term :=
  let pos := ts.any (· == .inf false)
  let neg := ts.any (· == .inf true)
  if ts.any (fun t => t == .nan || t == .invalid) || (pos && neg) then .nan
  else if pos then .inf false
  else if neg then .inf true
  else
    let as := Term.addends ts
    let x := minExp as
    let t := sumAt x as
    .fin (if t == 0 then zeroSign rne as else t < 0, t.natAbs, x)

/-- S × G (R61). -/
def scaleTerm (t : Term) (a b : FVal) : Term :=
  let mul := fun (t : Term) (v : FVal) => match t, v with
    | .fin (s, m, x), v => prodTerm (.fin s m x) v
    | .inf s, v => prodTerm (.inf s) v
    | t, _ => t
  mul (mul t a) b

/-- C + S × G, rounded once (R61). DEDUCED (log 63). -/
def accumulate (c : Nat) (t : Term) : Nat := (fp32.sumTerms rne false [valTerm (fp32.val c), t]).1

/-- The block length of a step (R61). DEDUCED (log 63). -/
def stepBlock (a b : Word) : Nat :=
  match blockLen a, blockLen b with
  | 0, 0 => 128
  | 0, l => l
  | l, 0 => l
  | l, m => min l m

/-- What a step reads: its operand elements and scale bytes. -/
structure StepIn where
  fmtA : Word
  fmtB : Word
  a : Nat → Nat → Nat
  b : Nat → Nat → Nat
  /-- Scale byte of row i and of column j in a block of the half's own length. -/
  sa : Nat → Nat → Nat
  sb : Nat → Nat → Nat

/-- The scale of one half for block `q` of length `l`; a half without blocks has scale 1. -/
def scaleOf (h : Word) (read : Nat → Nat → Nat) (r l q : Nat) : FVal :=
  if blockLen h == 0 then .fin false 1 0 else scaleVal (halfSfmt h) (read r (q * l / blockLen h))

/-- One element of the accumulator after a step (R61). -/
def stepElem (x : StepIn) (i j c : Nat) : Nat :=
  if fmtInt (halfFmt x.fmtA) then
    let wa := fmtBits (halfFmt x.fmtA)
    let wb := fmtBits (halfFmt x.fmtB)
    let sum : Int := (List.range 128).foldl (fun n k => n + sval wa (x.a i k) * sval wb (x.b k j)) 0
    (((c : Int) + sum) % (2 ^ 32 : Int)).toNat
  else
    let l := stepBlock x.fmtA x.fmtB
    (List.range (128 / l)).foldl (fun c q =>
      let ts := (List.range l).map fun k =>
        prodTerm (operandVal (halfFmt x.fmtA) (x.a i (q * l + k))) (operandVal (halfFmt x.fmtB) (x.b (q * l + k) j))
      accumulate c (scaleTerm (blockSum ts) (scaleOf x.fmtA x.sa i l q) (scaleOf x.fmtB x.sb j l q))) c

/-- The reader that a command is: its core's matrix engine (R184, R293). -/
def MCmd.reader (c : MCmd) (t : Team) : Reader := { agent := c.agent t, core := t.core, level := 1, back := none, moment := none }

/-- A byte that a command reads: one that a write which is not ordered before it has changed may be the old one (R197, R293). -/
def State.cmdByte (s : State) (t : Team) (c : MCmd) (k : Nat) : Byte := s.raceByte (c.reader t) 0 (padLoc k) 0

/-- Element `e` of `w` bits of an operand slot (R278). -/
def State.slotElem (s : State) (t : Team) (c : MCmd) (slot w e : Nat) : Nat :=
  leNat ((List.range (if w == 16 then 2 else 1)).map fun i => s.cmdByte t c (slotKey t.core slot (e * w / 8) + i)) / 2 ^ (e * w % 8) % 2 ^ w

/-- Where the scale bytes of a half begin: in a slot, or in the team's core region. -/
def State.scaleKey (s : State) (t : Team) (h : Word) : Nat :=
  if halfSrc h == 0 then slotKey t.core (halfAddr h % 64) 0 else s.regionOf (some t) + halfAddr h

/-- What step `n` of a command reads. -/
def State.stepIn (s : State) (t : Team) (c : MCmd) (n : Nat) : StepIn :=
  let wa := fmtBits (halfFmt c.fmtA)
  let wb := fmtBits (halfFmt c.fmtB)
  let trans := c.word.getLsbD 40
  let scale := fun h r q => (s.cmdByte t c (s.scaleKey t h + (n * 128 + r) * (128 / blockLen h) + q)).toNat
  { fmtA := c.fmtA
    fmtB := c.fmtB
    a := fun i k => s.slotElem t c (cmdA c.word n) wa (128 * i + k)
    b := fun k j => s.slotElem t c (cmdB c.word n) wb (if trans then 128 * j + k else 128 * k + j)
    sa := scale c.fmtA
    sb := scale c.fmtB }

/-- A word of a tile. -/
def tileWord (core : CoreId) (tile i j : Nat) : Nat := tileKey core tile (4 * (128 * i + j))

/-- Every word of a tile is written. -/
def State.writeTile (s : State) (core : CoreId) (tile : Nat) (f : Nat → Nat → Nat) : State :=
  { s with mem := (List.range 128).foldl (fun m i =>
      memWrite m (tileWord core tile i 0) ((List.range 128).flatMap fun j => leBytes (f i j) 4)) s.mem }

/-- The poison of a tile's words is gone. -/
def State.healTile (s : State) (core : CoreId) (tile : Nat) : State :=
  { s with poison := healed s.poison (tileKey core tile 0) 65536 }

/-- The output words of a step that derive from poisoned words (R312). -/
def State.stepPoison (s : State) (t : Team) (c : MCmd) (n : Nat) : List Nat :=
  let wa := fmtBits (halfFmt c.fmtA)
  let wb := fmtBits (halfFmt c.fmtB)
  let trans := c.word.getLsbD 40
  let scale := fun h r => blockLen h != 0 && s.poisoned (s.scaleKey t h + (n * 128 + r) * (128 / blockLen h)) (128 / blockLen h)
  let row := fun i => s.poisoned (slotKey t.core (cmdA c.word n) (16 * wa * i)) (16 * wa) || scale c.fmtA i
  let col := fun j => scale c.fmtB j || (List.range 128).any fun k =>
    s.poisoned (slotKey t.core (cmdB c.word n) ((if trans then 128 * j + k else 128 * k + j) * wb / 8)) ((wb + 7) / 8)
  (List.range 128).flatMap fun i => ((List.range 128).filter fun j => row i || col j).map fun j =>
    tileWord t.core (cmdTile c.word) i j

/-- A step has read its slots and scale bytes (R192). -/
def State.cmdSeen (s : State) (t : Team) (c : MCmd) (n : Nat) : State :=
  let r := c.reader t
  let see := fun (s : State) k n => s.seen r 0 (padLoc k) n
  let scale := fun (s : State) (h : Word) =>
    if blockLen h == 0 then s else see s (s.scaleKey t h + n * 128 * (128 / blockLen h)) (128 * (128 / blockLen h))
  let s := see (see s (slotKey t.core (cmdA c.word n) 0) (tileBytes c.fmtA)) (slotKey t.core (cmdB c.word n) 0) (tileBytes c.fmtB)
  scale (scale s c.fmtA) c.fmtB

/-- A step runs: ZINIT clears the tile before the first (R288). -/
def State.runStep (s : State) (t : Team) (c : MCmd) : State :=
  let tile := cmdTile c.word
  let s := if c.step == 0 && c.word.getLsbD 38 then (s.writeTile t.core tile fun _ _ => 0).healTile t.core tile else s
  let x := s.stepIn t c c.step
  let bad := s.stepPoison t c c.step
  let s1 := (s.cmdSeen t c c.step).writeTile t.core tile fun i j => stepElem x i j (memRead s.mem (tileWord t.core tile i j) 4)
  if bad.isEmpty then s1 else s1.poisonWords bad

/-- A team's commands run: it stands on its core, which has not been pre-empted, and none of its groups is halted or spilled (R294). -/
def State.matrixRuns (s : State) (t : Team) : Bool :=
  t.at_ == .resident && !(((s.reach? (s.reachOf t.launch)).map fun r => r.off.contains t.core).getD true)
    && !((s.liveOf t).any fun g => g.preempted || g.spilled)

/-- The team that a core's engine works for: of those whose next step is ready the strongest; among equals it rotates (R288).
DESIGN CHOICE (log 16); DEDUCED (log 63). -/
def State.engineTeam (s : State) (c : CoreId) : Option Team :=
  let ready := s.teams.filter fun t => t.core == c && s.matrixRuns t && t.queue.head?.any fun x => x.ring.isNone || x.step < x.acquired
  let rank := fun (t : Team) => strength (s.effective t.launch)
  let best := ready.filter fun t => ready.all fun x => rank x ≤ rank t
  best[(Config.reading s.tick 37).toNat % best.length]?

/-- The next K-step of a team's oldest command, and the end of the command after its last (R287, R288, R291). DEDUCED (log 63). -/
def State.kStep (s : State) (t : Team) : State :=
  match t.queue with
  | [] => s
  | c :: rest =>
    if !s.matrixRuns t || (c.ring.isSome && c.acquired ≤ c.step) then s
    else
      let s := s.runStep t c
      if c.step + 1 < cmdSteps c.word then s.onTeamOnly t fun t => { t with queue := { c with step := c.step + 1 } :: rest }
      else
        let t1 := { t with mseq := t.mseq + 1, queue := rest }
        let s := s.onTeamOnly t fun _ => t1
        let s := (s.waiters fun g _ => t.holds g).foldl (fun s g => match g.wait with
          | some (.ticket n) => if reached t1.mseq n then s.joinCmds g t1 n else s
          | _ => s) s
        let s := s.satisfyAll fun g w => t.holds g && match w with
          | .ticket n => reached t1.mseq n
          | .mqueue => true
          | _ => false
        s.endTeam t1

/-- K_STEP (R288). -/
def execKStep (lid : BitVec 32) (team : Nat) (s : State) : Out := .next ((s.twinsOf lid team).foldl State.kStep s)

/-- A command copies bytes of its core region into a slot, with their poison (R290). -/
def State.copyTile (s : State) (t : Team) (c : MCmd) (src dst n : Nat) : State :=
  let bad := ((List.range n).filter fun i => s.poisoned (src + i) 1).map fun i => dst + i
  let bs := (List.range n).map fun i => s.cmdByte t c (src + i)
  let s := (s.seen (c.reader t) 0 (padLoc src) n).homeWriteBy (c.agent t) none false t.core (padLoc dst) bs
  if bad.isEmpty then s else s.poisonWords bad

/-- The engine has the header of an entry: it copies the entry's tiles, and fills the credit word, which releases at core level
(R290, R293). -/
def State.takeEntry (s : State) (t : Team) (c : MCmd) (rest : List MCmd) (r : Word × Word) (e : Nat) : State :=
  let n := c.acquired
  let ta := if ringA r then tileBytes c.fmtA else 0
  let s := if ringA r then s.copyTile t c (e + 64) (slotKey t.core (cmdA c.word n) 0) ta else s
  let s := if ringB r then s.copyTile t c (e + 64 + ta) (slotKey t.core (cmdB c.word n) 0) (tileBytes c.fmtB) else s
  let s := s.onTeamOnly t fun t => { t with queue := { c with acquired := n + 1, waits := none, granted := false } :: rest }
  let w := e + 8
  if s.isFull w then s
  else
    let s := s.homeWriteBy (c.agent t) (some 5) true t.core (padLoc w) (leBytes (c.ticket.toNat + n * 2 ^ 32) 8)
    ((s.newFill w).orderAfter (c.agent t) (.spot (fillSpot w) 8 1 t.core)).fillWord w

/-- The engine comes to the header of a ring entry for the next step that has none (R290): it takes a full one, or waits among the LDFE
waiters of the word; it copies into a slot only when the steps before that read the slot have finished. DEDUCED (log 63). -/
def State.acquire (s : State) (t : Team) : State :=
  match t.queue with
  | [] => s
  | c :: rest =>
    match c.ring with
    | none => s
    | some r =>
      let n := c.acquired
      let off := ringEntry r c.fmtA c.fmtB n
      let e := s.regionOf (some t) + off
      let dstA := cmdA c.word n
      let dstB := cmdB c.word n
      let reads := fun u slot => cmdA c.word u == slot || cmdB c.word u == slot || (scaleSlots c).contains slot
      let busy := (List.range n).any fun u => c.step ≤ u && ((ringA r && reads u dstA) || (ringB r && reads u dstB))
      if !s.matrixRuns t || cmdSteps c.word ≤ n then s
      else if c.granted then (if busy then s else s.takeEntry t c rest r e)
      else if !s.isFull e then
        if c.waits.isSome then s
        else
          { s.onTeamOnly t fun t => { t with queue := { c with waits := some (off, s.fresh) } :: rest } with fresh := s.fresh + 1 }
      else if busy then s
      else
        let c' := { c with waits := none, granted := true }
        (s.grantHeader t c e).takeEntry t c' rest r e

/-- RING_ENTRY_ACQUIRE (R290). -/
def execRingEntryAcquire (lid : BitVec 32) (team : Nat) (s : State) : Out := .next ((s.twinsOf lid team).foldl State.acquire s)

/-! Tiles (R292). -/

/-- The checks of AREAD and AZERO. -/
def State.withTile (s : State) (tile : Nat) (go : Team → Out) : Out :=
  match s.teamOf? s.g with
  | none => s.trapU 8 (claimInfo 0 0 tile)
  | some t =>
    if !t.tiles.contains tile then s.trapU 8 (claimInfo 0 0 tile)
    else
      match t.namer true tile with
      | some c => s.trapU 7 (claimInfo c.ticket.toNat 0 tile)
      | none => go t

/-- What lane `l` receives from a row of 32-bit words (R292). -/
def areadLane (f : AFmt) (rm : BitVec 2) (half l : Nat) (word : Nat → Nat) : Word × BitVec 5 :=
  match f with
  | .bf16 =>
    let r := fun i => cvtFF fp32 Machine.bf16 rm (word (4 * l + i))
    (ofElems 16 fun i => (r i).1, flagsN (fun i => (r i).2) 4)
  | _ => (ofElems 32 fun i => word (64 * half + 2 * l + i), 0)

/-- AREAD (R292). -/
def execAread (f : AFmt) (vd : LReg) (sa : SReg) (_la : La) (s : State) : Out :=
  let x := (s.g.sreg sa).toNat
  let tile := x % 64
  let row := x / 64 % 128
  s.withTile tile fun t =>
    if s.g.em != 0 && s.poisoned (tileWord t.core tile row 0) 512 then s.consume
    else
      let word := fun c => memRead s.mem (tileWord t.core tile row c) 4
      let s := s.order (.group s.g.key) (Old.after (isTileCmd t.core tile))
      s.done (s.g.writeF s.g.em vd fun l => areadLane f s.g.frm (x / 2 ^ 13 % 2) l word)

/-- AZERO (R292). -/
def execAzero (sa : SReg) (_la : La) (s : State) : Out :=
  let tile := (s.g.sreg sa).toNat % 64
  s.withTile tile fun t =>
    let s := s.order (.group s.g.key) (Old.after (isTileCmd t.core tile))
    let s := (s.writeTile t.core tile fun _ _ => 0).healTile t.core tile
    s.done s.g

end Sys2Proof.Machine
end

