-- ==== Sys2Proof/Machine/Service.lean ====
section
/-! DEFINITION. The core's memory path after issue: results that arrive (R17, R18), drains (R171, R308), acknowledgements of REDs
(R180), the side log's replay (R169), the end of fault service (R309), and soft errors (R311). -/
namespace Sys2Proof.Machine

/-- The end of a run (R15, R18): results complete but for those of the registers that the trailer names, windows end, the e registers are
undefined, the port is free, and the group is the youngest (R143). -/
def Group.endRun (tick age : Nat) (keep : List Nat) (g : Group) : Group :=
  { (g.settleAll tick).offPort age with
    pendS := g.pendS.map fun p => { p with left := 0 }
    heldOps := g.heldOps.map fun h => { h with left := 0, kept := h.kept || (h.dest.1 == 0 && keep.contains h.dest.2) }
    runLen := 0
    eWritten := 0
    trailer := keep }

/-- The run of a group ends. -/
def State.endRun (s : State) (k : Nat) (keep : List Nat) : State :=
  let s := s.onGroup k (Group.endRun s.tick s.fresh keep)
  State.refetch { s with fresh := s.fresh + 2 } [k]

/-- A group that begins to wait ends its run (R15, R142): it gives up its port and is the youngest (R143). What else the end of a run
brings follows when the waiting instruction completes. DEDUCED (log 18). -/
def State.parkRun (s : State) (k : Nat) : State :=
  State.refetch { s.onGroup k (Group.offPort s.fresh) with fresh := s.fresh + 2 } [k]

/-- What follows a trap: the run ends, or is parked while the trap waits for results; the entry is traced. -/
def State.afterTrap (s : State) (k : Nat) (pc : Word) : State :=
  match s.group? k with
  | none => s
  | some x =>
    if x.wait.isSome then s.parkRun k
    else
      let s := if x.trapMode && x.last == .trapped && x.halted.isNone then s.packet k (.target (s.codeOffset x.launch x.pc)) pc else s
      ((s.emPacket k pc).onGroup k fun g => { g with hits := none }).endRun k []

/-- A trap of a group, which its twin takes too (R315, R316). An arrival at a BAR that the group stood at stays recorded (R158).
DEDUCED (log 82). -/
def State.trapBoth (s : State) (g : Group) (cause : Nat) (info : Word) (lanes : Mask) (pc : Word) : State :=
  let s := (s.trapGroup g cause info lanes pc).afterTrap g.key pc
  match g.twin.bind s.group? with
  | some t => (s.trapGroup t cause info lanes pc).afterTrap t.key pc
  | none => s

/-- A result in flight is written; while its promise covers instructions, the promise stands. -/
def Group.arrive (tick idx : Nat) (g : Group) : Group :=
  match g.inflight[idx]? with
  | some p =>
    { g.settle tick idx p with
      inflight := if p.left == 0 then g.inflight.eraseIdx idx else g.inflight.set idx { p with lanes := 0, clash := 0 } }
  | none => g

/-- LONG_LATENCY_RESULT (R17, R18): a result in flight is written. -/
def execLongLatencyResult (grp idx : Nat) (s : State) : Out := .next (s.onGroup grp (Group.arrive s.tick idx))

/-! Drains. -/

/-- The level of the entry that takes the right to write away from an address (R310). -/
def State.noWrite (s : State) (va : Nat) : (lvl table : Nat) → Nat
  | lvl, table =>
    match s.pteAt 0 (pteAddr lvl table va) with
    | none => lvl
    | some e =>
      if !pteBit e 2 then lvl
      else match lvl with
        | 0 => 0
        | n + 1 => if pteSize e == 3 then s.noWrite va n (ptePa e) else n + 1

/-- The fault record of a held entry that finds no page at its drain, or one that it may no longer write (R308, R310). -/
def State.drainFault (s : State) (g : Group) (va : Nat) (h : Hit) : State :=
  let put := fun reason lvl => { s with faultQueue := s.faultQueue ++ [s.faultOf g va .write reason lvl] }
  match h with
  | .held (some (reason, lvl)) _ => put reason lvl
  | .held none _ => s
  | _ => put 3 (((s.reach? (s.reachOf g.launch)).map fun x => s.noWrite va 2 x.root).getD 0)

/-- What a drain finds at a byte that has been held: the home that its store reached, or, where a shootdown has touched its page, what the
page says now (R308). Behind a store to the page that waits in the side log, it goes there too (R169). DEDUCED (log 40, 41). -/
def State.drainHit (s : State) (g : Group) (r : BitVec 4) (h : Held) : Hit :=
  match h.again, h.va with
  | true, some va => if g.sideLogged va then .held none va else s.lookHit r 0 .write va
  | _, some va => if g.sideLogged va then .held none va else .ok (.main va) h.loc
  | _, none => .ok (.main 0) h.loc

/-- The home device of a drain that lies on another device under recovery or lost (R323). -/
def State.drainHome (s : State) (g : Group) (v : View) (d : Drain) : Option (Nat × Bool) :=
  let of := fun (l : Loc) => (s.lostLoc l).map fun gone => (homeOf l.key, gone)
  match d with
  | .byte h _ _ => (s.drainHit g v.reach h).loc?.bind of
  | .elem t _ =>
    match s.resolve v t.desc t.coord with
    | .ok a _ => match s.hitAt v (some t.lane) .write a with
      | .ok _ l => of l
      | .lost dev gone => some (dev, gone)
      | _ => none
    | .hit _ (.lost dev gone) => some (dev, gone)
    | .hit _ _ => none

/-- The writes of a boundary to lost devices are discarded, and REMOTE_LOST follows (R323, R324). DEDUCED (log 50). -/
def State.loseDrains (s : State) (k : Nat) : State :=
  match s.group? k with
  | none => s
  | some g =>
    let v := s.viewOf g
    let home := fun d => match s.drainHome g v d with
      | some (dev, true) => some dev
      | _ => none
    match g.drains.findSome? home with
    | none => s
    | some dev =>
      let s := s.onGroup k fun g => Group.recall { g with drains := g.drains.filter fun d => (home d).isNone }
      if g.bound.isSome then s.trapBoth ((s.group? k).getD g) 0x19 (lostInfo dev 9) g.em g.pc else s

/-- The group has a drain left of the word that a byte lies in, written in full. -/
def Group.moreOf (g : Group) (h : Held) : Bool :=
  g.drains.any fun d => match d with
    | .byte x f _ => f && wordKey x.key == wordKey h.key
    | .elem _ _ => false

/-- Writes of a group that no boundary of it waits for are complete, at the scope of the last of them, once that one is at home. -/
def State.drained (s : State) (k : Nat) (sc : Option Nat) : State :=
  match s.group? k, sc with
  | some g, some n => if g.bound.isNone && g.drains.isEmpty then s.visible n [k] else s
  | _, _ => s

/-- A drained byte is performed at its home; a word that the drain writes in full is sound again (R311). DEDUCED (log 33). -/
def State.drainByte (s : State) (k : Nat) (g : Group) (h : Held) (l : Loc) (full : Bool) (sc : Option Nat) : State :=
  let s := s.drainTo (.group k) sc g.core l h.val
  let left := (s.group? k).getD g
  let s := if full && !left.moreOf h then { s with poison := s.poison.filter (· != wordKey l.key) } else s
  s.drained k sc

/-- Bytes at rising addresses as the stores that hold them. -/
def storesOf : List (Nat × Byte) → List (Nat × List Byte)
  | [] => []
  | (a, b) :: rest =>
    match storesOf rest with
    | (x, bs) :: more => if x == a + 1 then (a, b :: bs) :: more else (a, [b]) :: (x, bs) :: more
    | [] => [(a, [b])]

/-- A held entry whose page takes no write at its drain moves to the side log, whole: the bytes of one epoch in one aligned word (R308).
DEDUCED (log 41). -/
def State.drainToSide (s : State) (k : Nat) (g : Group) (h : Held) (va : Nat) (why : Hit) : State :=
  let same := fun (d : Drain) => d.held?.any fun x => x.epoch == h.epoch && (x.va.map (· / 8)) == some (va / 8)
  let bytes := ((g.drains.filter same).reverse.filterMap Drain.held?).filterMap fun x => x.va.map fun a => (a, x.val)
  let entries := (storesOf (sortBy (fun a b => a.1 < b.1) bytes)).map fun x =>
    { va := x.1, op := .store x.2, epoch := h.epoch, po := h.po : Side }
  let r := s.reachOf g.launch
  if 1024 < s.sideUse true r g.core + entries.length then s
  else State.claimSide ((s.drainFault g va why).onGroup k fun g =>
    { g with drains := g.drains.filter fun d => !same d, side := g.side ++ entries }) r g.core

/-- Two drains write one place: one home or one virtual address, or one element of a tensor. -/
def Drain.clashes (a b : Drain) : Bool :=
  match a, b with
  | .byte x _ _, .byte y _ _ => x.key == y.key || (x.va.isSome && x.va == y.va)
  | .elem x _, .elem y _ => x.attach == y.attach && x.coord == y.coord
  | _, _ => false

/-- A drain whose place an older drain of the group is to write first: the writes of a group to one byte are performed in program order
(R192). -/
def Group.drainBlocked (g : Group) (n : Nat) (d : Drain) : Bool := (g.drains.drop (n + 1)).any d.clashes

/-- A drain is poisoned (R311). -/
def Group.drainPoison (g : Group) : Drain → Bool
  | .byte h _ _ => g.poison.contains (.drain (wordKey h.key))
  | .elem t _ => g.poison.contains (.drainElem t.attach t.coord)

/-- One drain of a group is tried; a poisoned one is consumed (R312). DESIGN CHOICE (log 2). -/
def State.drainOne (s : State) (k : Nat) (g : Group) (n : Nat) (d : Drain) : State :=
  let v := s.viewOf g
  let popped := s.onGroup k fun g => { g with drains := g.drains.eraseIdx n }
  if g.drainBlocked n d then s
  else if g.drainPoison d then s.consumeBy k
  else
  match s.drainHome g v d with
  | some (_, true) => s.loseDrains k
  | some (_, false) => s
  | none =>
    match d with
    | .byte h full sc =>
      match s.drainHit g v.reach h with
      | .ok _ l => (match l.pte with | some e => popped.install true e | none => popped).drainByte k g h l full sc
      | why => s.drainToSide k g h (h.va.getD 0) why
    | .elem t sc =>
      match popped.writeElem g (fun s l bs => s.drainAll (.group k) sc g.core l bs) t with
      | .bad => s.consumeBy k
      | .ok s => s.drained k sc
      | .hold => s
      | .held va h =>
        let r := s.reachOf g.launch
        if s.sideUse true r g.core < 1024 then
          State.claimSide ((popped.drainFault g va h).onGroup k fun g =>
            { g with side := g.side ++ [{ va := va, op := .tensor t, epoch := t.epoch, po := t.po }] }) r g.core
        else s

/-- DRAIN_COMPLETE (R171, R172): drained write number `n` of a group reaches its home; the order is unspecified.
DESIGN CHOICE (log 2). -/
def execDrainComplete (grp n : Nat) (s : State) : Out :=
  match s.group? grp with
  | none => .next s
  | some g =>
    match g.drains[n]? with
    | none => .next s
    | some d => .next (s.drainOne grp g n d)

/-- RED_ACK (R180): the home acknowledges the oldest outstanding RED, with its flags; in a pair to both twins. DEDUCED (log 48). -/
def execRedAck (grp : Nat) (s : State) : Out :=
  match s.group? grp with
  | none => .next s
  | some g =>
    match g.reds with
    | [] => .next s
    | _ =>
      let pop := fun g : Group => match g.reds with
        | f :: rest => { g.raise f with reds := rest }
        | [] => g
      let s := s.onGroup grp pop
      .next (match g.twin with | some t => s.onGroup t pop | none => s)

/-! The side log. -/

/-- A drain takes its place in program order among the drains, the latest first. -/
def insertDrain (d : Drain) (ds : List Drain) : List Drain :=
  ds.takeWhile (fun x => d.po < x.po) ++ d :: ds.dropWhile fun x => d.po < x.po

/-- A replayed store becomes a held store of its epoch (R169), or is drained by the boundary that the group stands at. -/
def Group.replayStore (g : Group) (e : Side) (l : Loc) (bs : List Byte) : Group :=
  let hs := (List.range bs.length).map fun i => { loc := l.plus i, val := bs.getD i 0, epoch := e.epoch, po := e.po, again := false : Held }
  match g.bound with
  | some b =>
    { g with drains := hs.foldl (fun ds h => insertDrain (.byte h (l.key % 8 == 0 && bs.length % 8 == 0) b.scope) ds) g.drains }
  | none => Group.mend { g with held := hs.foldl (fun xs h => rehold h xs) g.held } l bs.length

/-- A replayed tensor element. -/
def Group.replayElem (g : Group) (t : HeldT) : Group :=
  match g.bound with
  | some b => { g with drains := insertDrain (.elem t b.scope) g.drains }
  | none => { g with heldT := reholdT t g.heldT, poison := g.poison.filter (· != .elem t.attach t.coord) }

/-- The stores of a group that come before a place in program order go home, with the implicit PHASE of an atomic or RED there that has
waited and has found itself to overlap them (R181). DEDUCED (log 39). -/
def Group.drainBefore (sc po : Nat) (g : Group) : Group :=
  let old : Group := { g with held := g.held.filter fun h => h.po < po, heldT := g.heldT.filter fun t => t.po < po }
  { g with
    drains := old.drainList (some sc) ++ g.drains
    held := g.held.filter fun h => !(h.po < po)
    heldT := g.heldT.filter fun t => !(t.po < po) }

/-- The same of a group and its twin; a poisoned entry is consumed first (R312). DEDUCED (log 39). -/
def State.drainFirst (s : State) (g : Group) (sc po : Nat) : State :=
  if g.heldPoison then s.consumeBy g.key
  else s.mapGroups fun x => if x.key == g.key || some x.key == g.twin then x.drainBefore sc po else x

/-- A byte that the group stored before a place in program order lies in the footprint of an access (R181). -/
def Group.heldBefore (g : Group) (po : Nat) (va key : Option Nat) (n : Nat) : Bool :=
  g.ownBytes.any fun h => h.po < po && h.within va key n

/-- The side log has an entry from before a place in program order, for which an implicit PHASE there waits (R171, R181). -/
def Group.sideBefore (g : Group) (po : Nat) : Bool := g.side.any fun e => e.po < po

/-- A RED from before a place in program order waits in the side log: a later one does not pass it (R188). -/
def Group.redBefore (g : Group) (po : Nat) : Bool :=
  g.side.any fun e => e.po < po && match e.op with | .red _ _ _ _ _ => true | _ => false

/-- One entry replays; none: it waits. A poisoned one is consumed (R312). -/
def State.replaySide (s : State) (k : Nat) (g : Group) (e : Side) (l : Loc) : Option State :=
  let popped := s.onGroup k fun g => { g with side := g.side.erase e, poison := g.poison.filter (· != .side e.va) }
  let popped := match l.pte with | some p => popped.install true p | none => popped
  match e.op with
  | .store bs => some (if g.poison.contains (.side e.va) then popped.consumeBy k else popped.onGroup k fun g => g.replayStore e l bs)
  | .tensor t => some (if g.poison.contains (.side e.va) then popped.consumeBy k else popped.onGroup k fun g => g.replayElem t)
  | .red op w64 b rm scope =>
    let n := lxBytes w64
    if g.poison.contains (.side e.va) || s.poisoned l.key n then some (popped.uncontain k 0)
    else if g.redBefore e.po then none
    else if g.heldBefore e.po (some e.va) (some l.key) n then
      (if g.drains.isEmpty && !g.sideBefore e.po then some (s.drainFirst g scope e.po) else none)
    else
      let r := popped.redAt g scope l op rm n (elem (8 * n) 0 b)
      let ack := fun g : Group => { g with reds := g.reds ++ [r.2] }
      let t := r.1.onGroup k ack
      some (match g.twin with
        | some x => t.onGroup x ack
        | none => t)

/-- The entries of a page replay in program order, until one whose page does not take it, or which waits. -/
def State.replayAll (k : Nat) : List Side → State → State
  | [], s => s
  | e :: es, s =>
    match s.group? k with
    | none => s
    | some g =>
      match s.sideHit (s.reachOf g.launch) e with
      | .ok _ l =>
        match s.replaySide k g e l with
        | some t => if ((t.group? k).map fun x => x.side.contains e).getD false then t else State.replayAll k es t
        | none => s
      | _ => s

/-- SIDE_LOG_REPLAY (R169): system software has mapped a page of 256 KiB. DEDUCED (log 41). -/
def execSideLogReplay (grp page : Nat) (s : State) : Out :=
  match s.group? grp with
  | none => .next s
  | some g => .next (State.replayAll grp (g.side.filter fun e => e.va / 2 ^ 18 == page) s)

/-! Lanes that fault service holds (R22, R309). -/

/-- What a held instruction accesses again. -/
def State.heldProbes (s : State) (g : Group) (h : HeldOp) : List Probe :=
  match h.i with
  | .ld w _ _ off _ _ => s.probes g .read false (widthBytes w) h.lanes fun l => h.a.at l + BitVec.ofNat 64 (off.toNat * widthBytes w)
  | .lds w _ _ off _ _ => s.probes g .read false (widthBytes w) h.lanes fun l => h.a.at l + BitVec.ofNat 64 (off.toNat * widthBytes w)
  | .sld w _ _ _ _ => [{ lane := 0, addr := h.a.at 0, hit := s.probe g none .read false (widthBytes w) (h.a.at 0) }]
  | .tload slot _ _ _ _ =>
    match s.slot? g slot.toNat with
    | some sh => h.lanes.lanes.map fun l => laneProbe l (s.tElems g l .read sh.desc (h.a.at l))
    | none => []
  | i => s.probes g .rmw false (lxBytes (match i with
    | .cas w64 _ _ _ _ _ => w64
    | .atomAdd w64 _ _ _ _ _ => w64
    | .atomSmin w64 _ _ _ _ _ => w64
    | .atomSmax w64 _ _ _ _ _ => w64
    | .atomUmin w64 _ _ _ _ _ => w64
    | .atomUmax w64 _ _ _ _ _ => w64
    | .atomAnd w64 _ _ _ _ _ => w64
    | .atomOr w64 _ _ _ _ _ => w64
    | .atomXchg w64 _ _ _ _ _ => w64
    | _ => false)) h.lanes h.a.at

/-- The bytes that a lane of a held instruction accesses. -/
def heldBytes : Instr → Nat
  | .ld w _ _ _ _ _ => widthBytes w
  | .lds w _ _ _ _ _ => widthBytes w
  | .sld w _ _ _ _ => widthBytes w
  | .cas w64 _ _ _ _ _ => lxBytes w64
  | .atomAdd w64 _ _ _ _ _ => lxBytes w64
  | .atomSmin w64 _ _ _ _ _ => lxBytes w64
  | .atomSmax w64 _ _ _ _ _ => lxBytes w64
  | .atomUmin w64 _ _ _ _ _ => lxBytes w64
  | .atomUmax w64 _ _ _ _ _ => lxBytes w64
  | .atomAnd w64 _ _ _ _ _ => lxBytes w64
  | .atomOr w64 _ _ _ _ _ => lxBytes w64
  | .atomXchg w64 _ _ _ _ _ => lxBytes w64
  | _ => 1

/-- The results of a held instruction reach its register: at once, or while its promise still covers instructions, in flight (R17). -/
def Group.heldResult (g : Group) (h : HeldOp) (m : Mask) (f : Nat → Word) : Group :=
  if m = 0 then g
  else
    let u := uses h.i
    match u.wl, u.ws with
    | d :: _, _ =>
      if h.left == 0 then g.writeL m d f
      else { g with inflight := { file := 0, reg := d.toNat, lanes := m, vals := lanesOf f, left := h.left, at_ := h.at_, clash := 0 }
                                  :: g.inflight }
    | [], d :: _ =>
      if h.left == 0 then g.setS d (f 0)
      else { g with inflight := { file := 2, reg := d.toNat, lanes := 1, vals := Lanes.all (f 0), left := h.left, at_ := h.at_, clash := 0 }
                                  :: g.inflight }
    | [], [] => g

/-- A held instruction whose lanes have been served leaves the list, or keeps the lanes that still fault. -/
def Group.heldLeft (g : Group) (h : HeldOp) (m : Mask) : Group :=
  { g with heldOps := g.heldOps.flatMap fun x => if x == h then (if m = 0 then [] else [{ h with lanes := m }]) else [x] }

/-- What a lane of a held load reads. -/
def State.heldLoad (s : State) (g : Group) (h : HeldOp) (ps : List Probe) (l : Nat) : Word :=
  let n := heldBytes h.i
  let r := h.reader g
  match h.i with
  | .lds _ _ _ _ _ _ => extend true n (s.loaded g r n ps l)
  | .tload slot _ _ _ _ =>
    match s.slot? g slot.toNat with
    | some sh => s.tLoaded g r l sh (s.tElems g l .read sh.desc (h.a.at l))
    | none => 0
  | _ => BitVec.ofNat 64 (s.loaded g r n ps l)

/-- A held load would consume an uncorrectable error. -/
def State.heldPoison (s : State) (g : Group) (h : HeldOp) (ps : List Probe) : Bool :=
  match h.i with
  | .tload slot _ _ _ _ =>
    match s.slot? g slot.toNat with
    | some sh => (passed ps).lanes.any fun l => (s.tElems g l .read sh.desc (h.a.at l)).any (s.tPoisoned g (h.reader g) sh)
    | none => false
  | i => s.consumes g (h.reader g) (heldBytes i) ps

/-- The lanes of a held load have read what they name. -/
def State.heldSeen (s : State) (g : Group) (h : HeldOp) (ps : List Probe) : State :=
  match h.i with
  | .tload slot _ _ _ _ =>
    match s.slot? g slot.toNat with
    | some sh => (passed ps).lanes.foldl (fun s l => s.seenElems (h.reader g) sh l (s.tElems g l .read sh.desc (h.a.at l))) s
    | none => s
  | i => s.seenAll (h.reader g) (heldBytes i) ps

/-- The pages that a held load has reached are accessed, and new faults recorded (R305, R309). -/
def State.heldInstall (s : State) (g : Group) (h : HeldOp) (ps : List Probe) : State :=
  match h.i with
  | .tload slot _ _ _ _ =>
    match s.slot? g slot.toNat with
    | some sh => s.installElems g .read sh.desc (h.lanes.lanes.map fun l => (l, s.tElems g l .read sh.desc (h.a.at l)))
    | none => s
  | _ => s.installAll .read ps

/-- A group that a pre-emption or the debugger has halted: what fault service holds of it reissues when it resumes (R326, R347).
DEDUCED (log 39). -/
def Group.offCore (g : Group) : Bool := g.preempted || g.spilled || g.dbgStopped

/-- The lanes that a trap of a held instruction names: the uniform SLD names EM (R104). -/
def HeldOp.named (h : HeldOp) (g : Group) (lanes : Mask) : Mask :=
  match h.i with
  | .sld _ _ _ _ _ => g.em
  | _ => lanes

/-- One held instruction of a group is served (R309). A lane that may no longer access its page traps, with the address of the held
instruction in TRAPPC. An atomic that finds itself to overlap bytes that its group holds waits for them to drain (R181). A follower's
held atomics are its leader's. DEDUCED (log 39). -/
def State.serveHeld (k : Nat) (s : State) (h : HeldOp) : State :=
  match s.group? k with
  | none => s
  | some g =>
    if !g.heldOps.contains h || (g.follower && isAtomic h.i) || g.offCore then s
    else
      let ps := s.heldProbes g h
      let drop := s.onGroup k fun g => g.heldLeft h 0
      match trapOf ps, lostOf ps with
      | some (c, info, lanes), _ => drop.trapBoth ((drop.group? k).getD g) c info (h.named g lanes) h.at_
      | none, some (dev, true, lanes) =>
        drop.trapBoth ((drop.group? k).getD g) 0x19 (lostInfo dev (if isAtomic h.i then 10 else 8)) (h.named g lanes) h.at_
      | none, some (_, false, _) => s
      | none, none =>
        if passed ps = 0 then s
        else if s.heldPoison g h ps then (if isAtomic h.i then s.uncontain k 0 else s.consumeBy k)
        else if isAtomic h.i then
          if ps.any fun p => p.place.any fun x => g.heldBefore h.po x.1.va? (some x.2.key) (heldBytes h.i) then
            (if g.drains.isEmpty && !g.sideBefore h.po then s.drainFirst g (scopeOf h.i) h.po else s)
          else
            let r := (s.installAll .rmw ps).rmwLanes g (scopeOf h.i) (heldBytes h.i) ps fun l m => atomFun h.i h.b.at h.d.at l m
            let put := fun g : Group =>
              ((g.heldResult h (passed ps) fun l => BitVec.ofNat 64 (laneVal r.2 l)).heldLeft h (faulted ps)).addSev h.po (passed ps)
                fun l => BitVec.ofNat 64 (laneVal r.2 l)
            let t := r.1.onGroup k put
            match g.twin with
            | some x => t.onGroup x put
            | none => t
        else
          ((s.heldSeen g h ps).heldInstall g h ps).onGroup k fun g => (g.heldResult h (passed ps) (s.heldLoad g h ps)).heldLeft h (faulted ps)

/-- The loads of a group that have issued and not read yet read now (R197). DESIGN CHOICE (log 2). -/
def State.loadArrives (s : State) (k : Nat) : State :=
  match s.group? k with
  | none => s
  | some g => ((g.heldOps.filter HeldOp.late).foldl (State.serveHeld k) s).satisfyAll Group.resultsIn

/-- A page that held the group itself is there. -/
def State.releaseFetch (s : State) (k : Nat) : State :=
  match s.group? k with
  | none => s
  | some g =>
    match g.fetchHeld with
    | none => s
    | some va =>
      match s.look (s.reachOf g.launch) 0 .read va with
      | .absent _ _ => s
      | _ => s.onGroup k fun g => { g with fetchHeld := none }

/-- FAULT_SERVICE_END (R309): pages that a group waits for have been mapped. -/
def execFaultServiceEnd (grp : Nat) (s : State) : Out :=
  match s.group? grp with
  | none => .next s
  | some g => .next ((g.heldOps.foldl (State.serveHeld grp) (s.releaseFetch grp)).satisfyAll Group.resultsIn)

/-! Soft errors (R311). -/

/-- A place of a group's context is poisoned. -/
def Group.spoil (m : Mark) (g : Group) : Group := { g with poison := m :: g.poison.filter (· != m) }

/-- An uncorrectable error poisons a word. -/
def State.strike (s : State) (loc : ErrLoc) : State :=
  let kept := fun (k : Nat) (m : Group → Option Mark) => s.onGroup k fun g => match m g with
    | some m => g.spoil m
    | none => g
  match loc with
  | .vreg k r => s.onGroup k (Group.spoil (if isV r then .v r.toNat else .e (r.toNat - 56)))
  | .sreg k r => s.onGroup k (Group.spoil (.s r.toNat))
  | .preg k r => s.onGroup k (Group.spoil (.p r.toNat))
  | .bankV k n => s.onGroup k (Group.spoil (.bankV n.toNat))
  | .bankS k n => s.onGroup k (Group.spoil (.bankS n.toNat))
  | .mem key => s.poisonWords [key]
  | .held k n => kept k fun g => (g.held[n]?).map fun h => heldMark h.key
  | .side k n => kept k fun g => (g.side[n]?).map fun e => .side e.va
  | .heldT k n => kept k fun g => (g.heldT[n]?).map fun t => .elem t.attach t.coord
  | .drain k n => kept k fun g => (g.drains[n]?).map fun d => match d with
    | .byte h _ _ => .drain (wordKey h.key)
    | .elem t _ => .drainElem t.attach t.coord
  | .entry n => { s with entries := s.entries.modify n fun x => { x with bad := true } }
  | .shape n k => { s with teams := s.teams.modify n fun t =>
      { t with shapes := t.shapes.modify k fun x => x.map fun sh => { sh with bad := true } } }

/-- SOFT_ERROR (R311): a single-bit error is corrected and counted; an uncorrectable one poisons its word. -/
def execSoftError (loc : ErrLoc) (uncorrectable : Bool) (s : State) : Out :=
  .next (if uncorrectable then s.strike loc else { s with corrected := s.corrected + 1 })

end Sys2Proof.Machine
end

