-- ==== Sys2Proof/Machine/Issue.lean ====
section
/-! DEFINITION. What stands before an instruction's effect: its fetch (R105, R119), decoding in a group (R8, R36, R37), hazards (R17, R19,
R217), the scoreboard (R17, R18), and when a group is ready (R142). -/
namespace Sys2Proof.Machine

/-! Fetch. -/

/-- What a fetch gives. -/
inductive Fetched where
  | ok (l : Loc) (w : BitVec 32)
  | trap (cause : Nat)
  | hold (p : Probe)
  | lost (dev : Nat) (gone : Bool)
  | poisoned
  deriving DecidableEq, Repr

/-- Old words that a group may still fetch at a key (R119, R348). DESIGN CHOICE (log 24). -/
def State.oldWords (s : State) (g : Group) (key : Nat) : List (BitVec 32) :=
  (s.icache.filter fun x => x.key == key && (!x.gone.contains g.core || x.groups.contains g.key)).map ICached.word

/-- The word at a key as a group fetches it: the word in memory or an old one, by a free choice. A word that is still held is not fetched,
and one that is in memory, once the cache has been invalidated, is. DESIGN CHOICE (log 24). -/
def State.codeWord (s : State) (g : Group) (l : Loc) : BitVec 32 :=
  let m := BitVec.ofNat 32 (s.homeRead l 4)
  match s.oldWords g l.key with
  | [] => m
  | olds => (m :: olds).getD ((Config.freeWord s.tick 7).toNat % (olds.length + 1)) m

/-- The fetch at a group's PC (R35, R105, R160). DEDUCED (log 23). -/
def State.fetch (s : State) (g : Group) : Fetched :=
  if 2 ^ 56 ≤ g.pc.toNat then .trap 5
  else
    match s.lookHit (s.reachOf g.launch) 63 .fetch g.pc.toNat with
    | .cause c => .trap c
    | .lost dev gone => .lost dev gone
    | .held why va => .hold { lane := 0, addr := g.pc, hit := .held why va }
    | .ok _ l => if s.poisoned l.key 4 then .poisoned else .ok l (s.codeWord g l)

/-- A word has been fetched: its page is accessed (R305), and caches may hold its piece of memory. DESIGN CHOICE (log 11). -/
def State.fetched (s : State) (l : Loc) : State :=
  let s := match l.pte with | some p => s.install false p | none => s
  let c := l.key / 2 ^ 18
  { s with code := if s.code.contains c then s.code else c :: s.code }

/-! Decoding in a group. -/

/-- A v register that names no storage of a group (R8). -/
def State.beyond (s : State) (g : Group) (r : Nat) : Bool :=
  !(48 ≤ r && g.trapMode) && 8 * LaunchDesc.budget (s.desc g.launch) g.role ≤ r

/-- What a group reads a word as: an instruction, or a decoding trap with its cause and TRAPINFO (R36, R37). DEDUCED (log 22). -/
def State.decodeFor (s : State) (g : Group) (w : BitVec 32) : Instr ⊕ (Nat × Word) :=
  if reserved w then .inr (1, fieldInfo 0 25 w)
  else
    match lowest (causesIn (s.beyond g) (s.desc g.launch).shapes w) with
    | some c => .inr (2, fieldInfo c.reason c.bit w)
    | none => match decode w with
      | some i => .inl i
      | none => .inr (2, fieldInfo 1 0 w)

/-- An instruction that traps PRIV comes before hazards (R117). DESIGN CHOICE (log 21). -/
def privileged (g : Group) : Instr → Bool
  | .csrr _ n => csrPrivileged n.toNat
  | .csrw n _ => csrPrivileged n.toNat
  | .rft => !g.trapMode
  | _ => false

/-- The guard of an instruction; one without a guard acts in the lanes of EM. -/
def guardOf : Instr → Guard
  | .iadd _ _ _ _ g => g
  | .isub _ _ _ _ g => g
  | .iaddi _ _ _ _ g => g
  | .imin _ _ _ _ g => g
  | .imax _ _ _ _ g => g
  | .umin _ _ _ _ g => g
  | .umax _ _ _ _ g => g
  | .imul _ _ _ _ g => g
  | .imulhi _ _ _ _ g => g
  | .imad _ _ _ _ g => g
  | .imsb _ _ _ _ g => g
  | .iaddsat _ _ _ _ g => g
  | .isubsat _ _ _ _ g => g
  | .uaddsat _ _ _ _ g => g
  | .usubsat _ _ _ _ g => g
  | .land _ _ _ _ g => g
  | .landn _ _ _ _ g => g
  | .lor _ _ _ _ g => g
  | .lorn _ _ _ _ g => g
  | .lxor _ _ _ _ g => g
  | .lxnor _ _ _ _ g => g
  | .shl _ _ _ _ g => g
  | .shr _ _ _ _ g => g
  | .sar _ _ _ _ g => g
  | .rol _ _ _ _ g => g
  | .shli _ _ _ _ g => g
  | .shri _ _ _ _ g => g
  | .sari _ _ _ _ g => g
  | .popc _ _ _ g => g
  | .clz _ _ _ g => g
  | .brev _ _ _ g => g
  | .ctz _ _ _ g => g
  | .bfx _ _ _ _ g => g
  | .bfxs _ _ _ _ g => g
  | .bfi _ _ _ _ g => g
  | .iabs _ _ _ g => g
  | .ineg _ _ _ g => g
  | .mov _ _ g => g
  | .movs _ _ g => g
  | .pmovGet _ _ g => g
  | .pmovSet _ _ g => g
  | .fadd _ _ _ _ g => g
  | .fsub _ _ _ _ g => g
  | .fmul _ _ _ _ g => g
  | .ffma _ _ _ _ g => g
  | .ffms _ _ _ _ g => g
  | .fmin _ _ _ _ g => g
  | .fmax _ _ _ _ g => g
  | .fabs _ _ _ g => g
  | .fneg _ _ _ g => g
  | .fspec _ _ _ _ g => g
  | .cvt _ _ _ _ g => g
  | .dot _ _ _ _ _ g => g
  | .perm _ _ _ _ g => g
  | .lxch _ _ _ g => g
  | .lred _ _ _ g => g
  | .lscan _ _ _ _ g => g
  | .ld _ _ _ _ _ g => g
  | .lds _ _ _ _ _ g => g
  | .st _ _ _ _ _ g => g
  | .ldfe _ _ _ _ _ g => g
  | .ldfw _ _ _ _ _ g => g
  | .stfe _ _ _ _ _ g => g
  | .tload _ _ _ _ g => g
  | .tstore _ _ _ _ g => g
  | _ => .always

/-- The predicate of a guard. -/
def Guard.preds : Guard → List PReg
  | .always => []
  | .ifSet p => [p.setWidth 7]
  | .ifClear p => [p.setWidth 7]

/-- The destination of a compare is a source too, but where the result replaces it (R78). -/
def Comb.reads (m : Comb) (pd : PReg) : List PReg := if m == .set then [] else [pd]

/-- A bank of 64 predicates (R80). -/
def bankOf (hi : Bool) : List PReg := (List.range 64).map (bankP hi)

/-- The predicates that an instruction reads. -/
def predReads (i : Instr) : List PReg :=
  Guard.preds (guardOf i) ++ match i with
    | .sel _ _ _ p => [p]
    | .icmp pd _ _ _ _ m => Comb.reads m pd
    | .fcmp pd _ _ _ m => Comb.reads m pd
    | .scmp pd _ _ _ _ m => Comb.reads m pd
    | .plop _ pa pb _ => [pa, pb]
    | .pmovGet _ hi _ => bankOf hi
    | .vote _ p _ => [p]
    | .bra .always _ _ => []
    | .bra _ p _ => [p]
    | .brd p _ => [p]
    | _ => []

/-- The predicates that an instruction writes. -/
def predWrites : Instr → List PReg
  | .icmp pd _ _ _ _ _ => [pd]
  | .fcmp pd _ _ _ _ => [pd]
  | .scmp pd _ _ _ _ _ => [pd]
  | .plop pd _ _ _ => [pd]
  | .pmovSet _ hi _ => bankOf hi
  | _ => []

/-! Hazards under DEBUG (R17, R19, R217). -/

/-- The e registers that an instruction touches and that the run has not written: their field values. DEDUCED (log 20). -/
def Group.unwritten (g : Group) (rs : List LReg) : List LReg := rs.filter fun r => !isV r && !g.eWritten.getLsbD (r.toNat - 56)

/-- A register with its file code (R17) and the address of the instruction that promises not to touch it. -/
structure Promise where
  file : Nat
  reg : Nat
  at_ : Word
  deriving DecidableEq, Repr

/-- The promises that stand (R17). -/
def Group.promises (g : Group) : List Promise :=
  ((g.inflight.filter fun p => p.left != 0).map fun p => { file := p.file, reg := p.reg, at_ := p.at_ })
    ++ ((g.pendS.filter fun p => p.left != 0).map fun p => { file := 2, reg := p.reg.toNat, at_ := p.at_ })
    ++ (g.heldOps.filter fun h => h.left != 0).map fun h => { file := h.dest.1, reg := h.dest.2, at_ := h.at_ }

/-- An instruction reads or writes a register of a file. -/
def Use.touches (u : Use) (file reg : Nat) : Bool :=
  if file == 2 then (u.rs ++ u.ws).any fun r => r.toNat == reg
  else (u.rl ++ u.wl).any fun r => r.toNat == reg

/-- TRAPINFO of HAZARD. DESIGN CHOICE (log 21). -/
def hazardInfo (file reg dist : Nat) : Word := BitVec.ofNat 64 (reg % 64 + file * 64 + dist % 2 ^ 32 * 2 ^ 32)

/-- The hazard of the registers that is reported (R17): an e register that the run has not written, or a broken promise. It is reported
whatever lanes act, where R81 has a row for EM = 0 and one for an unwritten e register. DESIGN CHOICE (log 21). -/
def State.hazard (s : State) (i : Instr) : Option Word :=
  let g := s.g
  let u := uses i
  match firstBy (fun a b : LReg => a < b) (g.unwritten u.rl) with
  | some r => some (hazardInfo 1 (r.toNat - 56) 0)
  | none =>
    let dist := fun p : Promise => ((g.pc - p.at_) >>> 2).toNat
    let less := fun a b : Promise => a.file < b.file || (a.file == b.file && (a.reg < b.reg || (a.reg == b.reg && dist a < dist b)))
    match firstBy less (g.promises.filter fun p => u.touches p.file p.reg) with
    | some p => some (hazardInfo p.file p.reg (dist p))
    | none => none

/-! The scoreboard (R17, R18). -/

/-- The first pending s register that an instruction touches outside its promise: a blocking wait (R18). -/
def Group.pendingS (g : Group) (u : Use) : Option SReg :=
  (g.pendS.find? fun p => p.left == 0 && u.touches 2 p.reg.toNat).map PendS.reg

/-- The s register that an instruction waits for before it has its effect; YIELD waits at its label (R18, R213). -/
def Group.awaits (g : Group) (i : Instr) : Option SReg :=
  match i with
  | .yield _ _ => none
  | i => g.pendingS (uses i)

/-- A held instruction stands in the way: SLD holds the whole group (R309); its destination is touched outside the promise, or written
inside it. DEDUCED (log 38). -/
def Group.heldBlocks (g : Group) (u : Use) : Bool :=
  g.heldOps.any fun h =>
    let writes : Bool := if h.dest.1 == 2 then u.ws.any fun r => r.toNat == h.dest.2 else u.wl.any fun r => r.toNat == h.dest.2
    (match h.i with | .sld _ _ _ _ _ => !h.late | _ => false)
      || (u.touches h.dest.1 h.dest.2 && (h.left == 0 || writes))

/-- A store: what it writes stays with the group until a boundary, so it may pass a RED that waits in the side log. -/
def isStore : Instr → Bool
  | .st _ _ _ _ _ _ => true
  | .sst _ _ _ _ _ => true
  | .tstore _ _ _ _ _ => true
  | .tsevict _ _ => true
  | _ => false

/-- An instruction that reads memory, or gives an engine or a queue something to do: it comes after the atomics before it (R188, R219).
DEDUCED (log 38). -/
def looksOut : Instr → Bool
  | .ld _ _ _ _ _ _ => true
  | .lds _ _ _ _ _ _ => true
  | .sld _ _ _ _ _ => true
  | .tload _ _ _ _ _ => true
  | .tsload _ _ => true
  | .brx _ _ => true
  | .rgn _ => true
  | .mloop _ _ _ _ => true
  | .ldfe _ _ _ _ _ _ => true
  | .ldfw _ _ _ _ _ _ => true
  | .stfe _ _ _ _ _ _ => true
  | .febind _ _ _ _ => true
  | .enq _ _ _ _ => true
  | .deq _ _ _ => true
  | .deqNb _ _ _ => true
  | .deparm _ _ _ _ => true
  | .depdec _ _ _ => true
  | .cpy _ _ _ _ _ => true
  | .chead _ _ _ _ => true
  | .ctail _ _ _ _ => true
  | .tmove _ _ _ _ _ => true
  | .coll _ _ _ _ _ => true
  | .relayout _ _ _ _ _ => true
  | .waitseq _ _ => true
  | i => isAtomic i

/-- An ordinary load of bytes. -/
def isLoad : Instr → Bool
  | .ld _ _ _ _ _ _ => true
  | .lds _ _ _ _ _ _ => true
  | .sld _ _ _ _ _ => true
  | _ => false

/-- The places that an ordinary load would reach now, and its size. -/
def State.loadPlaces (s : State) (i : Instr) : List Loc × Nat :=
  match i with
  | .ld w _ a off _ gd => ((s.probes s.g .read false (widthBytes w) (s.g.acts gd) (lmAddr s.g w a off)).filterMap fun p => p.hit.loc?, widthBytes w)
  | .lds w _ a off _ gd => ((s.probes s.g .read false (widthBytes w) (s.g.acts gd) (lmAddr s.g w a off)).filterMap fun p => p.hit.loc?, widthBytes w)
  | .sld w _ sa off _ => ((s.uprobe .read (widthBytes w) (umAddr s.g w sa off)).hit.loc?.toList, widthBytes w)
  | _ => ([], 0)

/-- A load that has not read yet reads a byte that an ordinary load would read: the two keep their order (R192). DEDUCED (log 38). -/
def State.sameBytes (s : State) (h : HeldOp) (i : Instr) : Bool :=
  let x := s.loadPlaces i
  (s.heldProbes s.g h).any fun p => p.hit.loc?.any fun l => x.1.any fun m => l.key < m.key + x.2 && m.key < l.key + heldBytes h.i

/-- What the lanes that a group has outstanding allow to pass them: nothing that fault service holds is passed; a load that reads later than
it issues is passed by stores, which only the group sees, and by loads of other bytes (R187, R188, R192).
DESIGN CHOICE (log 2); DEDUCED (log 38). -/
def State.passes (s : State) (i : Instr) (h : HeldOp) : Bool :=
  h.late && (isStore i || (isLoad i && isLoad h.i && !s.sameBytes h i))

/-- A memory access or an engine's command waits until the lanes before it that it does not pass have been served, and one that looks
beyond the group also until no RED waits in the side log (R188, R192, R219). DEDUCED (log 38). -/
def State.mustFollow (s : State) (i : Instr) : Bool :=
  let red := match i with | .red _ _ _ _ _ _ => true | _ => false
  ((looksOut i || isStore i || red) && s.g.heldOps.any fun h => !s.passes i h) || (looksOut i && s.g.sideRed)

/-- Results of registers that an instruction touches are written before it issues. -/
def Group.settleTouched (tick : Nat) (u : Use) (g : Group) : Group :=
  let due := g.inflight.filter fun p => p.left == 0 && u.touches p.file p.reg
  let rest := g.inflight.filter fun p => !(p.left == 0 && u.touches p.file p.reg)
  { (due.foldr (fun p (r : Group × Nat) => (r.1.settle tick r.2 p, r.2 + 1)) (g, 0)).1 with inflight := rest }

/-! When an instruction cannot issue (R142). -/

/-- An EXIT that ends its group (R112). -/
def Group.lastExit (g : Group) : Bool := (liveStack (g.live &&& ~~~g.em) g.stack).isEmpty

/-- A boundary that an instruction makes of itself. -/
def isBoundary (g : Group) : Instr → Bool
  | .phase _ => true
  | .xfence => true
  | .exit => g.lastExit
  | _ => false

/-- The group in turn stands at a boundary that waits (R171, R172). -/
def State.boundWaits (s : State) (i : Instr) : Bool :=
  if s.g.bound.isSome then s.pair.any Group.bounded
  else isBoundary s.g i && (s.pair.any fun g => !g.side.isEmpty || !g.heldOps.isEmpty) && s.pairLost.isNone

/-- An instruction of the group in turn stalls for want of room or results. DEDUCED (log 38, 48). -/
def State.mustStall (s : State) (i : Instr) : Bool :=
  s.g.heldBlocks (uses i) || s.boundWaits i || s.g.borrow == .asked || s.mustFollow i ||
    match i with
    | .exit => s.g.lastExit && s.g.entryWaits
    | .rft => s.g.trapMode && s.g.bankBusy
    | .csrr _ n => n == 5 && s.g.redsOut
    | .csrw n _ => n == 5 && s.g.redsOut
    | .qopen => (s.root? s.greach s.g.domain).isNone && s.rootsFull s.g.domain
    | .cpy _ _ _ _ _ => !s.oneShotRoom s.g.core
    | .tmove _ _ _ _ _ => !s.oneShotRoom s.g.core
    | .tsload slot _ => s.slotBusy slot
    | .tsevict slot _ => s.slotBusy slot
    | .orelease _ sa _ => s.slotWrites s.g.core (numbersOf (s.g.sreg sa))
    | _ => false

/-- A group that is on its core and may issue. -/
def Group.runnable (g : Group) : Bool :=
  !(g.ended || g.halted.isSome || g.dbgStopped || g.preempted || g.spilled || g.suspended.isSome || g.fetchHeld.isSome || g.key == 0)

/-- A held result that no trailer has left on the scoreboard: the next run waits for it (R18). -/
def Group.runWaits (g : Group) : Bool := g.runLen == 0 && g.heldOps.any fun h => h.dest.1 == 0 && !h.kept

/-- The group in turn can issue its next instruction (R142). A twin that stands at a rendezvous waits for the other; the leader of two
that stand there issues. DEDUCED (log 25). -/
def State.canIssue (s : State) : Bool :=
  s.g.runnable && s.g.wait.isNone && !s.g.runWaits
    && (s.g.rdv.isNone || (s.g.leader && (((s.g.twin.bind s.group?).map fun t => t.rdv.isSome).getD false)))
    && match s.fetch s.g with
      | .ok _ w => match s.decodeFor s.g w with
        | .inl i => !s.mustStall i
        | .inr _ => true
      | _ => true

/-- A group is ready (R142). -/
def State.groupReady (s : State) (k : Nat) : Bool :=
  match s.group? k with
  | some g => (s.turnTo g.key).canIssue
  | none => false

end Sys2Proof.Machine
end

