-- ==== Sys2Proof/Machine/Context.lean ====
section
/-! DEFINITION. The context area of an evacuated reach (R330, R331, R333): what the device writes there, the images that a resume writes
back, and an area that comes from another device (R339). -/
namespace Sys2Proof.Machine

/-! What lies in a reach's partitions. -/

/-- The units of the device. -/
def allUnits : List Unit3 :=
  (List.range 4).map Unit3.die ++ ((List.range 4).flatMap fun d => (List.range 5).map (Unit3.cluster d)) ++ allCores.map Unit3.core

/-- The ranges of keys of a reach: its partitions of the scratchpads, and the core regions of its teams that are swapped out. -/
def State.reachRanges (s : State) (r : BitVec 4) (ts : List Team) : List (Nat × Nat) :=
  (allUnits.map fun u => (scratchKey u r 0, s.partition r u)) ++ ts.map fun t => (ctxKey t, 1024 * (s.desc t.launch).scratch)

/-- A key lies in one of some ranges. -/
def inRanges (l : List (Nat × Nat)) (k : Nat) : Bool := l.any fun x => x.1 ≤ k && k < x.1 + x.2

/-- The first byte of an operand slot or of a tile, and its size. -/
def numberedAt (tile : Bool) (c : CoreId) (n : Nat) : Nat × Nat := if tile then (tileKey c n 0, 65536) else (slotKey c n 0, 32768)

/-- The numbers of a reach's operand slots or tiles on a core. -/
def State.numbersOf (s : State) (r : BitVec 4) (tile : Bool) (c : CoreId) : List Nat :=
  s.partNums r c (if tile then ReachRec.atile else ReachRec.oslot)

/-- The images of a reach's operand slots and tiles (R333). -/
def State.numberedOf (s : State) (r : BitVec 4) : List Numbered :=
  allCores.flatMap fun c => [false, true].flatMap fun tile =>
    let ns := s.numbersOf r tile c
    (List.range ns.length).filterMap fun i =>
      let a := numberedAt tile c (ns.getD i 0)
      let cells := (s.mem.filter fun x => a.1 ≤ x.1 && x.1 < a.1 + a.2).map fun x => (x.1 - a.1, x.2)
      if cells.isEmpty then none else some { core := c, tile := tile, idx := i, bytes := cells }

/-- Of a team's numbers on its core, the places in the partition; and back. -/
def State.toPlaces (s : State) (r : BitVec 4) (tile : Bool) (c : CoreId) (ns : List Nat) : List Nat :=
  ns.map fun n => (s.numbersOf r tile c).findIdx (· == n)
def State.toNumbers (s : State) (r : BitVec 4) (tile : Bool) (c : CoreId) (is : List Nat) : List Nat :=
  is.map fun i => (s.numbersOf r tile c).getD i 0

/-- The context area that an evacuation writes (R331, R333). DESIGN CHOICE (log 89). -/
def State.contextOf (s : State) (x : Reach) : Context :=
  let r := x.id
  let mine := fun lid => s.reachOf lid == r && (s.launch? lid).isSome
  let ts := s.teams.filter fun t => mine t.launch
  let inn := inRanges (s.reachRanges r ts)
  { revision := 1, device := s.device, fresh := s.fresh, reach := x
    launches := s.launches.filter fun l => l.desc.reach == r
    teams := ts.map fun t => { t with slots := s.toPlaces r false t.core t.slots, tiles := s.toPlaces r true t.core t.tiles }
    groups := s.groups.filter fun g => g.key != 0 && mine g.launch
    proms := s.proms.filter fun p => p.reach == r
    oneShots := s.oneShots.filter fun o => mine o.launch
    channels := s.channels.filter fun c => mine c.launch
    convs := s.convs.filter fun c => mine c.launch
    queues := s.queues.filter fun q => q.reach == r
    entries := s.entries.filter fun e => e.reach == r
    ranges := s.ranges.filter fun y => y.2.2.2 == r
    counters := s.counters.filter fun c => s.ownsCounter r c.die c.ctr
    roots := s.roots.filter fun y => y.reach == r
    bytes := s.mem.filter fun c => inn c.1
    full := s.full.filter inn
    bindings := s.bindings.filter fun b => inn b.granule
    poison := s.poison.filter inn
    numbered := s.numberedOf r }

/-! A resume writes the images back (R333). -/

/-- An operand slot or a tile holds its image again. -/
def State.putNumbered (s : State) (r : BitVec 4) (x : Numbered) : State :=
  match (s.numbersOf r x.tile x.core)[x.idx]? with
  | none => s
  | some n =>
    let a := numberedAt x.tile x.core n
    { s with mem := x.bytes.foldl (fun m c => memPut (a.1 + c.1) c.2 m) (s.mem.filter fun c => !(a.1 ≤ c.1 && c.1 < a.1 + a.2)) }

/-- The partitions hold their images again, as far as they reach. -/
def State.restoreImages (s : State) (c : Context) : State :=
  let r := c.reach.id
  let inn := inRanges (s.reachRanges r (s.teams.filter fun t => s.reachOf t.launch == r))
  let s : State := { s with
    mem := (c.bytes.filter fun x => inn x.1).foldl (fun m x => memPut x.1 x.2 m) (s.mem.filter fun x => !inn x.1)
    olds := s.olds.filter fun o => !inn o.key
    full := c.full.filter inn ++ s.full.filter fun k => !inn k
    bindings := (c.bindings.filter fun b => inn b.granule) ++ s.bindings.filter fun b => !inn b.granule
    poison := c.poison.filter inn ++ s.poison.filter fun k => !inn k }
  c.numbered.foldl (fun s x => s.putNumbered r x) s

/-! An area that comes from another device (R339). -/

/-- The other device's own numbers follow this device's. -/
def Agent.shift (n : Nat) : Sys2Proof.Machine.Agent → Agent
  | .group k => .group (n + k)
  | .op k => .op (n + k)
  | .entry k => .entry (n + k)
  | a => a
/-- The same of what a status register's first read is ordered after. -/
def Join.shift (n : Nat) : Sys2Proof.Machine.Join → Join
  | .op k => .op (n + k)
  | j => j
/-- The same of a group. What it holds in main memory finds its home by its virtual address here (R339). -/
def Group.shift (n : Nat) (g : Group) : Group :=
  { g.touch fun h => { h with again := h.again || h.va.isSome } with
    key := n + g.key
    twin := g.twin.map (n + ·)
    pendS := g.pendS.map fun p => { p with op := n + p.op }
    joins := g.joins.map fun x => (x.1, x.2.shift n)
    holds := g.holds.map (n + ·)
    since := n + g.since
    age := n + g.age }
/-- The same of a launch. -/
def Launch.shift (n : Nat) (l : Launch) : Launch :=
  { l with order := n + l.order, reserve := l.reserve.map fun x => (x.1, x.2.map (n + ·)) }
/-- The same of a channel. -/
def Channel.shift (n : Nat) (c : Channel) : Channel :=
  { c with ctails := c.ctails.map fun t => { t with grp := n + t.grp, op := n + t.op } }
/-- The same of an entry. -/
def QEntry.shift (n : Nat) (e : QEntry) : QEntry := { e with tok := n + e.tok, maker := e.maker.map (Agent.shift n) }

/-- The reach of an area that has come: its record, its subs and its keys are those that system software has written here. -/
def Reach.taken (x : Reach) (c : Reach) : Reach :=
  { x with
    offset := c.offset, tsaved := c.tsaved, timex := c.timex, root := c.root, snapgen := c.snapgen, evac := true, blocks := c.blocks
    size := c.size, images := c.images, meter := c.meter, minSvn := c.minSvn, accepted := c.accepted, halted := true, off := allCores }

/-- What an earlier stay of a reach on this device has left goes, when the reach comes back from another device (R339). -/
def State.dropReach (s : State) (r : BitVec 4) : State :=
  let of := fun lid => s.reachOf lid == r && (s.launch? lid).isSome
  { s with
    g := if of s.g.launch then Group.vacant else s.g
    others := s.others.filter fun g => !of g.launch
    launches := s.launches.filter fun l => l.desc.reach != r
    teams := s.teams.filter fun t => !of t.launch
    proms := s.proms.filter fun p => p.reach != r
    oneShots := s.oneShots.filter fun o => !of o.launch
    channels := s.channels.filter fun c => !of c.launch
    convs := s.convs.filter fun c => !of c.launch
    queues := s.queues.filter fun q => q.reach != r
    entries := s.entries.filter fun e => e.reach != r
    counters := s.counters.filter fun c => !s.ownsCounter r c.die c.ctr
    ranges := s.ranges.filter fun x => x.2.2.2 != r
    roots := s.roots.filter fun x => x.reach != r
    rehomed := s.rehomed.filter fun x => x.1 != r }

/-- What the area of another device's reach holds comes into this device (R339). DESIGN CHOICE (log 89). -/
def State.takeIn (s : State) (c : Context) : State :=
  let n := s.fresh
  let r := c.reach.id
  let s := (s.dropReach r).onReach r fun x => x.taken c.reach
  { s with
    fresh := n + c.fresh
    launches := s.launches ++ c.launches.map (Launch.shift n)
    teams := s.teams ++ c.teams.map fun t => { t with
      charged := t.charged.map (n + ·), order := n + t.order
      slots := s.toNumbers r false t.core t.slots, tiles := s.toNumbers r true t.core t.tiles }
    others := s.others ++ c.groups.map (Group.shift n)
    proms := s.proms ++ c.proms.map fun p => { p with id := n + p.id }
    oneShots := s.oneShots ++ c.oneShots.map fun o => { o with id := n + o.id, grp := n + o.grp }
    channels := s.channels ++ c.channels.map (Channel.shift n)
    convs := s.convs ++ c.convs.map fun v => { v with id := n + v.id, grp := n + v.grp }
    queues := s.queues ++ c.queues
    entries := s.entries ++ c.entries.map (QEntry.shift n)
    ranges := s.ranges ++ c.ranges
    counters := s.counters ++ c.counters.map fun k => { k with parked := k.parked.map (QEntry.shift n) }
    roots := s.roots ++ c.roots }

/-- The claims that wait in it wait here (R281). DEDUCED (log 62). -/
def State.takeClaims (s : State) (r : BitVec 4) : State :=
  (s.teams.filter fun t => s.reachOf t.launch == r).foldl State.joinClaims s

/-- The images of a reach's context area are written back, and what another device has evacuated comes in first (R333, R339). -/
def State.readContext (s : State) (c : Context) : State :=
  let s := if c.device == s.device then s else (s.takeIn c).takeClaims c.reach.id
  State.restoreImages { s.rehomeAll with contexts := s.contexts.filter fun x => x.reach.id != c.reach.id } c

end Sys2Proof.Machine
end

