-- ==== Sys2Proof/Machine/Schedule.lean ====
section
/-! DEFINITION. Scheduling: the issue ports (R142–R145), admission (R127, R128), the start and return of teams (R130), wait-swap
(R141), scheduling boundaries (R138), slices and pre-emption (R326–R329, R336), evacuation (R333), reach records (R333, R335),
allocator mode (R126), the bind request (R165), removal and resumption of groups (R21, R239). -/
namespace Sys2Proof.Machine

/-! The issue ports. -/

/-- The ready groups of a core that hold no port, by effective class. DEDUCED (log 25). -/
def State.readyOn (s : State) (c : CoreId) (cls : Class) : List Group :=
  s.groups.filter fun g => g.core == c && g.port.isNone && s.effective g.launch == cls && s.groupReady g.key

/-- The oldest of some groups. -/
def oldestOf (gs : List Group) : Option Group := firstBy (fun a b => a.age < b.age) gs

/-- What R143 picks, under the urgency policy of R145 for a team that has it. -/
def State.pick (s : State) (c : CoreId) : Option Group :=
  let held := s.readyOn c .held
  let queued := s.readyOn c .queued
  let spare := s.readyOn c .spare
  let first :=
    if !queued.isEmpty && (16 ≤ (s.core c).queued || held.isEmpty) then oldestOf queued
    else if !held.isEmpty then oldestOf held
    else oldestOf spare
  match first with
  | none => none
  | some g =>
    if !(s.desc g.launch).urgent then some g
    else
      firstBy (fun a b => a.sinceBar < b.sinceBar || (a.sinceBar == b.sinceBar && a.age < b.age))
        ((held ++ queued ++ spare).filter fun x => x.launch == g.launch && x.team == g.team && x.follower == g.follower)

/-- A group of a core holds a port. -/
def State.portBusy (s : State) (c : CoreId) (p : Bool) : Bool := s.groups.any fun g => g.core == c && g.port == some p && !g.ended

/-- The Queued counter at the start of a run of a class (R143). DEDUCED (log 26). -/
def queuedAfter (cls : Class) (ready : Bool) (n : Nat) : Nat :=
  match cls with
  | .queued => 0
  | .held => if ready then n + 1 else 0
  | .spare => if ready then n else 0

/-- PORT_ASSIGNMENT (R142, R143): a free port goes to a ready group, which starts a run. Of two free ports, port 0 is assigned first.
DEDUCED (log 25, 26). -/
def execPortAssignment (core : CoreId) (port : Bool) (s : State) : Out :=
  if s.portBusy core port || (port && !s.portBusy core false) then .next s
  else
    match s.pick core with
    | none => .next s
    | some g =>
      let ready := (s.readyOn core .queued).any fun x => x.key != g.key
      let s := s.onCore core fun c => { c with queued := queuedAfter (s.effective g.launch) ready c.queued }
      .next (s.onGroup g.key fun g => { g with port := some port, last := .retired })

/-- The Queued counter of a core returns to 0 when no Queued group is ready (R143). DEDUCED (log 26). -/
def State.resetQueued (s : State) : State :=
  (s.cores.filter fun c => c.queued != 0 && (s.readyOn c.id .queued).isEmpty).foldl
    (fun s c => s.onCore c.id fun c => { c with queued := 0 }) s

/-! Admission (R127). -/

/-- A descriptor fails a check of R46, or names a reach or a sub-reach that has no record (R334). -/
def State.malformed (s : State) (d : LaunchDesc) : Bool :=
  !d.wf || match s.reach? d.reach with
    | none => true
    | some x => !(x.subs.any fun y => y.1 == d.subreach)

/-- One team exceeds an empty core, or the tenant's partition on every core. -/
def State.neverFits (s : State) (d : LaunchDesc) : Bool := allCores.all fun c => !(teamRoom d).ok (s.cscr d.reach c)

/-- The teams of a launch before they start: in a paired launch, each twice (R315). -/
def teamsOf (d : LaunchDesc) (lid : BitVec 32) (order : Nat) : List Team :=
  (List.range d.teams).flatMap fun i =>
    (if d.paired then [false, true] else [false]).map fun f =>
      { launch := lid, idx := i, core := ⟨0, 0, 0⟩, follower := f, at_ := .unstarted, shapes := [], bars := [], gone := 0, mseq := 0
        tickets := 0, queue := [], slots := [], tiles := [], scrBase := 0, charged := none, order := order, waitSwapped := false
        waited := 0, watch := none : Team }

/-- A Spare team that stands on a core. -/
def State.spareHere (s : State) (t : Team) : Bool := t.at_ == .resident && !t.follower && s.effective t.launch == .spare

/-- The Spare teams, youngest first, that make way for a team on a core; none: it does not fit even so (R130). -/
def State.spareVictims (s : State) (lid : BitVec 32) (idx : Nat) (c : CoreId) : Option (List Team) :=
  let cand := sortBy (fun a b => b.older a) (s.teams.filter fun t => s.spareHere t && s.near lid c t)
  ((List.range (cand.length + 1)).map cand.take).find? fun v => s.canPlace lid idx (among v) c

/-- A team of a Held launch is placed at admission: where it fits, or else where Spare teams make way. DESIGN CHOICE (log 73). -/
def State.admitTeam (s : State) (lid : BitVec 32) (idx : Nat) : Option State :=
  match s.firstCore lid idx with
  | some c => some (s.place lid idx c)
  | none => (allCores.findSome? fun c => (s.spareVictims lid idx c).map fun v => (c, v)).map fun x => (s.swapAll x.2).place lid idx x.1

/-- Reserve slots are set aside on the lowest cores that have room (R128): free room, for which no Spare team makes way.
DESIGN CHOICE (log 73). -/
def State.setAside (d : LaunchDesc) (lid : BitVec 32) : (n : Nat) → State → Option State
  | 0, s => some s
  | n + 1, s =>
    match allCores.find? fun c => s.fitsOn false d.reach c (teamRoom d) fun _ => false with
    | none => none
    | some c => State.setAside d lid n (s.onLaunch lid fun l => { l with reserve := l.reserve ++ [(c, none)] })

/-- The start of a launch's life. -/
def Acct.begin (tick : Nat) : Acct :=
  { start := Config.wallNs tick, syscall := 0, fault := 0, iowait := 0, queue := 0, engine := 0, other := 0, seq := 0, final := false }

/-- A launch's recordings in replay mode, and whether it runs free after a divergence. -/
abbrev Replaying := Option (List (Nat × Nat × List Packet) × Bool)

/-- A launch enters the device, with none of its teams placed. DESIGN CHOICE (log 73). -/
def State.enter (s : State) (d : LaunchDesc) (lid : BitVec 32) (who : Submitter) (re : Replaying) : State :=
  { s with
    fresh := s.fresh + 1
    launches := s.launches ++ [{ lid := lid, pid := who.pid, desc := d, ended := false, order := s.fresh, reserve := []
                                 acct := Acct.begin s.tick, replay := re, tid := who.tid, tids := who.tids, stopped := [] }]
    reaches := updAll (fun x => x.id == d.reach) (fun x => { x with images := x.images ++ who.image }) s.reaches
    teams := s.teams ++ teamsOf d lid s.fresh }

/-- A Held launch is placed in full, with its reserve; none: there is no room. -/
def State.admitHeld (s : State) (d : LaunchDesc) (lid : BitVec 32) (who : Submitter) (re : Replaying) : Option State :=
  ((List.range d.teams).foldl (fun o i => o.bind fun s => s.admitTeam lid i) (some (s.enter d lid who re))).bind
    (State.setAside d lid d.reserve)

/-- A launch descriptor is admitted or refused (R127). An identifier that the device has used names no new launch.
DESIGN CHOICE (log 73); DEDUCED (log 86). -/
def State.submit (s : State) (bs : List Byte) (lid : BitVec 32) (who : Submitter) (re : Replaying) : Out :=
  let d := LaunchDesc.ofBytes bs
  if lid == 0 || lid == 0xFFFFFFFF || (s.launch? lid).isSome then .next s
  else if !launchZeros bs || s.malformed d then .next (s.reply 1)
  else if s.neverFits d then .next (s.reply 2)
  else if d.cls == .held then
    match s.admitHeld d lid who re with
    | some t => .next (t.reply 0)
    | none => .next (s.reply 3)
  else .next ((s.enter d lid who re).reply 0)

/-- LAUNCH_SUBMIT (R127), by a thread (R346). -/
def execLaunchSubmit (bs : List Byte) (lid : BitVec 32) (who : Submitter) (s : State) : Out := s.submit bs lid who none

/-- REPLAY_START (R356): a launch is submitted in replay mode; a recording that has lost packets is refused. DEDUCED (log 37). -/
def execReplayStart (bs : List Byte) (lid : BitVec 32) (who : Submitter) (rec : List (Nat × Nat × List Packet)) (loss freeRun : Bool)
    (s : State) : Out := if loss then .next (s.reply 1) else s.submit bs lid who (some (rec, freeRun))

/-! The start and return of teams (R130). -/

/-- The turn of a team's class. -/
def State.turnOf (s : State) (t : Team) : Nat := 2 - strength (s.effective t.launch)

/-- The order in which waiting teams take room. -/
def State.sooner (s : State) (a b : Team) : Bool := s.turnOf a < s.turnOf b || (s.turnOf a == s.turnOf b && a.older b)

/-- A team stands on a core with groups that a pre-emption has halted, and its reach has resumed there, and where its twin stands
(R315, R329). -/
def State.halfBack (s : State) (t : Team) : Bool :=
  t.at_ == .resident && (s.liveOf t).any Group.preempted && !s.teamOff t

/-- A team that is off its core by the spill of its halted groups, on a core, or with a twin on a core, where its reach has not resumed
(R315, R329). -/
def State.sleeps (s : State) (t : Team) : Bool :=
  t.at_ == .swapped && (s.liveOf t).any Group.preempted
    && (s.twinsOf t.launch t.idx).any fun x => s.coreOff (s.reachOf x.launch) x.core

/-- A Held team of a reach that is not back, other than one that lost its cluster (R139, R320). -/
def State.heldMissing (s : State) (r : BitVec 4) : Bool :=
  s.teams.any fun t => s.reachOf t.launch == r && s.isLive t.launch && s.effective t.launch == .held && t.at_ != .ended
    && ((t.at_ != .resident && !s.sleeps t) || s.halfBack t) && !s.isFenced t.core

/-- A team waits for room. DEDUCED (log 74). -/
def State.waitsRoom (s : State) (t : Team) : Bool :=
  let r := s.reachOf t.launch
  !t.follower && s.isLive t.launch && s.inSlice r && (s.effective t.launch == .held || !s.heldMissing r) &&
    (s.halfBack t || (s.absent t.launch t.idx).any fun x => !x.waitSwapped && !s.sleeps x)

/-- What the spilled groups of a team need to come back to its core (R328). -/
def State.backRoom (s : State) (t : Team) : Room :=
  let d := s.desc t.launch
  let gs := (s.liveOf t).filter Group.spilled
  if t.charged.isSome then Room.zero
  else
    { slots := gs.length
      rows := (gs.map fun g => groupRows d g.role).foldl (· + ·) 0
      shapes := if (s.liveOf t).all Group.spilled then d.shapes else 0
      scratch := 0 }

/-- The twins of a team can come back to the cores that they stand on (R329). -/
def State.canReturn (s : State) (t : Team) : Bool :=
  (s.twinsOf t.launch t.idx).all fun x => !(s.halfBack x) || s.fitsOn true (s.reachOf x.launch) x.core (s.backRoom x) fun _ => false

/-- One team comes back: its spilled groups take slots again, and all of them may issue. -/
def State.returnOne (s : State) (t : Team) : State :=
  if !s.halfBack t then s
  else
    let s := s.makeRoom (s.reachOf t.launch) t.core (s.backRoom t)
    let s := ((s.liveOf t).filter Group.spilled).foldl (fun s g => s.seat t.core g.key) s
    (s.settle t).restoreWatch t

/-- A team with its twin comes back where it stands. -/
def State.returnTeam (s : State) (t : Team) : State := (s.twinsOf t.launch t.idx).foldl State.returnOne s

/-- A team comes back where it stands; for one that is not Spare, the fewest of the youngest Spare teams make way (R130, R329). -/
def State.returnWith (s : State) (t : Team) : Option State :=
  let on := (s.twinsOf t.launch t.idx).map Team.core
  let cand := if s.effective t.launch == .spare then []
    else sortBy (fun a b => b.older a) (s.teams.filter fun x => s.spareHere x && (s.twinsOf x.launch x.idx).any fun y => on.contains y.core)
  ((List.range (cand.length + 1)).findSome? fun n =>
    let u := s.swapAll (cand.take n)
    if u.canReturn t then some u else none).map fun u => u.returnTeam t

/-- The teams that make way for a team on a core; none: it has no room there. -/
def State.wayFor (s : State) (t : Team) (c : CoreId) : Option (List Team) :=
  match s.effective t.launch with
  | .spare => if s.canPlace t.launch t.idx (fun _ => false) c then some [] else none
  | .queued => s.spareVictims t.launch t.idx c
  | .held =>
    if s.isFenced t.core then
      s.victimsFor (fun x => x.at_ == .resident && !x.follower && s.effective x.launch != .held) t.launch t.idx c
    else s.spareVictims t.launch t.idx c

/-- A waiting team takes its place on a core; none: it cannot. A core on which a reach has been pre-empted takes none of its teams. -/
def State.startOn (s : State) (t : Team) (c : CoreId) : Option State :=
  if s.halfBack t then (if t.core == c then s.returnWith t else none)
  else if s.coreOff (s.reachOf t.launch) c then none
  else
    match s.wayFor t c with
    | some v => some ((s.swapAll v).place t.launch t.idx c)
    | none => none

/-- TEAM_START (R130): the team takes room on the core unless a team that comes before it could. DEDUCED (log 74). -/
def execTeamStart (lid : BitVec 32) (team : Nat) (core : CoreId) (s : State) : Out :=
  match s.teams.find? fun t => t.launch == lid && t.idx == team && !t.follower with
  | none => .next s
  | some t =>
    if !s.waitsRoom t || s.teams.any fun x => s.waitsRoom x && s.sooner x t && (s.startOn x core).isSome then .next s
    else
      match s.startOn t core with
      | some s => .next s.serveAll
      | none => .next s

/-! Wait-swap (R141). -/

/-- Every live group of a team stands in a blocking wait or at a BAR. -/
def State.allStand (s : State) (t : Team) : Bool := !(s.liveOf t).isEmpty && (s.liveOf t).all Group.standing

/-- The limit of a launch in nanoseconds. -/
def swapLimit (d : LaunchDesc) : Nat := 1000 * (if d.waitSwap == 0 then 50 else d.waitSwap)

/-- WAIT_SWAP (R141). -/
def execWaitSwap (lid : BitVec 32) (team : Nat) (s : State) : Out :=
  let ts := s.twinsOf lid team
  let due := fun t : Team => t.at_ == .resident && s.allStand t && swapLimit (s.desc lid) ≤ t.waited
  if ts.isEmpty || s.effective lid != .queued || !s.inSlice (s.reachOf lid) || !ts.all due then .next s
  else
    let t := s.swapOut lid team
    .next { t with teams := updAll (fun x => x.launch == lid && x.idx == team)
                              (fun x => { x with waitSwapped := true, waited := 0 }) t.teams }

/-! Scheduling boundaries and slices. -/

/-- What happens at every scheduling boundary: idle records revert (R138), proxies forward (R376), accounting records are written
(R357). -/
def State.boundary (s : State) : State :=
  let s := State.revertIdle s.revertBound s
  let s := s.proxies.foldl State.forward s
  (s.launches.filter fun l => !l.ended).foldl (fun s l => s.updateAcct l.lid false) s

/-- SCHEDULING_BOUNDARY (R138). -/
def execSchedulingBoundary (s : State) : Out := .next s.boundary

/-- A group halts where it stands (R326). -/
def Group.preempt (tick age : Nat) (g : Group) : Group := { g.halt tick age with preempted := true }

/-- A group that runs or could: neither ended nor halted by a pre-emption. -/
def Group.going (g : Group) : Bool := !(g.ended || g.preempted || g.spilled)

/-- When the groups of a reach have all stopped, the reach is halted, its guest time is recorded (R337), and the header of its context area
is written (R331). DEDUCED (log 76). -/
def State.haltReach (s : State) (r : BitVec 4) (now : Bool) : State :=
  match s.reach? r with
  | none => s
  | some x =>
    if x.halted || !now || s.groups.any fun g => s.reachOf g.launch == r && g.going && g.key != 0 then s
    else
      let s := s.onReach r fun x => { x with halted := true, tsaved := Int.ofNat (Config.wallNs s.tick) - x.offset }
      s.keepHeader r

/-- A trap entry that is under way on a core waits for the status of an engine operation of a launch: its operations there go on until the
entry is complete (R117, R326). DEDUCED (log 77). -/
def State.entryNeeds (s : State) (lid : BitVec 32) (c : CoreId) : Bool :=
  s.groups.any fun g => g.launch == lid && g.core == c && g.going && g.entering && !g.pendS.isEmpty

/-- The engine operations that the launches of a reach have issued from some cores stop; the slab in progress of a stopped conversion
begins again, from its first attempt (R271, R327). DEDUCED (log 61, 77). -/
def State.stopEngines (s : State) (r : BitVec 4) (cores : List CoreId) : State :=
  let hit := fun (l : Launch) => cores.filter fun c => !s.entryNeeds l.lid c
  { s with
    launches := updAll (fun l => l.desc.reach == r) (fun l => { l with stopped := (hit l ++ l.stopped).eraseDups }) s.launches
    convs := updAll (fun c => s.reachOf c.launch == r && cores.contains c.core && !s.entryNeeds c.launch c.core)
      (fun c => { c with copied := false, attempts := 0 }) s.convs }

/-- Pre-emption of a reach on some cores (R326); both twins of a pair halt (R315). DEDUCED (log 76). -/
def State.preempt (s : State) (r : BitVec 4) (cores : List CoreId) : State :=
  let hit := fun g : Group => s.reachOf g.launch == r && g.going && g.key != 0 && cores.contains g.core
  let ks := ((s.groups.filter hit).flatMap fun g => g.key :: g.twin.toList)
  let s := s.endRuns (fun g => ks.contains g.key && g.going && !g.entering) (Group.preempt s.tick)
  let s := (s.stopEngines r cores).onReach r fun x => { x with off := (cores ++ x.off).eraseDups }
  s.haltReach r (!ks.isEmpty || allCores.all cores.contains)

/-- A pre-emption holds for a group: of its core, or of its twin's (R315). -/
def State.groupOff (s : State) (g : Group) : Bool :=
  let r := s.reachOf g.launch
  s.coreOff r g.core || ((g.twin.bind s.group?).map fun x => s.coreOff r x.core).getD false

/-- A pre-emption of a reach has not finished: a group is to halt behind what it is in the middle of (R326). DEDUCED (log 76). -/
def State.unfinished (s : State) (r : BitVec 4) : Bool :=
  s.groups.any fun g => g.key != 0 && s.reachOf g.launch == r && g.going && g.entering && s.groupOff g

/-- PREEMPTION_REQUEST (R326). -/
def execPreemptionRequest (reach : BitVec 4) (cores : List CoreId) (s : State) : Out := .next (s.preempt reach cores)

/-- SLICE_END (R336): a scheduling boundary falls; a queued reach takes the core, or the slice renews. DEDUCED (log 77). -/
def execSliceEnd (reach : BitVec 4) (core : CoreId) (s : State) : Out :=
  if (s.core core).slice != some reach then .next s
  else
    let s := s.boundary
    match (s.core core).next with
    | none => .next s
    | some r =>
      let s := s.onCore core fun c => { c with slice := some r, next := none }
      .next (if r == reach then s else s.preempt reach [core])

/-- The time in nanoseconds that grants of the last second give a reach on a core. DESIGN CHOICE (log 11); DEDUCED (log 77). -/
def State.granted (s : State) (r : BitVec 4) (c : CoreId) (len : Nat) : Nat :=
  len * ((s.grants.filter fun x => x.2.1 == r && x.2.2 == c && Config.wallNs s.tick < x.1 + 1000000000).length)

/-- SLICE_GRANT (R336): a grant beyond TSHARE is refused. DEDUCED (log 77). -/
def execSliceGrant (reach : BitVec 4) (core : CoreId) (s : State) : Out :=
  match s.reach? reach with
  | none => .next (s.reply 1)
  | some x =>
    let len := 1000 * x.cfg.sliceUs
    if 1000000000 * x.cfg.tshare < 1024 * (s.granted reach core len + len) then .next (s.reply 1)
    else
      let now := Config.wallNs s.tick
      let s : State := { s with grants := (now, reach, core) :: s.grants.filter fun x => now < x.1 + 1000000000 }
      let s := s.onCore core fun c => if c.slice.isNone then { c with slice := some reach } else { c with next := some reach }
      .next (s.reply 0)

/-! Resume and evacuation. -/

/-- The guest-time offset at a resume (R337). -/
def Reach.resumeOffset (wall : Int) (x : Reach) : Int :=
  if x.timex || wall - x.offset < x.tsaved then wall - x.tsaved else x.offset

/-- A halted reach resumes with the header of its context area (R331, R337). DEDUCED (log 78). -/
def Reach.wake (wall : Int) (timex : Bool) (root : Nat) (snapgen : Word) (x : Reach) : Reach :=
  if x.halted then
    let x := { x with timex := timex, root := root, snapgen := snapgen }
    { x with offset := x.resumeOffset wall, halted := false, evac := false, off := [] }
  else { x with off := [] }

/-- An absent Held team is made resident on the lowest core that has room for it (R139). -/
def State.bringHeld (s : State) (t : Team) : State := ((allCores.findSome? fun c => s.startOn t c)).getD s

/-- The teams of a reach come back: the Held ones first, and the rest where no Held one is missing (R139, R329). -/
def State.bringBack (s : State) (r : BitVec 4) : State :=
  let mine := fun t : Team => s.reachOf t.launch == r && !t.follower && s.isLive t.launch
  let held := sortBy Team.older (s.teams.filter fun t => mine t && s.effective t.launch == .held)
  let rest := sortBy s.sooner (s.teams.filter fun t => mine t && s.effective t.launch != .held)
  let s := held.foldl (fun s t => if s.waitsRoom t then s.bringHeld t else s) s
  if s.heldMissing r then s else rest.foldl (fun s t => if s.halfBack t then (s.returnWith t).getD s else s) s

/-- The header that a resume reads (R331): of a context area in memory, REVISION, REACH, TIMEX, ROOT and SNAPGEN; without one, what system
software gives with its request. -/
structure Header where
  revision : Nat
  timex : Bool
  root : Nat
  snapgen : Word

/-- The header of a reach at its resume: one whose REACH is another is refused as one of another REVISION is (R331).
DEDUCED (log 78); DESIGN CHOICE (log 89). -/
def State.headerOf (s : State) (x : Reach) (given : Header) : Header :=
  match x.area with
  | none => given
  | some pa =>
    let bs := memBytes s.mem (globalKey s.device.toNat pa) 64
    { revision := if byteAt bs 2 == x.id.toNat then field bs 0 2 else 0, timex := byteAt bs 3 % 2 == 1, root := field bs 32 8
      snapgen := BitVec.ofNat 64 (field bs 40 8) }

/-- The engine operations of launches that have no team left to resume go on with the reach. -/
def State.wakeEngines (s : State) (r : BitVec 4) : State :=
  let resumes := fun l : Launch => s.teams.any fun t => t.launch == l.lid && (s.liveOf t).any Group.preempted
  { s with launches := updAll (fun l => l.desc.reach == r && !resumes l) (fun l => { l with stopped := [] }) s.launches }

/-- A reach resumes (R329, R331): a context area of another revision is refused, and nothing is restored. The images of an evacuated reach
are written back first (R333), and what comes from another device is taken in (R339). DEDUCED (log 78); DESIGN CHOICE (log 89). -/
def State.resumeReach (s : State) (reach : BitVec 4) (given : Header) : State :=
  match s.reach? reach with
  | none => s.reply 1
  | some x =>
    let h := s.headerOf x given
    let ctx := s.contexts.find? fun c => c.reach.id == reach
    if h.revision != 1 || (ctx.map Context.revision).getD 1 != 1 then s.reply 1
    else
      let s := match ctx with | some c => s.readContext c | none => s
      let s := s.onReach reach (Reach.wake (Int.ofNat (Config.wallNs s.tick)) h.timex h.root h.snapgen)
      (((s.wakeEngines reach).bringBack reach).keepHeader reach).serveAll.reply 0

/-- REACH_RESUME (R329, R331): during a pre-emption that has not finished, the request takes effect after the halt (R340).
DEDUCED (log 78); DESIGN CHOICE (log 89). -/
def execReachResume (reach : BitVec 4) (revision : Nat) (timex : Bool) (root : Nat) (snapgen : Word) (s : State) : Out :=
  if s.unfinished reach then .next (s.onReach reach fun x => { x with resume := some (revision, timex, root, snapgen) })
  else .next (s.resumeReach reach { revision := revision, timex := timex, root := root, snapgen := snapgen })

/-- A group that was in the middle of a step when it was pre-empted halts behind it, with the engine operations that the step has waited
for, and the reach with its last group; a resume that has come since takes effect (R326, R327, R340). DEDUCED (log 27, 76). -/
def State.lateHalt (r : BitVec 4) (core : CoreId) (s : State) (k : Nat) : State :=
  let on := (s.group? k).any fun g => g.going && !g.entering && s.groupOff g
  let s := if on then s.endRuns (fun x => x.key == k) (Group.preempt s.tick) else s
  let s := (if s.coreOff r core then s.stopEngines r [core] else s).haltReach r true
  match (s.reach? r).bind Reach.resume with
  | some (revision, timex, root, snapgen) =>
    if s.unfinished r then s
    else (s.onReach r fun x => { x with resume := none }).resumeReach r
      { revision := revision, timex := timex, root := root, snapgen := snapgen }
  | none => s

/-- The groups that have come to the end of such a step halt; `old` is the state before. -/
def State.lateHalts (old s : State) : State :=
  (old.groups.filter fun g => g.key != 0 && g.going && g.entering && old.groupOff g).foldl (fun s g =>
    if (s.group? g.key).any fun x => x.going && x.entering then s else s.lateHalt (old.reachOf g.launch) g.core g.key) s

/-- EVACUATE (R333): the groups of a halted reach are spilled, and its context area receives the images; a collective is waited out, which
completes though the reach is halted (R327). DEDUCED (log 79); DESIGN CHOICE (log 89). -/
def execEvacuate (reach : BitVec 4) (s : State) : Out :=
  match s.reach? reach with
  | none => .next (s.reply 1)
  | some x =>
    if !x.halted then .next (s.reply 1)
    else if s.colls.any fun c => s.reachOf c.launch == reach then .next s
    else
      let s := (s.groups.filter fun g => s.reachOf g.launch == reach && g.preempted && !g.ended).foldl
        (fun s g => s.spillGroup g.key) s
      let s := (s.onReach reach fun x => { x with evac := true }).keepHeader reach
      let s := match s.reach? reach with
        | none => s
        | some x => { s with contexts := s.contextOf x :: s.contexts.filter fun c => c.reach.id != reach }
      .next (s.reply 0)

/-! Reach records (R335) and repartition (R333). -/

/-- The fields of a record with their limits: a sum over all reaches, and a unit's capacity (R335). SLICE, a length of time, is not among
them. DEDUCED (log 79). -/
def recordLimits : List ((ReachRec → Nat) × Nat) :=
  [(ReachRec.tshare, 1024), (ReachRec.membw, 1024), (ReachRec.fabbw, 1024), (ReachRec.basin, 1024), (ReachRec.cscr, 1024),
   (ReachRec.kscr, 16384), (ReachRec.dscr, 65536), (ReachRec.oslot, 64), (ReachRec.atile, 48)]

/-- The fields that a sub-reach has. -/
def subFields : List (ReachRec → Nat) := [ReachRec.sliceUs, ReachRec.tshare, ReachRec.membw, ReachRec.fabbw, ReachRec.basin]

/-- SLICE lies within its limits. -/
def sliceOk (r : ReachRec) : Bool := 100 ≤ r.sliceUs && r.sliceUs ≤ 1000000

/-- A sum of a field. -/
def sumOf (f : ReachRec → Nat) (l : List ReachRec) : Nat := l.foldl (fun n r => n + f r) 0

/-- The records of the other reaches. -/
def State.otherCfgs (s : State) (r : BitVec 4) : List ReachRec := (s.reaches.filter fun x => x.id != r).map Reach.cfg

/-- A reach record may be written. -/
def State.recordFits (s : State) (r : BitVec 4) (c : ReachRec) : Bool :=
  let subs := ((s.reach? r).map fun x => x.subs.map Prod.snd).getD []
  sliceOk c && (recordLimits.all fun f => sumOf f.1 (c :: s.otherCfgs r) ≤ f.2)
    && subFields.all fun f => subs.isEmpty || sumOf f subs ≤ f c

/-- A sub-reach record may be written: it has no partition, and with the others it stays within its reach's record. -/
def Reach.subFits (x : Reach) (n : BitVec 4) (c : ReachRec) : Bool :=
  sliceOk c && [ReachRec.cscr, ReachRec.kscr, ReachRec.dscr, ReachRec.oslot, ReachRec.atile].all (fun f => f c == 0)
    && subFields.all fun f => sumOf f (c :: (x.subs.filter fun y => y.1 != n).map Prod.snd) ≤ f x.cfg

/-- The part of a record that divides a unit. -/
def unitPart (u : Unit3) (c : ReachRec) : List Nat :=
  match u with
  | .core _ => [c.cscr, c.oslot, c.atile]
  | _ => [padKiB u c]

/-- A new record of a reach: where its partition changes, the old one stands until the unit is idle. -/
def Reach.setCfg (x : Reach) (c : ReachRec) : Reach :=
  let olds := allUnits.filterMap fun u =>
    if unitPart u (x.cfgAt u) == unitPart u c then none else some (u, x.cfgAt u)
  { x with cfg := c, olds := olds }

/-- A unit holds a core. -/
def unitHolds (u : Unit3) (c : CoreId) : Bool :=
  match u with
  | .die d => c.die == d
  | .cluster d k => c.die == d && c.cluster == k
  | .core x => c == x

/-- A reach is idle on a unit (R333): no team of it stands there or keeps claims there, and none of its engine operations runs.
DEDUCED (log 79). -/
def State.idleOn (s : State) (r : BitVec 4) (u : Unit3) : Bool :=
  let mine := fun lid => s.reachOf lid == r
  !(s.teams.any fun t => mine t.launch && unitHolds u t.core && (t.at_ == .resident || !t.clear))
    && !(s.oneShots.any fun o => mine o.launch) && !(s.convs.any fun c => mine c.launch) && !(s.colls.any fun c => mine c.launch)
    && !(s.channels.any fun c => mine c.launch && !c.running.isEmpty)

/-- Where the numbers of the reaches' partitions of a core lie: for each reach, its first number and its count. -/
def State.spans (s : State) (c : CoreId) (f : ReachRec → Nat) : List (BitVec 4 × Nat × Nat) :=
  s.reaches.map fun x => (x.id, s.below x.id c f, f (x.cfgAt (.core c)))

/-- Where a number goes when the spans change: a partition keeps its contents as far as it reaches. -/
def moveNum (old new : List (BitVec 4 × Nat × Nat)) (n : Nat) : Option Nat :=
  match old.find? fun x => x.2.1 ≤ n && n < x.2.1 + x.2.2 with
  | none => none
  | some x =>
    match new.find? fun y => y.1 == x.1 with
    | none => none
    | some y => if n - x.2.1 < y.2.2 then some (n - x.2.1 + y.2.1) else none

/-- The bytes and poison of numbered blocks of `size` bytes from a key follow their numbers; what no number takes is lost. -/
def State.moveBlocks (s : State) (base size count : Nat) (f : Nat → Option Nat) : State :=
  let key := fun k => if base ≤ k && k < base + size * count then (f ((k - base) / size)).map fun n => base + n * size + (k - base) % size
    else some k
  let inn := fun k => decide (base ≤ k) && decide (k < base + size * count)
  { s with
    mem := (s.mem.filter fun c => inn c.1).foldl (fun m c => match key c.1 with | some k => memPut k c.2 m | none => m)
      (s.mem.filter fun c => !inn c.1)
    olds := s.olds.filter fun o => !inn o.key
    poison := s.poison.filterMap key }

/-- Bytes, full bits, bindings and poison of a range of storage are gone: it reads 0, is empty and unbound (R164). -/
def State.clearPad (s : State) (key len : Nat) : State :=
  let out := fun k => !(decide (key ≤ k) && decide (k < key + len))
  { s with
    mem := s.mem.filter fun c => out c.1
    olds := s.olds.filter fun o => out o.key
    full := s.full.filter out
    bindings := s.bindings.filter fun b => out b.granule
    poison := s.poison.filter out }

/-- A unit is divided anew. DEDUCED (log 79). -/
def State.divide (s : State) (u : Unit3) : State :=
  let was := s.reaches.map fun x => (x.id, padKiB u (x.cfgAt u), padKiB u x.cfg)
  let t : State := { s with reaches := s.reaches.map fun x => { x with olds := x.olds.filter fun y => y.1 != u } }
  let t := match u with
    | .core c =>
      let t := t.moveBlocks (slotKey c 0 0) 32768 64 (moveNum (s.spans c ReachRec.oslot) (t.spans c ReachRec.oslot))
      t.moveBlocks (tileKey c 0 0) 65536 48 (moveNum (s.spans c ReachRec.atile) (t.spans c ReachRec.atile))
    | _ => t
  was.foldl (fun s x => if x.2.1 == x.2.2 then s
    else s.clearPad (scratchKey u x.1 (1024 * min x.2.1 x.2.2)) (1024 * (max x.2.1 x.2.2 - min x.2.1 x.2.2))) t

/-- The reaches whose partition of a unit moves. -/
def State.moving (s : State) (u : Unit3) : List (BitVec 4) :=
  let ch := s.reaches.filter fun x => x.olds.any fun y => y.1 == u
  let num := fun x : Reach => [(x.cfgAt u).oslot, (x.cfgAt u).atile] != [x.cfg.oslot, x.cfg.atile]
  match u with
  | .core _ => (s.reaches.filter fun x => ch.any fun y => y.id == x.id || (num y && y.id < x.id)).map Reach.id
  | _ => ch.map Reach.id

/-- Every unit whose new partition waits, and on which the reaches that move are idle, is divided anew (R333). DEDUCED (log 79). -/
def State.repartition (s : State) : State :=
  ((s.reaches.flatMap fun x => x.olds.map Prod.fst).eraseDups).foldl
    (fun s u => if (s.moving u).all fun r => s.idleOn r u then s.divide u else s) s

/-- A reach that has just been given its first record. It holds no slice until system software resumes it with its context area.
DEDUCED (log 78). -/
def Reach.fresh (r : BitVec 4) (c : ReachRec) (own : ReachOwn) (key : BitVec 256) : Reach :=
  { id := r, cfg := c, subs := [], olds := [], off := allCores, area := none, root := 0, offset := 0, tsaved := 0, timex := false, evac := false
    blocks := 0, size := 0, snapgen := 0, halted := true, resume := none, keys := [], keyVals := [], fabricKey := some key
    regions := own.regions, images := [], minSvn := own.minSvn, accepted := own.accepted
    meter := List.replicate 9 0 }

/-- A record of a reach with no partition. -/
def bareRecord (c : ReachRec) : ReachRec := { c with cscr := 0, kscr := 0, dscr := 0, oslot := 0, atile := 0 }

/-- REACH_RECORD_WRITE (R335): a record that breaks a limit is refused. -/
def execReachRecordWrite (reach : BitVec 4) (sub : Option (BitVec 4)) (r : ReachRec) (own : ReachOwn) (s : State) : Out :=
  match sub with
  | none =>
    if !s.recordFits reach r then .next (s.reply 1)
    else
      let s : State := if (s.reach? reach).isSome then s
        else { s with reaches := insertBy (fun a b => a.id < b.id) (Reach.fresh reach (bareRecord r) own (Config.newKey s.tick 128)) s.reaches }
      .next ((s.onReach reach fun x => { x.setCfg r with regions := own.regions }).repartition.reply 0)
  | some n =>
    match s.reach? reach with
    | none => .next (s.reply 1)
    | some x =>
      if !x.subFits n r then .next (s.reply 1)
      else .next ((s.onReach reach fun x => { x with subs := (n, r) :: x.subs.filter fun y => y.1 != n }).reply 0)

/-! Allocator mode (R126). -/

/-- ALLOCATOR_MODE (R126). -/
def execAllocatorMode (core : CoreId) (on : Bool) (s : State) : Out := .next (s.onCore core fun c => { c with allocator := on })

/-- Every group of a team stands between runs. -/
def State.betweenRuns (s : State) (t : Team) : Bool := (s.liveOf t).all fun g => g.port.isNone && g.runLen == 0

/-- Where the compactor would put a team's region: the lowest gap below it. DEDUCED (log 75). -/
def State.lowerBase (s : State) (t : Team) : Nat :=
  let others := s.teams.filter fun x => x.at_ == .resident && x.core == t.core && s.reachOf x.launch == s.reachOf t.launch && !x.same t
  gapFrom (1024 * (s.desc t.launch).scratch) 0
    (sortBy (fun a b => a.1 < b.1) (others.map fun x => (x.scrBase, 1024 * (s.desc x.launch).scratch)))

/-- COMPACTOR_MOVE (R126): in allocator mode, a team's block of core scratchpad moves to join free space; the team does not see it.
DEDUCED (log 75). -/
def execCompactorMove (core : CoreId) (s : State) : Out :=
  if !(s.core core).allocator then .next s
  else
    match s.teams.find? fun t => t.at_ == .resident && t.core == core && s.betweenRuns t && s.lowerBase t < t.scrBase with
    | none => .next s
    | some t =>
      let n := 1024 * (s.desc t.launch).scratch
      let u := { t with scrBase := s.lowerBase t }
      .next ((s.copyPad (s.regionKey t) (s.regionKey u) n).onTeamOnly t fun _ => u)

/-! The bind request (R165). -/

/-- A producer that the bind request of a tenant may name: a live launch of the tenant on any device of the pod, the wharf, or none.
DEDUCED (log 46). -/
def State.bindable (s : State) (r : BitVec 4) : Option Producer → Bool
  | some (.launch lid) => s.podLive lid && s.podReach lid == r
  | _ => true

/-- BIND_REQUEST (R165): the request acts on its range as FEBIND does. DEDUCED (log 46). -/
def execBindRequest (reach : BitVec 4) (u : Unit3) (off len : Nat) (prod : Option Producer) (mode : BindMode) (s : State) : Out :=
  if off % 256 != 0 || len % 256 != 0 || s.partition reach u < off + len || !s.bindable reach prod then .next (s.reply 1)
  else if len == 0 then .next (s.reply 0)
  else .next ((s.bindRange (scratchKey u reach off) len (prod.map fun p => (p, reach)) mode).reply 0)

/-! The watchdog, the in-field test, removal and resumption. -/

/-- A group and its twin halt, frozen. An arrival at a BAR that the group stood at stays recorded (R158). DEDUCED (log 82). -/
def State.freeze (s : State) (g : Group) : State :=
  s.mapGroups fun x => if x.key == g.key || some x.key == g.twin then
    { x with halted := some .frozen, haltTick := s.tick, port := none, runLen := 0, last := .stalled } else x

/-- WATCHDOG (R322). DEDUCED (log 81). -/
def execWatchdog (grp : Nat) (s : State) : Out :=
  match s.group? grp with
  | none => .next s
  | some g =>
    if g.ended || g.halted.isSome || g.watchdog < s.wdLimit then .next s
    else .next (((s.freeze g).report .watchdog g [g.pc.toNat]).box 6 g.core.die g.gid)

/-- A team that sits in a charged slot leaves it. -/
def State.uncharge (s : State) (t : Team) : State :=
  match t.charged with
  | none => s
  | some id =>
    let s : State := { s with
      launches := s.launches.map fun l =>
        { l with reserve := l.reserve.map fun x => (x.1, if x.1 == t.core && x.2 == some id then none else x.2) }
      proms := updAll (fun p => p.id == id) (fun p => { p with charged := p.charged - 1 }) s.proms }
    s.onTeamOnly t fun t => { t with charged := none }

/-- A Held team of a fenced cluster finds another core, or waits for one (R320). DEDUCED (log 80). -/
def State.rescue (s : State) (t : Team) : State :=
  match allCores.findSome? fun c => if s.coreOff (s.reachOf t.launch) c then none else (s.wayFor t c).map fun v => (c, v) with
  | some x => (s.swapAll x.2).place t.launch t.idx x.1
  | none => s.notice .heldRoomLost [t.launch.toNat, t.idx]

/-- The event of R321: the cluster, the times of the last pass and of the failure, the launches, and for each link by which engines of the
cluster's die have sent flits for those launches since that pass, the first and the last outbound sequence number.
DESIGN CHOICE (log 16). -/
def State.suspectInterval (s : State) (d c : Nat) : State :=
  let at_ := ((s.tested.find? fun x => x.1 == d && x.2.1 == c).map fun x => x.2.2).getD 0
  let pass := Config.wallNs at_
  let lids := (s.hosted.filter fun x => x.1 == d && x.2.1 == c).map fun x => x.2.2
  let mine := s.flitLog.filter fun x => x.die == d && lids.contains x.launch && at_ ≤ x.tick
  let flits := (List.range linkCount).flatMap fun l =>
    let rs := mine.filter fun x => x.link.toNat == l
    match rs.head?, rs.getLast? with
    | some b, some a => [l, a.first, b.last]
    | _, _ => []
  (s.notice .suspectInterval ([d, c, pass, Config.wallNs s.tick] ++ lids.map BitVec.toNat ++ flits)).box 3 d
    (BitVec.ofNat 64 (pass / 1000 * 256 + d * 5 + c))

/-- The cluster has passed: its teams go on. DESIGN CHOICE (log 11). -/
def State.testPassed (s : State) (d c : Nat) : State :=
  let here := s.teams.filter fun t => t.at_ == .resident && t.core.die == d && t.core.cluster == c
  { s with
    tested := (d, c, s.tick) :: s.tested.filter fun x => !(x.1 == d && x.2.1 == c)
    hosted := (here.map fun t => (d, c, t.launch)).eraseDups ++ s.hosted.filter fun x => !(x.1 == d && x.2.1 == c) }

/-- The cluster has failed: it is fenced, its teams are taken off it, and Held ones are placed again (R320). DEDUCED (log 80). -/
def State.fence (s : State) (d c : Nat) : State :=
  let s := s.suspectInterval d c
  let s : State := { s with fenced := (d, c) :: s.fenced, tested := (d, c, s.tick) :: s.tested.filter fun x => !(x.1 == d && x.2.1 == c) }
  let ts := s.teams.filter fun t => t.at_ == .resident && t.core.die == d && t.core.cluster == c
  let s := ts.foldl (fun s t => (s.uncharge t).swapOut t.launch t.idx) s
  let held := sortBy Team.older (s.teams.filter fun t => !t.follower && s.effective t.launch == .held && t.at_ == .swapped && among ts t)
  held.foldl State.rescue s

/-- INFIELD_TEST (R320): the cluster's groups halt in place, and go on after a pass; none happens while the tests are disabled.
DEDUCED (log 80). -/
def execInfieldTest (die cluster : Nat) (pass : Bool) (s : State) : Out :=
  if s.fenced.contains (die, cluster) || s.testEvery == 0 then .next s
  else
    let on := fun g : Group => g.core.die == die && g.core.cluster == cluster && g.going && g.key != 0
    let s := s.endRuns on (Group.halt s.tick)
    .next (if pass then s.testPassed die cluster else s.fence die cluster)

/-- A group, with its twin, is removed: its weight is returned lost (R239). -/
def State.removeGroup (s : State) (g : Group) : State :=
  let s := s.endGroup g.key true
  match g.twin with
  | some t => s.endGroup t true
  | none => s

/-- A launch is removed: its groups, the commands of its teams, and the teams that have not started. -/
def State.removeLaunch (s : State) (lid : BitVec 32) : State :=
  let s : State := { s with teams := updAll (fun t => t.launch == lid) (fun t => { t with queue := [] }) s.teams }
  let s := (s.groups.filter fun g => g.launch == lid && !g.ended && g.key != 0).foldl (fun s g => s.endGroup g.key true) s
  let s : State := { s with teams := updAll (fun t => t.launch == lid) (fun t => { t with at_ := .ended }) s.teams }
  s.endLaunch lid

/-- LAUNCH_REMOVAL (R239). -/
def execLaunchRemoval (lid : BitVec 32) (grp : Option Nat) (s : State) : Out :=
  match grp with
  | none => .next (s.removeLaunch lid)
  | some k =>
    match s.group? k with
    | none => .next s
    | some g => .next (if g.launch == lid && g.halted.isSome then s.removeGroup g else s)

/-- A group that halted for want of a handler goes on at TRAPPC (R21, R341). -/
def Group.resumeTrap (g : Group) : Group := { g with halted := none, pc := g.trapPc, em := g.trapEm &&& g.live, watchdog := 0 }

/-- A pair that was suspect goes on. -/
def Group.resumeSuspect (g : Group) : Group := { g with halted := none, mismatches := 0, rdv := none, watchdog := 0 }

/-- GROUP_RESUME (R21, R319, R341): a pair resumes with both twins, and a suspect one on a new placement; a frozen group does not.
DEDUCED (log 35). -/
def execGroupResume (gid : Word) (s : State) : Out :=
  match s.groups.find? fun g => g.gid == gid && !g.ended && g.key != 0 with
  | none => .next (s.reply 1)
  | some g =>
    let both := fun (f : Group → Group) => s.mapGroups fun x => if x.key == g.key || some x.key == g.twin then f x else x
    match g.halted with
    | some .trap => .next ((both Group.resumeTrap).reply 0)
    | some .suspect => .next (((both Group.resumeSuspect).swapOut g.launch g.team).reply 0)
    | _ => .next (s.reply 1)

/-! Fabric recovery (R323, R377). -/

/-- FABRIC_RECOVERY (R323, R374): a device, which may be this one, is under recovery for a window of at most 500 ms. -/
def execFabricRecovery (dev : BitVec 8) (windowMs : Nat) (s : State) : Out :=
  if 500 < windowMs then .next (s.reply 1)
  else if dev == s.device then .next (State.reply { s with apart := true } 0)
  else if s.lost.contains dev || s.recovering.contains dev then .next (s.reply 1)
  else .next (State.reply { s with recovering := dev :: s.recovering } 0)

/-- What stood for a device goes on. -/
def State.unsuspend (s : State) (dev : BitVec 8) : State :=
  State.mapGroups { s with recovering := s.recovering.filter (· != dev) }
    fun g => if g.suspended == some dev then { g with suspended := none } else g

/-- This device rejoins the pod: it has discarded its translations, and no access uses an old entry any longer (R374).
DEDUCED (log 44). -/
def State.rejoin (s : State) : State :=
  let base := globalKey s.device.toNat 0
  let s := s.mapGroups fun g => g.touch fun h => { h with again := true }
  State.rehomeAll { s with apart := false, stalePte := s.stalePte.filter fun p => p.1 < base || base + 2 ^ 52 ≤ p.1 }

/-- RECOVERED_WITHIN_WINDOW (R323, R374). -/
def execRecoveredWithinWindow (dev : BitVec 8) (s : State) : Out :=
  .next (if dev == s.device && s.apart then s.rejoin else s.unsuspend dev)

/-- A message to a lost device ends (R201, R323, R324). -/
def State.loseMessage (s : State) (m : OutMsg) : State :=
  match m.msg with
  | .depdec _ _ _ _ _ => s.failOne m.grp 0x19 (lostInfo m.dest.toNat 6) (((s.group? m.grp).map Group.em).getD 0)
  | .weirBorrow _ r d units _ _ => s.borrowed m r d units false
  | .quiet _ _ _ _ => s.failOne m.grp 0x19 (lostInfo m.dest.toNat 3) (((s.group? m.grp).map Group.em).getD 0)
  | _ => s.takeStatus m (statusWord 0x0B 0)

/-- Every root takes the units of a lost device back as lost (R377). -/
def State.loseBalance (s : State) (dev : BitVec 8) (x : Root) : State :=
  let n := (x.balance dev).toNat
  (s.onRoot x.reach x.domain fun x => x.setBalance dev fun _ => 0).applyReturn x.reach x.domain n n

/-- The lanes of a wait on words whose producer is a launch of a device (R323). DEDUCED (log 50). -/
def State.lanesAway (s : State) (dev : BitVec 8) (g : Group) : Mask :=
  match g.wait with
  | some (.lanes _ _ _ todo) =>
    let there := fun (l : Lane) => match (s.laneTarget l).who with
      | some (.launch lid) => s.away.any fun a => a.lid == lid && a.dev == dev
      | _ => false
    if g.waiting then Mask.ofFn fun i => (todo.filter there).any fun l => l.lane == i else 0
  | _ => 0

/-- The group waits for the answer to a message. -/
def Group.awaitsReply (g : Group) (m : OutMsg) : Bool :=
  m.grp == g.key && match g.wait, m.msg with
    | some (.remote tag), _ => m.tag == tag
    | some (.quiet _ _), .quiet _ _ _ _ => true
    | _, _ => false

/-- A group is suspended for a recovery window (R323): at an access, in a wait whose target or answer lies on the device, or at a boundary
that a write to the device holds up. DEDUCED (log 50). -/
def State.suspends (s : State) (g : Group) : Bool :=
  let under := fun (h : Hit) => match h with | .lost _ gone => !gone | _ => false
  g.suspended.isSome || s.recovering.any (fun dev => s.lanesAway dev g != 0)
    || (s.outbox.any fun m => s.recovering.contains m.dest && g.awaitsReply m)
    || (g.bound.isSome && ((g.drains.any fun d => (s.drainHome g (s.viewOf g) d).any fun x => !x.2)
      || g.side.any fun e => under (s.sideHit (s.reachOf g.launch) e)))

/-- What a group holds for a lost device ends: its wait there, drained writes, side-log entries, and held lanes. -/
def State.loseGroup (dev : BitVec 8) (s : State) (g : Group) : State :=
  let kind := match g.wait with | some (.lanes true _ _ _) => 0 | _ => 1
  let lanes := s.lanesAway dev g
  let s := if lanes = 0 then s else s.failOne g.key 0x19 (lostInfo dev.toNat kind) lanes
  let s := s.loseDrains g.key
  let s := State.replayAll g.key (g.side.filter fun e => match s.sideHit (s.reachOf g.launch) e with | .lost _ true => true | _ => false) s
  g.heldOps.foldl (State.serveHeld g.key) s

/-- RECOVERY_WINDOW_END (R323, R377): the device is lost. DEDUCED (log 50). -/
def execRecoveryWindowEnd (dev : BitVec 8) (s : State) : Out :=
  if !s.recovering.contains dev then .next s
  else
    let s := s.unsuspend dev
    let gone := s.outbox.filter fun m => m.dest == dev
    let s : State := { s with lost := dev :: s.lost, outbox := s.outbox.filter fun m => m.dest != dev
                              proxies := s.proxies.filter fun p => p.root != dev }
    let s := gone.foldl State.loseMessage s
    let s := s.roots.foldl (fun s x => s.loseBalance dev x) s
    .next ((s.groups.filter fun g => !g.ended && g.key != 0).foldl (State.loseGroup dev) s)

end Sys2Proof.Machine
end

