-- ==== Sys2Proof/Machine/Debug.lean ====
section
/-! DEFINITION. The privileged debug requests of the wharf cores (R347) and the drain of a trace buffer (R355). Every request answers
with a result code: 0 OK, 1 BUSY, 2 NOTHALTED, 3 NOGROUP, 4 NOTHELD. -/
namespace Sys2Proof.Machine

/-- A live group by its GID. -/
def State.byGid (s : State) (gid : Word) : Option Group := s.groups.find? fun g => g.gid == gid && !g.ended && g.key != 0

/-- A group that has halted, for whatever reason. -/
def Group.stands (g : Group) : Bool := g.halted.isSome || g.dbgStopped || g.preempted || g.spilled

/-- HALT (R347): every group of the launch stops at an instruction boundary, as a pre-emption would stop it: behind a trap entry or the end
of the group that is under way (R326). -/
def execHalt (lid : BitVec 32) (s : State) : Out :=
  if !s.isLive lid then .next (s.reply 3)
  else .next ((s.endRuns (fun g => g.launch == lid && !g.ended && g.key != 0) fun age g =>
    { (if g.stands || g.entering then g else g.halt s.tick age) with dbgHalt := true }).reply 0)

/-- RESUME (R347). -/
def execResume (lid : BitVec 32) (s : State) : Out :=
  if !s.isLive lid then .next (s.reply 3)
  else .next ((s.mapGroups fun g => if g.launch == lid then { g with dbgHalt := false } else g).reply 0)

/-- WRITECODE (R347): one word is performed at its home, whatever the page allows. An address that is not aligned, or has no page, takes
no write. DEDUCED (log 83). -/
def execWritecode (reach : BitVec 4) (addr : Word) (val : BitVec 32) (s : State) : Out :=
  if addr.toNat % 4 != 0 || 2 ^ 56 ≤ addr.toNat then .next (s.reply 1)
  else
    match [Acc.fetch, .read, .rmw].findSome? fun acc => (s.lookHit reach 0 acc addr.toNat).loc? with
    | some l => .next ((s.homeWrite l (leBytes val.toNat 4)).reply 0)
    | none => .next (s.reply 1)

/-- INVAL (R347): as ICINV level 2 on each core and its cluster. -/
def execInval (cores : List CoreId) (s : State) : Out := .next ((cores.foldl (fun s c => s.invalidate .both c 0) s).reply 0)

/-- What a state selector of a group reads. DEDUCED (log 83). -/
def State.selGet (s : State) (g : Group) : StateSel → Word
  | .v r l => if isV r then g.lane r l.toNat else 0
  | .e r l => (((g.e[r.toNat]?).map fun x => x.at l.toNat)).getD 0
  | .s r => g.sreg r
  | .p r => (g.preg r).setWidth 64
  | .csr n => s.csrGet g n.toNat 0
  | .pc => g.pc
  | .bankV n l => ((g.bankV[n.toNat]?).map fun x => x.at l.toNat).getD 0
  | .bankS n => (g.bankS[n.toNat]?).getD 0

/-- What a state selector of a group writes. The e registers of a halted run go on with it (R146). DEDUCED (log 83). -/
def State.selSet (s : State) (g : Group) (x : Word) : StateSel → State
  | .v r l => if isV r then s.onGroup g.key fun g => g.writeL (oneLane l.toNat) r fun _ => x else s
  | .e r l => s.onGroup g.key fun g => g.writeL (oneLane l.toNat) (56 + r.setWidth 6) fun _ => x
  | .s r => s.onGroup g.key fun g => g.setS r x
  | .p r => s.onGroup g.key fun g => g.writeP (~~~0#32) r (x.setWidth 32)
  | .csr n =>
    if 0x120 ≤ n.toNat && n.toNat < 0x130 then
      s.onGroup g.key fun g => { g with dbgin := g.dbgin.setIfInBounds (n.toNat - 0x120) x }
    else s.csrSet g.key n.toNat x
  | .pc => s.onGroup g.key fun g => { g with pc := x &&& ~~~3#64 }
  | .bankV n l => s.onGroup g.key fun g =>
    { g with bankV := g.bankV.setIfInBounds n.toNat (lanesOf fun i =>
        if i == l.toNat then x else (((g.bankV[n.toNat]?).map fun y => y.at i)).getD 0) }
  | .bankS n => s.onGroup g.key fun g => { g with bankS := g.bankS.setIfInBounds n.toNat x }

/-- READ_STATE (R347). -/
def execReadState (gid : Word) (sel : StateSel) (s : State) : Out :=
  match s.byGid gid with
  | none => .next (s.reply 3)
  | some g => .next (if g.stands then s.reply 0 [s.selGet g sel] else s.reply 2)

/-- What the debugger does to a group it does to its twin too: both run the same instructions (R315, R359). DEDUCED (log 83). -/
def State.toTwins (s : State) (g : Group) (f : State → Group → State) : State :=
  match g.twin.bind s.group? with
  | some t => f (f s g) t
  | none => f s g

/-- WRITE_STATE (R347). -/
def execWriteState (gid : Word) (sel : StateSel) (val : Word) (s : State) : Out :=
  match s.byGid gid with
  | none => .next (s.reply 3)
  | some g => .next (if g.stands then (s.toTwins g fun s g => s.selSet g val sel).reply 0 else s.reply 2)

/-- READTILE (R347): the 128 words of a row of a tile that the team holds. DEDUCED (log 83). -/
def execReadtile (lid : BitVec 32) (team tile row : Nat) (s : State) : Out :=
  match s.team? lid team with
  | none => .next (s.reply 3)
  | some t =>
    if t.at_ == .unstarted || t.at_ == .ended then .next (s.reply 3)
    else if !t.tiles.contains tile then .next (s.reply 4)
    else if t.queue.any fun c => cmdTile c.word == tile then .next (s.reply 1)
    else .next (s.reply 0 ((List.range 128).map fun j => BitVec.ofNat 64 (memRead s.mem (tileWord t.core tile row j) 4)))

/-- READOUT (R347): the message, and OUTV is cleared. -/
def execReadout (gid : Word) (s : State) : Out :=
  match s.byGid gid with
  | none => .next (s.reply 3)
  | some g => .next ((s.toTwins g fun s g => s.onGroup g.key fun g => { g with outv := false }).reply 0 g.dbgout.toList)

/-- Words go to DBGIN0 and up. -/
def Group.mailIn (vals : List Word) (g : Group) : Group :=
  { g with dbgin := Vector.ofFn fun i : Fin 16 => vals.getD i.val g.dbgin[i], inv := true }

/-- WRITEIN (R347, R353). -/
def execWritein (gid : Word) (vals : List Word) (s : State) : Out :=
  match s.byGid gid with
  | none => .next (s.reply 3)
  | some g => .next ((s.toTwins g fun s g => s.onGroup g.key (Group.mailIn vals)).reply 0)

/-- TRACE_BUFFER_DRAIN (R355): the oldest bytes leave the buffer, and a loss is recorded when the room has come back. -/
def execTraceBufferDrain (die cluster bytes : Nat) (s : State) : Out :=
  let t := s.traceOf die cluster
  let u := Trace.recover (Config.cycles s.tick) { t with bytes := t.bytes.drop bytes }
  .next ((s.setTrace u).reply 0 [] (t.bytes.take bytes))

end Sys2Proof.Machine
end

