-- ==== Sys2Proof/Machine/FloatOps.lean ====
section
/-! DEFINITION. Floating-point, special-function, conversion and dot instructions (R83–R96). -/
namespace Sys2Proof.Machine

/-- The loop of R83 in a float format, with the old d as the third source. -/
def Group.flt3 (g : Group) (f : FFmt) (d a b : LReg) (gd : Guard) (op : Fmt → Nat → Nat → Nat → FRes) : Group :=
  g.writeF (g.acts gd) d fun l => mapF (fmtOf f).width (op (fmtOf f)) (g.lane a l) (g.lane b l) (g.lane d l)

/-- FADD (R86). -/
def execFadd (f : FFmt) (d a b : LReg) (gd : Guard) (s : State) : Out :=
  s.done (s.g.flt3 f d a b gd fun t x y _ => t.add s.g.frm x y)
/-- FSUB (R86). -/
def execFsub (f : FFmt) (d a b : LReg) (gd : Guard) (s : State) : Out :=
  s.done (s.g.flt3 f d a b gd fun t x y _ => t.sub s.g.frm x y)
/-- FMUL (R86). -/
def execFmul (f : FFmt) (d a b : LReg) (gd : Guard) (s : State) : Out :=
  s.done (s.g.flt3 f d a b gd fun t x y _ => t.mul s.g.frm x y)
/-- FFMA (R86). -/
def execFfma (f : FFmt) (d a b : LReg) (gd : Guard) (s : State) : Out :=
  s.done (s.g.flt3 f d a b gd fun t x y c => t.fma s.g.frm x y c)
/-- FFMS (R86). -/
def execFfms (f : FFmt) (d a b : LReg) (gd : Guard) (s : State) : Out :=
  s.done (s.g.flt3 f d a b gd fun t x y c => t.fms s.g.frm x y c)
/-- FMIN (R87). -/
def execFmin (f : FFmt) (d a b : LReg) (gd : Guard) (s : State) : Out :=
  s.done (s.g.flt3 f d a b gd fun t x y _ => t.minMax false x y)
/-- FMAX (R87). -/
def execFmax (f : FFmt) (d a b : LReg) (gd : Guard) (s : State) : Out :=
  s.done (s.g.flt3 f d a b gd fun t x y _ => t.minMax true x y)
/-- FABS (R87): the sign bit is cleared, whatever the value. -/
def execFabs (f : FFmt) (d a : LReg) (gd : Guard) (s : State) : Out :=
  s.done (s.g.writeL (s.g.acts gd) d fun l =>
    mapElems (fmtOf f).width (fun x _ _ => x % 2 ^ ((fmtOf f).width - 1)) (s.g.lane a l) 0 0)
/-- FNEG (R87): the sign bit is inverted, whatever the value. -/
def execFneg (f : FFmt) (d a : LReg) (gd : Guard) (s : State) : Out :=
  s.done (s.g.writeL (s.g.acts gd) d fun l =>
    mapElems (fmtOf f).width (fun x _ _ => x ^^^ 2 ^ ((fmtOf f).width - 1)) (s.g.lane a l) 0 0)
/-- FCMP (R88). -/
def execFcmp (pd : PReg) (a b : LReg) (c : FCond) (m : Comb) (s : State) : Out :=
  let r := fun l => fcmpHolds c (elem 32 0 (s.g.lane a l)) (elem 32 0 (s.g.lane b l))
  s.done ((s.g.writeP s.g.em pd (combine m (s.g.preg pd) (Mask.ofFn fun l => (r l).1))).raise
    (flagsOf s.g.em fun l => (r l).2))
/-- FSPEC (R89–R91). -/
def execFspec (fn : FFun) (f : FFmt) (d a : LReg) (gd : Guard) (s : State) : Out :=
  s.done (s.g.flt3 f d a a gd fun _ x _ _ => fspec fn f s.g.frm x)

/-- One lane of CVT (R92): narrowing fills a part of the old d, widening reads a part of a. -/
def cvtLane (r : CvtRow) (sz : BitVec 2) (rm : BitVec 2) (a old : Word) : Word × BitVec 5 :=
  let ws := r.src.width
  let wd := r.dst.width
  let n := 64 / max ws wd
  let part := r.part sz
  if wd < ws then
    (ofElems wd fun i => if part * n ≤ i && i < part * n + n then (convert r rm (elem ws (i - part * n) a)).1
      else elem wd i old,
      flagsN (fun i => (convert r rm (elem ws i a)).2) n)
  else
    let at0 := if ws < wd then part * n else 0
    (ofElems wd fun i => (convert r rm (elem ws (at0 + i) a)).1,
      flagsN (fun i => (convert r rm (elem ws (at0 + i) a)).2) n)

/-- CVT (R92, R93). -/
def execCvt (sel : BitVec 6) (part : BitVec 2) (d a : LReg) (gd : Guard) (s : State) : Out :=
  match cvtRow sel with
  | some r => s.done (s.g.writeF (s.g.acts gd) d fun l => cvtLane r part s.g.frm (s.g.lane a l) (s.g.lane d l))
  | none => s.done s.g

/-- The element format and width of a DOT pair (R94). -/
def dotFmt : DotPair → Option Fmt
  | .e4m3 => some Machine.e4m3
  | .e5m2 => some Machine.e5m2
  | .e2m1 => some Machine.e2m1
  | .i8 => none

/-- One lane of DOT (R59, R94). -/
def dotLane (pair : DotPair) (hi : Bool) (rm : BitVec 2) (a b d : Word) : Word × BitVec 5 :=
  let c := elem 32 (if hi then 1 else 0) d
  let r : FRes :=
    match dotFmt pair with
    | some f =>
      let n := 64 / f.width
      dotFloat f rm ((List.range n).map fun i => elem f.width i a) ((List.range n).map fun i => elem f.width i b) c
    | none => (dotInt ((List.range 8).map fun i => elem 8 i a) ((List.range 8).map fun i => elem 8 i b) c, 0)
  (ofElems 32 fun i => if (i == 1) == hi then r.1 else elem 32 i d, r.2)

/-- DOT (R59, R94). -/
def execDot (pair : DotPair) (hi : Bool) (d a b : LReg) (gd : Guard) (s : State) : Out :=
  s.done (s.g.writeF (s.g.acts gd) d fun l => dotLane pair hi s.g.frm (s.g.lane a l) (s.g.lane b l) (s.g.lane d l))

end Sys2Proof.Machine
end

