-- ==== Sys2Proof/Machine/System.lean ====
section
/-! DEFINITION. The fabric and the pod (R367–R374), the network and calls to the wharf cores (R379–R381), boot (R382, R383), attestation
and keys (R384–R386), the alarm, management and power (R387–R390), and time accounting and metering (R357, R358). -/
namespace Sys2Proof.Machine

/-! Inside the package (R367, R368). No result depends on the paths. -/

/-- The dies through which traffic from a die to another passes (R367); dies 4 and 5 are the I/O dies. -/
def packagePath (a b : Nat) : List Nat :=
  let from_ := fun (a b : Nat) =>
    if b < 4 then (if a + b == 3 then [if a == 0 || a == 3 then 1 else 0] else [])
    else if a / 2 == b - 4 then [] else [(a + 2) % 4]
  if a == b then []
  else if a < 4 then from_ a b
  else if b < 4 then from_ b a
  else if a < b then [0, 2] else [2, 0]

/-- The memory link of a physical address on its home device (R368). -/
def memoryLink (pa : Nat) : Nat :=
  pa / 2 ^ 8 % 64 ^^^ pa / 2 ^ 14 % 64 ^^^ pa / 2 ^ 20 % 64 ^^^ pa / 2 ^ 26 % 64 ^^^ pa / 2 ^ 32 % 64 ^^^ pa / 2 ^ 38 % 32

/-- The byte offset within the link's module (R368). -/
def moduleOffset (pa : Nat) : Nat := pa / 2 ^ 14 % 2 ^ 29 * 256 + pa % 256

/-! Links and routes (R369, R370). -/

/-- The link-down event in the fault queue (R369). DEDUCED (log 87). -/
def linkFault (link : BitVec 4) : FaultRec :=
  { pid := 0, tid := 0, gid := 0, engine := none, va := 0, access := 0, reason := 0, level := 0, link := some link }

/-- FLIT_REPLAY (R369): the 16th replay of one flit that fails takes the link down; the black box has the link and the flit's sequence
number (R388). DEDUCED (log 87). -/
def execFlitReplay (link : BitVec 4) (ok : Bool) (s : State) : Out :=
  if linkCount ≤ link.toNat || s.linksDown.contains link then .next s
  else
    let n := (((s.replays.find? fun x => x.1 == link).map Prod.snd).getD 0) + 1
    let rest := s.replays.filter fun x => x.1 != link
    if ok then .next { s with replays := rest }
    else if n < 16 then .next { s with replays := (link, n) :: rest }
    else .next (State.box { s with
        replays := rest
        linksDown := link :: s.linksDown
        faultQueue := s.faultQueue ++ [linkFault link] } 7 0xFF (BitVec.ofNat 64 (s.flit link.toNat * 2 ^ 8 + link.toNat)))

/-- Messages of a class are on their way to a device. DEDUCED (log 87). -/
def State.busyTo (s : State) (cls : Nat) (dest : BitVec 8) : Bool := s.outbox.any fun m => m.dest == dest && m.cls == cls && m.flying

/-- A class takes a route. -/
def State.setRoute (s : State) (x : Nat × BitVec 8 × BitVec 4) : State :=
  { s with routes := x :: s.routes.filter fun y => !(y.1 == x.1 && y.2.1 == x.2.1) }

/-- Route-table writes take effect in each class that has become idle towards the destination (R370). DEDUCED (log 87). -/
def State.settleRoutes (s : State) : State :=
  let due := s.routesNew.filter fun x => !s.busyTo x.1 x.2.1
  due.foldl State.setRoute { s with routesNew := s.routesNew.filter fun x => s.busyTo x.1 x.2.1 }

/-- ROUTE_TABLE_WRITE (R369, R370), in each of the six classes. DEDUCED (log 87). -/
def execRouteTableWrite (dest : BitVec 8) (link : BitVec 4) (s : State) : Out :=
  if linkCount ≤ link.toNat then .next (s.reply 1)
  else .next ((State.settleRoutes { s with
    routesNew := ((List.range 6).map fun c => (c, dest, link)) ++ s.routesNew.filter fun y => y.2.1 != dest }).reply 0)

/-! Messages that are applied here (R371, R372). -/

/-- A place of this device's main memory under a key ID. -/
def State.homeLoc (s : State) (r : BitVec 4) (pa key : Nat) : Loc :=
  { key := globalKey s.device.toNat pa, cipher := some (key % 128), foreign := s.foreignKey r (key % 128), pte := none, va := none }

/-- A read-modify-write at this home, of what the old value gives: the new value and the answer; a poisoned word is answered as an
error. -/
def State.homeRmw (s : State) (r : BitVec 4) (pa key n : Nat) (f : Nat → Nat × Nat) : State :=
  let l := s.homeLoc r pa key
  if s.poisoned l.key n then s.reply 1
  else
    let x := f (s.homeRead l n)
    (s.homeWrite l (leBytes x.1 n)).reply 0 [BitVec.ofNat 64 x.2]

/-- A message is applied. -/
def State.applyFab (s : State) (r : BitVec 4) : FabOp → State
  | .write pa key bs => (s.homeWrite (s.homeLoc r pa key) bs).reply 0
  | .read pa key n =>
    let l := s.homeLoc r pa key
    if s.poisoned l.key n then s.reply 1 else s.reply 0 [] ((List.range n).map (s.homeByte l))
  | .atom op w64 pa key b =>
    let n := lxBytes w64
    s.homeRmw r pa key n fun m => (atomNew op n m (elem (8 * n) 0 b), m)
  | .xchg w64 pa key b =>
    let n := lxBytes w64
    s.homeRmw r pa key n fun m => (elem (8 * n) 0 b, m)
  | .cas w64 pa key b d =>
    let n := lxBytes w64
    s.homeRmw r pa key n fun m => (if m == elem (8 * n) 0 d then elem (8 * n) 0 b else m, m)
  | .red op w64 pa key b rm =>
    let n := lxBytes w64
    s.homeRmw r pa key n fun m =>
      let x := redNew op rm n m (elem (8 * n) 0 b)
      (x.1, x.2.toNat)
  | .task m => s.remoteMessage m
  | .other _ => s

/-- Responses of a device fail authentication (R372): the accesses of the next step are retried, and where the retry fails too they are
accesses to a lost device. DEDUCED (log 87). -/
def State.dropResponse (s : State) (dev : BitVec 8) (again : Bool) : State :=
  let s := s.box 8 0xFF (dev.setWidth 64)
  if again then { s.box 8 0xFF (dev.setWidth 64) with unheard := [(dev, s.tick + 1)] } else s

/-- A message of a device has come in at least one flit of the link towards it (R369). DESIGN CHOICE (log 16). -/
def State.heard (s : State) (src : BitVec 8) : State :=
  match s.route? 0 src with
  | none => s
  | some l =>
    let was := ((s.flitsIn.find? fun x => x.1 == l).map Prod.snd).getD 0
    { s with flitsIn := (l, (was + 1 + (Config.reading s.tick (192 + l.toNat)).toNat) % 2 ^ 32) :: s.flitsIn.filter fun x => x.1 != l }

/-- A message may be authentic here: what carries a reach's data is encrypted under its fabric key (R372). -/
def State.hears (s : State) (r : BitVec 4) : FabOp → Bool
  | .other _ => true
  | _ => (s.reach? r).any fun x => x.fabricKey.isSome

/-- FABRIC_MESSAGE (R372, R377): one that fails authentication is dropped, with a security event in the black box; a lost device's is
discarded. A message counts in its link's inbound sequence (R369). DESIGN CHOICE (log 12). -/
def execFabricMessage (src : BitVec 8) (reach : BitVec 4) (op : FabOp) (authentic : Bool) (s : State) : Out :=
  if s.lost.contains src then .next s
  else if !authentic || !s.hears reach op then .next (s.box 8 0xFF (src.setWidth 64))
  else .next ((s.heard src).applyFab reach op)

/-! Page tables (R307, R373, R374). -/

/-- PTE_UPDATE (R373): the entry changes in this device's replica; until a shootdown, the old one may still be used (R307).
DEDUCED (log 44). -/
def execPteUpdate (_root table idx : Nat) (val : Word) (s : State) : Out :=
  let k := globalKey s.device.toNat (table + 8 * idx)
  let old := BitVec.ofNat 64 (memRead s.mem k 8)
  .next (State.rehomeAll { s with
    mem := memWrite s.mem k (leBytes val.toNat 8)
    poison := healed s.poison k 8
    stalePte := if old = val then s.stalePte else (k, old) :: s.stalePte })

/-- Bytes that one entry of a table of a level covers, and how many entries the table has (R302). -/
def levelSpan (lvl : Nat) : Nat × Nat := if lvl == 2 then (2 ^ 42, 2 ^ 14) else if lvl == 1 then (2 ^ 30, 2 ^ 12) else (2 ^ 18, 2 ^ 12)

/-- The entries of a table from `base` that a range of virtual addresses touches: the first index, and how many. -/
def touchedIdx (lvl base lo hi : Nat) : Nat × Nat :=
  let x := levelSpan lvl
  let first := (max lo base - base) / x.1
  let last := (min hi (base + x.1 * x.2) - base + x.1 - 1) / x.1
  (first, last - first)

/-- The values that a walk may still find in an entry. -/
def State.pteValues (s : State) (pa : Nat) : List Nat :=
  let k := globalKey s.device.toNat pa
  memRead s.mem k 8 :: (s.stalePte.filter fun p => p.1 == k).map fun p => p.2.toNat

/-- The tables that walks of a range pass through: level, address, and the first virtual address below. -/
def State.tablesIn (s : State) (lo hi : Nat) : (lvl table base : Nat) → List (Nat × Nat × Nat)
  | 0, table, base => [(0, table, base)]
  | n + 1, table, base =>
    let x := touchedIdx (n + 1) base lo hi
    (n + 1, table, base) :: (List.range x.2).flatMap fun i =>
      (s.pteValues (table + 8 * (x.1 + i))).flatMap fun e =>
        if pteBit e 0 && pteSize e == 3 then s.tablesIn lo hi n (ptePa e) (base + (x.1 + i) * (levelSpan (n + 1)).1) else []

/-- An entry lies on the walks of a range. -/
def onWalk (tables : List (Nat × Nat × Nat)) (lo hi pa : Nat) : Bool :=
  tables.any fun t =>
    let x := touchedIdx t.1 t.2.2 lo hi
    t.2.1 + 8 * x.1 ≤ pa && pa < t.2.1 + 8 * (x.1 + x.2)

/-- A held byte whose page a shootdown has touched is translated again when it drains (R308): its address lies in the range, or the entry
that maps it on the range's walks. -/
def Held.touch (va hi : Nat) (walked : Nat → Bool) (h : Held) : Held :=
  { h with again := h.again || h.va.any (fun a => va ≤ a && a < hi) || h.loc.pte.any walked }

/-- SHOOTDOWN (R307, R308, R374): no access of the reach uses an old entry for an address of the range any longer, and what its groups
hold there is translated again. DEDUCED (log 44). -/
def execShootdown (reach : BitVec 4) (va len : Nat) (s : State) : Out :=
  match s.reach? reach with
  | none => .next (s.reply 1)
  | some x =>
    let hi := min (va + len) (2 ^ 56)
    let tables := s.tablesIn va hi 2 x.root 0
    let base := globalKey s.device.toNat 0
    let walked := onWalk tables va hi
    let s := s.mapGroups fun g => if s.reachOf g.launch == reach then g.touch (Held.touch va hi walked) else g
    let s : State := { s with stalePte := s.stalePte.filter fun p => !(base ≤ p.1 && walked (p.1 - base)) }
    .next (s.rehomeAll.reply 0)

/-! The network (R379, R380). -/

/-- The place of every byte of a range of a reach; none: some byte has no page that allows the access. -/
def State.dmaLocs (s : State) (r : BitVec 4) (acc : Acc) (va n : Nat) : Option (List Loc) :=
  (List.range n).mapM fun i => match s.lookHit r i acc (va + i) with
    | .ok _ l => some l
    | _ => none

/-- The virtual address of a range of a registered memory region. -/
def State.regionVa (s : State) (r : BitVec 4) (region off n : Nat) : Option Nat :=
  match (s.reach? r).bind fun x => x.regions[region]? with
  | some x => if off + n ≤ x.2 then some (x.1 + off) else none
  | none => none

/-- RDMA_WRITE (R379, R391): a request outside a registered region, or to a page that is not mapped for it, is refused. -/
def execRdmaWrite (reach : BitVec 4) (region off : Nat) (bytes : List Byte) (s : State) : Out :=
  match (s.regionVa reach region off bytes.length).bind fun va => s.dmaLocs reach .ewrite va bytes.length with
  | none => .next (s.reply 1)
  | some ls =>
    .next ((s.commit (s.engineView 0 0 ⟨0, 0, 0⟩) ((ls.zip bytes).map fun x => { loc := x.1, val := x.2, bad := false })).reply 0)

/-- RDMA_READ (R379). -/
def execRdmaRead (reach : BitVec 4) (region off len : Nat) (s : State) : Out :=
  match (s.regionVa reach region off len).bind fun va => s.dmaLocs reach .eread va len with
  | none => .next (s.reply 1)
  | some ls =>
    if ls.any fun l => s.poisoned l.key 1 then .next (s.reply 1)
    else
      let t := ((ls.filterMap Loc.pte).eraseDups).foldl (fun s p => s.install false p) s
      .next (t.reply 0 [] (ls.map fun l => s.homeByte l 0))

/-- The header of a reply (R380), with `len` bytes of payload. DEDUCED (log 85). -/
def callHeader (status len : Nat) (op : BitVec 16) (seq pid : Word) : List Byte :=
  leBytes 1 1 ++ leBytes status 1 ++ leBytes (op ||| 0x8000).toNat 2 ++ leBytes len 4 ++ leBytes seq.toNat 8 ++ leBytes pid.toNat 8
    ++ List.replicate 8 0

/-- REMOTE_CALL (R380): a malformed request is answered with STATUS 1; the system cores take a well-formed one with its LEN bytes of
payload, and what it answers is the system software's affair. DEDUCED (log 85). -/
def execRemoteCall (ver : BitVec 8) (op : BitVec 16) (len : BitVec 32) (seq pid : Word) (zeros : Bool) (s : State) : Out :=
  if ver != 1 || !zeros then .next (s.reply 1 [] (callHeader 1 0 op seq pid))
  else
    let status := [0, 2, 3].getD ((Config.freeWord s.tick 48).toNat % 3) 0
    let payload := (List.range ((Config.freeWord s.tick 49).toNat % 2 ^ 32)).map fun i => (Config.freeWord s.tick (2 ^ 64 + i)).setWidth 8
    .next (State.reply { s with requests := s.requests ++ [{ op := op, len := len, seq := seq, pid := pid }] } status []
      (callHeader status payload.length op seq pid ++ payload))

/-! Calls to the wharf cores (R381). -/

/-- A byte of a call's block, as the wharf cores read it. -/
def State.blockByte (s : State) (q : QEntry) (i : Nat) : Byte :=
  match s.lookHit q.reach 0 .read (q.e.w1.toNat + i) with
  | .ok _ l => s.homeByte l 0
  | _ => 0

/-- A call's block. -/
def State.callBlock (s : State) (q : QEntry) : List Byte := (List.range 64).map (s.blockByte q)

/-- The reply word of a call: an aligned scratchpad word that is bound to the wharf. DEDUCED (log 70). -/
def State.replyWord (s : State) (q : QEntry) (bs : List Byte) : Option Nat :=
  let a := field bs 8 8
  if a % 8 != 0 then none
  else
    match s.steer (s.engineView q.producer q.team q.core) none a with
    | some (.pad _ k) =>
      if s.bindings.any fun b => b.granule == granuleKey k && b.prod == .wharf then some k else none
    | _ => none

/-- A block that is answered with OP: an undefined CLASS, or a zero field that is not zero. -/
def blockBad (bs : List Byte) : Bool := 2 < byteAt bs 4 || field bs 5 3 != 0 || field bs 20 4 != 0

/-- Results longer than 32 bits go into ARGS. -/
def State.writeArgs (s : State) (q : QEntry) (args : List Byte) : State :=
  (List.range (min 40 args.length)).foldl (fun s i => s.deviceWrite q.reach (q.e.w1.toNat + 24 + i) [args.getD i 0]) s

/-- The next call that is answered: the oldest that the wharf cores have popped, or else the first of the queue. -/
def State.nextCall (s : State) (r : BitVec 4) (q : BitVec 32) : State × Option QEntry :=
  let mine := fun e : QEntry => e.of r q
  let s := if s.calls.any mine then s else s.wharfTake r q
  match s.calls.find? mine with
  | none => (s, none)
  | some e => ({ s with calls := s.calls.erase e }, some e)

/-- WHARF_REPLY (R381): the reply word is filled as by STFE, and then the call's weight returns to its root. A block that names no
reply word leaves a record in the fault queue. DEDUCED (log 70). -/
def execWharfReply (reach : BitVec 4) (qnum : BitVec 32) (code : BitVec 6) (result : BitVec 32) (args : List Byte) (s : State) : Out :=
  if !(s.queues.any fun q => q.reach == reach && q.desc.qnum == qnum && q.desc.wharf) then .next s
  else
    match s.nextCall reach qnum with
    | (s, none) => .next s
    | (s, some q) =>
      let bs := s.callBlock q
      match s.replyWord q bs with
      | none =>
        let pid := ((s.launch? q.producer).map Launch.pid).getD 0
        let tid := ((s.groups.find? fun g => g.gid == q.gid).map Group.tid).getD pid
        let r : FaultRec :=
          { pid := pid, tid := tid, gid := q.gid, engine := none, va := field bs 8 8, access := 0, reason := 0, level := 0 }
        .next { s with faultQueue := s.faultQueue ++ [r] }
      | some k =>
        let bad := blockBad bs
        let s := if bad then s else s.writeArgs q args
        let status := if bad then statusWord 5 0 else statusWord code.toNat result.toNat
        let s := (s.homeWrite (padLoc k) (leBytes status.toNat 8)).fillWord k
        .next (s.entryBack q false)

/-! Boot (R368, R382, R383). -/

/-- The capacities that a module may have (R368). -/
def moduleSizes : List Nat := [2 ^ 34, 2 ^ 35, 2 ^ 36, 2 ^ 37]

/-- The bytes that a stage's digest covers: of the header, and LEN bytes of the image. -/
def stageBytes (i : StageImage) : List Byte := i.header.take 128 ++ i.image.take i.len

/-- The minimum SVN of a stage: the fused one, or what it has been raised to (R382, R383). -/
def State.svnMin (s : State) (n : Nat) : Nat := max (Config.fusedMin n) (((s.fuses.find? fun x => x.1 == n).map Prod.snd).getD 0)

/-- The fused minimum of a stage is raised, and never lowered (R383). -/
def State.raiseMin (s : State) (n svn : Nat) : State := { s with fuses := (n, max (s.svnMin n) svn) :: s.fuses.filter fun x => x.1 != n }

/-- Why a stage fails its check (R382): 0 it passes, 1 its header, 2 its signer, 3 its SVN, 4 its signature. DEDUCED (log 84). -/
def stageCause (n : Nat) (expected : BitVec 456 → Bool) (least : Nat) (i : StageImage) : Nat :=
  if i.magic != 0x4B594653 || i.stage != n || !i.zeros then 1
  else if !expected i.signer then 2
  else if i.svn < least then 3
  else if !Config.ed448Verify i.signer (Config.shake256 (stageBytes i)) i.sig then 4
  else 0

/-- The key that the boot ROM expects. -/
def romExpects (k : BitVec 456) : Bool := Config.shake256 (leBytes k.toNat 57) == Config.fusedKeyDigest

/-- The image of a stage that boots: the staged one where it passes, else that of the flash (R389). DEDUCED (log 84). -/
def stageFor (n : Nat) (expected : BitVec 456 → Bool) (least : Nat) (staged flash : List StageImage) : Option StageImage :=
  match staged.find? fun i => stageCause n expected least i == 0 with
  | some i => some i
  | none => flash.find? fun i => stageCause n expected least i == 0

/-- A stage that fails its check: its number, the cause, and the image of the flash, if it has one. -/
structure StageFault where
  stage : Nat
  cause : Nat
  image : Option StageImage
  deriving DecidableEq, Repr

/-- The chain from a stage on: the stages that passed, and the one that failed, if one did. DEDUCED (log 84). -/
def bootChain (least : Nat → Nat) (staged flash : List StageImage) :
    (left n : Nat) → (BitVec 456 → Bool) → List StageImage × Option StageFault
  | 0, _, _ => ([], none)
  | k + 1, n, expected =>
    match stageFor n expected (least n) staged flash with
    | none =>
      let i := flash.find? fun i => i.stage == n
      ([], some { stage := n, cause := (i.map (stageCause n expected (least n))).getD 1, image := i })
    | some i =>
      let r := bootChain least staged flash k (n + 1) fun key => key == Config.namedKey (stageBytes i)
      (i :: r.1, r.2)

/-- What a stage is measured as (R383). DEDUCED (log 84). -/
def stageMeasure (i : StageImage) : BitVec 512 := Config.shake256 (stageBytes i)

/-- The state after a reset in which nothing has run: what standby power and the fuses keep stays (R383, R387, R388).
DESIGN CHOICE (log 8); DEDUCED (log 84). -/
def State.afterReset (s : State) : State :=
  { State.reset with
    tick := s.tick
    fresh := s.fresh
    inputs := s.inputs
    device := s.device
    blackBox := s.blackBox
    almcause := s.almcause
    almcount := s.almcount
    staged := s.staged
    fuses := s.fuses }

/-- The system cores stop (R383, R387). DESIGN CHOICE (log 88). -/
def State.stopSystem (s : State) : State := { s with sysCores := sysCoresAt .stopped .stopped }

/-- The boot has failed at a stage, or in stage 2 at the modules (cause 5): the black box has the stage and the cause, and the device is
down (R383). The registers keep what the stages that passed have measured. DEDUCED (log 84). -/
def State.bootFails (s : State) (source stage cause : Nat) (measures : List (BitVec 512)) : State :=
  State.stopSystem { s.box 2 source (BitVec.ofNat 64 (stage + 256 * cause)) with down := true, measures := measures }

/-- Modules that a device may have (R368): 64 of one capacity. -/
def modulesOk (modules : List Nat) : Bool :=
  match modules with
  | m :: ms => moduleSizes.contains m && ms.length == 63 && ms.all (· == m)
  | [] => false

/-- DEVICE_RESET (R368, R382, R383): stage 2 brings up the memory links before it checks stage 3. DESIGN CHOICE (log 8);
DESIGN CHOICE (log 8); DEDUCED (log 84). -/
def execDeviceReset (stages : List StageImage) (modules : List Nat) (s : State) : Out :=
  let t := s.afterReset
  let r := bootChain s.svnMin s.staged stages 3 1 romExpects
  let passed := r.1.map stageMeasure
  let fail := fun f : StageFault =>
    Host.Outcome.next (t.bootFails 4 f.stage f.cause (passed ++ if f.stage == 1 then [] else (f.image.map stageMeasure).toList))
  match r.2 with
  | some f => if f.stage != 3 || modulesOk modules then fail f else .next (t.bootFails 0xFF 2 5 passed)
  | none =>
    if !modulesOk modules then .next (t.bootFails 0xFF 2 5 (passed.take 2))
    else
      .next { t with
        module := modules.headD 0
        svns := r.1.map StageImage.svn
        measures := passed
        stages := r.1.map fun i => (i.stage, i.load, i.image.take i.len)
        sysCores := sysCoresAt .runs .runs }

/-! Attestation and keys (R384–R386). -/

/-- Bytes 0–383 of an attestation report. -/
def State.report384 (s : State) (x : Reach) (nonce : BitVec 256) : List Byte :=
  leBytes 1 4 ++ leBytes Config.serial.toNat 8 ++ ((List.range 3).flatMap fun i => leBytes (s.svns.getD i 0) 2) ++ leBytes s.almcount 2
    ++ ((List.range 3).flatMap fun i => leBytes ((s.measures.getD i 0).toNat) 64) ++ leBytes (Config.shake256 x.images).toNat 64 ++ leBytes nonce.toNat 32
    ++ leBytes (Config.reachPublicKey s.device.toNat x.id.toNat).toNat 57 ++ List.replicate 19 0

/-- ATTESTATION_REQUEST (R384, R391): refused while the identity key is zeroised. -/
def execAttestationRequest (reach : BitVec 4) (nonce : BitVec 256) (s : State) : Out :=
  match if s.zeroised then none else s.reach? reach with
  | none => .next (s.reply 1)
  | some x =>
    let bs := s.report384 x nonce
    .next (s.reply 0 [] (bs ++ leBytes (Config.ed448Sign s.device.toNat bs).toNat 114))

/-- A reach gets a key, and every other reach loses the ID (R385). -/
def Reach.rekey (reach : BitVec 4) (key : BitVec 7) (val : BitVec 256) (x : Reach) : Reach :=
  let ks := x.keys.filter (· != key)
  let vs := x.keyVals.filter fun v => v.1 != key
  if x.id == reach then { x with keys := key :: ks, keyVals := (key, val) :: vs } else { x with keys := ks, keyVals := vs }

/-- A key ID has a new key: what was stored under it before is no longer readable (R385). DEDUCED (log 45). -/
def State.newGen (s : State) (key : BitVec 7) : State :=
  let gen := s.keyTags.foldl (fun n t => max n (t.2 / 256)) 0 + 1
  { s with keyGens := (key.toNat, gen) :: s.keyGens.filter fun x => x.1 != key.toNat }

/-- KEY_ID_ASSIGNMENT (R385): the device generates a new key. DEDUCED (log 45). -/
def execKeyIdAssignment (reach : BitVec 4) (key : BitVec 7) (s : State) : Out :=
  if key == 0 || (s.reach? reach).isNone then .next (s.reply 1)
  else .next (State.reply { s.newGen key with reaches := s.reaches.map (Reach.rekey reach key (Config.newKey s.tick key.toNat)) } 0)

/-- A report is signed with the identity key of a device (R384). DEDUCED (log 86). -/
def reportSigned (dev : BitVec 8) (report : List Byte) : Bool :=
  report.length == 498
    && Config.ed448Verify (Config.identityKey dev.toNat) (Config.shake256 (report.take 384)) (BitVec.ofNat 912 (field report 384 114))

/-- A report satisfies the rule of a reach's owner (R386): the minimum SVNs, and measurements that are all accepted.
DEDUCED (log 86). -/
def Reach.satisfied (x : Reach) (report : List Byte) : Bool :=
  (List.range x.minSvn.length).all (fun i => x.minSvn.getD i 0 ≤ field report (12 + 2 * i) 2)
    && (List.range 3).all fun i => x.accepted.contains (BitVec.ofNat 512 (field report (20 + 64 * i) 64))

/-- The other device has signed its ephemeral public key (R386). DEDUCED (log 86). -/
def offerSigned (dev : BitVec 8) (o : KeyOffer) : Bool :=
  Config.ed448Verify (Config.identityKey dev.toNat) (Config.shake256 (leBytes o.pub.toNat 56)) o.sig

/-- The keys of a reach as they are sent (R386): the fabric key, and then each key with its ID. DEDUCED (log 86). -/
def Reach.keyBytes (x : Reach) : List Byte :=
  leBytes (x.fabricKey.getD 0).toNat 32 ++ x.keyVals.flatMap fun v => leBytes v.1.toNat 1 ++ leBytes v.2.toNat 32

/-- The keys that come in sent bytes. DEDUCED (log 86). -/
def keysOf : (n : Nat) → List Byte → List (BitVec 7 × BitVec 256)
  | 0, _ => []
  | n + 1, bs => (BitVec.ofNat 7 (byteAt bs 0), BitVec.ofNat 256 (field bs 1 32)) :: keysOf n (bs.drop 33)

/-- The keys of a migrating reach come to this device, its target (R386). DEDUCED (log 86). -/
def State.takeKeys (s : State) (r : BitVec 4) (bs : List Byte) : State :=
  let ks := keysOf ((bs.length - 32) / 33) (bs.drop 32)
  let s := s.onReach r fun x => { x with fabricKey := some (BitVec.ofNat 256 (field bs 0 32)) }
  { s with reaches := ks.foldl (fun l k => l.map (Reach.rekey r k.1 k.2)) s.reaches }

/-- MIGRATION_KEY_TRANSFER (R386): the peer's report and its signed public key are checked. As the source, this device sends the keys,
under the agreed key, only to a target whose report satisfies the rule of the reach's owner; as the target it takes them.
DEDUCED (log 86). -/
def execMigrationKeyTransfer (reach : BitVec 4) (peer : BitVec 8) (report : List Byte) (offer : KeyOffer) (s : State) : Out :=
  match if s.zeroised || s.lost.contains peer || !reportSigned peer report || !offerSigned peer offer then none else s.reach? reach with
  | none => .next (s.reply 1)
  | some x =>
    let agreed := Config.x448 (Config.ephemeral s.tick) offer.pub
    match offer.sealed with
    | some bs => .next ((s.takeKeys reach (Config.unwrapKeys agreed bs)).reply 0)
    | none =>
      if !x.satisfied report then .next (s.reply 1)
      else
        .next (State.reply { s with rehomed := (reach, peer) :: s.rehomed.filter fun y => y.1 != reach } 0 []
          (Config.wrapKeys agreed x.keyBytes))

/-! Alarm, management, power (R387–R390). -/

/-- ALMCAUSE_WRITE (R387): write 1 to clear. -/
def execAlmcauseWrite (val : Word) (s : State) : Out := .next { s with almcause := s.almcause &&& ~~~(val.setWidth 5) }

/-- ALMCAUSE as a word. -/
def almWord (count : Nat) (cause : BitVec 5) : Word := BitVec.ofNat 64 (256 * count + cause.toNat)

/-- SECURITY_ALARM (R387). -/
def execSecurityAlarm (cause : BitVec 5) (s : State) : Out :=
  let n := min 255 (s.almcount + 1)
  let c := s.almcause ||| cause
  .next (State.box { s.stopSystem with
    zeroised := true
    reaches := s.reaches.map fun x => { x with keyVals := [], fabricKey := none }
    alarmed := true
    almcause := c
    almcount := n } 1 0xFF (almWord n c))

/-- The 16 bytes of a black-box record (R388). -/
def BBox.bytes (b : BBox) : List Byte := leBytes b.us 6 ++ leBytes b.type 1 ++ leBytes b.source 1 ++ leBytes b.detail.toNat 8

/-- MANAGEMENT_READ (R389). DESIGN CHOICE (log 16). -/
def execManagementRead (sel : MgmtSel) (s : State) : Out :=
  .next (match sel with
    | .thermal => s.reply 0 [Config.reading s.tick 0]
    | .power => s.reply 0 [Config.reading s.tick 1]
    | .cap => s.reply 0 [BitVec.ofNat 64 s.powerCap]
    | .metering r off =>
      match s.reach? r with
      | some x => s.reply 0 [x.meter.getD (off.toNat / 8) 0]
      | none => s.reply 1
    | .status => s.reply 0 [if s.down then 1 else 0]
    | .blackBox => s.reply 0 [] (s.blackBox.reverse.flatMap BBox.bytes))

/-- FIRMWARE_UPDATE (R389): an image is staged for the next reset. -/
def execFirmwareUpdate (stage : StageImage) (s : State) : Out :=
  .next (State.reply { s with staged := stage :: s.staged.filter fun i => i.stage != stage.stage } 0)

/-- POWER_CAP_SET (R390). -/
def execPowerCapSet (watts : Nat) (s : State) : Out :=
  if 800 ≤ watts && watts ≤ 2000 then .next (State.reply { s with powerCap := watts } 0) else .next (s.reply 1)

/-- The core clock is lowered by one step. -/
def State.slower (s : State) : State := { s with clock := max 900 (s.clock - 100) }

/-- POWER_CAP_EXCEEDED (R390). -/
def execPowerCapExceeded (s : State) : Out := .next s.slower

/-- THERMAL_LIMIT (R390): above 105 °C the clock is lowered, at 115 °C the device shuts down. -/
def execThermalLimit (celsius : Nat) (s : State) : Out :=
  if 115 ≤ celsius then .next (State.stopSystem { s.box 9 0xFF (BitVec.ofNat 64 celsius) with down := true })
  else if 105 < celsius then .next s.slower
  else .next s

/-! Time accounting and metering (R357, R358). -/

/-- The reply words of some calls, with their classes. -/
def State.callWords (s : State) (calls : List QEntry) : List (Nat × Nat) :=
  calls.filterMap fun q =>
    let bs := s.callBlock q
    (s.replyWord q bs).map fun k => (k, byteAt bs 4)

/-- The calls that wait in wharf queues. -/
def State.queuedCalls (s : State) : List QEntry := s.entries.filter fun e => ((s.queue? e.reach e.qnum).map fun q => q.desc.wharf).getD false

/-- The reply words of the calls of CLASS 0 that the wharf cores are serving, and of every call of CLASS 1 or 2 (R357, R381). -/
def State.timedWords (s : State) : List (Nat × Nat) :=
  s.callWords s.calls ++ (s.callWords s.queuedCalls).filter fun x => x.2 != 0

/-- A group of a launch waits on a reply word of a class. -/
def State.waitsCall (s : State) (words : List (Nat × Nat)) (lid : BitVec 32) (p : Nat → Bool) : Bool :=
  !words.isEmpty && s.groups.any fun g => g.launch == lid && !g.ended && g.waiting &&
    match g.wait with
    | some w => w.todo.any fun l => words.any fun x => x.1 == l.word && p x.2
    | none => false

/-- A group is in fault service (R309). -/
def Group.inService (g : Group) : Bool := (g.heldOps.any fun h => !h.late) || g.fetchHeld.isSome || !g.side.isEmpty

/-- An engine operation of a launch runs: none that a pre-emption has stopped (R327). -/
def State.engineBusy (s : State) (lid : BitVec 32) : Bool :=
  (s.oneShots.any fun o => o.launch == lid && s.enginesRun lid o.core) || (s.colls.any fun c => c.launch == lid)
    || (s.convs.any fun c => c.launch == lid && s.enginesRun lid c.core)
    || (s.channels.any fun c => c.launch == lid && c.running.any fun r => s.enginesRun lid r.core)
    || (s.teams.any fun t => t.launch == lid && !t.queue.isEmpty && s.matrixRuns t)

/-- The wait of a group on its core has ended: it is about to be ready (R142). -/
def Group.woken (g : Group) : Bool := g.runnable && g.wait.isSome && g.waitEnd != .pending

/-- The category that a launch's time counts in, by its number in R357. -/
def State.category (s : State) (words : List (Nat × Nat)) (lid : BitVec 32) : Nat :=
  let mine := fun g : Group => g.launch == lid && !g.ended && g.key != 0
  if s.waitsCall words lid (· == 0) then 1
  else if s.groups.any fun g => mine g && g.inService then 2
  else if s.waitsCall words lid fun c => c == 1 || c == 2 then 3
  else if !(s.teams.any fun t => t.launch == lid && t.at_ == .resident) then 4
  else if (s.groups.any fun g => mine g && (g.port.isSome || s.groupReady g.key || g.woken))
      || s.engineBusy lid then 5
  else 6

/-- Nanoseconds are counted in a category. -/
def Acct.count (cat ns : Nat) (a : Acct) : Acct :=
  match cat with
  | 1 => { a with syscall := a.syscall + ns }
  | 2 => { a with fault := a.fault + ns }
  | 3 => { a with iowait := a.iowait + ns }
  | 4 => { a with queue := a.queue + ns }
  | 5 => { a with engine := a.engine + ns }
  | _ => { a with other := a.other + ns }

/-- The Tugs that move bytes for some launches. -/
def State.busyTugs (s : State) (of : BitVec 32 → Bool) : List (Nat × Nat × Bool) :=
  let shots := (s.oneShots.filter fun o => of o.launch && s.enginesRun o.launch o.core).map fun o => (o.core.die, o.core.cluster, o.tug)
  let records := (s.channels.filter fun c => of c.launch && c.running.any fun r => s.enginesRun c.launch r.core).map fun c =>
    (handleDie c.handle, handleCluster c.handle, c.handle.getLsbD 3)
  (shots ++ records).eraseDups

/-- What one step adds to a reach's metering counters: what it has moved, in flits of 64 bytes on the fabric, at least one to a request;
ENERGY, for which the manual gives no computation, is a free value. DESIGN CHOICE (log 16). -/
def State.metered (s : State) (ns : Nat) (x : Reach) : List Word :=
  let of := fun lid => s.reachOf lid == x.id
  let mine := s.traffic.filter fun t => t.reach == x.id
  let sum := fun (f : Traffic → Nat) => (mine.map f).foldl (· + ·) 0
  let flits := if sum Traffic.sent == 0 then 0 else sum Traffic.sent + (Config.reading s.tick 35).toNat
  let add := [
    BitVec.ofNat 64 (ns * (s.groups.filter fun g => g.port.isSome && of g.launch).length),
    BitVec.ofNat 64 (ns * (allCores.filter fun c => (s.engineTeam c).any fun t => of t.launch).length),
    BitVec.ofNat 64 (ns * (s.busyTugs of).length),
    BitVec.ofNat 64 (ns * (((s.convs.filter fun c => c.running && of c.launch && s.enginesRun c.launch c.core).map Conv.die).eraseDups).length),
    BitVec.ofNat 64 (ns * (((s.colls.filter fun c => of c.launch).map fun c => c.core.die).eraseDups).length),
    BitVec.ofNat 64 (sum Traffic.rd), BitVec.ofNat 64 (sum Traffic.wr), BitVec.ofNat 64 (64 * flits), Config.reading s.tick 36]
  (List.range 9).map fun i => x.meter.getD i 0 + add.getD i 0

/-- The cluster of a core has been tested in this step (R320). -/
def State.testedNow (s : State) (c : CoreId) : Bool := s.tested.any fun x => x.1 == c.die && x.2.1 == c.cluster && x.2.2 == s.tick

/-- Time passes for a group: the watchdog counts scheduled time in which it is resident and retires nothing, and no time of a test of
its cluster (R322). DEDUCED (log 81). -/
def State.watched (old s : State) (ns : Nat) (g : Group) : Group :=
  if g.ended || g.stands || g.inService || s.suspends g || g.key == 0 || !s.inSlice (s.reachOf g.launch)
      || s.testedNow ((old.group? g.key).getD g).core then g
  else { g with watchdog := g.watchdog + ns }

/-- Time passes for a team: its wait-swap limit counts scheduled time in which every live group stands in a wait, and no time of a test
of its cluster (R141, R320). -/
def State.waitedFor (old s : State) (ns : Nat) (t : Team) : Team :=
  if !s.allStand t then { t with waited := 0 }
  else if t.at_ == .resident && s.inSlice (s.reachOf t.launch) && (s.liveOf t).all (fun g => !g.preempted)
      && !s.testedNow ((old.teams.find? t.same).getD t).core then { t with waited := t.waited + ns }
  else t

/-- The time of one step from `old` passes. DESIGN CHOICE (log 4, 5). -/
def State.elapse (old s : State) : State :=
  let ns := Config.stepNs s.tick
  let words := s.timedWords
  { s with
    tick := s.tick + 1
    traffic := []
    g := State.watched old s ns s.g
    others := s.others.map (State.watched old s ns)
    teams := s.teams.map (State.waitedFor old s ns)
    launches := s.launches.map fun l => if l.ended then l else { l with acct := l.acct.count (s.category words l.lid) ns }
    reaches := s.reaches.map fun x => { x with meter := s.metered ns x } }

end Sys2Proof.Machine
end

