-- ==== Sys2Proof/Machine/Uniform.lean ====
section
/-! DEFINITION. Scalar instructions (R100–R103). -/
namespace Sys2Proof.Machine

/-- A scalar operation on 64-bit values (R100). -/
def State.salu (s : State) (sd sa sb : SReg) (f : Word → Word → Word) : Out :=
  s.done (s.g.setS sd (f (s.g.sreg sa) (s.g.sreg sb)))

/-- A scalar operation given on natural numbers of width 64. -/
def natOp (f : Nat → Nat → Nat) (a b : Word) : Word := BitVec.ofNat 64 (f a.toNat b.toNat)

/-- SADD (R100). -/
def execSadd (sd sa sb : SReg) (s : State) : Out := s.salu sd sa sb fun a b => a + b
/-- SSUB (R100). -/
def execSsub (sd sa sb : SReg) (s : State) : Out := s.salu sd sa sb fun a b => a - b
/-- SMUL (R100). -/
def execSmul (sd sa sb : SReg) (s : State) : Out := s.salu sd sa sb fun a b => a * b
/-- SMULHI (R100). -/
def execSmulhi (sd sa sb : SReg) (s : State) : Out := s.salu sd sa sb (natOp (mulHi 64))
/-- SAND (R100). -/
def execSand (sd sa sb : SReg) (s : State) : Out := s.salu sd sa sb fun a b => a &&& b
/-- SOR (R100). -/
def execSor (sd sa sb : SReg) (s : State) : Out := s.salu sd sa sb fun a b => a ||| b
/-- SXOR (R100). -/
def execSxor (sd sa sb : SReg) (s : State) : Out := s.salu sd sa sb fun a b => a ^^^ b
/-- SANDN (R100). -/
def execSandn (sd sa sb : SReg) (s : State) : Out := s.salu sd sa sb fun a b => a &&& ~~~b
/-- SSHL (R100). -/
def execSshl (sd sa sb : SReg) (s : State) : Out := s.salu sd sa sb (natOp (shlW 64))
/-- SSHR (R100). -/
def execSshr (sd sa sb : SReg) (s : State) : Out := s.salu sd sa sb (natOp (shrW 64))
/-- SSAR (R100). -/
def execSsar (sd sa sb : SReg) (s : State) : Out := s.salu sd sa sb (natOp (sarW 64))
/-- SMIN (R100). -/
def execSmin (sd sa sb : SReg) (s : State) : Out := s.salu sd sa sb (natOp (minS 64))
/-- SMAX (R100). -/
def execSmax (sd sa sb : SReg) (s : State) : Out := s.salu sd sa sb (natOp (maxS 64))
/-- SMINU (R100). -/
def execSminu (sd sa sb : SReg) (s : State) : Out := s.salu sd sa sb (natOp (minU 64))
/-- SMAXU (R100). -/
def execSmaxu (sd sa sb : SReg) (s : State) : Out := s.salu sd sa sb (natOp (maxU 64))

/-- SADDI (R101). -/
def execSaddi (sd sa : SReg) (imm : BitVec 13) (s : State) : Out :=
  s.done (s.g.setS sd (s.g.sreg sa + imm.signExtend 64))

/-- SLI (R101). -/
def execSli (sd : SReg) (h : HSel) (imm : BitVec 16) (s : State) : Out :=
  s.done (s.g.setS sd (immInto h imm (s.g.sreg sd)))

/-- SCMP (R102): one bit for the group, written in the lanes set in EM. -/
def execScmp (pd : PReg) (sa sb : SReg) (c : Cond) (w64 : Bool) (m : Comb) (s : State) : Out :=
  let r : Mask := if compare c w64 (s.g.sreg sa) (s.g.sreg sb) then BitVec.allOnes 32 else 0
  s.done (s.g.writeP s.g.em pd (combine m (s.g.preg pd) r))

/-- SGET (R103). -/
def execSget (sd : SReg) (va : LReg) (lane : BitVec 5) (s : State) : Out :=
  s.done (s.g.setS sd (s.g.source va lane.toNat))

end Sys2Proof.Machine
end

