-- ==== Sys2Proof/Machine/Dispatch.lean ====
section
/-! DEFINITION. The dispatch of the instruction words and events: one arm for each constructor. -/
namespace Sys2Proof.Machine

/-- The meaning of an instruction or event in a state. -/
def exec (i : Instr) (s : State) : Host.Outcome State Fault Refusal :=
  match i with
  | .iadd w d a b g => Sys2Proof.Machine.execIadd w d a b g s
  | .isub w d a b g => Sys2Proof.Machine.execIsub w d a b g s
  | .iaddi w d a imm g => Sys2Proof.Machine.execIaddi w d a imm g s
  | .imin w d a b g => Sys2Proof.Machine.execImin w d a b g s
  | .imax w d a b g => Sys2Proof.Machine.execImax w d a b g s
  | .umin w d a b g => Sys2Proof.Machine.execUmin w d a b g s
  | .umax w d a b g => Sys2Proof.Machine.execUmax w d a b g s
  | .imul w d a b g => Sys2Proof.Machine.execImul w d a b g s
  | .imulhi w d a b g => Sys2Proof.Machine.execImulhi w d a b g s
  | .imad w d a b g => Sys2Proof.Machine.execImad w d a b g s
  | .imsb w d a b g => Sys2Proof.Machine.execImsb w d a b g s
  | .iaddsat w d a b g => Sys2Proof.Machine.execIaddsat w d a b g s
  | .isubsat w d a b g => Sys2Proof.Machine.execIsubsat w d a b g s
  | .uaddsat w d a b g => Sys2Proof.Machine.execUaddsat w d a b g s
  | .usubsat w d a b g => Sys2Proof.Machine.execUsubsat w d a b g s
  | .land w d a b g => Sys2Proof.Machine.execLand w d a b g s
  | .landn w d a b g => Sys2Proof.Machine.execLandn w d a b g s
  | .lor w d a b g => Sys2Proof.Machine.execLor w d a b g s
  | .lorn w d a b g => Sys2Proof.Machine.execLorn w d a b g s
  | .lxor w d a b g => Sys2Proof.Machine.execLxor w d a b g s
  | .lxnor w d a b g => Sys2Proof.Machine.execLxnor w d a b g s
  | .shl w d a b g => Sys2Proof.Machine.execShl w d a b g s
  | .shr w d a b g => Sys2Proof.Machine.execShr w d a b g s
  | .sar w d a b g => Sys2Proof.Machine.execSar w d a b g s
  | .rol w d a b g => Sys2Proof.Machine.execRol w d a b g s
  | .shli w d a imm g => Sys2Proof.Machine.execShli w d a imm g s
  | .shri w d a imm g => Sys2Proof.Machine.execShri w d a imm g s
  | .sari w d a imm g => Sys2Proof.Machine.execSari w d a imm g s
  | .popc w d a g => Sys2Proof.Machine.execPopc w d a g s
  | .clz w d a g => Sys2Proof.Machine.execClz w d a g s
  | .brev w d a g => Sys2Proof.Machine.execBrev w d a g s
  | .ctz w d a g => Sys2Proof.Machine.execCtz w d a g s
  | .bfx w d a b g => Sys2Proof.Machine.execBfx w d a b g s
  | .bfxs w d a b g => Sys2Proof.Machine.execBfxs w d a b g s
  | .bfi w d a b g => Sys2Proof.Machine.execBfi w d a b g s
  | .iabs w d a g => Sys2Proof.Machine.execIabs w d a g s
  | .ineg w d a g => Sys2Proof.Machine.execIneg w d a g s
  | .mov d a g => Sys2Proof.Machine.execMov d a g s
  | .movs d sa g => Sys2Proof.Machine.execMovs d sa g s
  | .movi d h imm => Sys2Proof.Machine.execMovi d h imm s
  | .sel d a b p => Sys2Proof.Machine.execSel d a b p s
  | .icmp pd a b c w64 m => Sys2Proof.Machine.execIcmp pd a b c w64 m s
  | .plop pd pa pb f => Sys2Proof.Machine.execPlop pd pa pb f s
  | .pmovGet d hi g => Sys2Proof.Machine.execPmovGet d hi g s
  | .pmovSet a hi g => Sys2Proof.Machine.execPmovSet a hi g s
  | .fadd f d a b g => Sys2Proof.Machine.execFadd f d a b g s
  | .fsub f d a b g => Sys2Proof.Machine.execFsub f d a b g s
  | .fmul f d a b g => Sys2Proof.Machine.execFmul f d a b g s
  | .ffma f d a b g => Sys2Proof.Machine.execFfma f d a b g s
  | .ffms f d a b g => Sys2Proof.Machine.execFfms f d a b g s
  | .fmin f d a b g => Sys2Proof.Machine.execFmin f d a b g s
  | .fmax f d a b g => Sys2Proof.Machine.execFmax f d a b g s
  | .fabs f d a g => Sys2Proof.Machine.execFabs f d a g s
  | .fneg f d a g => Sys2Proof.Machine.execFneg f d a g s
  | .fcmp pd a b c m => Sys2Proof.Machine.execFcmp pd a b c m s
  | .fspec fn f d a g => Sys2Proof.Machine.execFspec fn f d a g s
  | .cvt sel part d a g => Sys2Proof.Machine.execCvt sel part d a g s
  | .dot pair hi d a b g => Sys2Proof.Machine.execDot pair hi d a b g s
  | .perm w d a b g => Sys2Proof.Machine.execPerm w d a b g s
  | .lxch x d a g => Sys2Proof.Machine.execLxch x d a g s
  | .lred op d a g => Sys2Proof.Machine.execLred op d a g s
  | .lscan op exc d a g => Sys2Proof.Machine.execLscan op exc d a g s
  | .vote sd p mode => Sys2Proof.Machine.execVote sd p mode s
  | .ld w d a off la g => Sys2Proof.Machine.execLd w d a off la g s
  | .lds w d a off la g => Sys2Proof.Machine.execLds w d a off la g s
  | .st w d a off la g => Sys2Proof.Machine.execSt w d a off la g s
  | .ldfe w d a off la g => Sys2Proof.Machine.execLdfe w d a off la g s
  | .ldfw w d a off la g => Sys2Proof.Machine.execLdfw w d a off la g s
  | .stfe w d a off la g => Sys2Proof.Machine.execStfe w d a off la g s
  | .cas w64 sc d a b la => Sys2Proof.Machine.execCas w64 sc d a b la s
  | .red op w64 sc a b la => Sys2Proof.Machine.execRed op w64 sc a b la s
  | .atomAdd w64 sc d a b la => Sys2Proof.Machine.execAtomAdd w64 sc d a b la s
  | .atomSmin w64 sc d a b la => Sys2Proof.Machine.execAtomSmin w64 sc d a b la s
  | .atomSmax w64 sc d a b la => Sys2Proof.Machine.execAtomSmax w64 sc d a b la s
  | .atomUmin w64 sc d a b la => Sys2Proof.Machine.execAtomUmin w64 sc d a b la s
  | .atomUmax w64 sc d a b la => Sys2Proof.Machine.execAtomUmax w64 sc d a b la s
  | .atomAnd w64 sc d a b la => Sys2Proof.Machine.execAtomAnd w64 sc d a b la s
  | .atomOr w64 sc d a b la => Sys2Proof.Machine.execAtomOr w64 sc d a b la s
  | .atomXchg w64 sc d a b la => Sys2Proof.Machine.execAtomXchg w64 sc d a b la s
  | .tload slot d a la g => Sys2Proof.Machine.execTload slot d a la g s
  | .tstore slot d a la g => Sys2Proof.Machine.execTstore slot d a la g s
  | .sadd sd sa sb => Sys2Proof.Machine.execSadd sd sa sb s
  | .ssub sd sa sb => Sys2Proof.Machine.execSsub sd sa sb s
  | .smul sd sa sb => Sys2Proof.Machine.execSmul sd sa sb s
  | .smulhi sd sa sb => Sys2Proof.Machine.execSmulhi sd sa sb s
  | .sand sd sa sb => Sys2Proof.Machine.execSand sd sa sb s
  | .sor sd sa sb => Sys2Proof.Machine.execSor sd sa sb s
  | .sxor sd sa sb => Sys2Proof.Machine.execSxor sd sa sb s
  | .sandn sd sa sb => Sys2Proof.Machine.execSandn sd sa sb s
  | .sshl sd sa sb => Sys2Proof.Machine.execSshl sd sa sb s
  | .sshr sd sa sb => Sys2Proof.Machine.execSshr sd sa sb s
  | .ssar sd sa sb => Sys2Proof.Machine.execSsar sd sa sb s
  | .smin sd sa sb => Sys2Proof.Machine.execSmin sd sa sb s
  | .smax sd sa sb => Sys2Proof.Machine.execSmax sd sa sb s
  | .sminu sd sa sb => Sys2Proof.Machine.execSminu sd sa sb s
  | .smaxu sd sa sb => Sys2Proof.Machine.execSmaxu sd sa sb s
  | .saddi sd sa imm => Sys2Proof.Machine.execSaddi sd sa imm s
  | .sli sd h imm => Sys2Proof.Machine.execSli sd h imm s
  | .scmp pd sa sb c w64 m => Sys2Proof.Machine.execScmp pd sa sb c w64 m s
  | .sget sd va lane => Sys2Proof.Machine.execSget sd va lane s
  | .sld w sd sa off la => Sys2Proof.Machine.execSld w sd sa off la s
  | .sst w sd sa off la => Sys2Proof.Machine.execSst w sd sa off la s
  | .bra c p off => Sys2Proof.Machine.execBra c p off s
  | .brl off => Sys2Proof.Machine.execBrl off s
  | .brd p off => Sys2Proof.Machine.execBrd p off s
  | .jpush off => Sys2Proof.Machine.execJpush off s
  | .join => Sys2Proof.Machine.execJoin s
  | .brx va table => Sys2Proof.Machine.execBrx va table s
  | .call off => Sys2Proof.Machine.execCall off s
  | .ret => Sys2Proof.Machine.execRet s
  | .exit => Sys2Proof.Machine.execExit s
  | .yield sd off => Sys2Proof.Machine.execYield sd off s
  | .runend wa ma wb mb => Sys2Proof.Machine.execRunend wa ma wb mb s
  | .bar n sa => Sys2Proof.Machine.execBar n sa s
  | .phase sc => Sys2Proof.Machine.execPhase sc s
  | .xfence => Sys2Proof.Machine.execXfence s
  | .waitseq sa sb => Sys2Proof.Machine.execWaitseq sa sb s
  | .qopen => Sys2Proof.Machine.execQopen s
  | .qret => Sys2Proof.Machine.execQret s
  | .qwait => Sys2Proof.Machine.execQwait s
  | .qread sd => Sys2Proof.Machine.execQread sd s
  | .enq sd sa sb la => Sys2Proof.Machine.execEnq sd sa sb la s
  | .deq sd sa la => Sys2Proof.Machine.execDeq sd sa la s
  | .deqNb sd sa la => Sys2Proof.Machine.execDeqNb sd sa la s
  | .deparm sd sa sb la => Sys2Proof.Machine.execDeparm sd sa sb la s
  | .depdec sd sa la => Sys2Proof.Machine.execDepdec sd sa la s
  | .cpy sd sa sb sched la => Sys2Proof.Machine.execCpy sd sa sb sched la s
  | .chead sd sa sb la => Sys2Proof.Machine.execChead sd sa sb la s
  | .ctail sd sa sb la => Sys2Proof.Machine.execCtail sd sa sb la s
  | .tmove sd sa sb sched la => Sys2Proof.Machine.execTmove sd sa sb sched la s
  | .coll k sd sa sb la => Sys2Proof.Machine.execColl k sd sa sb la s
  | .tsload slot sa => Sys2Proof.Machine.execTsload slot sa s
  | .tsevict slot sa => Sys2Proof.Machine.execTsevict slot sa s
  | .relayout tag sd sa sb la => Sys2Proof.Machine.execRelayout tag sd sa sb la s
  | .oclaim sd sa la => Sys2Proof.Machine.execOclaim sd sa la s
  | .orelease sd sa la => Sys2Proof.Machine.execOrelease sd sa la s
  | .aclaim sd sa la => Sys2Proof.Machine.execAclaim sd sa la s
  | .arelease sd sa la => Sys2Proof.Machine.execArelease sd sa la s
  | .mloop sd sa sb la => Sys2Proof.Machine.execMloop sd sa sb la s
  | .mloopWait sa la => Sys2Proof.Machine.execMloopWait sa la s
  | .aread f vd sa la => Sys2Proof.Machine.execAread f vd sa la s
  | .azero sa la => Sys2Proof.Machine.execAzero sa la s
  | .csrr dst csr => Sys2Proof.Machine.execCsrr dst csr s
  | .csrw csr sa => Sys2Proof.Machine.execCsrw csr sa s
  | .trap imm => Sys2Proof.Machine.execTrap imm s
  | .rft => Sys2Proof.Machine.execRft s
  | .bkpt imm => Sys2Proof.Machine.execBkpt imm s
  | .rgn region => Sys2Proof.Machine.execRgn region s
  | .febind sa sb sc mode => Sys2Proof.Machine.execFebind sa sb sc mode s
  | .nop => Sys2Proof.Machine.execNop s
  | .icinv lv => Sys2Proof.Machine.execIcinv lv s
  | .emWrite val => Sys2Proof.Machine.execEmWrite val s
  | .fflagsAccess => Sys2Proof.Machine.execFflagsAccess s
  | .dbgout15Write val => Sys2Proof.Machine.execDbgout15Write val s
  | .dbgin15Read sd => Sys2Proof.Machine.execDbgin15Read sd s
  | .watchWrite n val => Sys2Proof.Machine.execWatchWrite n val s
  | .almcauseWrite val => Sys2Proof.Machine.execAlmcauseWrite val s
  | .longLatencyResult grp idx => Sys2Proof.Machine.execLongLatencyResult grp idx s
  | .drainComplete grp n => Sys2Proof.Machine.execDrainComplete grp n s
  | .redAck grp => Sys2Proof.Machine.execRedAck grp s
  | .faultServiceEnd grp => Sys2Proof.Machine.execFaultServiceEnd grp s
  | .sideLogReplay grp page => Sys2Proof.Machine.execSideLogReplay grp page s
  | .portAssignment core port => Sys2Proof.Machine.execPortAssignment core port s
  | .launchSubmit desc lid who => Sys2Proof.Machine.execLaunchSubmit desc lid who s
  | .teamStart lid team core => Sys2Proof.Machine.execTeamStart lid team core s
  | .waitSwap lid team => Sys2Proof.Machine.execWaitSwap lid team s
  | .schedulingBoundary => Sys2Proof.Machine.execSchedulingBoundary s
  | .sliceEnd reach core => Sys2Proof.Machine.execSliceEnd reach core s
  | .sliceGrant reach core => Sys2Proof.Machine.execSliceGrant reach core s
  | .preemptionRequest reach cores => Sys2Proof.Machine.execPreemptionRequest reach cores s
  | .reachResume reach revision timex root snapgen => Sys2Proof.Machine.execReachResume reach revision timex root snapgen s
  | .evacuate reach => Sys2Proof.Machine.execEvacuate reach s
  | .reachRecordWrite reach sub r own => Sys2Proof.Machine.execReachRecordWrite reach sub r own s
  | .allocatorMode core on => Sys2Proof.Machine.execAllocatorMode core on s
  | .compactorMove core => Sys2Proof.Machine.execCompactorMove core s
  | .bindRequest reach u off len prod mode => Sys2Proof.Machine.execBindRequest reach u off len prod mode s
  | .queueInstantiate reach owner desc => Sys2Proof.Machine.execQueueInstantiate reach owner desc s
  | .queueDestroy reach qnum => Sys2Proof.Machine.execQueueDestroy reach qnum s
  | .channelAssign handle lid => Sys2Proof.Machine.execChannelAssign handle lid s
  | .counterAssign die first last reach => Sys2Proof.Machine.execCounterAssign die first last reach s
  | .oneShotCompletion id => Sys2Proof.Machine.execOneShotCompletion id s
  | .recordTake handle => Sys2Proof.Machine.execRecordTake handle s
  | .recordCompletion handle num => Sys2Proof.Machine.execRecordCompletion handle num s
  | .collCompletion lid tag => Sys2Proof.Machine.execCollCompletion lid tag s
  | .basinMove dir => Sys2Proof.Machine.execBasinMove dir s
  | .unadmittedAdmit die ctr => Sys2Proof.Machine.execUnadmittedAdmit die ctr s
  | .weirReturn => Sys2Proof.Machine.execWeirReturn s
  | .weirBorrow grp => Sys2Proof.Machine.execWeirBorrow grp s
  | .remoteTaskMessage m => Sys2Proof.Machine.execRemoteTaskMessage m s
  | .rehome reach root => Sys2Proof.Machine.execRehome reach root s
  | .dredgerBegin id => Sys2Proof.Machine.execDredgerBegin id s
  | .slabCommit id => Sys2Proof.Machine.execSlabCommit id s
  | .dredgerComplete id => Sys2Proof.Machine.execDredgerComplete id s
  | .kStep lid team => Sys2Proof.Machine.execKStep lid team s
  | .ringEntryAcquire lid team => Sys2Proof.Machine.execRingEntryAcquire lid team s
  | .watchdog grp => Sys2Proof.Machine.execWatchdog grp s
  | .infieldTest die cluster pass => Sys2Proof.Machine.execInfieldTest die cluster pass s
  | .fabricRecovery dev windowMs => Sys2Proof.Machine.execFabricRecovery dev windowMs s
  | .recoveryWindowEnd dev => Sys2Proof.Machine.execRecoveryWindowEnd dev s
  | .pteUpdate root table idx val => Sys2Proof.Machine.execPteUpdate root table idx val s
  | .shootdown reach va len => Sys2Proof.Machine.execShootdown reach va len s
  | .halt lid => Sys2Proof.Machine.execHalt lid s
  | .resume lid => Sys2Proof.Machine.execResume lid s
  | .writecode reach addr val => Sys2Proof.Machine.execWritecode reach addr val s
  | .inval cores => Sys2Proof.Machine.execInval cores s
  | .readState gid sel => Sys2Proof.Machine.execReadState gid sel s
  | .writeState gid sel val => Sys2Proof.Machine.execWriteState gid sel val s
  | .readtile lid team tile row => Sys2Proof.Machine.execReadtile lid team tile row s
  | .readout gid => Sys2Proof.Machine.execReadout gid s
  | .writein gid vals => Sys2Proof.Machine.execWritein gid vals s
  | .replayStart desc lid who rec loss freeRun => Sys2Proof.Machine.execReplayStart desc lid who rec loss freeRun s
  | .flitReplay link ok => Sys2Proof.Machine.execFlitReplay link ok s
  | .routeTableWrite dest link => Sys2Proof.Machine.execRouteTableWrite dest link s
  | .fabricMessage src reach op authentic => Sys2Proof.Machine.execFabricMessage src reach op authentic s
  | .remoteCall ver op len seq pid zeros => Sys2Proof.Machine.execRemoteCall ver op len seq pid zeros s
  | .rdmaWrite reach region off bytes => Sys2Proof.Machine.execRdmaWrite reach region off bytes s
  | .rdmaRead reach region off len => Sys2Proof.Machine.execRdmaRead reach region off len s
  | .wharfReply reach qnum code result args => Sys2Proof.Machine.execWharfReply reach qnum code result args s
  | .deviceReset stages modules => Sys2Proof.Machine.execDeviceReset stages modules s
  | .attestationRequest reach nonce => Sys2Proof.Machine.execAttestationRequest reach nonce s
  | .migrationKeyTransfer reach peer report offer => Sys2Proof.Machine.execMigrationKeyTransfer reach peer report offer s
  | .securityAlarm cause => Sys2Proof.Machine.execSecurityAlarm cause s
  | .managementRead sel => Sys2Proof.Machine.execManagementRead sel s
  | .firmwareUpdate stage => Sys2Proof.Machine.execFirmwareUpdate stage s
  | .powerCapSet watts => Sys2Proof.Machine.execPowerCapSet watts s
  | .powerCapExceeded => Sys2Proof.Machine.execPowerCapExceeded s
  | .thermalLimit celsius => Sys2Proof.Machine.execThermalLimit celsius s
  | .softError loc uncorrectable => Sys2Proof.Machine.execSoftError loc uncorrectable s
  | .launchRemoval lid grp => Sys2Proof.Machine.execLaunchRemoval lid grp s
  | .groupResume gid => Sys2Proof.Machine.execGroupResume gid s
  | .recoveredWithinWindow dev => Sys2Proof.Machine.execRecoveredWithinWindow dev s
  | .keyIdAssignment reach key => Sys2Proof.Machine.execKeyIdAssignment reach key s
  | .traceBufferDrain die cluster bytes => Sys2Proof.Machine.execTraceBufferDrain die cluster bytes s

end Sys2Proof.Machine
end

