-- ==== Sys2Proof/Machine/Fetch.lean ====
section
/-! DEFINITION. How a group issues its next instruction: the run and its end (R15, R18, R19), broken promises (R17), regions (R313),
consumed errors in registers (R311), the rendezvous of twins (R316, R319), the end of a wait (R142), trace packets (R354), and the
traps that follow an instruction (R350, R352). -/
namespace Sys2Proof.Machine

/-! What an instruction reads where a promise has been broken. -/

/-- The e registers that an instruction names and that the run has not written hold free values: what it reads there, and what stays in
the lanes that it does not write (R19). DEDUCED (log 20). -/
def Group.blankE (tick : Nat) (u : Use) (g : Group) : Group :=
  let x := (g.unwritten (u.rl ++ u.wl)).foldl
    (fun x r => x.setL r (lanesOf fun l => Config.freeWord tick (1024 + 32 * r.toNat + l))) g
  { x with eWritten := g.eWritten }

/-- A v or e register as an instruction reads it: inside the promise of a result, each lane is the old value or the result (R17).
DESIGN CHOICE (log 19). -/
def Group.peekL (tick : Nat) (g : Group) (r : LReg) : Lanes :=
  (g.inflight.filter fun p => p.file == 0 && p.left != 0 && p.reg == r.toNat).foldr
    (fun p x => lanesOf fun l =>
      if p.lanes.has l && Config.freeBit tick (4096 + 2048 * p.left + 32 * r.toNat + l) then p.vals.at l else x.at l) (g.lreg r)

/-- An s register as an instruction reads it. DESIGN CHOICE (log 19). -/
def Group.peekS (tick : Nat) (g : Group) (r : SReg) : Word :=
  (g.inflight.filter fun p => p.file == 2 && p.left != 0 && p.reg == r.toNat).foldr
    (fun p x => if p.lanes != 0 && Config.freeBit tick (65536 + 64 * p.left + r.toNat) then p.vals.at 0 else x) (g.sreg r)

/-- The v and e registers that an instruction may read as something else than they hold. -/
def Group.openL (g : Group) (u : Use) : List LReg :=
  u.rl.filter fun r => g.inflight.any fun p => p.file == 0 && p.left != 0 && p.reg == r.toNat
/-- The s registers of that kind. -/
def Group.openS (g : Group) (u : Use) : List SReg :=
  u.rs.filter fun r => g.inflight.any fun p => p.file == 2 && p.left != 0 && p.reg == r.toNat

/-- The group as the instruction sees it. What it does not complete stands (`last`). -/
def Group.view (tick : Nat) (u : Use) (g : Group) : Group :=
  let v := (g.openL u).foldl (fun x r => x.setL r (g.peekL tick r)) g
  let v := (g.openS u).foldl (fun x r => x.setS r (g.peekS tick r)) v
  { v with eWritten := g.eWritten, last := .stalled, hits := none }

/-- The lanes of a register that an instruction has not written hold again what they held. `g` is the group before, `v` as the
instruction saw it, `x` after; a trap may have put the register into the trap bank. DESIGN CHOICE (log 19). -/
def Group.unviewL (g v x : Group) (wrote : Mask) (r : LReg) : Group :=
  let old := fun (now : Lanes) => lanesOf fun l =>
    if wrote.has l || now.at l != (v.lreg r).at l then now.at l else (g.lreg r).at l
  if x.trapMode && !g.trapMode && 48 ≤ r.toNat && r.toNat < 56 then
    { x with bankV := x.bankV.setIfInBounds (r.toNat - 48) (old ((x.bankV[r.toNat - 48]?).getD (g.lreg r))) }
  else x.setL r (old (x.lreg r))

/-- The same of an s register. -/
def Group.unviewS (g v x : Group) (wrote : Bool) (r : SReg) : Group :=
  let old := fun (now : Word) => if wrote || now != v.sreg r then now else g.sreg r
  if x.trapMode && !g.trapMode && 56 ≤ r.toNat then
    { x with bankS := x.bankS.setIfInBounds (r.toNat - 56) (old ((x.bankS[r.toNat - 56]?).getD (g.sreg r))) }
  else x.setS r (old (x.sreg r))

/-- Every register that the instruction saw as something else. A trap has written the results in flight (R21): where it entered a
handler, or halted the group for want of one, they stand. -/
def Group.unview (tick : Nat) (g v x : Group) (u : Use) (acts : Mask) : Group :=
  let done := x.last == .retired
  let b := if x.last == .trapped && !g.trapMode then g.settleAll tick else g
  let y := (g.openL u).foldl (fun y r => Group.unviewL b v y (if done && u.wl.contains r then acts else 0) r) x
  let y := (g.openS u).foldl (fun y r => Group.unviewS b v y (done && u.ws.contains r) r) y
  { y with eWritten := x.eWritten }

/-! What a retired instruction does to the run. -/

/-- A long-latency result whose promise covers instructions is not in its register yet (R17). `g` is the group before. -/
def Group.promised (g : Group) (i : Instr) (acts : Mask) (x : Group) : Group :=
  match promise i, (uses i).wl, (uses i).ws with
  | none, _, _ => x
  | some la, d :: _, _ =>
    if la = 0 then x
    else
      let held := (x.heldOps.filter fun h => h.at_ == g.pc && !g.heldOps.contains h).foldl (fun m h => m ||| h.lanes) 0
      let m := acts &&& ~~~held
      { x.writeL m d fun l => g.lane d l with
        inflight := { file := 0, reg := d.toNat, lanes := m, vals := x.lreg d, left := la.toNat, at_ := g.pc, clash := 0 } :: x.inflight }
  | some la, [], d :: _ =>
    if la = 0 || (x.pendS.any fun p => p.reg == d && p.at_ == g.pc) || (x.heldOps.any fun h => h.at_ == g.pc)
        || x.inflight.any fun p => p.file == 2 && p.reg == d.toNat && p.at_ == g.pc then x
    else
      { x.setS d (g.sreg d) with
        inflight := { file := 2, reg := d.toNat, lanes := 1, vals := Lanes.all (x.sreg d), left := la.toNat, at_ := g.pc, clash := 0 }
                      :: x.inflight }
  | some _, [], [] => x

/-- A result in flight whose register the instruction has written inside the promise (R17). DESIGN CHOICE (log 19). -/
def Pend.clashed (u : Use) (acts : Mask) (p : Pend) : Pend :=
  if p.left = 0 then p
  else if p.file == 2 then (if u.ws.any fun r => r.toNat == p.reg then { p with clash := 1 } else p)
  else if u.wl.any fun r => r.toNat == p.reg then { p with clash := p.clash ||| acts } else p

/-- The windows move on by one instruction, which stands at `pc`. DESIGN CHOICE (log 19). -/
def Group.windows (tick : Nat) (pc : Word) (u : Use) (acts : Mask) (x : Group) : Group :=
  let wrote := fun p : PendS => p.left != 0 && p.at_ != pc && u.ws.contains p.reg
  { x with
    inflight := x.inflight.map fun p => if p.at_ == pc then p else { p.clashed u acts with left := p.left - 1 }
    pendS := (x.pendS.filter fun p => !(wrote p && Config.freeBit tick (131072 + p.reg.toNat))).map fun p =>
      if p.at_ == pc then p else { p with left := p.left - 1 }
    heldOps := x.heldOps.map fun h => if h.at_ == pc then h else { h with left := h.left - 1 } }

/-- The mark of a v or e register. -/
def Mark.ofL (r : LReg) : Mark := if isV r then .v r.toNat else .e (r.toNat - 56)

/-- An instruction has written a marked register in full (R311). -/
def Mark.rewritten (i : Instr) (acts : Mask) (m : Mark) : Bool :=
  (uses i).ws.any (fun r => m == .s r.toNat)
    || (acts == ~~~0#32 && ((uses i).wl.any (fun r => m == Mark.ofL r) || (predWrites i).any fun r => m == .p r.toNat))

/-- The e registers that an instruction has written (R19), the registers that it has written in full (R311), and the status registers
whose words it has replaced (R220). `g` is the group before. -/
def Group.written (g : Group) (i : Instr) (acts : Mask) (x : Group) : Group :=
  { x with
    eWritten := if acts = 0 then x.eWritten
      else x.eWritten ||| bitsOfFn (fun n => (uses i).wl.any fun r => r.toNat == 56 + n) 8
    poison := x.poison.filter fun m => !(m.rewritten i acts)
    joins := x.joins.filter fun (j : SReg × Join) => !((uses i).ws.contains j.1 && g.joins.contains j) }

/-- Everything that a retired instruction does to the run of its group. -/
def Group.retired1 (tick : Nat) (g : Group) (i : Instr) (acts : Mask) (x : Group) : Group :=
  let u := uses i
  let y := Group.written g i acts ((Group.promised g i acts x).windows tick g.pc u acts)
  { y with runLen := g.runLen + 1 }

/-- A control-transfer instruction or RUNEND (R15). -/
def endsRun : Instr → Bool
  | .runend _ _ _ _ => true
  | .bra _ _ _ => true
  | .brl _ => true
  | .brd _ _ => true
  | .jpush _ => true
  | .join => true
  | .brx _ _ => true
  | .call _ => true
  | .ret => true
  | .exit => true
  | .yield _ _ => true
  | .trap _ => true
  | .bkpt _ => true
  | .rft => true
  | _ => false

/-- The registers that the trailer of a terminator names: only a RUNEND has one (R15, R18, R113). -/
def trailerOf : Instr → List Nat
  | .runend wa ma wb mb => trailerRegs wa ma wb mb
  | _ => []

/-! Trace packets (R354). -/

/-- The packets of a retired instruction other than EM. `g` is the group before, `x` after, with its result in place; `lanes` are the lanes
that were served. DEDUCED (log 37). -/
def packetsOf (off : Word → BitVec 32) (g x : Group) (i : Instr) (lanes : Mask) : List Packet :=
  let result := match (uses i).wl with | d :: _ => lowestVal lanes (x.lreg d) | [] => 0
  match i with
  | .bra c p _ => [.branch (if braHolds c g.em (g.preg p) then 1 else 0)]
  | .brd p _ => [.branch (if g.em &&& g.preg p = 0 then 0 else if g.em &&& ~~~(g.preg p) = 0 then 1 else 2)]
  | .join => [.target (off x.pc)]
  | .brx _ _ => [.target (off x.pc)]
  | .ret => [.target (off x.pc)]
  | .rft => [.target (off x.pc)]
  | .exit => [.target (off x.pc)]
  | .ldfe _ _ _ _ _ _ => [.sev 0 lanes result]
  | .ldfw _ _ _ _ _ _ => [.sev 0 lanes result]
  | .deq sd _ _ => [.sev 1 x.em (x.sreg sd)]
  | .deqNb sd _ _ => [.sev 1 x.em (x.sreg sd)]
  | .waitseq _ sb => [.sev 3 x.em (x.sreg sb)]
  | .bar _ _ => [.sev 4 x.em 0]
  | i => if isAtomic i then [.sev 2 lanes result] else []

/-- The held lanes of an atomic that has retired. -/
def Group.heldOf (x : Group) (po : Nat) (i : Instr) : Mask :=
  ((x.heldOps.find? fun h => h.po == po && isAtomic h.i && h.i == i).map HeldOp.lanes).getD 0

/-- Packets of a group are written. -/
def State.packets (s : State) (k : Nat) (ps : List Packet) (pc : Word) : State := ps.foldl (fun s p => s.packet k p pc) s

/-- EM packets of the groups whose EM an event has changed. -/
def State.emPackets (s : State) : State :=
  (s.groups.filter fun g => !g.ended && g.em != g.emTraced).foldl (fun s g => s.emPacket g.key g.pc) s

/-! The traps that follow a retired instruction. -/

/-- WATCH or STEP (R350, R352). `g` is the group before the instruction. DEDUCED (log 29). -/
def State.watchStep (s : State) (k : Nat) (g : Group) : State :=
  match s.group? k with
  | none => s
  | some x =>
    if g.trapMode || x.ended || x.halted.isSome then s
    else
      match x.hits with
      | some (lanes, w, wrote) =>
        let x := { x with whit := w, wwr := wrote, spend := x.dbgctl.getLsbD 0, hits := none }
        (s.onGroup k fun _ => x).trapGroup x 0x17 g.pc lanes x.pc
      | none => if x.dbgctl.getLsbD 0 then s.trapGroup x 0x16 g.pc x.em x.pc else s

/-- What follows an instruction of a group that has retired: its run, its packets, and the traps that follow it. -/
def State.afterRetire (s : State) (k : Nat) (g : Group) (i : Instr) (acts lanes : Mask) (waited : Bool) : State :=
  let x := (s.group? k).getD g
  let s := s.onGroup k (Group.retired1 s.tick g i acts)
  let po := g.retired.toNat
  let ps := packetsOf (s.codeOffset g.launch) g x i (lanes &&& ~~~(x.heldOf po i))
  let s := if x.heldOf po i = 0 then s.packets k ps g.pc else ps.foldl (fun s p => s.owe k { pkt := p, pc := g.pc, po := some po }) s
  let s := s.emPacket k g.pc
  let s := if endsRun i || waited || 24 ≤ g.runLen + 1 then s.endRun k (trailerOf i) else s
  let t := s.watchStep k g
  match t.group? k with
  | some y => if y.last == .trapped || y.wait.isSome then t.afterTrap k g.pc else t
  | none => t

/-! One instruction. -/

/-- An instruction that a region may not contain (R51), or a PHASE of scope 0. DEDUCED (log 32). -/
def leavesRegion : Instr → Bool
  | .red _ _ _ _ _ _ => true
  | .ldfe _ _ _ _ _ _ => true
  | .stfe _ _ _ _ _ _ => true
  | .febind _ _ _ _ => true
  | .bar _ _ => true
  | .enq _ _ _ _ => true
  | .deq _ _ _ => true
  | .deqNb _ _ _ => true
  | .deparm _ _ _ _ => true
  | .depdec _ _ _ => true
  | .qopen => true
  | .qret => true
  | .qwait => true
  | .qread _ => true
  | .cpy _ _ _ _ _ => true
  | .chead _ _ _ _ => true
  | .ctail _ _ _ _ => true
  | .tmove _ _ _ _ _ => true
  | .coll _ _ _ _ _ => true
  | .relayout _ _ _ _ _ => true
  | .oclaim _ _ _ => true
  | .orelease _ _ _ => true
  | .aclaim _ _ _ => true
  | .arelease _ _ _ => true
  | .mloop _ _ _ _ => true
  | .mloopWait _ _ => true
  | .azero _ _ => true
  | .phase sc => sc == .group
  | i => isAtomic i

/-- A boundary that closes a region when it completes (R313). -/
def closesRegion : Instr → Bool
  | .phase sc => sc != .group
  | .xfence => true
  | .exit => true
  | _ => false

/-- An instruction issues: outside a region's range, or where a region may not contain it, the group has left the region (R313).
DEDUCED (log 32). -/
def Group.enterAt (i : Instr) (g : Group) : Group :=
  match g.region with
  | none => g
  | some r =>
    if closesRegion i then g
    else if leavesRegion i || g.pc < r.first || r.last < g.pc then { g with region := none } else g

/-- A register that the instruction reads is poisoned (R311). DEDUCED (log 34). -/
def Group.readsPoison (g : Group) (i : Instr) : Bool :=
  ((uses i).rl.any fun r => g.poison.contains (Mark.ofL r)) || ((uses i).rs.any fun r => g.poison.contains (.s r.toNat))
    || (predReads i).any fun r => g.poison.contains (.p r.toNat)

/-- The group in turn comes after the operations whose status words an instruction is the first to read (R220). Inside a promise the read
may still give the old word, and orders nothing. -/
def State.joinReads (s : State) (u : Use) : State :=
  let first := s.g.joins.filter fun (x : SReg × Join) => u.rs.contains x.1 && !(s.g.openS u).contains x.1
  let s := first.foldl (fun s (x : SReg × Join) => s.joinBy s.g x.2) s
  s.onG fun g => { g with joins := g.joins.filter fun (x : SReg × Join) => !first.contains x }

/-- What follows an instruction of the group in turn, whose key and state before are given. -/
def State.after (old : State) (v : Group) (i : Instr) (s : State) : State :=
  let g := old.g
  let acts := g.acts (guardOf i)
  let s := s.onGroup g.key fun x => if x.ended then x else Group.unview s.tick g v x (uses i) acts
  match s.group? g.key with
  | none => s
  | some x =>
    if x.ended then s.packet g.key .fin g.pc
    else
      match x.last with
      | .retired => s.afterRetire g.key g i acts acts false
      | .trapped => s.afterTrap g.key g.pc
      | .stalled => if x.wait.isSome then s.parkRun g.key else s

/-- The instruction of the group in turn is executed. -/
def State.run1 (s : State) (i : Instr) : Out :=
  let s := s.onG (Group.blankE s.tick (uses i))
  let v := s.g.view s.tick (uses i)
  match exec i (s.onG fun _ => v) with
  | .next t => .next (State.after s v i t)
  | o => o

/-! Twins at a rendezvous (R316, R319). -/

/-- An instruction at which twins meet; every EXIT counts as a PHASE of pod scope. -/
def meets : Instr → Bool
  | .red _ _ _ _ _ _ => true
  | .ldfe _ _ _ _ _ _ => true
  | .ldfw _ _ _ _ _ _ => true
  | .stfe _ _ _ _ _ _ => true
  | .febind _ _ _ _ => true
  | .enq _ _ _ _ => true
  | .deq _ _ _ => true
  | .deqNb _ _ _ => true
  | .deparm _ _ _ _ => true
  | .depdec _ _ _ => true
  | .qopen => true
  | .qret => true
  | .qwait => true
  | .qread _ => true
  | .cpy _ _ _ _ _ => true
  | .chead _ _ _ _ => true
  | .ctail _ _ _ _ => true
  | .tmove _ _ _ _ _ => true
  | .coll _ _ _ _ _ => true
  | .relayout _ _ _ _ _ => true
  | .phase _ => true
  | .xfence => true
  | .exit => true
  | .csrr _ n => n == 0x040 || n == 0x041
  | i => isAtomic i

/-- What twins compare: where they stand, the word, the signature, and the operands of the active lanes. DEDUCED (log 35). -/
def Group.meeting (g : Group) (w : BitVec 32) (i : Instr) : List Word :=
  let u := uses i
  let m := g.acts (guardOf i)
  [g.pc, w.setWidth 64, g.sig, m.setWidth 64] ++ (u.rl.flatMap fun r => m.lanes.map (g.lane r)) ++ u.rs.map g.sreg

/-- The follower takes what the leader's instruction gave (R316). `l` is the leader after. -/
def Group.mirror (g : Group) (i : Instr) (acts : Mask) (l f : Group) : Group :=
  let u := uses i
  let f := u.wl.foldl (fun f r => f.writeL acts r (l.lane r)) f
  let f := u.ws.foldl (fun f r => f.setS r (l.sreg r)) f
  let f := if i = .exit then { f with em := l.em, live := l.live, stack := l.stack } else f
  { f.retireTo l.pc with
    qw := l.qw
    domain := l.domain
    tasklink := l.tasklink
    fflags := l.fflags
    reds := l.reds
    borrow := l.borrow
    bound := none
    region := if closesRegion i then none else f.region
    restarts := if closesRegion i then 0 else f.restarts
    hits := l.hits
    wait := none
    waitEnd := .pending
    rdv := none
    pendS := (l.pendS.filter fun p => p.at_ == g.pc) ++ f.pendS.filter fun p => !(u.ws.contains p.reg)
    heldOps := (l.heldOps.filter fun h => h.at_ == g.pc && isAtomic h.i) ++ f.heldOps }

/-- The follower of the group in turn goes with it, after the leader's instruction: it retires, traps, waits or ends as the leader does.
`g` is the leader before. DEDUCED (log 35). -/
def State.bring (s : State) (g : Group) (i : Instr) (fk : Nat) : State :=
  match s.group? g.key, s.group? fk with
  | some l, some f =>
    let acts := g.acts (guardOf i)
    if l.ended then (if f.ended then s else s.endGroup fk false)
    else
      match l.last, l.wait with
      | .retired, _ =>
        let s := s.onGroup fk (Group.mirror g i acts l)
        let s := s.onGroup g.key fun x => { x with rdv := none }
        s.afterRetire fk f i acts acts (endsRun i)
      | .trapped, _ =>
        let s := s.onGroup g.key fun x => { x with rdv := none }
        (s.trapGroup { f with rdv := none } l.trapCause.toNat l.trapInfo l.trapLanes f.pc).afterTrap fk f.pc
      | .stalled, some (.entry c info lanes pc) =>
        let s := s.onGroup g.key fun x => { x with rdv := none }
        let s := s.onGroup fk fun x => { x with rdv := none }
        (s.trapGroup { f with rdv := none } c info lanes pc).afterTrap fk f.pc
      | .stalled, some _ => s.parkRun fk
      | .stalled, none => s
  | _, _ => s

/-- Twins disagree (R319). DEDUCED (log 35). -/
def State.mismatch (s : State) (twin : Group) : State :=
  let g := s.g
  let n := if g.mismatchAt = g.pc then g.mismatches + 1 else 1
  let mark := fun x : Group => { x with mismatches := n, mismatchAt := g.pc, rdv := none }
  if g.region.isNone then s.uncontain g.key 1
  else if 3 ≤ n then
    let halt := fun x : Group => { mark x with halted := some .suspect, haltTick := s.tick, port := none, last := .stalled }
    let s := (s.onGroup g.key halt).onGroup twin.key halt
    (s.report .pairSuspect g [g.launch.toNat, g.team, g.core.die, g.core.cluster, twin.core.cluster]).box 4 g.core.die g.gid
  else if 3 ≤ g.restarts then s.uncontain g.key 1
  else ((s.onGroup g.key mark).onGroup twin.key mark |>.restartAt g.key).restartAt twin.key

/-- A twin comes to a rendezvous, or the leader of two that stand there carries it out. DEDUCED (log 35). -/
def State.meet (s : State) (w : BitVec 32) (i : Instr) : Out :=
  match s.g.twin.bind s.group? with
  | none => s.run1 i
  | some t =>
    match s.g.rdv, t.rdv with
    | some a, some b =>
      if a == b then
        let s := s.onPair fun g => { g with mismatches := 0, sig := 0 }
        match s.run1 i with
        | .next u => .next (u.bring s.g i t.key)
        | o => o
      else .next (s.mismatch t)
    | _, _ => .next (s.onG fun g => { g with rdv := some (g.meeting w i), last := .stalled })

/-! Issue. -/

/-- A trap of the group in turn that no instruction raises of itself. -/
def State.trapNow (s : State) (cause : Nat) (info : Word) (lanes : Mask) : Out :=
  .next ((s.trapGroup s.g cause info lanes s.g.pc).afterTrap s.g.key s.g.pc)

/-- The hazard of the registers, or else that of the wheel slots, where the launch has the DEBUG flag (R17, R217). -/
def State.debugHazard (s : State) (f : State → Option Word) : Option Word := if s.gdesc.debugFlag then f s else none

/-- An instruction that nothing holds back any longer has its effect; the wheel slots are looked at with its source registers in place
(R217). DESIGN CHOICE (log 21). -/
def State.carryOut (s : State) (w : BitVec 32) (i : Instr) : Out :=
  let s := s.onG (Group.settleTouched s.tick (uses i))
  match s.debugHazard fun s => s.slotHazard i with
  | some info => s.trapNow 0x14 info s.g.em
  | none =>
    let s := s.joinReads (uses i)
    if s.g.twin.isSome && meets i then s.meet w i else s.run1 i

/-- An instruction that has been decoded issues: the checks that stand before it (R17–R19, R117, R217, R311), then its effect.
DESIGN CHOICE (log 21). -/
def State.issueInstr (s : State) (w : BitVec 32) (i : Instr) : Out :=
  let s := s.onG (Group.enterAt i)
  if privileged s.g i then s.run1 i
  else
    match s.debugHazard fun s => s.hazard i with
    | some info => s.trapNow 0x14 info s.g.em
    | none =>
      match s.g.awaits i with
      | some r =>
        match s.waitOn (.sreg r) with
        | .next t => .next (State.after s s.g i t)
        | o => o
      | none =>
        if s.mustStall i then s.stall
        else if s.g.readsPoison i then s.consume
        else s.carryOut w i

/-- The group in turn fetches and issues its next instruction (R105, R309, R311, R323). One whose context a spill has marked, and that
has restarted three times, is removed (R312, R340). DEDUCED (log 23). -/
def State.issue (s : State) : Out :=
  if s.g.marked then .next (s.uncontain s.g.key 0)
  else
    match s.fetch s.g with
    | .trap c => s.trapNow c s.g.pc s.g.em
    | .lost dev gone => if gone then s.trapNow 0x19 (lostInfo dev 8) s.g.em else s.suspend dev
    | .hold p => .next ((s.recordFault .fetch p).onG fun g => { g with fetchHeld := some g.pc.toNat, last := .stalled })
    | .poisoned => s.consume
    | .ok l w =>
      let s := s.fetched l
      match s.decodeFor s.g w with
      | .inl i => s.issueInstr w i
      | .inr (c, info) => s.trapNow c info s.g.em

/-! The end of a wait (R142). -/

/-- The instruction that a group stands at. -/
def State.standsAt (s : State) : Option (BitVec 32 × Instr) :=
  match s.fetch s.g with
  | .ok _ w => match s.decodeFor s.g w with
    | .inl i => some (w, i)
    | .inr _ => none
  | _ => none

/-- A wait of the group in turn has been satisfied, with its results in place: the waiting instruction completes. DEDUCED (log 18). -/
def State.completeWait (s : State) (i : Instr) : State :=
  let g := s.g
  let lanes := match g.wait with | some (.lanes _ _ _ _) => g.acts (guardOf i) | _ => g.em
  let s := s.onG fun g => { g.unwait.step4 with hits := g.hits }
  let f := match g.twin.bind s.group? with
    | some f => if f.rdv.isSome then some f.key else none
    | none => none
  let t := s.afterRetire g.key g i (g.acts (guardOf i)) lanes true
  match f with
  | some k =>
    match t.group? k with
    | some f =>
      let t := t.onGroup k (Group.mirror g i (g.acts (guardOf i)) s.g)
      (t.onGroup g.key fun x => { x with rdv := none }).afterRetire k f i (g.acts (guardOf i)) lanes true
    | none => t
  | none => t

/-- A trap ends the wait of the group in turn; a twin that waits with it traps too. -/
def State.trapWait (s : State) (cause : Nat) (info : Word) (lanes : Mask) (pc : Word) : State :=
  let g := s.g
  let f := g.twin.bind s.group?
  let s := s.onG fun g => { g.unwait with rdv := none }
  let s := (s.trapGroup s.g cause info lanes pc).afterTrap g.key g.pc
  match f with
  | some f =>
    if f.rdv.isSome then
      let s := s.onGroup f.key fun x => { x with rdv := none }
      (s.trapGroup { f with rdv := none } cause info lanes pc).afterTrap f.key f.pc
    else s
  | none => s

/-- The run of a group whose waiting instruction has completed on a second try ends (R15). DEDUCED (log 18). -/
def State.closeRun (s : State) : State :=
  if s.g.ended || s.g.port.isSome || s.g.wait.isSome || s.g.runLen == 0 || s.g.last != .retired then s
  else s.endRun s.g.key []

/-- The wait of the group in turn has ended. A YIELD has read its register (R202, R220). DEDUCED (log 18). -/
def State.resolveWait (s : State) : Out :=
  match s.g.waitEnd, s.g.wait with
  | .trap c info lanes, _ => .next (s.trapWait c info lanes s.g.pc)
  | .satisfied, some (.entry c info lanes pc) => .next (s.trapWait c info lanes pc)
  | .satisfied, some (.yielded r) => .next ((s.joinReads { rs := [r] }).onG Group.unwait)
  | .satisfied, some w =>
    if w.retries then
      match (s.onG Group.unwait).issue with
      | .next t => .next t.closeRun
      | o => o
    else
      match s.standsAt with
      | some (_, i) => .next (s.completeWait i)
      | none => .next (s.completeWait .nop)
  | _, _ => .next s

end Sys2Proof.Machine
end

