-- ==== Sys2Proof/Machine/Advance.lean ====
section
/-! DEFINITION. What happens next: the event or the turn that the schedule gives; else the instruction of the group in turn, a wait
that has ended, the work of an engine, another group, or an issue port. The manual orders none of these (R2, R131, R199), so the
schedule (`State.inputs`) may give any of them at any point; what follows without a schedule is one order of many. -/
namespace Sys2Proof.Machine

/-! What every transition brings with it. -/

/-- A group that stood at an instruction tries it again. -/
def Group.retry (g : Group) : Group := if g.last == .stalled then { g with last := .retired } else g

/-- Every group but the one in turn tries again what it stood at. -/
def State.retryOthers (s : State) : State := { s with others := s.others.map Group.retry }

/-- Claims that wait on a core to which their team has come are granted while its tiles are free (R281). -/
def State.claimsServed (s : State) : State :=
  (s.cores.filter fun c => !c.claims.isEmpty).foldl
    (fun s c => ((c.claims.map Prod.fst).eraseDups).foldl (fun s r => s.tilesFreed r c.id) s) s

/-- What follows a transition at once: packets of changed execution masks, halts that have waited, claims, partitions and routes that have
become idle, the Queued counters, and time. -/
def State.finish (old s : State) : State :=
  State.elapse old (State.lateHalts old s.emPackets.paid).claimsServed.repartition.settleRoutes.resetQueued

/-- A transition has been made; every group tries again. -/
def State.settled (old s : State) : State := State.finish old (s.mapGroups Group.retry)

/-! The group in turn. -/

/-- The group in turn holds an issue port and can issue. -/
def State.mayIssue (s : State) : Bool := s.g.port.isSome && s.canIssue

/-- The wait of a group has ended, and the group may go on (R142). -/
def Group.mayResolve (g : Group) : Bool := g.runnable && g.wait.isSome && g.waitEnd != .pending

/-- A step of the group in turn, after which the others try again what they stood at. -/
def advanced (old : State) : Out → Out
  | .next t => .next (State.finish old (if t.g.last == .stalled then t else t.retryOthers))
  | o => o

/-- The group in turn issues. -/
def State.issueStep (s : State) : Out := advanced s s.issue

/-- The group in turn goes on after a wait. -/
def State.resolveStep (s : State) : Out := advanced s s.resolveWait

/-! Engines. -/

/-- What a group's memory path has to do: drains, acknowledgements, held lanes, the side log. -/
def Group.work (g : Group) : List Instr :=
  if g.ended && g.drains.isEmpty && g.reds.isEmpty then []
  else
    (if g.drains.isEmpty then [] else [.drainComplete g.key (g.drains.length - 1)])
      ++ (if g.reds.isEmpty then [] else [.redAck g.key])
      ++ (if g.heldOps.isEmpty && g.fetchHeld.isNone then [] else [.faultServiceEnd g.key])
      ++ ((g.side.map fun e => e.va / 2 ^ 18).eraseDups.map fun p => .sideLogReplay g.key p)
      ++ (if g.borrow == .asked then [.weirBorrow g.key] else [])

/-- What a channel has to do. -/
def Channel.work (c : Channel) : List Instr :=
  (if c.walking then [.recordTake c.handle] else []) ++ c.running.map fun r => .recordCompletion c.handle r.num

/-- What a conversion has to do. -/
def Conv.work (c : Conv) : List Instr :=
  if c.running then [.slabCommit c.id, .dredgerComplete c.id] else [.dredgerBegin c.id]

/-- Where the Basin may have entries to move: the cores and queues of waiting groups, and the levels that hold entries. -/
def State.basinWork (s : State) : List Instr :=
  let waits := s.groups.filterMap fun g => match g.wait with
    | some (.deq _ q _) => if g.waiting then some [Instr.basinMove (.down g.core q), .basinMove (.clusterDown g.core.die g.core.cluster q)] else none
    | _ => none
  let up := s.entries.filterMap fun e => match e.place with
    | .core c => some (Instr.basinMove (.coreUp c))
    | .cluster d c => some (Instr.basinMove (.clusterUp d c))
    | .die d => some (Instr.basinMove (.dieUp d))
    | .overflow _ => none
  let down := (s.entries.filter QEntry.spilled).filterMap fun e => (s.queue? e.reach e.qnum).map fun q => Instr.basinMove (.ovfDown q.desc.home)
  (waits.flatten ++ up ++ down).eraseDups

/-- What the engines of the device have to do. DESIGN CHOICE (log 1, 3). -/
def State.work (s : State) : List Instr :=
  ((s.groups.filter fun g => g.key != 0).flatMap Group.work)
    ++ s.oneShots.map (fun o => .oneShotCompletion o.id)
    ++ s.channels.flatMap Channel.work
    ++ s.colls.map (fun c => .collCompletion c.launch c.tag)
    ++ s.convs.flatMap Conv.work
    ++ (s.teams.filter fun t => !t.queue.isEmpty).flatMap (fun t => [.ringEntryAcquire t.launch t.idx, .kStep t.launch t.idx])
    ++ (s.counters.filter Counter.unadmitted).map (fun c => .unadmittedAdmit c.die c.ctr)
    ++ (if s.returns.isEmpty then [] else [.weirReturn])
    ++ s.basinWork
    ++ ((s.groups.filter fun g => g.key != 0 && !g.ended).flatMap fun g =>
      (List.range g.inflight.length).map fun n => .longLatencyResult g.key n)
    ++ (s.teams.filter s.waitsRoom).flatMap fun t => allCores.map fun c => .teamStart t.launch t.idx c

/-- What an event changes; none: nothing. -/
def State.changedBy (s : State) (i : Instr) : Option State :=
  match exec i s with
  | .next t => if t = s then none else some t
  | _ => none

/-- The first engine that has something to do does it. DESIGN CHOICE (log 3). -/
def State.engineStep (s : State) : Option State := s.work.findSome? s.changedBy

/-! The groups that wait for a port. -/

/-- A free port of a core on which a group is ready without one (R142). -/
def State.portStep (s : State) : Option State :=
  ((s.groups.map Group.core).eraseDups.flatMap fun c => [Instr.portAssignment c false, .portAssignment c true]).findSome? s.changedBy

/-- Another group that holds a port and can issue, and does not stand. -/
def State.otherReady (s : State) : Option Group :=
  s.others.find? fun g => g.port.isSome && g.last != .stalled && (s.turnTo g.key).canIssue

/-! One step. -/

/-- An event of the schedule happens. -/
def State.happen (s : State) (i : Instr) : Out :=
  match exec i s with
  | .next t => .next (State.settled s t)
  | o => o

/-- The group in turn does what it can: it issues, or goes on after a wait. -/
def State.takeTurn (s : State) : Out :=
  if s.g.mayResolve then s.resolveStep
  else if s.mayIssue then s.issueStep
  else .next (State.settled s s)

/-- A launch of another device is live, or has ended: waits on it are checked again (R134, R166). -/
def State.setAway (s : State) (a : Away) (live : Bool) : State :=
  let t : State := { s with away := (if live then [a] else []) ++ s.away.filter fun x => x.lid != a.lid }
  if live then t else t.targetEnded a.lid

/-- The schedule gives an event, a turn, a granule of an engine's, or what system software sets. DESIGN CHOICE (log 1). -/
def State.given (s : State) : Input → Out
  | .event i => s.happen i
  | .turn k => (s.turnTo k).takeTurn
  | .lateLoad k => .next (State.settled s (s.onGroup k fun g => { g with late := true }))
  | .loadArrives k => .next (State.settled s (s.loadArrives k))
  | .granule none op g => .next (State.settled s (s.oneShotGranule op g))
  | .collGranule op g => .next (State.settled s (s.collGranule op g))
  | .granule (some h) op g => .next (State.settled s (s.recordGranule h (BitVec.ofNat 32 op) g))
  | .raiseMin n svn => .next (State.settled s (s.raiseMin n svn))
  | .watchdogLimit ns => .next (State.settled s { s with wdLimit := ns })
  | .testInterval ns => .next (State.settled s { s with testEvery := ns })
  | .contextArea r pa => .next (State.settled s (s.onReach r fun x => { x with area := some pa }))
  | .context c => .next (State.settled s { s with contexts := c :: s.contexts.filter fun x => x.reach.id != c.reach.id })
  | .farRoot r d dev isOpen => .next (State.settled s (s.setFarRoot r d dev isOpen))
  | .landed tag => .next (State.settled s (s.landed tag))
  | .dropped dev again => .next (State.settled s (s.dropResponse dev again))
  | .away a live => .next (State.settled s (s.setAway a live))
  | .threadNumber lid team idx tid => .next (State.settled s (s.onLaunch lid fun l =>
      { l with tids := (team, idx, tid) :: l.tids.filter fun x => !(x.1 == team && x.2.1 == idx) }))

/-- Without a schedule, when the group in turn does not issue: a wait that has ended, an engine, another group, a port; at last the
group in turn stands, or nothing happens. DESIGN CHOICE (log 1). -/
def State.onward (s : State) : Out :=
  match s.groups.find? Group.mayResolve with
  | some g => (s.turnTo g.key).resolveStep
  | none =>
    match s.engineStep with
    | some t => .next (State.settled s t)
    | none =>
      match s.otherReady with
      | some g => (s.turnTo g.key).issueStep
      | none =>
        match s.portStep with
        | some t => .next (State.settled s t)
        | none => if s.mayIssue then s.issueStep else .next (State.settled s s)

/-- Whether a device that is down or stopped by the alarm accepts an event (R387, R390): the reset, and of one that is only down the
management port, which standby power keeps. -/
def State.accepts (s : State) : Input → Bool
  | .event (.deviceReset _ _) => true
  | .event (.managementRead _) => !s.alarmed
  | _ => false

/-- One step of a device that is down or stopped. -/
def State.asleep (s : State) : Out :=
  match s.inputs with
  | [] => .next (State.elapse s s)
  | x :: xs =>
    let t : State := { s with inputs := xs }
    if s.accepts x then t.given x else .next (State.elapse t t)

/-- One step of a device that runs. DESIGN CHOICE (log 1). -/
def State.awake (s : State) : Out :=
  match s.inputs with
  | x :: xs => State.given { s with inputs := xs } x
  | [] => if s.mayIssue && s.g.last != .stalled then s.issueStep else s.onward

end Sys2Proof.Machine
end

