-- ==== Sys2Proof/Machine/Load.lean ====
section
/-! DEFINITION. A device on which one program word stands where its group fetches next: what system software, by the rules of launch
(R46, R127, R130), page tables (R302, R303) and reaches (R335), has done before a program's first instruction runs. -/
namespace Sys2Proof.Machine

/-! The page that holds the word: VA 0x40000, through tables at physical 0x40000, 0x80000 and 0xC0000, to physical 0x100000. -/

/-- The virtual address of the word. -/
def loadVa : Nat := 0x40000

/-- An entry that points to a table (R303). -/
def tableEntry (pa : Nat) : Nat := pa + 3 * 16 + 15

/-- An entry that maps a 256 KiB page of a device with every right (R303). -/
def pageEntry (device pa : Nat) : Nat := device * 2 ^ 52 + pa + 15

/-- Memory with the page tables and the word in it. DESIGN CHOICE (log 9). -/
def loadMem (device : BitVec 8) (w : BitVec 32) (m : List Host.Cell) : List Host.Cell :=
  let at_ := fun pa => globalKey device.toNat pa
  let m := memWrite m (at_ 0x40000) (leBytes (tableEntry 0x80000) 8)
  let m := memWrite m (at_ 0x80000) (leBytes (tableEntry 0xC0000) 8)
  let m := memWrite m (at_ 0xC0008) (leBytes (pageEntry device.toNat 0x100000) 8)
  memWrite m (at_ 0x100000) (leBytes w.toNat 4)

/-- A launch of one team of one group of 32 lanes, with every register and shape slot. DESIGN CHOICE (log 9). -/
def loadDesc : LaunchDesc where
  codeBase := BitVec.ofNat 64 loadVa
  entry := 0
  cls := .queued
  noPromote := false
  paired := false
  debugFlag := false
  urgent := false
  reserve := 0
  teams := 1
  groups := 1
  lanes := 32
  shapes := 32
  roles := [(1, 7)]
  trapVec := 0
  ttabBase := 0
  rgnBase := 0
  domain := 0
  reach := 0
  subreach := 0
  queue := 0xFFFFFFFF
  acctRec := 0
  slotTab := 0
  waitSwap := 0
  scratch := 64
  stackArea := 0

/-- The reach of the launch, in its slice. DESIGN CHOICE (log 9). -/
def loadReach : Reach :=
  let c : ReachRec := { sliceUs := 1000, tshare := 1024, membw := 0, fabbw := 0, basin := 0, cscr := 1024, kscr := 0, dscr := 0
                        oslot := 32, atile := 8 }
  { Reach.fresh 0 c { minSvn := [], accepted := [], regions := [] } 0 with root := 0x40000, halted := false, off := [] }

/-- The launch. -/
def loadLaunch (tick : Nat) : Launch :=
  { lid := 1, pid := 1, desc := loadDesc, ended := false, order := 0, reserve := [], acct := Acct.begin tick, replay := none
    tid := 1, tids := [], stopped := [] }

/-- Its team, resident. -/
def loadTeam : Team :=
  freshTeam loadDesc
    { launch := 1, idx := 0, core := ⟨0, 0, 0⟩, follower := false, at_ := .resident, shapes := [], bars := [], gone := 0, mseq := 0
      tickets := 0, queue := [], slots := [], tiles := [], scrBase := 0, charged := none, order := 0, waitSwapped := false, waited := 0
      watch := none }

/-- Its group at its first instruction, on issue port 0. DESIGN CHOICE (log 9). -/
def loadGroup (device : BitVec 8) (tick : Nat) : Group :=
  { startGroup (loadLaunch tick) loadTeam tick 1 0 none with gid := gidOf device ⟨0, 0, 0⟩ 0 1, port := some false }

/-- The device with the word loaded: the group is in turn, and no event of the schedule comes before it. DESIGN CHOICE (log 9). -/
def State.loadWord (s : State) (w : BitVec 32) : State :=
  { s with
    fresh := max s.fresh 2
    inputs := []
    g := loadGroup s.device s.tick
    others := []
    mem := loadMem s.device w s.mem
    keyTags := []
    poison := []
    stalePte := []
    icache := []
    launches := [loadLaunch s.tick]
    teams := [loadTeam]
    reaches := [loadReach]
    recovering := []
    lost := []
    alarmed := false
    down := false }

end Sys2Proof.Machine
end

