-- ==== Sys2Proof/Machine/Step.lean ====
section
/-! DEFINITION. One step of the device, and the state in which the next step runs a given word. -/
namespace Sys2Proof.Machine

/-- One step. A device that is down (R383, R390) or that the alarm has stopped (R387) waits for its reset. DESIGN CHOICE (log 1, 3). -/
def step (s : State) : Host.Outcome State Fault Refusal := if s.alarmed || s.down then s.asleep else s.awake

/-- The state with the instruction `w` of `nbits` bits where the next step fetches it. DESIGN CHOICE (log 9). -/
def State.withFetchWord (s : State) (_nbits w : Nat) : State := s.loadWord (BitVec.ofNat 32 w)

end Sys2Proof.Machine
end

