-- ==== Sys2Proof/Safety.lean ====
section
/-! DEFINITION. What counts as a safe run, and the terms in which claims are stated: completing, retiring, frames, element-wise
results, and the traps of a group. -/
namespace Sys2Proof.Safety
open Sys2Proof.Machine

/-! Runs. -/

/-- A step that does not stop. -/
def Goes (s : State) : Prop := ∃ t, Machine.step s = .next t

/-- A safe run: whatever the number of steps, the machine is in a next state. -/
def SafeRun (s : State) : Prop := ∀ n, ∃ t, Sys2Proof.core.run n s = .next t

/-- `i` completes in `s`, in a next state that `P` holds of. -/
def Completes (i : Instr) (s : State) (P : State → Prop) : Prop := ∃ t, exec i s = .next t ∧ P t

/-- The group in turn has retired its instruction and stands at `pc`. -/
def RetiresAt (pc : Word) (s t : State) : Prop := t.g.pc = pc ∧ t.g.retired = s.g.retired + 1 ∧ t.g.last = .retired

/-- The group in turn has retired its instruction, and the next word follows. -/
def Retires (s t : State) : Prop := RetiresAt (s.g.pc + 4) s t

/-! Frames. Each says that nothing changes but what it names, PC, RETIRED and what the model counts with them. -/

/-- A group `x` with what retiring itself changes put back to what `g` has. -/
def unretired (g x : Group) : Group :=
  { x with pc := g.pc, retired := g.retired, sinceBar := g.sinceBar, watchdog := g.watchdog, last := g.last }

/-- Every byte of memory reads as before. -/
def SameBytes (s t : State) : Prop := ∀ a, memGet a t.mem = memGet a s.mem

/-- Only lanes of `m` of the vector register `d` change. -/
structure OnlyLanes (d : LReg) (m : Mask) (s t : State) : Prop where
  outside : t = { s with g := t.g }
  group : { unretired s.g t.g with v := s.g.v, e := s.g.e, eWritten := s.g.eWritten } = s.g
  registers : ∀ r, r ≠ d → t.g.lreg r = s.g.lreg r
  lanes : ∀ l, m.has l = false → t.g.lane d l = s.g.lane d l
  bytes : SameBytes s t

/-- Only lanes of `m` of the vector register `d` change, and FFLAGS bits are set. -/
structure OnlyLanesFlags (d : LReg) (m : Mask) (s t : State) : Prop where
  outside : t = { s with g := t.g }
  group : { unretired s.g t.g with v := s.g.v, e := s.g.e, eWritten := s.g.eWritten, fflags := s.g.fflags } = s.g
  registers : ∀ r, r ≠ d → t.g.lreg r = s.g.lreg r
  lanes : ∀ l, m.has l = false → t.g.lane d l = s.g.lane d l
  sticky : s.g.fflags &&& t.g.fflags = s.g.fflags
  bytes : SameBytes s t

/-- Only the uniform register `d` changes. -/
structure OnlyScalar (d : SReg) (s t : State) : Prop where
  outside : t = { s with g := t.g }
  group : { unretired s.g t.g with s := s.g.s } = s.g
  registers : ∀ r, r ≠ d → t.g.sreg r = s.g.sreg r
  bytes : SameBytes s t

/-- Only bits of `m` of the predicate `d` change. -/
structure OnlyPred (d : PReg) (m : Mask) (s t : State) : Prop where
  outside : t = { s with g := t.g }
  group : { unretired s.g t.g with p := s.g.p } = s.g
  registers : ∀ r, r ≠ d → t.g.preg r = s.g.preg r
  lanes : ∀ l, m.has l = false → (t.g.preg d).has l = (s.g.preg d).has l
  bytes : SameBytes s t

/-- Nothing changes but PC and RETIRED. -/
structure OnlyPc (s t : State) : Prop where
  outside : t = { s with g := t.g }
  group : unretired s.g t.g = s.g
  bytes : SameBytes s t

/-! Results. -/

/-- In every lane of `m`, every sub-element of width `w` of `d` holds `f` of those of `a`, of `b` and of the old `d` (R63). -/
def Elementwise (w : Nat) (d a b : LReg) (m : Mask) (f : Nat → Nat → Nat → Nat) (s t : State) : Prop :=
  ∀ l i, m.has l = true → i < 64 / w →
    elem w i (t.g.lane d l) = f (elem w i (s.g.lane a l)) (elem w i (s.g.lane b l)) (elem w i (s.g.lane d l))

/-- In every lane of `m`, `R` relates every sub-element of width `w` of `a` to that of the new `d`. -/
def ElementsRelated (w : Nat) (d a : LReg) (m : Mask) (R : Nat → Nat → Prop) (s t : State) : Prop :=
  ∀ l i, m.has l = true → i < 64 / w → R (elem w i (s.g.lane a l)) (elem w i (t.g.lane d l))

/-- In every lane of `m`, `d` holds `f` of the lane's number. -/
def Lanewise (d : LReg) (m : Mask) (f : Nat → Word) (s t : State) : Prop :=
  let _ := s
  ∀ l, m.has l = true → t.g.lane d l = f l

/-- An element-wise instruction of format LA or LI retires with the results that `f` gives, and changes nothing else (R63). -/
def ElementResult (i : Instr) (w : Width) (d a b : LReg) (g : Guard) (f : Nat → Nat → Nat → Nat) (s : State) : Prop :=
  Completes i s fun t => Retires s t ∧ Elementwise (widthBits w) d a b (s.g.acts g) f s t ∧ OnlyLanes d (s.g.acts g) s t

/-- The same for results that a relation `R` to the source fixes. -/
def ElementRelation (i : Instr) (w : Width) (d a : LReg) (g : Guard) (R : Nat → Nat → Prop) (s : State) : Prop :=
  Completes i s fun t => Retires s t ∧ ElementsRelated (widthBits w) d a (s.g.acts g) R s t ∧ OnlyLanes d (s.g.acts g) s t

/-- Which bits FFLAGS has after an instruction: the old ones, and those that an acting sub-element raises (R57, R83). -/
def FlagsFrom (w : Nat) (m : Mask) (raised : Nat → Nat → BitVec 5) (s t : State) : Prop :=
  ∀ k, t.g.fflags.getLsbD k = true ↔
    (s.g.fflags.getLsbD k = true ∨ ∃ l i, m.has l = true ∧ i < 64 / w ∧ (raised l i).getLsbD k = true)

/-- An element-wise float instruction retires with the low bits of the results that `op` gives, raises their flags, and changes nothing
else (R83). -/
def FloatResult (i : Instr) (f : FFmt) (d a b : LReg) (g : Guard) (op : Nat → Nat → Nat → FRes) (s : State) : Prop :=
  let w := (fmtOf f).width
  Completes i s fun t => Retires s t ∧ Elementwise w d a b (s.g.acts g) (fun x y c => (op x y c).1 % 2 ^ w) s t
    ∧ FlagsFrom w (s.g.acts g) (fun l i => (op (elem w i (s.g.lane a l)) (elem w i (s.g.lane b l)) (elem w i (s.g.lane d l))).2) s t
    ∧ OnlyLanesFlags d (s.g.acts g) s t

/-- The tree of R60 as its loop runs: position `i` after the levels below `n`. -/
def treeAt (op : Nat → Nat → Nat) (x : Nat → Nat) : (n i : Nat) → Nat
  | 0, i => x i
  | n + 1, i => op (treeAt op x n i) (treeAt op x n (i + 2 ^ n))

/-- The scan of R60 as its loop runs: position `i` after the levels below `n`. -/
def scanAt (op : Nat → Nat → Nat) (x : Nat → Nat) : (n i : Nat) → Nat
  | 0, i => x i
  | n + 1, i => if 2 ^ n ≤ i then op (scanAt op x n (i - 2 ^ n)) (scanAt op x n i) else scanAt op x n i

/-- An instruction retires and the group goes on at `pc`, with nothing else changed. -/
def Branches (i : Instr) (pc : Word) (s : State) : Prop := Completes i s fun t => RetiresAt pc s t ∧ OnlyPc s t

/-- An instruction retires with `x` as the group but for what retiring changes, and the group goes on at `pc`. -/
def Becomes (i : Instr) (x : Group) (pc : Word) (s : State) : Prop :=
  Completes i s fun t => RetiresAt pc s t ∧ t = { s with g := t.g } ∧ unretired x t.g = x ∧ SameBytes s t

/-- An instruction retires with `f l` in lane `l` of `d` for the lanes of `m`, and changes nothing else. -/
def LaneResult (i : Instr) (d : LReg) (m : Mask) (f : Nat → Word) (s : State) : Prop :=
  Completes i s fun t => Retires s t ∧ Lanewise d m f s t ∧ OnlyLanes d m s t

/-- An instruction retires with `x` in the uniform register `d`, and changes nothing else. -/
def ScalarResult (i : Instr) (d : SReg) (x : Word) (s : State) : Prop :=
  Completes i s fun t => Retires s t ∧ t.g.sreg d = x ∧ OnlyScalar d s t

/-- An instruction retires with `c l` in bit `l` of the predicate `d` for the lanes of EM, and changes nothing else. -/
def PredResult (i : Instr) (d : PReg) (c : Nat → Bool) (s : State) : Prop :=
  Completes i s fun t => Retires s t ∧ (∀ l, s.g.em.has l = true → (t.g.preg d).has l = c l) ∧ OnlyPred d s.g.em s t

/-- An instruction ends with an answer of code `code` to the request, and changes nothing else. -/
def Answers (i : Instr) (code : Nat) (s : State) : Prop := exec i s = .next (s.reply code)

/-- The signed value of a `w`-bit number, by its definition. -/
def signed (w x : Nat) : Int := if 2 * x < 2 ^ w then (x : Int) else (x : Int) - 2 ^ w

/-- The value `(-1)^neg × m × 2^y` as a multiple of `2^x`, for `x` no larger than `y`. -/
def scaled (x : Int) (neg : Bool) (m : Nat) (y : Int) : Int := (if neg then -1 else 1) * (m * 2 ^ (y - x).toNat : Nat)

/-- The `w`-bit number of an integer. -/
def modulo (w : Nat) (x : Int) : Nat := (x % 2 ^ w).toNat

/-- An integer clamped to a range. -/
def clamp (lo hi x : Int) : Int := if x < lo then lo else if hi < x then hi else x

/-- The condition of a comparison on `n`-bit values, with the signed conditions read as two's complement (R30, R78). -/
def Holds (c : Cond) (n x y : Nat) : Bool :=
  match c with
  | .eq => x == y
  | .ne => x != y
  | .lt => signed n x < signed n y
  | .ge => signed n y ≤ signed n x
  | .ltu => x < y
  | .geu => y ≤ x
  | .le => signed n x ≤ signed n y
  | .gt => signed n y < signed n x

/-- The new predicate bit under the m field (R30, R78). -/
def Combined (m : Comb) (old c : Bool) : Bool :=
  match m with
  | .set => c
  | .and => old && c
  | .or => old || c
  | .andn => old && !c

/-! Other groups and memory. -/

/-- Every group with another key stands as it did. -/
def SameOthers (s t : State) : Prop :=
  t.others.filter (fun x => x.key != s.g.key) = s.others.filter fun x => x.key != s.g.key

/-- Like `Becomes` for an instruction that finds its group by its key. -/
def BecomesByKey (i : Instr) (x : Group) (pc : Word) (s : State) : Prop :=
  Completes i s fun t => RetiresAt pc s t ∧ t = { s with g := t.g, others := t.others } ∧ SameOthers s t ∧ unretired x t.g = x
    ∧ SameBytes s t

/-- The page-table bytes in which probes that pass set ACC and DIRTY (R305). -/
def pteBytes (s : State) (ps : List Probe) : List Nat :=
  ps.filterMap fun p => (p.place.bind fun x => x.2.pte).map (globalKey s.device.toNat)

/-- Every byte but those of a list reads as before. -/
def SameBytesBut (ks : List Nat) (s t : State) : Prop := ∀ k, k ∉ ks → memGet k t.mem = memGet k s.mem

/-- No lane of a mask traps, or reaches a home under recovery or lost (R175, R323). -/
def Passes (s : State) (acc : Acc) (fe : Bool) (n : Nat) (m : Mask) (addr : Nat → Word) : Prop :=
  ∀ l, m.has l = true → match s.probe s.g (some l) acc fe n (addr l) with
    | .ok _ _ => True
    | .held _ _ => True
    | _ => False

/-- Every lane of a mask reaches a place. -/
def Reaches (s : State) (acc : Acc) (fe : Bool) (n : Nat) (m : Mask) (addr : Nat → Word) (q : Nat → Spot) (loc : Nat → Loc) : Prop :=
  ∀ l, m.has l = true → s.probe s.g (some l) acc fe n (addr l) = .ok (q l) (loc l)

/-- A read that an instruction makes of `n` bytes at `a`, as they were at one moment where `once` says so (R194), goes to `t` and
gives `x`. -/
def Reads (once : Bool) (n : Nat) (a : Word) (s t : State) (x : Nat) : Prop :=
  ∃ q l, (s.uprobe .read n a).hit = .ok q l ∧
    let r := if once then s.atOnce s.g.reader l n else s.g.reader
    s.viewPoisoned s.g r l n = false ∧ x = s.viewRead s.g r 0 l n
      ∧ t = (s.seenAll r n [s.uprobe .read n a]).installAll .read [s.uprobe .read n a]

/-- Reads at several addresses, one after the other. -/
def ReadsAll (n : Nat) : List Word → State → State → List Nat → Prop
  | [], s, t, xs => t = s ∧ xs = []
  | a :: as, s, t, xs => ∃ u x ys, Reads false n a s u x ∧ ReadsAll n as u t ys ∧ xs = x :: ys

/-- Read-modify-writes at homes in the order of a list of lanes (R179): the state after, and what each lane has read. -/
def inTurn (n : Nat) (loc : Nat → Loc) (f : Nat → Nat → Nat) : List Nat → State → State × (Nat → Nat)
  | [], s => (s, fun _ => 0)
  | l :: ls, s =>
    let old := s.homeRead (loc l) n
    let r := inTurn n loc f ls (s.homeWrite (loc l) (leBytes (f l old) n))
    (r.1, fun k => if k = l then old else r.2 k)

/-- Only lanes of `m` of `d`, what a load leaves in page tables and fault service, and watch hits change. -/
structure OnlyLoaded (d : LReg) (m : Mask) (ps : List Probe) (s t : State) : Prop where
  outside : t = { s with g := t.g, mem := t.mem, olds := t.olds, faultQueue := t.faultQueue, traffic := t.traffic }
  group : { unretired s.g t.g with v := s.g.v, e := s.g.e, eWritten := s.g.eWritten, hits := s.g.hits, heldOps := s.g.heldOps } = s.g
  registers : ∀ r, r ≠ d → t.g.lreg r = s.g.lreg r
  lanes : ∀ l, m.has l = false → t.g.lane d l = s.g.lane d l
  bytes : SameBytesBut (pteBytes s ps) s t

/-- Only what the group holds of its own stores, page tables, fault service and watch hits change. -/
structure OnlyHeld (ps : List Probe) (s t : State) : Prop where
  outside : t = { s with g := t.g, mem := t.mem, faultQueue := t.faultQueue }
  group : { unretired s.g t.g with held := s.g.held, poison := s.g.poison, side := s.g.side, sig := s.g.sig, hits := s.g.hits } = s.g
  bytes : SameBytesBut (pteBytes s ps) s t

/-- A storing instruction completes in a state that `P` holds of, but that its new entries take their room from halted groups of other
reaches where the core's side log or its phase buffer is full (R328). -/
def HeldBy (i : Instr) (s : State) (P : State → Prop) : Prop :=
  Completes i s fun t => ∃ u, P u ∧ t = u.claimSide s.greach s.g.core
    ∧ (u.sideUse false s.greach s.g.core ≤ 1024 → u.phaseUse s.g.core ≤ 256 → t = u)

/-- What trap entry leaves in the trap CSRs of the group in turn (R21 steps 2 and 3). -/
def Traps (cause : Nat) (info : Word) (lanes : Mask) (s t : State) : Prop :=
  t.g.trapCause = BitVec.ofNat 8 cause ∧ t.g.trapInfo = info ∧ t.g.trapLanes = lanes ∧ t.g.trapPc = s.g.pc ∧ t.g.trapEm = s.g.em

/-- No group stands in a wait, and no matrix engine waits for a word. -/
abbrev NobodyWaits (s : State) : Prop := (∀ g ∈ s.groups, g.wait = none) ∧ ∀ t ∈ s.teams, ∀ c ∈ t.queue, c.waits = none

/-- The group in turn may join the member set of a domain and nobody on another device need hear of it: at the root, where no QWAIT of
another device stands, or at a proxy that has told it already (R235). -/
abbrev JoinsHere (d : BitVec 10) (s : State) : Prop :=
  (∀ x ∈ s.roots, x.reach = s.greach → x.domain = d → s.g.launch ∈ x.members ∨ x.remote = [])
    ∧ ∀ p ∈ s.proxies, p.reach = s.greach → p.domain = d → s.g.launch ∈ p.told

/-- The entry `e` that the group in turn sends carries weight of exponent `w`: none, or the largest power of two that is not above half
of QW, in the group's own domain (R236, R242). -/
abbrev Weighs (e : Entry) (w : Nat) (s : State) : Prop :=
  (entryWexp e = 63 ∧ w = 63) ∨ (entryWexp e ≠ 63 ∧ entryDomain e = s.g.domain ∧ 1 < s.g.qw.toNat ∧ JoinsHere s.g.domain s
    ∧ 2 ^ w ≤ s.g.qw.toNat / 2 ∧ s.g.qw.toNat / 2 < 2 ^ (w + 1))

/-- The group in turn has nothing outstanding at its homes: no drained write, side-log entry, acknowledgement or held lane. -/
abbrev NothingOut (s : State) : Prop := s.g.twin = none ∧ s.g.drains = [] ∧ s.g.side = [] ∧ s.g.reds = [] ∧ s.g.heldOps = []

/-- Registers, flags and lanes of the group in turn after its results have come in; the trap bank stands in for v48–v55 and s56–s63
where `swapped` says so (R21 step 4). -/
structure SeenAs (x : Group) (swapped : Bool) (y : Group) : Prop where
  low : ∀ r : LReg, r.toNat < 48 ∨ 56 ≤ r.toNat → y.lreg r = x.lreg r
  high : ∀ i (h : i < 8), y.lreg (BitVec.ofNat 6 (48 + i)) = if swapped then x.bankV[i] else x.lreg (BitVec.ofNat 6 (48 + i))
  bank : ∀ i (h : i < 8), y.bankV[i] = if swapped then x.lreg (BitVec.ofNat 6 (48 + i)) else x.bankV[i]
  slow : ∀ r : SReg, r.toNat < 56 → y.sreg r = x.sreg r
  shigh : ∀ i (h : i < 8), y.sreg (BitVec.ofNat 6 (56 + i)) = if swapped then x.bankS[i] else x.sreg (BitVec.ofNat 6 (56 + i))
  sbank : ∀ i (h : i < 8), y.bankS[i] = if swapped then x.sreg (BitVec.ofNat 6 (56 + i)) else x.bankS[i]
  rest : y.p = x.p ∧ y.live = x.live ∧ y.frm = x.frm ∧ y.fflags = x.fflags ∧ y.qw = x.qw ∧ y.domain = x.domain
    ∧ y.regpc = x.regpc ∧ y.stack = x.stack ∧ y.dbgctl = x.dbgctl ∧ y.dbgout = x.dbgout ∧ y.dbgin = x.dbgin
    ∧ y.tasklink = x.tasklink ∧ y.held = x.held

/-- The group in turn is at no boundary and in no wait, which a trap would cut off. -/
abbrev Free (s : State) : Prop := s.g.bound = none ∧ s.g.wait = none

/-- A group in which a trap enters the handler at once: it runs no handler, its launch has one, and no engine result or held lane is
outstanding (R21, R117). -/
abbrev MayEnter (s : State) : Prop :=
  s.g.trapMode = false ∧ (s.desc s.g.launch).trapVec ≠ 0 ∧ s.g.pendS = [] ∧ s.g.heldOps = [] ∧ Free s

/-! Events. -/

/-- The group in turn waits for the result of operation `p.op` in `p.reg`, outside the promise of its command (R18). -/
abbrev Awaits (p : PendS) (s : State) : Prop := (s.g.pendS.find? fun q => q.op == p.op) = some p ∧ p.left = 0

/-- The result of an engine operation has come into its register (R18, R201). -/
structure Posted (p : PendS) (x : Word) (s t : State) : Prop where
  value : t.g.sreg p.reg = x
  others : ∀ r, r ≠ p.reg → t.g.sreg r = s.g.sreg r
  pending : t.g.pendS = s.g.pendS.filter fun q => q.op != p.op
  group : { t.g with s := s.g.s, pendS := s.g.pendS, joins := s.g.joins } = s.g

/-- Bytes stand in memory from a key on. -/
def BytesAt (k : Nat) (bs : List Byte) (t : State) : Prop := ∀ i, i < bs.length → memGet (k + i) t.mem = bs.getD i 0

/-- Every byte outside `n` bytes from a key reads as before. -/
def OnlyBytes (k n : Nat) (s t : State) : Prop := ∀ a, a < k ∨ k + n ≤ a → memGet a t.mem = memGet a s.mem

/-- No two groups have one key, and none that is still to come has a key in use. -/
abbrev KeysApart (s : State) : Prop := (s.groups.map Group.key).Nodup ∧ ∀ g ∈ s.groups, g.key < s.fresh

/-- Only one root stands for a domain of a reach: `x`. -/
def OnlyRoot (x : Root) (s : State) : Prop := x ∈ s.roots ∧ ∀ y ∈ s.roots, y.reach = x.reach → y.domain = x.domain → y = x

/-- The root `x` becomes `y`, and no other root changes. -/
def RootBecomes (x y : Root) (s t : State) : Prop :=
  (∀ z ∈ t.roots, z.reach = x.reach → z.domain = x.domain → z = y)
    ∧ ∀ z : Root, ¬(z.reach = x.reach ∧ z.domain = x.domain) → (z ∈ t.roots ↔ z ∈ s.roots)

/-- The one team of a launch's index `idx` is `x`. -/
abbrev OnlyTeam (lid : BitVec 32) (idx : Nat) (x : Team) (s : State) : Prop := s.teams.filter (fun t => t.launch == lid && t.idx == idx) = [x]

end Sys2Proof.Safety
end

