-- ==== Sys2Proof/Certificates/Slice0/Obligations.lean ====
section
/-! DEFINITION. The statements about the model: the encodings, what every instruction and event does and leaves alone, and the
promises that the whole machine keeps. -/
open Sys2Proof Sys2Proof.Machine Sys2Proof.Safety

/-! Encodings. -/

/-- Words written out from the encodings of R31–R35 decode to the instructions they stand for. -/
def Obligations.WordsDecode : Prop :=
  decode 0x02083020#32 = some (.iaddi .w32 1 1 2 .always)
    ∧ decode 0x240841C0#32 = some (.bfx .w32 1 2 3 .always)
    ∧ decode 0x3C182140#32 = some (.ffma .f32 3 1 2 .always)
    ∧ decode 0x54085100#32 = some (.ld .w32 1 2 1 0 .always)
    ∧ decode 0x6030E450#32 = some (.cas true .die 6 7 8 0)
    ∧ decode 0x94080003#32 = some (.brd 2 3)
    ∧ decode 0xA6640000#32 = some (.bar 3 8)
    ∧ decode 0xA8400000#32 = some (.phase .core)
    ∧ decode 0xE4000000#32 = some .nop

/-- The words of a well-formed instruction decode to it: no operand bit is dropped by the encoding. -/
def Obligations.DecodeEncode : Prop :=
  ∀ i w, WellFormed i = true → encode i = some w → decode w = some i

/-- A word that decodes gives a well-formed instruction whose words it is: every word has at most one meaning and every bit of it
counts. -/
def Obligations.DecodeSound : Prop :=
  ∀ w i, decode w = some i → WellFormed i = true ∧ encode i = some w

/-! Integer, logic, bit, compare, select and predicate instructions. -/

/-- IADD, ISUB and IADDI wrap modulo 2^w, sub-element by sub-element, in the lanes that they act in. The saturating forms compute
the exact result and clamp it to the signed or unsigned range of the width. IMIN and IMAX compare as signed integers, UMIN and UMAX
as unsigned ones; IABS and INEG return (−A) mod 2^w where they negate. The products: IMUL, IMAD and IMSB modulo 2^w, IMULHI the
floor of the signed product over 2^w; and the unsigned high half follows from the signed one by the identity of R69. -/
def Obligations.IntegerArithmetic : Prop :=
  (∀ (w : Width) (d a b : LReg) (imm : BitVec 7) (g : Guard) (s : State),
    ElementResult (.iadd w d a b g) w d a b g (fun x y _ => (x + y) % 2 ^ widthBits w) s
      ∧ ElementResult (.isub w d a b g) w d a b g (fun x y _ => modulo (widthBits w) ((x : Int) - y)) s
      ∧ ElementResult (.iaddi w d a imm g) w d a a g (fun x _ _ => modulo (widthBits w) (x + imm.toInt)) s)
    ∧ (∀ (w : Width) (d a b : LReg) (g : Guard) (s : State),
    let n := widthBits w
    let lo := -(2 ^ (n - 1) : Int)
    let hi := (2 ^ (n - 1) : Int) - 1
    let top := (2 ^ n : Int) - 1
    ElementResult (.iaddsat w d a b g) w d a b g (fun x y _ => modulo n (clamp lo hi (signed n x + signed n y))) s
      ∧ ElementResult (.isubsat w d a b g) w d a b g (fun x y _ => modulo n (clamp lo hi (signed n x - signed n y))) s
      ∧ ElementResult (.uaddsat w d a b g) w d a b g (fun x y _ => modulo n (clamp 0 top ((x : Int) + y))) s
      ∧ ElementResult (.usubsat w d a b g) w d a b g (fun x y _ => modulo n (clamp 0 top ((x : Int) - y))) s)
    ∧ (∀ (w : Width) (d a b : LReg) (g : Guard) (s : State),
    let n := widthBits w
    ElementResult (.imin w d a b g) w d a b g (fun x y _ => if signed n x ≤ signed n y then x else y) s
      ∧ ElementResult (.imax w d a b g) w d a b g (fun x y _ => if signed n x ≤ signed n y then y else x) s
      ∧ ElementResult (.umin w d a b g) w d a b g (fun x y _ => min x y) s
      ∧ ElementResult (.umax w d a b g) w d a b g (fun x y _ => max x y) s
      ∧ ElementResult (.iabs w d a g) w d a a g (fun x _ _ => modulo n (if 0 ≤ signed n x then signed n x else -signed n x)) s
      ∧ ElementResult (.ineg w d a g) w d a a g (fun x _ _ => modulo n (-signed n x)) s)
    ∧ ((∀ (w : Width) (d a b : LReg) (g : Guard) (s : State),
    let n := widthBits w
    ElementResult (.imul w d a b g) w d a b g (fun x y _ => x * y % 2 ^ n) s
      ∧ ElementResult (.imulhi w d a b g) w d a b g (fun x y _ => modulo n (signed n x * signed n y / 2 ^ n)) s
      ∧ ElementResult (.imad w d a b g) w d a b g (fun x y c => (c + x * y) % 2 ^ n) s
      ∧ ElementResult (.imsb w d a b g) w d a b g (fun x y c => modulo n ((c : Int) - x * y)) s)
    ∧ ∀ (w : Width) (x y : Nat),
      let n := widthBits w
      x < 2 ^ n → y < 2 ^ n →
        x * y / 2 ^ n = (modulo n (signed n x * signed n y / 2 ^ n) + (if 2 ^ (n - 1) ≤ x then y else 0)
          + if 2 ^ (n - 1) ≤ y then x else 0) % 2 ^ n)

/-- The logic instructions are bitwise over all 64 bits of each lane, and sz does not change the result. The register shifts take
their amount as B mod w, the immediate shifts as the signed imm7 modulo w. POPC counts the 1 bits, CLZ the 0 bits above the highest
1 bit, CTZ those below the lowest, both w for 0; BREV puts bit w−1−j into bit j. BFX, BFXS and BFI take position and length from B,
clip the length to the bits that exist, and give 0 or the old d for an empty field. -/
def Obligations.LogicShiftBits : Prop :=
  (∀ (w : Width) (d a b : LReg) (g : Guard) (s : State),
    let x := s.g.lane a
    let y := s.g.lane b
    LaneResult (.land w d a b g) d (s.g.acts g) (fun l => x l &&& y l) s
      ∧ LaneResult (.landn w d a b g) d (s.g.acts g) (fun l => x l &&& ~~~(y l)) s
      ∧ LaneResult (.lor w d a b g) d (s.g.acts g) (fun l => x l ||| y l) s
      ∧ LaneResult (.lorn w d a b g) d (s.g.acts g) (fun l => x l ||| ~~~(y l)) s
      ∧ LaneResult (.lxor w d a b g) d (s.g.acts g) (fun l => x l ^^^ y l) s
      ∧ LaneResult (.lxnor w d a b g) d (s.g.acts g) (fun l => ~~~(x l ^^^ y l)) s)
    ∧ (∀ (w : Width) (d a b : LReg) (imm : BitVec 7) (g : Guard) (s : State),
    let n := widthBits w
    let k := (imm.toInt % (n : Int)).toNat
    ElementResult (.shl w d a b g) w d a b g (fun x y _ => x * 2 ^ (y % n) % 2 ^ n) s
      ∧ ElementResult (.shr w d a b g) w d a b g (fun x y _ => x / 2 ^ (y % n)) s
      ∧ ElementResult (.sar w d a b g) w d a b g (fun x y _ => modulo n (signed n x / 2 ^ (y % n))) s
      ∧ ElementResult (.rol w d a b g) w d a b g (fun x y _ => (x * 2 ^ (y % n) ||| x / 2 ^ (n - y % n)) % 2 ^ n) s
      ∧ ElementResult (.shli w d a imm g) w d a a g (fun x _ _ => x * 2 ^ k % 2 ^ n) s
      ∧ ElementResult (.shri w d a imm g) w d a a g (fun x _ _ => x / 2 ^ k) s
      ∧ ElementResult (.sari w d a imm g) w d a a g (fun x _ _ => modulo n (signed n x / 2 ^ k)) s)
    ∧ (∀ (w : Width) (d a : LReg) (g : Guard) (s : State),
    let n := widthBits w
    ElementRelation (.popc w d a g) w d a g (fun x r => r = ((List.range n).filter fun j => x.testBit j).length) s
      ∧ ElementRelation (.clz w d a g) w d a g
        (fun x r => r ≤ n ∧ x < 2 ^ (n - r) ∧ (r < n → x.testBit (n - 1 - r) = true)) s
      ∧ ElementRelation (.ctz w d a g) w d a g (fun x r => r ≤ n ∧ x % 2 ^ r = 0 ∧ (r < n → x.testBit r = true)) s
      ∧ ElementRelation (.brev w d a g) w d a g (fun x r => ∀ j, j < n → r.testBit j = x.testBit (n - 1 - j)) s)
    ∧ (∀ (w : Width) (d a b : LReg) (g : Guard) (s : State),
    let n := widthBits w
    let k := match w with | .w8 => 3 | .w16 => 4 | .w32 => 5 | .w64 => 6
    let pos := fun y : Nat => y % 2 ^ k
    let len := fun y : Nat => min (y / 2 ^ k % 2 ^ (k + 1)) (n - pos y)
    let mask := fun y => (2 ^ len y - 1) * 2 ^ pos y
    ElementResult (.bfx w d a b g) w d a b g (fun x y _ => x / 2 ^ pos y % 2 ^ len y) s
      ∧ ElementResult (.bfxs w d a b g) w d a b g
        (fun x y _ => if len y = 0 then 0 else modulo n (signed (len y) (x / 2 ^ pos y % 2 ^ len y))) s
      ∧ ElementResult (.bfi w d a b g) w d a b g
        (fun x y c => (c &&& (2 ^ n - 1 - mask y)) ||| (x * 2 ^ pos y &&& mask y)) s)

/-- MOV and MOVS copy whole registers; MOVI writes imm16 under the h rule of R28, with no guard. SEL gives d the whole of a or of b
in each lane of EM, as any predicate says. -/
def Obligations.MoveSelect : Prop :=
  (∀ (d a : LReg) (sa : SReg) (g : Guard) (k : BitVec 2) (imm : BitVec 16) (s : State),
    LaneResult (.mov d a g) d (s.g.acts g) (fun l => s.g.lane a l) s
      ∧ LaneResult (.movs d sa g) d (s.g.acts g) (fun _ => s.g.sreg sa) s
      ∧ LaneResult (.movi d (.quarter k) imm) d s.g.em (fun l => bitsOfFn (fun j =>
          if 16 * k.toNat ≤ j ∧ j < 16 * k.toNat + 16 then imm.getLsbD (j - 16 * k.toNat) else (s.g.lane d l).getLsbD j) 64) s
      ∧ LaneResult (.movi d .sext imm) d s.g.em (fun _ => BitVec.ofInt 64 imm.toInt) s
      ∧ LaneResult (.movi d .zext imm) d s.g.em (fun _ => BitVec.ofNat 64 imm.toNat) s)
    ∧ (∀ (d a b : LReg) (p : PReg) (s : State),
    LaneResult (.sel d a b p) d s.g.em (fun l => if (s.g.preg p).has l then s.g.lane a l else s.g.lane b l) s)

/-- ICMP compares the low 32 or all 64 bits in each lane of EM, and the m field combines the result with the old predicate. SCMP
yields one bit for the group, which it writes into the predicate in the lanes of EM under the m field. PLOP writes bit (2 × pa + pb)
of f in each lane of EM. PMOV moves a bank of 64 predicates to or from a register, in the lanes that it acts in; the guard is read
before a predicate is written. -/
def Obligations.ComparePredicates : Prop :=
  (∀ (pd : PReg) (a b : LReg) (c : Cond) (w64 : Bool) (m : Comb) (s : State),
    let n := if w64 then 64 else 32
    PredResult (.icmp pd a b c w64 m) pd
      (fun l => Combined m ((s.g.preg pd).has l)
        (Holds c n ((s.g.lane a l).toNat % 2 ^ n) ((s.g.lane b l).toNat % 2 ^ n))) s)
    ∧ (∀ (pd : PReg) (sa sb : SReg) (c : Cond) (w64 : Bool) (m : Comb) (s : State),
    let n := if w64 then 64 else 32
    PredResult (.scmp pd sa sb c w64 m) pd
      (fun l => Combined m ((s.g.preg pd).has l) (Holds c n ((s.g.sreg sa).toNat % 2 ^ n) ((s.g.sreg sb).toNat % 2 ^ n))) s)
    ∧ (∀ (pd pa pb : PReg) (f : BitVec 4) (s : State),
    PredResult (.plop pd pa pb f) pd
      (fun l => f.getLsbD (2 * ((s.g.preg pa).has l).toNat + ((s.g.preg pb).has l).toNat)) s)
    ∧ (∀ (r : LReg) (hi : Bool) (g : Guard) (s : State),
    let base := if hi then 64 else 0
    let m := s.g.acts g
    LaneResult (.pmovGet r hi g) r m (fun l => bitsOfFn (fun j => (s.g.preg (BitVec.ofNat 7 (base + j))).has l) 64) s
      ∧ Completes (.pmovSet r hi g) s fun t =>
        Retires s t ∧ t = { s with g := t.g } ∧ { unretired s.g t.g with p := s.g.p } = s.g ∧ SameBytes s t
          ∧ (∀ j l, j < 64 → m.has l = true → (t.g.preg (BitVec.ofNat 7 (base + j))).has l = (s.g.lane r l).getLsbD j)
          ∧ ∀ q l, m.has l = false ∨ q.toNat < base ∨ base + 64 ≤ q.toNat → (t.g.preg q).has l = (s.g.preg q).has l)

/-! Floating-point instructions. -/

/-- FADD, FSUB, FMUL, FFMA and FFMS deliver the one rounding of the exact result under FRM.RM, FMIN and FMAX one of their operands,
and FSPEC its function, in every acting sub-element; FFLAGS receives the union of their flags. FABS clears and FNEG inverts the sign
bit of each sub-element, copies all other bits, and raises no flag for any input. Where it goes beyond the rules it states the
model's own choices: log 13, 14. -/
def Obligations.FloatArithmetic : Prop :=
  (∀ (f : FFmt) (fn : FFun) (d a b : LReg) (g : Guard) (s : State),
    let t := fmtOf f
    let rm := s.g.frm
    FloatResult (.fadd f d a b g) f d a b g (fun x y _ => t.add rm x y) s
      ∧ FloatResult (.fsub f d a b g) f d a b g (fun x y _ => t.sub rm x y) s
      ∧ FloatResult (.fmul f d a b g) f d a b g (fun x y _ => t.mul rm x y) s
      ∧ FloatResult (.ffma f d a b g) f d a b g (fun x y c => t.fma rm x y c) s
      ∧ FloatResult (.ffms f d a b g) f d a b g (fun x y c => t.fms rm x y c) s
      ∧ FloatResult (.fmin f d a b g) f d a b g (fun x y _ => t.minMax false x y) s
      ∧ FloatResult (.fmax f d a b g) f d a b g (fun x y _ => t.minMax true x y) s
      ∧ FloatResult (.fspec fn f d a g) f d a a g (fun x _ _ => fspec fn f rm x) s)
    ∧ (∀ (f : FFmt) (d a : LReg) (g : Guard) (s : State),
    let n := if f = .f32 then 32 else 16
    let m := s.g.acts g
    (Completes (.fabs f d a g) s fun t => Retires s t ∧ OnlyLanes d m s t ∧
        Elementwise n d a a m (fun x _ _ => if 2 ^ (n - 1) ≤ x then x - 2 ^ (n - 1) else x) s t)
      ∧ Completes (.fneg f d a g) s fun t => Retires s t ∧ OnlyLanes d m s t ∧
        Elementwise n d a a m (fun x _ _ => if 2 ^ (n - 1) ≤ x then x - 2 ^ (n - 1) else x + 2 ^ (n - 1)) s t)

/-- Every NaN that an arithmetic operation, a minimum or maximum of two NaNs, a function or a conversion to a float format produces
is the canonical NaN of the destination format. x − x of a finite x is an exact zero: +0, except under RDN, where it is −0; and it
raises no flag. A representable value is delivered as it is, with no flag, in every rounding mode. A value within the range of the
format is delivered as R56 defines each mode: under RNE the nearest representable value, and of two the one with the even fraction;
under RTZ the nearest of those no larger in magnitude; under RUP the least no smaller and under RDN the greatest no larger than the
exact value; and NX says whether the delivered value differs from the exact one. -/
def Obligations.FloatDelivery : Prop :=
  ((∀ (f : FFmt) (fn : FFun) (rm : BitVec 2) (x y c : Nat),
    let t := fmtOf f
    ∀ r : FRes, r ∈ [t.add rm x y, t.sub rm x y, t.mul rm x y, t.fma rm x y c, t.fms rm x y c, fspec fn f rm x] →
      (t.val r.1).isNan = true → r.1 = t.nan)
    ∧ (∀ (f : FFmt) (big : Bool) (x y : Nat),
      let t := fmtOf f
      (t.val (t.minMax big x y).1).isNan = true → (t.minMax big x y).1 = t.nan)
    ∧ ∀ (src dst : Fmt) (rm : BitVec 2) (x : Nat), src ∈ [fp32, fp16, bf16, e5m2, e4m3, e2m1] →
      dst ∈ [fp32, fp16, bf16, e5m2, e4m3, e2m1] →
      (dst.val (cvtFF src dst rm x).1).isNan = true → (cvtFF src dst rm x).1 = dst.nan)
    ∧ (∀ (f : FFmt) (rm : BitVec 2) (x m : Nat) (neg : Bool) (e : Int),
    (fmtOf f).val x = .fin neg m e → (fmtOf f).sub rm x x = ((fmtOf f).signBit (rm == rdn), 0))
    ∧ (∀ (t : Fmt) (rm : BitVec 2) (x m : Nat) (neg : Bool) (e : Int), t ∈ [fp32, fp16, bf16, e5m2, e4m3, e2m1] →
    x < 2 ^ t.width → t.val x = .fin neg m e → t.round rm neg m e = (x, 0))
    ∧ (∀ (t : Fmt) (rm : BitVec 2) (z mz : Nat) (nz : Bool) (ez : Int) (m : Nat) (neg : Bool) (e : Int),
    t ∈ [fp32, fp16, bf16, e5m2, e4m3, e2m1] → z < 2 ^ t.width → t.val z = .fin nz mz ez →
    scaled (min e ez) false m e ≤ scaled (min e ez) false mz ez →
    let r := t.round rm neg m e
    r.1 < 2 ^ t.width ∧ ∃ (n1 : Bool) (m1 : Nat) (e1 : Int), t.val r.1 = .fin n1 m1 e1
      ∧ (r.2.getLsbD 0 = true ↔ scaled (min e e1) n1 m1 e1 ≠ scaled (min e e1) neg m e)
      ∧ ∀ (y m2 : Nat) (n2 : Bool) (e2 : Int), y < 2 ^ t.width → t.val y = .fin n2 m2 e2 →
        let q := min e (min e1 e2)
        let X := scaled q neg m e
        let R := scaled q n1 m1 e1
        let Y := scaled q n2 m2 e2
        (rm = 0 → (X - R).natAbs < (X - Y).natAbs ∨ ((X - R).natAbs = (X - Y).natAbs ∧ (Y = R ∨ r.1 % 2 = 0)))
          ∧ (rm = 1 → R.natAbs ≤ X.natAbs ∧ (Y.natAbs ≤ X.natAbs → Y.natAbs ≤ R.natAbs) ∧ (R = 0 ∨ 0 < R * X))
          ∧ (rm = 2 → X ≤ R ∧ (X ≤ Y → R ≤ Y))
          ∧ (rm = 3 → R ≤ X ∧ (Y ≤ X → Y ≤ R)))

/-- FCMP compares the FP32 values in bits 31 to 0 of each lane of EM, combines the condition with the old predicate, and raises NV
for a signalling NaN, and for any NaN under LT, GE, LE and GT. -/
def Obligations.CompareFloat : Prop :=
  ∀ (pd : PReg) (a b : LReg) (c : FCond) (m : Comb) (s : State),
    let x := fun l => fp32.val ((s.g.lane a l).toNat % 2 ^ 32)
    let y := fun l => fp32.val ((s.g.lane b l).toNat % 2 ^ 32)
    let uno := fun l => (x l).isNan || (y l).isNan
    let lt := fun l => !uno l && FVal.lt false (x l) (y l)
    let gt := fun l => !uno l && FVal.lt false (y l) (x l)
    let r := fun l => match c with
      | .eq => !uno l && !lt l && !gt l
      | .ne => uno l || lt l || gt l
      | .lt => lt l
      | .ge => !uno l && !lt l
      | .le => !uno l && !gt l
      | .gt => gt l
      | .ord => !uno l
      | .uno => uno l
    let loud := c = .lt ∨ c = .ge ∨ c = .le ∨ c = .gt
    Completes (.fcmp pd a b c m) s fun t => Retires s t
      ∧ (∀ l, s.g.em.has l = true → (t.g.preg pd).has l = Combined m ((s.g.preg pd).has l) (r l))
      ∧ (∀ l, s.g.em.has l = false → (t.g.preg pd).has l = (s.g.preg pd).has l)
      ∧ (∀ q, q ≠ pd → t.g.preg q = s.g.preg q)
      ∧ (∀ k, t.g.fflags.getLsbD k = true ↔ (s.g.fflags.getLsbD k = true ∨ (k = 4 ∧ ∃ l, s.g.em.has l = true ∧
          ((x l).isSnan = true ∨ (y l).isSnan = true ∨ (loud ∧ uno l = true)))))
      ∧ t = { s with g := t.g } ∧ { unretired s.g t.g with p := s.g.p, fflags := s.g.fflags } = s.g ∧ SameBytes s t

/-- CVT converts the N elements of its part by the rule of the selector: narrowing fills the part of the old d, widening reads the
part of a; every other bit of d is as before. -/
def Obligations.Convert : Prop :=
  ∀ (sel : BitVec 6) (sz : BitVec 2) (d a : LReg) (g : Guard) (s : State) (r : CvtRow), cvtRow sel = some r → cvtOk sel sz = true →
    let ws := r.src.width
    let wd := r.dst.width
    let n := 64 / max ws wd
    let at0 := (sz.toNat + if r.h then 4 else 0) * n
    let m := s.g.acts g
    let conv := fun x => convert r s.g.frm x
    let src := fun l i => conv (elem ws (if ws < wd then at0 + i else i) (s.g.lane a l))
    Completes (.cvt sel sz d a g) s fun t => Retires s t ∧ OnlyLanesFlags d m s t
      ∧ (∀ l i, m.has l = true → i < n →
          elem wd (if wd < ws then at0 + i else i) (t.g.lane d l) = (src l i).1 % 2 ^ wd)
      ∧ (∀ l j, m.has l = true → j < 64 / wd → wd < ws → (j < at0 ∨ at0 + n ≤ j) →
          elem wd j (t.g.lane d l) = elem wd j (s.g.lane d l))
      ∧ ∀ k, t.g.fflags.getLsbD k = true ↔
          (s.g.fflags.getLsbD k = true ∨ ∃ l i, m.has l = true ∧ i < n ∧ (src l i).2.getLsbD k = true)

/-- DOT adds the exact sum of products to the chosen half of d: of the integer pair modulo 2^32 and without flags, of the float
pairs with one rounding to FP32; the other half of d is as before. -/
def Obligations.DotProduct : Prop :=
  ∀ (hi : Bool) (d a b : LReg) (g : Guard) (s : State),
    let m := s.g.acts g
    let h := if hi then 1 else 0
    (Completes (.dot .i8 hi d a b g) s fun t => Retires s t ∧ OnlyLanes d m s t
      ∧ ∀ l, m.has l = true → elem 32 (1 - h) (t.g.lane d l) = elem 32 (1 - h) (s.g.lane d l)
        ∧ elem 32 h (t.g.lane d l) = modulo 32 ((elem 32 h (s.g.lane d l) : Int)
          + ((List.range 8).map fun i => signed 8 (elem 8 i (s.g.lane a l)) * signed 8 (elem 8 i (s.g.lane b l))).sum))
      ∧ ∀ pair t0, dotFmt pair = some t0 →
        let w := t0.width
        let els := fun (r : LReg) l => (List.range (64 / w)).map fun i => elem w i (s.g.lane r l)
        let res := fun l => dotFloat t0 s.g.frm (els a l) (els b l) (elem 32 h (s.g.lane d l))
        Completes (.dot pair hi d a b g) s fun t => Retires s t ∧ OnlyLanesFlags d m s t
          ∧ (∀ l, m.has l = true → elem 32 (1 - h) (t.g.lane d l) = elem 32 (1 - h) (s.g.lane d l)
            ∧ elem 32 h (t.g.lane d l) = (res l).1 % 2 ^ 32)
          ∧ ∀ k, t.g.fflags.getLsbD k = true ↔
            (s.g.fflags.getLsbD k = true ∨ ∃ l, m.has l = true ∧ (res l).2.getLsbD k = true)

/-! Exchange between lanes. -/

/-- PERM gathers sub-elements from the lanes that the low five bits of its index elements name, LXCH takes the whole register of one
lane; a never-launched lane supplies 0. VOTE writes what its mode makes of B = EM ∧ p, even when EM = 0. -/
def Obligations.LaneExchange : Prop :=
  (∀ (w : Width) (x : Xch) (d a b : LReg) (g : Guard) (s : State),
    let n := widthBits w
    let m := s.g.acts g
    let src := fun k => if s.g.launched.has k then s.g.lane a k else 0
    let lane := fun l => match x with
      | .bcast k => k.toNat
      | .rot k => (l + k.toNat) % 32
      | .mirror k => l ^^^ (2 ^ k.toNat - 1)
      | .xor k => l ^^^ k.toNat
    (Completes (.perm w d a b g) s fun t => Retires s t ∧ OnlyLanes d m s t
      ∧ ∀ l i, m.has l = true → i < 64 / n →
        elem n i (t.g.lane d l) = elem n i (src (elem n i (s.g.lane b l) % 32)))
      ∧ (x.wf = true → LaneResult (.lxch x d a g) d m (fun l => src (lane l)) s))
    ∧ (∀ (sd : SReg) (p : PReg) (s : State),
    let b := s.g.em &&& s.g.preg p
    ScalarResult (.vote sd p .all) sd (if b = s.g.em then 1 else 0) s
      ∧ ScalarResult (.vote sd p .any) sd (if b = 0 then 0 else 1) s
      ∧ ScalarResult (.vote sd p .ballot) sd (BitVec.ofNat 64 b.toNat) s
      ∧ ScalarResult (.vote sd p .count) sd
        (BitVec.ofNat 64 ((List.range 32).filter fun l => s.g.em.getLsbD l && (s.g.preg p).getLsbD l).length) s)

/-- LRED writes the result of the tree of R60 into every lane that it acts in, sub-element by sub-element; the other lanes enter as
the identity; the integer operations raise no flag. LSCAN gives each lane the inclusive or the exclusive value of the scan of R60;
the other lanes enter as the identity; the integer operations raise no flag. -/
def Obligations.ReduceScan : Prop :=
  (∀ (r : Reduce) (d a : LReg) (g : Guard) (s : State),
    let m := s.g.acts g
    let w := redWidth r
    let op := fun u v => (redOp r s.g.frm u v).1
    let x := fun i l => if m.has l then elem w i (s.g.lane a l) else redIdentity r
    Completes (.lred r d a g) s fun t => Retires s t ∧ OnlyLanesFlags d m s t
      ∧ (∀ l i, m.has l = true → i < 64 / w → elem w i (t.g.lane d l) = treeAt op (x i) 5 0 % 2 ^ w)
      ∧ ∀ k n, r = .int k n → t.g.fflags = s.g.fflags)
    ∧ (∀ (r : Reduce) (exc : Bool) (d a : LReg) (g : Guard) (s : State),
    let m := s.g.acts g
    let w := redWidth r
    let op := fun u v => (redOp r s.g.frm u v).1
    let x := fun i l => if m.has l then elem w i (s.g.lane a l) else redIdentity r
    Completes (.lscan r exc d a g) s fun t => Retires s t ∧ OnlyLanesFlags d m s t
      ∧ (∀ l i, m.has l = true → i < 64 / w → elem w i (t.g.lane d l) =
          (if exc then (if l = 0 then redIdentity r else scanAt op (x i) 5 (l - 1)) else scanAt op (x i) 5 l) % 2 ^ w)
      ∧ ∀ k n, r = .int k n → t.g.fflags = s.g.fflags)

/-- The lane tree of integer addition is the sum of the acting lanes modulo 2^w. -/
def Obligations.ReduceAddIsSum : Prop :=
  ∀ (w : Width) (d a : LReg) (g : Guard) (s : State) (l i : Nat),
    let m := s.g.acts g
    let n := widthBits w
    m.has l = true → i < 64 / n →
      Completes (.lred (.int .add w) d a g) s fun t =>
        elem n i (t.g.lane d l) = (((List.range 32).filter m.has).map fun k => elem n i (s.g.lane a k)).sum % 2 ^ n

/-! Uniform instructions and control transfers. -/

/-- The uniform operations on 64-bit values, each modulo 2^64, with shifts by B mod 64. SADDI adds the signed imm13, SLI writes
imm16 under the h rule, and SGET copies a lane, 0 for a never-launched one. -/
def Obligations.UniformRegisters : Prop :=
  (∀ (sd sa sb : SReg) (s : State),
    let a := (s.g.sreg sa).toNat
    let b := (s.g.sreg sb).toNat
    let w := fun x : Int => BitVec.ofNat 64 (modulo 64 x)
    let A := signed 64 a
    let B := signed 64 b
    ScalarResult (.sadd sd sa sb) sd (w (a + b)) s
      ∧ ScalarResult (.ssub sd sa sb) sd (w (a - b)) s
      ∧ ScalarResult (.smul sd sa sb) sd (w (a * b)) s
      ∧ ScalarResult (.smulhi sd sa sb) sd (w (A * B / 2 ^ 64)) s
      ∧ ScalarResult (.sand sd sa sb) sd (s.g.sreg sa &&& s.g.sreg sb) s
      ∧ ScalarResult (.sor sd sa sb) sd (s.g.sreg sa ||| s.g.sreg sb) s
      ∧ ScalarResult (.sxor sd sa sb) sd (s.g.sreg sa ^^^ s.g.sreg sb) s
      ∧ ScalarResult (.sandn sd sa sb) sd (s.g.sreg sa &&& ~~~(s.g.sreg sb)) s
      ∧ ScalarResult (.sshl sd sa sb) sd (w (a * 2 ^ (b % 64))) s
      ∧ ScalarResult (.sshr sd sa sb) sd (w (a / 2 ^ (b % 64))) s
      ∧ ScalarResult (.ssar sd sa sb) sd (w (A / 2 ^ (b % 64))) s
      ∧ ScalarResult (.smin sd sa sb) sd (w (min A B)) s
      ∧ ScalarResult (.smax sd sa sb) sd (w (max A B)) s
      ∧ ScalarResult (.sminu sd sa sb) sd (w (min a b)) s
      ∧ ScalarResult (.smaxu sd sa sb) sd (w (max a b)) s)
    ∧ (∀ (sd sa : SReg) (va : LReg) (i13 : BitVec 13) (k : BitVec 2) (imm : BitVec 16) (lane : BitVec 5) (s : State),
    ScalarResult (.saddi sd sa i13) sd (BitVec.ofNat 64 (modulo 64 ((s.g.sreg sa).toNat + i13.toInt))) s
      ∧ ScalarResult (.sli sd (.quarter k) imm) sd (bitsOfFn (fun j =>
          if 16 * k.toNat ≤ j ∧ j < 16 * k.toNat + 16 then imm.getLsbD (j - 16 * k.toNat) else (s.g.sreg sd).getLsbD j) 64) s
      ∧ ScalarResult (.sli sd .sext imm) sd (BitVec.ofInt 64 imm.toInt) s
      ∧ ScalarResult (.sli sd .zext imm) sd (BitVec.ofNat 64 imm.toNat) s
      ∧ ScalarResult (.sget sd va lane) sd (if s.g.launched.getLsbD lane.toNat then s.g.lane va lane.toNat else 0) s)

/-- BRA branches when its condition holds over the predicate bits of the lanes of EM, and BRL always; neither changes EM. CALL
writes s63 with the address of the next word and branches; RET goes to an aligned s63; neither changes EM or the reconvergence
stack. RUNEND, NOP and ICINV change no architectural register of the group: RUNEND keeps its trailer for the next run, ICINV
invalidates caches only. Where it goes beyond the rules it states the model's own choices: log 18, 24. -/
def Obligations.BranchCall : Prop :=
  (∀ (p : PReg) (off : BitVec 15) (off25 : BitVec 25) (s : State),
    let lanes := (List.range 32).filter s.g.em.has
    let bit := (s.g.preg p).has
    let dest := s.g.pc + BitVec.ofInt 64 (4 * off.toInt)
    let next := s.g.pc + 4
    Branches (.bra .always p off) dest s
      ∧ Branches (.bra .any p off) (if lanes.any bit then dest else next) s
      ∧ Branches (.bra .all p off) (if lanes.all bit then dest else next) s
      ∧ Branches (.bra .none p off) (if lanes.any bit then next else dest) s
      ∧ Branches (.bra .notAll p off) (if lanes.all bit then next else dest) s
      ∧ Branches (.brl off25) (s.g.pc + BitVec.ofInt 64 (4 * off25.toInt)) s)
    ∧ (∀ (off : BitVec 25) (s : State),
    (Completes (.call off) s fun t => RetiresAt (s.g.pc + BitVec.ofInt 64 (4 * off.toInt)) s t ∧ t.g.sreg 63 = s.g.pc + 4
        ∧ OnlyScalar 63 s t)
      ∧ ((s.g.sreg 63).toNat % 4 = 0 → Branches .ret (s.g.sreg 63) s))
    ∧ (∀ (wa wb : BitVec 3) (ma mb : BitVec 8) (lv : IcLevel) (s : State),
    Becomes (.runend wa ma wb mb) { s.g with trailer := trailerRegs wa ma wb mb } (s.g.pc + 4) s
      ∧ Branches .nop (s.g.pc + 4) s
      ∧ Completes (.icinv lv) s fun t => Retires s t ∧ unretired s.g t.g = s.g ∧ t = { s with g := t.g, icache := t.icache }
        ∧ SameBytes s t)

/-- BRD splits EM on the predicate: it falls through, branches whole, or pushes the lanes that fall through and goes on with the
others; JPUSH pushes EM with the join address; both trap STACK_OVERFLOW with the depth where the stack is full. JOIN discards the
entries whose lanes have all exited and goes on with the first other one; with none left it traps, and the discarded entries stay
discarded. EXIT ends the lanes of EM and closes the group's region; where the stack holds an entry with a live lane, the other paths
go on. Where it goes beyond the rules it states the model's own choices: the depth 0 in TRAPINFO of a JOIN that has discarded its
entries (log 30), and that EXIT closes the region and starts the count of restarts again (log 32). -/
def Obligations.Divergence : Prop :=
  (∀ (p : PReg) (off : BitVec 18) (s : State),
    let t := s.g.em &&& s.g.preg p
    let f := s.g.em &&& ~~~(s.g.preg p)
    let dest := s.g.pc + BitVec.ofInt 64 (4 * off.toInt)
    (t = 0 → Branches (.brd p off) (s.g.pc + 4) s)
      ∧ (t ≠ 0 → f = 0 → Branches (.brd p off) dest s)
      ∧ (t ≠ 0 → f ≠ 0 → s.g.stack.length < 32 →
        Becomes (.brd p off) { s.g with stack := (f, s.g.pc + 4) :: s.g.stack, em := t } dest s)
      ∧ (t ≠ 0 → f ≠ 0 → s.g.stack.length = 32 → exec (.brd p off) s = s.trapU 0x12 32))
    ∧ (∀ (off : BitVec 25) (s : State) (m : Mask) (pc : Word) (dead rest : List (Mask × Word)),
    let dest := s.g.pc + BitVec.ofInt 64 (4 * off.toInt)
    (s.g.stack.length < 32 → Becomes (.jpush off) { s.g with stack := (s.g.em, dest) :: s.g.stack } (s.g.pc + 4) s)
      ∧ (s.g.stack.length = 32 → exec (.jpush off) s = s.trapU 0x12 32)
      ∧ ((∀ e ∈ dead, e.1 &&& s.g.live = 0) → m &&& s.g.live ≠ 0 → s.g.stack = dead ++ (m, pc) :: rest →
        Becomes .join { s.g with stack := rest, em := m &&& s.g.live } pc s)
      ∧ ((∀ e ∈ s.g.stack, e.1 &&& s.g.live = 0) → exec .join s = State.trapU (s.onG fun g => { g with stack := [] }) 0x12 128))
    ∧ (∀ (s : State) (m : Mask) (pc : Word) (dead rest : List (Mask × Word)),
    let live := s.g.live &&& ~~~s.g.em
    (∀ e ∈ dead, e.1 &&& live = 0) → m &&& live ≠ 0 → s.g.stack = dead ++ (m, pc) :: rest →
      Becomes .exit { s.g with live := live, stack := rest, em := m &&& live, region := none, restarts := if s.g.region.isSome then 0 else s.g.restarts } pc s)

/-- BRX reads the table of R47 and takes each active lane to the target of its index: it pushes the whole EM with the join address
and the other lane groups, and goes on with the first; with no active lane it goes to the join address. RGN sets REGPC to the entry
point of its region table entry, opens a new region epoch, and goes on at the next word. Where it goes beyond the rules it states
the model's own choices: log 23, 30, 32. -/
def Obligations.TableReads : Prop :=
  (∀ (va : LReg) (table : BitVec 19) (s s1 s2 s3 : State) (join count top : Nat) (entries : List Nat) (m1 : Mask × Nat)
    (ms : List (Mask × Nat)),
    let d := s.gdesc
    let base := d.ttabBase + BitVec.ofNat 64 (8 * table.toNat)
    let at_ := fun off => BitVec.ofNat 64 (d.codeBase.toNat / 4 * 4) + BitVec.ofNat 64 (4 * off)
    let idx := fun l => (s.g.lane va l).toNat % 2 ^ 32
    Reads false 4 base s s1 join → Reads false 4 (base + 4) s1 s2 count →
      (s.g.em = 0 → exec (.brx va table) s = .next { s2 with g := s2.g.retireTo (at_ join) })
      ∧ ((∀ l, s.g.em.has l = true → idx l < count) → (∃ l, s.g.em.has l = true ∧ idx l = top) →
        (∀ l, s.g.em.has l = true → idx l ≤ top) →
        ReadsAll 4 ((List.range (top + 1)).map fun i => base + BitVec.ofNat 64 (8 + 4 * i)) s2 s3 entries →
        brxGroups entries s.g.em idx = m1 :: ms → s.g.stack.length + ms.length + 1 ≤ 32 →
        (∀ l, s.g.em.has l = true → ∃ x ∈ m1 :: ms, x.1.has l = true ∧ x.2 = entries.getD (idx l) 0)
        ∧ exec (.brx va table) s = .next { s3 with g := { s3.g with
            stack := (ms.map fun x : Mask × Nat => (x.1, at_ x.2)) ++ (s.g.em, at_ join) :: s.g.stack, em := m1.1 }.retireTo (at_ m1.2) }))
    ∧ (∀ (region : BitVec 18) (s s1 s2 : State) (entry len : Nat),
    let a := s.gdesc.rgnBase + BitVec.ofNat 64 (48 * region.toNat)
    Reads false 4 a s s1 entry → Reads false 4 (a + 4) s1 s2 len →
      Completes (.rgn region) s fun t => t = { s2 with g := t.g } ∧ Retires s t
        ∧ t.g.regpc = s.gdesc.codeBase + BitVec.ofNat 64 (4 * entry) ∧ t.g.epoch = s.g.epoch + 1
        ∧ { unretired s.g t.g with regpc := s.g.regpc, epoch := s.g.epoch, region := s.g.region, restarts := s.g.restarts } = s.g)

/-! Traps and control registers. -/

/-- TRAP and BKPT enter the handler: the trap CSRs hold the trap, v48–v55 and s56–s63 change places with the trap bank, MODE.TRAP is
set, EM stays, and PC receives TRAPVEC, with bits 1 and 0 at 0. A trap without a handler writes the trap CSRs, leaves PC at the
instruction and halts the group; a trap in a handler freezes it. Where it goes beyond the rules it states the model's own choices:
log 23, 27. -/
def Obligations.TrapEntry : Prop :=
  (∀ (imm : BitVec 16) (s : State) (i : Instr) (cause : Nat), (i, cause) ∈ [(Instr.trap imm, 0x18), (Instr.bkpt imm, 0x15)] →
    MayEnter s → Completes i s fun t =>
      Traps cause (BitVec.ofNat 64 imm.toNat) s.g.em s t ∧ t.g.trapMode = true ∧ t.g.pc = BitVec.ofNat 64 (s.gdesc.trapVec.toNat / 4 * 4) ∧ t.g.em = s.g.em
        ∧ SeenAs (s.g.settleAll s.tick) true t.g ∧ t.g.retired = s.g.retired ∧ t.g.last = .trapped
        ∧ t = { s with g := t.g, others := t.others } ∧ SameOthers s t ∧ SameBytes s t)
    ∧ (∀ (imm : BitVec 16) (s : State) (i : Instr) (cause : Nat), (i, cause) ∈ [(Instr.trap imm, 0x18), (Instr.bkpt imm, 0x15)] → Free s →
    (s.g.trapMode = true → Completes i s fun t =>
        t.g = { s.g.unwait with halted := some .frozen, haltTick := s.tick, last := .trapped } ∧ SameOthers s t
          ∧ t = { s with g := t.g, others := t.others, events := t.events } ∧ ∃ e, t.events = s.events ++ [e] ∧ e.kind = .halted ∧ e.gid = s.g.gid)
      ∧ (s.g.trapMode = false → s.gdesc.trapVec = 0 → s.g.pendS = [] → s.g.heldOps = [] → Completes i s fun t =>
        Traps cause (BitVec.ofNat 64 imm.toNat) s.g.em s t ∧ t.g.trapMode = false ∧ t.g.pc = s.g.pc ∧ t.g.em = s.g.em
          ∧ t.g.halted = some .trap ∧ SeenAs (s.g.settleAll s.tick) false t.g ∧ SameOthers s t
          ∧ t = { s with g := t.g, others := t.others, events := t.events } ∧ ∃ e, t.events = s.events ++ [e] ∧ e.kind = .halted ∧ e.gid = s.g.gid))

/-- RFT undoes the swap of trap entry, clears MODE.TRAP, gives EM the live lanes of TRAPEM, and resumes at TRAPPC. A handler that
changes nothing is not seen: TRAP and then RFT give back every register, EM on the live lanes, and the stack. Where it goes beyond
the rules it states the model's own choice: log 28. -/
def Obligations.TrapReturn : Prop :=
  (∀ s : State, s.g.trapMode = true → s.g.heldOps = [] → (∀ p ∈ s.g.pendS, p.reg.toNat < 56) →
    Completes .rft s fun t => RetiresAt s.g.trapPc s t ∧ t.g.trapMode = false ∧ t.g.em = s.g.trapEm &&& s.g.live
      ∧ SeenAs (s.g.settleAll s.tick) true t.g ∧ t = { s with g := t.g } ∧ SameBytes s t)
    ∧ (∀ (imm : BitVec 16) (s : State), MayEnter s → s.g.inflight = [] → ∃ t u, exec (.trap imm) s = .next t ∧ exec .rft t = .next u
    ∧ u.g.v = s.g.v ∧ u.g.e = s.g.e ∧ u.g.s = s.g.s ∧ u.g.p = s.g.p ∧ u.g.stack = s.g.stack ∧ u.g.pc = s.g.pc
    ∧ u.g.em = s.g.em &&& s.g.live ∧ u.g.trapMode = false)

/-- CSRR reads a listed CSR into an s register, or into a v register in each lane of EM, each lane its own value of LANEIDX. CSR
numbers from 0x200 upwards trap PRIV with the number, and RFT outside a handler with 0. Where it goes beyond the rules it states the
model's own choices: log 4, 21. -/
def Obligations.ReadCsr : Prop :=
  (∀ (r : SReg) (v : LReg) (n : BitVec 12) (s : State), csrListed n.toNat = true → n ≠ 0x12F → (n = 5 → s.g.redsOut = false) →
    let x := fun l => s.csrGet s.g n.toNat l
    ScalarResult (.csrr (.s r) n) r (x 0) s
      ∧ LaneResult (.csrr (.v v) n) v s.g.em x s
      ∧ (n = 0x000 → ∀ l, x l = BitVec.ofNat 64 s.g.em.toNat) ∧ (n = 0x001 → ∀ l, x l = s.g.regpc)
      ∧ (n = 0x005 → ∀ l, x l = BitVec.ofNat 64 s.g.fflags.toNat) ∧ (n = 0x011 → ∀ l, x l = s.g.trapPc)
      ∧ (n = 0x013 → ∀ l, x l = s.g.trapInfo) ∧ (n = 0x015 → ∀ l, x l = s.gdesc.trapVec)
      ∧ (n = 0x030 → ∀ l, x l = BitVec.ofNat 64 l) ∧ (n = 0x042 → ∀ l, x l = s.g.retired))
    ∧ (∀ (dst : CsrDst) (n : BitVec 12) (sa : SReg) (s : State),
    (0x200 ≤ n.toNat → exec (.csrr dst n) s = s.trapAt 3 (BitVec.ofNat 64 n.toNat) s.g.em
        ∧ exec (.csrw n sa) s = s.trapAt 3 (BitVec.ofNat 64 n.toNat) s.g.em)
      ∧ (s.g.trapMode = false → exec .rft s = s.trapAt 3 0 s.g.em))

/-- CSRW writes the RW fields of a CSR, which the next instruction sees; a write to EM is taken with the live lanes, one to TRAPPC
leaves bits 1 and 0 at 0; an RO register ignores the write. -/
def Obligations.WriteCsr : Prop :=
  ∀ (sa : SReg) (s : State),
    let x := s.g.sreg sa
    let pc := s.g.pc + 4
    BecomesByKey (.csrw 0x000 sa) { s.g with em := x.setWidth 32 &&& s.g.live } pc s
      ∧ BecomesByKey (.csrw 0x001 sa) { s.g with regpc := x } pc s
      ∧ BecomesByKey (.csrw 0x004 sa) { s.g with frm := x.setWidth 2 } pc s
      ∧ (s.g.redsOut = false → BecomesByKey (.csrw 0x005 sa) { s.g with fflags := x.setWidth 5 } pc s)
      ∧ BecomesByKey (.csrw 0x011 sa) { s.g with trapPc := BitVec.ofNat 64 (x.toNat / 4 * 4) } pc s
      ∧ BecomesByKey (.csrw 0x014 sa) { s.g with trapEm := x.setWidth 32 } pc s
      ∧ BecomesByKey (.csrw 0x100 sa) { s.g with dbgctl := x.setWidth 2 } pc s
      ∧ ∀ n ∈ [0x002, 0x003, 0x006, 0x010, 0x012, 0x013, 0x015, 0x028, 0x030, 0x031, 0x040, 0x041, 0x042, 0x080, 0x081, 0x101],
        BecomesByKey (.csrw n sa) s.g pc s

/-- The accesses of control registers that the table lists as events: a write of EM keeps only live lanes; an access of FFLAGS
stalls while acknowledgements are outstanding; DBGOUT15 completes a message and tells the wharf cores; reading DBGIN15 takes the
word that the debugger left and clears INV. A group that may reach its core's watchpoints writes WATCH0–WATCH3 whole and the fields
of WATCHCTL, and its launch and team own them from then on; the watchpoints of other cores are as before. Where it goes beyond the
rules it states the model's own choices: log 48, 49. -/
def Obligations.CsrEvents : Prop :=
  (∀ (val : Word) (sd : SReg) (s : State),
    exec (.emWrite val) s = .next { s with g := { s.g with em := BitVec.ofNat 32 val.toNat &&& s.g.live } }
      ∧ exec .fflagsAccess s = .next (if s.g.redsOut = false then s else { s with g := { s.g with last := .stalled } })
      ∧ (Completes (.dbgout15Write val) s fun t =>
        t.g = { s.g with dbgout := s.g.dbgout.set 15 val, outv := true } ∧ SameOthers s t
          ∧ t = { s with g := t.g, others := t.others, events := t.events }
          ∧ ∃ e, t.events = s.events ++ [e] ∧ e.kind = .mailbox ∧ e.gid = s.g.gid)
      ∧ Completes (.dbgin15Read sd) s fun t => t = { s with g := t.g } ∧ t.g = { s.g with inv := false, s := t.g.s }
        ∧ t.g.sreg sd = s.g.dbgin[15] ∧ ∀ r, r ≠ sd → t.g.sreg r = s.g.sreg r)
    ∧ (∀ (n : BitVec 3) (val : Word) (s : State), s.watchBarred s.g = false → (s.core s.g.core).watch.length = 4 →
    Completes (.watchWrite n val) s fun t => t = { s with cores := t.cores }
      ∧ (∀ c, c ≠ s.g.core → t.core c = s.core c)
      ∧ (t.core s.g.core).owner = some s.g.launch ∧ (t.core s.g.core).holder = some s.g.team
      ∧ (∀ k, k < 4 → (t.core s.g.core).watch[k]? = if n.toNat = k then some val else (s.core s.g.core).watch[k]?)
      ∧ (t.core s.g.core).watchctl = if n.toNat = 4 then val &&& 0x07FF07FF07FF07FF else (s.core s.g.core).watchctl)

/-! Memory instructions, boundaries and barriers. -/

/-- LD zero-extends and LDS sign-extends what the group's own view holds at the lane's address; the lanes whose page is absent are
held by fault service and keep d. A load that the schedule lets read later than it issues retires with all its lanes held. Where it
goes beyond the rules it states the model's own choices: log 2, 38, 40. -/
def Obligations.Load : Prop :=
  ∀ (signed : Bool) (w : Width) (d a : LReg) (off : BitVec 3) (la : La) (g : Guard) (s : State),
    let i : Instr := if signed then .lds w d a off la g else .ld w d a off la g
    let n := widthBytes w
    let m := s.g.acts g
    let addr := fun l => s.g.lane a l + BitVec.ofNat 64 (off.toNat * n)
    let hit := fun l => s.probe s.g (some l) .read false n (addr l)
    let ps := s.probes s.g .read false n m addr
    let good := Mask.ofFn fun l => m.has l && match hit l with | .ok _ _ => true | _ => false
    Passes s .read false n m addr →
      (s.g.late = false →
        (∀ l q loc, m.has l = true → hit l = .ok q loc → s.viewPoisoned s.g s.g.reader loc n = false) →
        Completes i s fun t => Retires s t ∧ OnlyLoaded d good ps s t
          ∧ (∀ l q loc, m.has l = true → hit l = .ok q loc → t.g.lane d l =
            let x := s.viewRead s.g s.g.reader l loc n
            if signed then BitVec.ofInt 64 (Safety.signed (8 * n) x) else BitVec.ofNat 64 x)
          ∧ t.g.heldOps.length = s.g.heldOps.length + (if m &&& ~~~good = 0 then 0 else 1)
          ∧ ∀ h, t.g.heldOps[s.g.heldOps.length]? = some h → h.i = i ∧ h.lanes = m &&& ~~~good ∧ h.a = s.g.lreg a ∧ h.late = false)
      ∧ (s.g.late = true →
        Completes i s fun t => Retires s t ∧ t = { s with g := t.g }
          ∧ { unretired s.g t.g with hits := s.g.hits, heldOps := s.g.heldOps, late := s.g.late } = s.g ∧ t.g.late = false
          ∧ t.g.heldOps.length = s.g.heldOps.length + (if m = 0 then 0 else 1)
          ∧ ∀ h, t.g.heldOps[s.g.heldOps.length]? = some h → h.i = i ∧ h.lanes = m ∧ h.a = s.g.lreg a ∧ h.late = true)

/-- A store is held: what the group reads of its own view afterwards is the data of the highest lane that stores the byte, nothing
goes home, and the lanes whose page takes no write enter the side log in ascending order; where the side log is full without the
entries of halted groups of other reaches, those groups are spilled. Where it goes beyond the rules it states the model's own
choices: log 40, 41, 42, 76. -/
def Obligations.Store : Prop :=
  ∀ (w : Width) (d a : LReg) (off : BitVec 3) (la : La) (g : Guard) (s : State),
    let n := widthBytes w
    let m := s.g.acts g
    let addr := fun l => s.g.lane a l + BitVec.ofNat 64 (off.toNat * n)
    let hit := fun l => s.probe s.g (some l) .write false n (addr l)
    let ps := s.probes s.g .write false n m addr
    let byte := fun l j => BitVec.ofNat 8 ((s.g.lane d l).toNat / 256 ^ j)
    Passes s .write false n m addr → s.sideRoom (((List.range 32).filter m.has).filter fun l => match hit l with | .held _ _ => true | _ => false).length = true →
      HeldBy (.st w d a off la g) s fun t => Retires s t ∧ OnlyHeld ps s t
        ∧ (∀ l q loc j, m.has l = true → hit l = .ok q loc → j < n →
          (∀ k q' loc', m.has k = true → l < k → hit k = .ok q' loc' → ¬(loc'.key ≤ loc.key + j ∧ loc.key + j < loc'.key + n)) →
          t.g.heldByte (loc.key + j) = some (byte l j))
        ∧ (∀ k, k < 2 ^ 128 → (∀ l q loc, m.has l = true → hit l = .ok q loc → ¬(loc.key ≤ k ∧ k < loc.key + n)) →
          t.g.heldByte k = s.g.heldByte k)
        ∧ t.g.side = s.g.side ++ ((List.range 32).filter m.has).filterMap fun l => match hit l with
          | .held _ va => some { va := va, op := .store ((List.range n).map (byte l)), epoch := s.g.epoch, po := s.g.retired.toNat }
          | _ => none

/-- SLD zero-extends what the group's view holds at the address into its s register, or reads later than it issues; SST holds the
low bytes of its register; neither looks at EM. Where it goes beyond the rules it states the model's own choices: log 2, 40, 76. -/
def Obligations.UniformMemory : Prop :=
  ∀ (w : Width) (sd sa : SReg) (off : BitVec 7) (la : La) (s : State) (q : Spot) (loc : Loc),
    let n := widthBytes w
    let addr := s.g.sreg sa + BitVec.ofInt 64 (off.toInt * n)
    (s.probe s.g none .read false n addr = .ok q loc → s.g.late = false → s.viewPoisoned s.g s.g.reader loc n = false →
      Completes (.sld w sd sa off la) s fun t => Retires s t ∧ t.g.sreg sd = BitVec.ofNat 64 (s.viewRead s.g s.g.reader 0 loc n)
        ∧ (∀ r, r ≠ sd → t.g.sreg r = s.g.sreg r) ∧ t = { s with g := t.g, mem := t.mem, olds := t.olds, traffic := t.traffic }
        ∧ { unretired s.g t.g with s := s.g.s, hits := s.g.hits } = s.g
        ∧ SameBytesBut (pteBytes s [s.uprobe .read n addr]) s t)
      ∧ (s.probe s.g none .read false n addr = .ok q loc → s.g.late = true →
        Completes (.sld w sd sa off la) s fun t => Retires s t ∧ t = { s with g := t.g }
          ∧ { unretired s.g t.g with hits := s.g.hits, heldOps := s.g.heldOps, late := s.g.late } = s.g ∧ t.g.late = false
          ∧ ∃ h, t.g.heldOps = s.g.heldOps ++ [h] ∧ h.i = .sld w sd sa off la ∧ h.late = true)
      ∧ (s.probe s.g none .write false n addr = .ok q loc → s.sideRoom 0 = true →
        HeldBy (.sst w sd sa off la) s fun t => Retires s t ∧ OnlyHeld [s.uprobe .write n addr] s t ∧ t.g.side = s.g.side
          ∧ (∀ j, j < n → t.g.heldByte (loc.key + j) = some (BitVec.ofNat 8 ((s.g.sreg sd).toNat / 256 ^ j)))
          ∧ ∀ k, k < 2 ^ 128 → ¬(loc.key ≤ k ∧ k < loc.key + n) → t.g.heldByte k = s.g.heldByte k)

/-- The checks of a memory access run in the order MISALIGN, APERTURE, PROTECTION over all lanes: the first that any lane fails
traps, with the address of the lowest such lane and all lanes that fail it. -/
def Obligations.AccessTraps : Prop :=
  ∀ (w : Width) (d a : LReg) (off : BitVec 3) (la : La) (g : Guard) (s : State) (c l0 : Nat),
    let n := widthBytes w
    let m := s.g.acts g
    let addr := fun l => s.g.lane a l + BitVec.ofNat 64 (off.toNat * n)
    let fails := fun (acc : Acc) c l => m.has l = true ∧ s.probe s.g (some l) acc false n (addr l) = .cause c
    let at_ := fun (acc : Acc) (i : Instr) =>
      (∀ b l, b < c → ¬fails acc b l) → fails acc c l0 → (∀ l, l < l0 → ¬fails acc c l) → c ∈ [4, 5, 6] →
        ∃ lanes : Mask, (∀ l, lanes.has l = true ↔ fails acc c l) ∧ exec i s = s.trapAt c (addr l0) lanes
    at_ .read (.ld w d a off la g) ∧ at_ .read (.lds w d a off la g) ∧ at_ .write (.st w d a off la g)

/-- CAS and the ATOM instructions perform their lanes in ascending order at the home, each seeing the one before, and give each lane
the old value. RED performs its lanes in ascending order at the home and writes no register; its acknowledgement is outstanding.
Where it goes beyond the rules it states the model's own choices: log 2, 42, 48, 76. -/
def Obligations.HomeUpdates : Prop :=
  (∀ (w64 : Bool) (sc : LxScope) (d a b : LReg) (la : La) (s : State) (q : Nat → Spot) (loc : Nat → Loc) (i : Instr)
    (f : Nat → Nat → Nat),
    let n := if w64 then 8 else 4
    let low := fun r l => (s.g.lane r l).toNat % 2 ^ (8 * n)
    let sg := fun x => signed (8 * n) x
    (i, f) ∈ [(Instr.cas w64 sc d a b la, fun l m => if m = low d l then low b l else m),
      (.atomAdd w64 sc d a b la, fun l m => (m + low b l) % 2 ^ (8 * n)),
      (.atomSmin w64 sc d a b la, fun l m => if sg m ≤ sg (low b l) then m else low b l),
      (.atomSmax w64 sc d a b la, fun l m => if sg (low b l) ≤ sg m then m else low b l),
      (.atomUmin w64 sc d a b la, fun l m => min m (low b l)),
      (.atomUmax w64 sc d a b la, fun l m => max m (low b l)),
      (.atomAnd w64 sc d a b la, fun l m => m &&& low b l),
      (.atomOr w64 sc d a b la, fun l m => m ||| low b l),
      (.atomXchg w64 sc d a b la, fun l _ => low b l)] →
    Reaches s .rmw false n s.g.em (s.g.lane a) q loc →
    (∀ l, s.g.em.has l = true → s.viewPoisoned s.g s.g.reader (loc l) n = false ∧ s.g.overlaps (.ok (q l) (loc l)) n = false) →
    s.g.inImplicit = false →
    let ps := s.probes s.g .rmw false n s.g.em (s.g.lane a)
    let r := inTurn n loc f ((List.range 32).filter s.g.em.has) (s.installAll .rmw ps)
    Completes i s fun t => Retires s t ∧ (∀ l, s.g.em.has l = true → t.g.lane d l = BitVec.ofNat 64 (r.2 l))
      ∧ t = { r.1 with g := t.g, olds := t.olds, traffic := t.traffic }
      ∧ { unretired s.g t.g with v := s.g.v, e := s.g.e, eWritten := s.g.eWritten, hits := s.g.hits } = s.g
      ∧ (∀ x, x ≠ d → t.g.lreg x = s.g.lreg x) ∧ ∀ l, s.g.em.has l = false → t.g.lane d l = s.g.lane d l)
    ∧ (∀ (op : RedOp) (w64 : Bool) (sc : LxScope) (a b : LReg) (la : La) (s : State) (q : Nat → Spot) (loc : Nat → Loc),
    let n := if w64 then 8 else 4
    let low := fun l => (s.g.lane b l).toNat % 2 ^ (8 * n)
    let sg := fun x => signed (8 * n) x
    let f := fun l m => match op with
      | .add => (m + low l) % 2 ^ (8 * n)
      | .smin => if sg m ≤ sg (low l) then m else low l
      | .smax => if sg (low l) ≤ sg m then m else low l
      | .umin => min m (low l)
      | .umax => max m (low l)
      | .and => m &&& low l
      | .or => m ||| low l
      | .fadd32 => (fp32.add s.g.frm m (low l)).1
    Reaches s .rmw false n s.g.em (s.g.lane a) q loc →
    (∀ l, s.g.em.has l = true → s.viewPoisoned s.g s.g.reader (loc l) n = false ∧ s.g.overlaps (.ok (q l) (loc l)) n = false) →
    s.g.inImplicit = false → s.sideRoom 0 = true → s.g.sideRed = false →
    let ps := s.probes s.g .rmw false n s.g.em (s.g.lane a)
    let r := inTurn n loc f ((List.range 32).filter s.g.em.has) (s.installAll .rmw ps)
    HeldBy (.red op w64 sc a b la) s fun t => Retires s t ∧ t = { r.1 with g := t.g, olds := t.olds, traffic := t.traffic }
      ∧ { unretired s.g t.g with reds := s.g.reds, hits := s.g.hits } = s.g
      ∧ t.g.reds.length = s.g.reds.length + if s.g.em = 0 then 0 else 1)

/-- LDFE and LDFW read the footprint of full words, zero-extended, and LDFE makes them empty; STFE writes the footprint of empty
words and makes them full; an STFE that finds a word full, or filled by a lower lane, traps FE_OVERRUN and writes nothing. Where
every word is empty, LDFE and LDFW wait with all their lanes and read nothing, when the producers of their granules are at least as
strong; with no granule bound they trap WAIT_UNBOUND. An STFE whose word a group waits on gives that group the doubleword, ends its
wait, and leaves the word empty for LDFE and full for LDFW. Where it goes beyond the rules it states the model's own choice: log 47.
-/
def Obligations.FullEmpty : Prop :=
  ∀ (w : Width) (d a : LReg) (off : BitVec 3) (la : La) (g : Guard) (s : State) (q : Nat → Spot) (loc : Nat → Loc),
    let n := widthBytes w
    let m := s.g.acts g
    let addr := fun l => s.g.lane a l + BitVec.ofNat 64 (off.toNat * n)
    let word := fun l => (loc l).key / 8 * 8
    let apart := ∀ l k, m.has l = true → m.has k = true → l ≠ k → word l ≠ word k
    let clean := ∀ l, m.has l = true → s.poisoned (loc l).key n = false ∧ s.g.overlaps (.ok (q l) (loc l)) n = false
    (Reaches s .read true n m addr q loc → clean → s.g.inImplicit = false → (∀ l, m.has l = true → word l ∈ s.full) →
      ∀ empties : Bool, (empties = true → apart) →
        let i : Instr := if empties then .ldfe w d a off la g else .ldfw w d a off la g
        Completes i s fun t => Retires s t ∧ t = { s with g := t.g, full := t.full, olds := t.olds }
          ∧ { unretired s.g t.g with v := s.g.v, e := s.g.e, eWritten := s.g.eWritten, hits := s.g.hits } = s.g
          ∧ (∀ l, m.has l = true → t.g.lane d l = BitVec.ofNat 64 (memRead s.mem (loc l).key n))
          ∧ (∀ l, m.has l = false → t.g.lane d l = s.g.lane d l) ∧ (∀ r, r ≠ d → t.g.lreg r = s.g.lreg r)
          ∧ ∀ x, x ∈ t.full ↔ (x ∈ s.full ∧ (empties = true → ∀ l, m.has l = true → word l ≠ x)))
      ∧ (Reaches s .write true n m addr q loc → clean → s.g.inImplicit = false → NobodyWaits s → Memory.wf s.mem = true →
        (∀ l, m.has l = true → word l ∉ s.full) → apart →
        Completes (.stfe w d a off la g) s fun t => Retires s t
          ∧ t = { s with g := t.g, mem := t.mem, full := t.full, poison := t.poison, olds := t.olds }
          ∧ { unretired s.g t.g with hits := s.g.hits } = s.g
          ∧ (∀ x, x ∈ t.full ↔ (x ∈ s.full ∨ ∃ l, m.has l = true ∧ word l = x))
          ∧ (∀ l j, m.has l = true → j < n →
            (∀ k, m.has k = true → l < k → ¬((loc k).key ≤ (loc l).key + j ∧ (loc l).key + j < (loc k).key + n)) →
            memGet ((loc l).key + j) t.mem = BitVec.ofNat 8 ((s.g.lane d l).toNat / 256 ^ j))
          ∧ ∀ k, (∀ l, m.has l = true → ¬((loc l).key ≤ k ∧ k < (loc l).key + n)) → memGet k t.mem = memGet k s.mem)
      ∧ (Reaches s .write true n m addr q loc → ∀ l0, m.has l0 = true →
        (word l0 ∈ s.full ∨ ∃ k, m.has k = true ∧ k < l0 ∧ word k = word l0) →
        (∀ l, l < l0 → m.has l = true → word l ∉ s.full ∧ ∀ k, m.has k = true → k < l → word k ≠ word l) →
        ∃ lanes, exec (.stfe w d a off la g) s = s.trapAt 0x0F (addr l0) lanes)
      ∧ (Reaches s .read true n m addr q loc → s.g.inImplicit = false → m ≠ 0 → (∀ l, m.has l = true → word l ∉ s.full) →
        ∀ empties : Bool,
          let i : Instr := if empties then .ldfe w d a off la g else .ldfw w d a off la g
          let bound := fun l => s.bindings.find? fun b => b.granule == word l / 256 * 256
          let mine := strength (s.effective s.g.launch)
          ((∀ l, m.has l = true → s.g.overlaps (.ok (q l) (loc l)) n = false ∧ ∃ b, bound l = some b ∧ b.reach = s.greach
              ∧ (b.prod = .wharf ∨ ∃ lid, b.prod = .launch lid ∧ s.podLive lid = true ∧ mine ≤ strength (s.declared lid))) →
            Completes i s fun t => t.g.pc = s.g.pc ∧ t.g.retired = s.g.retired ∧ (∀ r, t.g.lreg r = s.g.lreg r)
              ∧ t.g.waitEnd = .pending ∧ t.full = s.full ∧ t.mem = s.mem ∧ t.others = s.others
              ∧ ∃ todo, t.g.wait = some (.lanes empties d n todo)
                ∧ ∀ x, x ∈ todo ↔ ∃ l, m.has l = true ∧ x = { lane := l, word := word l, off := (loc l).key % 8 })
          ∧ ((∀ l, m.has l = true → bound l = none) → exec i s = s.trapAt 0x0D
            (BitVec.ofNat 64 ((if empties then 0 else 1) * 2 ^ 28 + classCode (s.effective s.g.launch) * 2 ^ 24)) m))
      ∧ ∀ (l ln : Nat) (x : Group) (b : LReg) (empties : Bool), w = .w64 → (∀ k, m.has k = true ↔ k = l) → ln < 32 →
        Reaches s .write true n m addr q loc → clean → s.g.inImplicit = false → Memory.wf s.mem = true → word l ∉ s.full →
        x ∈ s.others → x.key ≠ s.g.key → (∀ y ∈ s.groups, y.key = x.key → y = x) → x.ended = false → x.waitEnd = .pending → x.holds = [] →
        x.wait = some (.lanes empties b 8 [{ lane := ln, word := word l, off := 0 }]) →
        (∀ y ∈ s.groups, y.key ≠ x.key → y.wait = none) → (∀ t ∈ s.teams, ∀ c ∈ t.queue, c.waits = none) →
        Completes (.stfe w d a off la g) s fun t => Retires s t
          ∧ (∃ y ∈ t.others, y.key = x.key ∧ y.lane b ln = s.g.lane d l ∧ y.waitEnd = .satisfied)
          ∧ (word l ∈ t.full ↔ empties = false)
          ∧ t.others.filter (fun y => y.key != x.key) = s.others.filter fun y => y.key != x.key

/-- FEBIND binds the granules of a range that lies in one scratchpad window to a live launch, to the wharf or to nothing, and .empty
and .full act on every word of the range; a range of length 0 changes nothing. Where it goes beyond the rules it states the model's
own choice: log 46. -/
def Obligations.BindGranules : Prop :=
  ∀ (sa sb sc : SReg) (mode : BindMode) (s : State) (key : Nat),
    let a := (s.g.sreg sa).toNat
    let n := (s.g.sreg sb).toNat
    let c := s.g.sreg sc
    let prod := if c = 0 then none else if c = 0xFFFFFFFF then some (Producer.wharf, s.greach)
      else some (.launch (c.setWidth 32), s.podReach (c.setWidth 32))
    a % 256 = 0 → n % 256 = 0 → NobodyWaits s →
      (n = 0 → Branches (.febind sa sb sc mode) (s.g.pc + 4) s)
      ∧ (n ≠ 0 → s.padRange { s.viewOf s.g with stack := none } a n = some key →
        (c = 0 ∨ c = 0xFFFFFFFF ∨ (c.toNat < 2 ^ 32 ∧ s.podLive (c.setWidth 32) = true)) →
        Completes (.febind sa sb sc mode) s fun t => Retires s t ∧ unretired s.g t.g = s.g ∧ SameBytes s t
          ∧ t = { s with g := t.g, bindings := t.bindings, full := t.full, olds := t.olds }
          ∧ (∀ x, x.granule < key ∨ key + n ≤ x.granule → (x ∈ t.bindings ↔ x ∈ s.bindings))
          ∧ (∀ x, key ≤ x.granule → x.granule < key + n →
            (x ∈ t.bindings ↔ (∃ i, i < n / 256 ∧ x.granule = key + 256 * i) ∧ prod = some (x.prod, x.reach)))
          ∧ ∀ x, x ∈ t.full ↔ match mode with
            | .bind => x ∈ s.full
            | .empty => x ∈ s.full ∧ ¬∃ i, i < n / 8 ∧ x = key + 8 * i
            | .full => x ∈ s.full ∨ ∃ i, i < n / 8 ∧ x = key + 8 * i)

/-- PHASE and XFENCE complete when nothing of the group is outstanding and it holds no store that they drain; a group that holds
stores first sends them to their homes and stands, which is latency. What a boundary drains is every held entry, each once, in the
scope of the boundary; a held entry whose whole doubleword its epoch has written is marked so. Where it goes beyond the rules it
states the model's own choices: log 2, 32, 47. -/
def Obligations.Boundaries : Prop :=
  (∀ (i : Instr) (b : Bound) (s : State),
    (i = .xfence ∧ b = .xfence ∨ ∃ sc, i = .phase sc ∧ b = .phase sc) →
      (NothingOut s → (s.g.bound = some b ∨ i = .phase .group ∨ (s.g.held = [] ∧ s.g.heldT = [])) →
        Completes i s fun t => Retires s t ∧ SameBytes s t
          ∧ t = { s with g := t.g, olds := match b with
              | .phase sc => (s.visible (phaseCode sc) [s.g.key]).olds
              | _ => s.olds }
          ∧ unretired s.g t.g = { s.g with bound := none, sig := 0, region := none
                                           restarts := if s.g.region.isSome then 0 else s.g.restarts })
      ∧ (NothingOut s → s.g.bound ≠ some b → i ≠ .phase .group → s.g.heldPoison = false → s.g.drainList b.scope ≠ [] →
        exec i s = .next { s with g := { s.g with
          drains := s.g.drainList b.scope, held := [], heldT := [], bound := some b, last := .stalled } }))
    ∧ (∀ (g : Group) (sc : Option Nat), g.follower = false →
      (g.drainList sc).filterMap Drain.held? = g.held ∧ (g.drainList sc).filterMap Drain.elem? = g.heldT
        ∧ ∀ d ∈ g.drainList sc, d.scope = sc ∧ ∀ h full x, d = .byte h full x →
          (full = true ↔ ∀ i, i < 8 → ∃ y ∈ g.held, y.epoch = h.epoch ∧ y.key = h.key / 8 * 8 + i))

/-- A BAR whose mask names only its own group completes at once; one that does not complete its barrier records its arrival and
waits; the arrival that completes a barrier of several groups releases every recorded group, empties the barrier, and its group goes
on. A mask without the own bit, or that names an ended or absent group, traps BAR_MASK; one that differs from the barrier's makes
every group that has arrived, and the arriver, trap BAR_MASK, and empties the barrier. -/
def Obligations.BarrierArrival : Prop :=
  ∀ (n : BitVec 4) (sa : SReg) (s : State) (t0 : Team),
    let m : Mask := (s.g.sreg sa).setWidth 32
    let valid := m.has s.g.idx = true ∧ ∀ j, m.has j = true → j < s.gdesc.groups ∧ t0.gone.has j = false
    s.teamOf? s.g = some t0 →
      (valid → t0.bar? n = none → (∀ j, m.has j = true → j = s.g.idx) → NobodyWaits s →
        Completes (.bar n sa) s fun t => Retires s t ∧ unretired s.g t.g = s.g ∧ SameBytes s t
          ∧ t = { s with g := t.g, others := t.others, teams := t.teams })
      ∧ (valid → t0.bar? n = none → (∃ j, m.has j = true ∧ j ≠ s.g.idx) →
        Completes (.bar n sa) s fun t => t.g = { s.g with
            wait := some (.bar n), waitEnd := .pending, holds := [], since := s.fresh, last := .stalled }
          ∧ t = { s with g := t.g, teams := t.teams, fresh := t.fresh }
          ∧ ∃ u ∈ t.teams, u.holds s.g = true ∧ u.bar? n = some { n := n, mask := m, arrived := [s.g.idx] })
      ∧ (∀ b, valid → t0.bar? n = some b → b.mask = m → KeysApart s → s.g.wait = none →
        ((∀ j, m.has j = true ↔ j < 32 ∧ (j = s.g.idx ∨ j ∈ b.arrived)) →
          Completes (.bar n sa) s fun t => Retires s t ∧ t.g.sinceBar = 1 ∧ unretired s.g t.g = s.g ∧ SameBytes s t
            ∧ (∀ x ∈ s.others, t0.holds x = true → x.ended = false → x.wait = some (.bar n) → x.waitEnd = .pending →
              ∃ y ∈ t.others, y.key = x.key ∧ y.waitEnd = .satisfied ∧ y.pc = x.pc)
            ∧ ∃ u ∈ t.teams, u.holds s.g = true ∧ u.bar? n = none)
        ∧ ((∃ j, m.has j = true ∧ j ≠ s.g.idx ∧ j ∉ b.arrived) →
          Completes (.bar n sa) s fun t => t.g = { s.g with
              wait := some (.bar n), waitEnd := .pending, holds := [], since := s.fresh, last := .stalled }
            ∧ t = { s with g := t.g, teams := t.teams, fresh := t.fresh }
            ∧ ∃ u ∈ t.teams, u.holds s.g = true ∧ u.bar? n = some { b with arrived := s.g.idx :: b.arrived }))
      ∧ (∀ b, valid → t0.bar? n = some b → b.mask ≠ m → KeysApart s → MayEnter s →
        Completes (.bar n sa) s fun t => Traps 0x0A (BitVec.ofNat 64 (b.mask.toNat * 2 ^ 32 + s.g.idx)) s.g.em s t
          ∧ (∀ x ∈ s.others, t0.holds x = true → x.idx ∈ b.arrived → x.ended = false → x.wait = some (.bar n) → x.waitEnd = .pending →
            ∃ y ∈ t.others, y.key = x.key
              ∧ y.waitEnd = .trap 0x0A (BitVec.ofNat 64 (m.toNat * 2 ^ 32 + s.g.idx)) x.em)
          ∧ ∃ u ∈ t.teams, u.holds s.g = true ∧ u.bar? n = none)
      ∧ (m.has s.g.idx = false → exec (.bar n sa) s = s.trapAt 0x0A (BitVec.ofNat 64 (2 ^ 30 + s.g.idx)) s.g.em)
      ∧ ∀ j, m.has s.g.idx = true → m.has j = true → (s.gdesc.groups ≤ j ∨ t0.gone.has j = true) →
        (∀ k, k < j → m.has k = true → k < s.gdesc.groups ∧ t0.gone.has k = false) →
        exec (.bar n sa) s = s.trapAt 0x0A (BitVec.ofNat 64 (2 ^ 31 + j)) s.g.em

/-- An EXIT that leaves no path ends its group, once the stores that it held have gone home in pod scope: it stands until then. No
lane is live afterwards, the held weight has gone back to its root, and the group holds no store, side-log entry, pending result or
wait. Where it goes beyond the rules it states the model's own choice: log 47. -/
def Obligations.ExitEnds : Prop :=
  ∀ (s : State) (t0 : Team) (x : Group),
    (∀ e ∈ s.g.stack, e.1 &&& (s.g.live &&& ~~~s.g.em) = 0) → NothingOut s → s.g.pendS = [] →
      (s.g.bound ≠ some .exit → s.g.heldPoison = false → s.g.drainList (some 5) ≠ [] →
        exec .exit s = .next { s with g := { s.g with
          drains := s.g.drainList (some 5), held := [], heldT := [], bound := some .exit, last := .stalled } })
      ∧ (s.g.bound = some .exit ∨ (s.g.bound = none ∧ s.g.held = [] ∧ s.g.heldT = []) →
      s.g.holds = [] → s.g.wait = none → s.g.ended = false → s.g.follower = false → (s.core s.g.core).claims = [] →
      s.teamOf? s.g = some t0 → t0.bars = [] → x ∈ s.others → x.ended = false → t0.holds x = true → x.key ≠ s.g.key →
      (∀ y ∈ s.others, y.key ≠ s.g.key) →
      Completes .exit s fun t => t.g.ended = true ∧ t.g.live = 0 ∧ t.g.em = 0 ∧ t.g.qw = 0 ∧ t.g.retired = s.g.retired + 1
        ∧ t.others = s.others ∧ SameBytes s t
        ∧ t.g.held = [] ∧ t.g.heldT = [] ∧ t.g.side = [] ∧ t.g.drains = [] ∧ t.g.heldOps = [] ∧ t.g.pendS = [] ∧ t.g.wait = none
        ∧ t.returns = s.returns ++ (if s.g.qw = 0 then [] else
          [{ reach := s.greach, domain := s.g.domain, units := s.g.qw.toNat, lost := false, src := none }]))

/-! Quiescence, task entries, queues and counters. -/

/-- QREAD reads QW; QRET sends QW back to its root and leaves 0; QOPEN issues 2^32 units to the group and makes its launch a member
of the domain, in a root that it opens where none is open; QWAIT sends QW back, and completes where no root is open, here or on
another device, or everything has returned with nothing lost, which closes the root. Splitting weight conserves it: from QW > 1 the
group keeps at least one unit and gives the largest power of two not above half. Where it goes beyond the rules it states the
model's own choice: log 66. -/
def Obligations.Weight : Prop :=
  (∀ (sd : SReg) (s : State),
    let back : List Return := if s.g.qw = 0 then [] else
      [{ reach := s.greach, domain := s.g.domain, units := s.g.qw.toNat, lost := false, src := none }]
    let mine := fun x : Root => x.reach = s.greach ∧ x.domain = s.g.domain
    ScalarResult (.qread sd) sd (BitVec.ofNat 64 s.g.qw.toNat) s
      ∧ (Completes .qret s fun t => Retires s t ∧ { unretired s.g t.g with qw := s.g.qw } = s.g ∧ t.g.qw = 0
        ∧ t = { s with g := t.g, returns := s.returns ++ back })
      ∧ (∀ x ∈ s.roots, mine x → x.isOpen = true → (∀ y ∈ s.roots, mine y → y = x) → JoinsHere s.g.domain s →
        s.movedAway s.greach = false → s.g.qw.toNat + 2 ^ 32 < 2 ^ 48 → NobodyWaits s → Completes .qopen s fun t => Retires s t ∧ { unretired s.g t.g with qw := s.g.qw } = s.g
          ∧ t.g.qw.toNat = s.g.qw.toNat + 2 ^ 32 ∧ t = { s with g := t.g, roots := t.roots }
          ∧ (∀ y ∈ t.roots, mine y → y = { x with
            issued := x.issued + 2 ^ 32, members := if x.members.contains s.g.launch then x.members else s.g.launch :: x.members })
          ∧ ∀ y, ¬mine y → (y ∈ t.roots ↔ y ∈ s.roots))
      ∧ ((∀ x ∈ s.roots, mine x → x.isOpen = false) → s.farRoot? s.greach s.g.domain = none → s.movedAway s.greach = false →
        NobodyWaits s → s.g.qw.toNat + 2 ^ 32 < 2 ^ 48 →
        (s.roots.filter fun x => x.isOpen && x.domain.toNat % 4 == s.g.domain.toNat % 4).length < 256 →
        Completes .qopen s fun t => Retires s t ∧ { unretired s.g t.g with qw := s.g.qw } = s.g
          ∧ t.g.qw.toNat = s.g.qw.toNat + 2 ^ 32
          ∧ t = { s with g := t.g, roots :=
              { reach := s.greach, domain := s.g.domain, isOpen := true, issued := 2 ^ 32, returned := 0, lost := 0
                members := [s.g.launch], balances := [], remote := [] }
              :: s.roots.filter fun y => !(y.reach == s.greach && y.domain == s.g.domain) })
      ∧ ((∀ x ∈ s.roots, mine x → x.isOpen = false) → s.farRoot? s.greach s.g.domain = none →
        Completes .qwait s fun t => Retires s t ∧ t.g.qw = 0
        ∧ { unretired s.g t.g with qw := s.g.qw } = s.g ∧ t = { s with g := t.g, returns := s.returns ++ back })
      ∧ ∀ x ∈ s.roots, mine x → x.isOpen = true → (∀ y ∈ s.roots, mine y → y = x) → x.returned = x.issued → x.lost = 0 →
        x.remote = [] → s.movedAway s.greach = false → (∀ g ∈ s.groups, g.wait ≠ some (.quiet s.greach s.g.domain)) →
        Completes .qwait s fun t => Retires s t ∧ t.g.qw = 0 ∧ { unretired s.g t.g with qw := s.g.qw } = s.g
          ∧ t = { s with g := t.g, returns := s.returns ++ back, roots := t.roots }
          ∧ (∀ y ∈ t.roots, mine y → y = { x with isOpen := false })
          ∧ ∀ y, ¬mine y → (y ∈ t.roots ↔ y ∈ s.roots))
    ∧ (∀ (s : State) (q : Nat), q = s.g.qw.toNat → 1 < q →
    ∃ t e, s.split = .done t e ∧ t = { s with g := { s.g with qw := t.g.qw, borrow := .idle } } ∧ t.g.qw.toNat + 2 ^ e = q
      ∧ 2 ^ e ≤ q / 2 ∧ q / 2 < 2 ^ (e + 1) ∧ 1 ≤ t.g.qw.toNat)

/-- ENQ sends its entry to a queue of this device that admits it and has room at the core: the entry is stamped with its weight, the
sender keeps the rest of its weight, and the status says done. An entry without weight leaves QW alone. A status word has bit 63
set, bit 62 set for an error, the code in bits 61 to 56, and the count in bits 31 to 0. Where it goes beyond the rules it states the
model's own choices: log 64, 65. -/
def Obligations.Enqueue : Prop :=
  (∀ (sd sa sb : SReg) (la : La) (s : State) (q0 : Queue),
    let e := s.g.entryAt sa
    let h := s.g.sreg sb
    let q := s.qnumOf s.g.launch h
    badEntry e = false → handleOk h = true → s.deviceOf h = s.device → s.queue? s.greach q = some q0 → q0.desc.wharf = false →
    s.g.launch ∈ q0.producers → s.admits q0 s.g.launch = true → (s.level (.core s.g.core)).length < 64 → NobodyWaits s →
      ∀ w, Weighs e w s →
        let x : QEntry := { reach := s.greach, qnum := q, e := stampEntry e w false false noLink, stamp := s.tick
                            place := .core s.g.core, producer := s.g.launch, gid := s.g.gid, core := s.g.core, team := s.g.team
                            tok := s.fresh, maker := none }
        Completes (.enq sd sa sb la) s fun t => Retires s t
          ∧ t = { s with g := t.g, entries := s.entries ++ [x], roots := t.roots, olds := t.olds, fresh := s.fresh + 1 }
          ∧ t.g.sreg sd = statusWord 0 w ∧ (∀ r, r ≠ sd → t.g.sreg r = s.g.sreg r)
          ∧ { unretired s.g t.g with s := s.g.s, qw := s.g.qw, borrow := s.g.borrow } = s.g
          ∧ t.g.qw.toNat + (if w = 63 then 0 else 2 ^ w) = s.g.qw.toNat)
    ∧ (∀ code count : Nat, code < 64 → count < 2 ^ 32 →
    (statusWord code count).getLsbD 63 = true ∧ (statusWord code count).getLsbD 62 = (code != 0)
      ∧ ((statusWord code count).extractLsb' 56 6).toNat = code ∧ ((statusWord code count).extractLsb' 0 32).toNat = count
      ∧ (statusWord code count).extractLsb' 32 24 = 0)

/-- DEQ and DEQ_NB take the first entry in ready order of the queue in the core's basin: its words go to sd to sd + 3, its link to
TASKLINK, its weight to QW; a poisoned one ends the group. DEQ_NB on an empty queue writes all ones to sd. Where it goes beyond the
rules it states the model's own choices: log 33, 67. -/
def Obligations.Dequeue : Prop :=
  ∀ (sd sa : SReg) (la : La) (s : State) (q0 : Queue) (i : Instr), i = .deq sd sa la ∨ i = .deqNb sd sa la →
    let h := s.g.sreg sa
    let q := s.qnumOf s.g.launch h
    sd.toNat ≤ 60 → handleOk h = true → s.deviceOf h = s.device → s.queue? s.greach q = some q0 → q0.desc.wharf = false →
      (∀ x, s.ready s.greach q s.g.core = some x →
        (x.bad = true → exec i s = .next (s.popBad s.g.key sd x))
        ∧ (x.bad = false → (entryWexp x.e = 63 ∨ (entryDomain x.e = s.g.domain ∧ s.g.qw.toNat + 2 ^ entryWexp x.e < 2 ^ 48
            ∧ NobodyWaits s ∧ JoinsHere s.g.domain s)) →
        Completes i s fun t => Retires s t ∧ t = { s with g := t.g, entries := s.entries.erase x, roots := t.roots, olds := t.olds }
          ∧ t.g.sreg sd = x.e.w0 ∧ t.g.sreg (sd + 1) = x.e.w1 ∧ t.g.sreg (sd + 2) = x.e.w2 ∧ t.g.sreg (sd + 3) = x.e.w3
          ∧ (∀ r : SReg, r.toNat < sd.toNat ∨ sd.toNat + 3 < r.toNat → t.g.sreg r = s.g.sreg r)
          ∧ t.g.tasklink = entryLink x.e ∧ t.g.qw.toNat = s.g.qw.toNat + (if entryWexp x.e = 63 then 0 else 2 ^ entryWexp x.e)
          ∧ { unretired s.g t.g with s := s.g.s, tasklink := s.g.tasklink, qw := s.g.qw } = s.g))
      ∧ (i = .deqNb sd sa la → s.ready s.greach q s.g.core = none → ScalarResult i sd (BitVec.allOnes 64) s)

/-- DEPARM parks its entry on a free counter that its reach owns, with a count above 0, stamped with its weight, and the sender
keeps the rest of its weight. DEPDEC lowers a count above 1 by one and returns it; at count 1 it returns 0, frees the counter and
releases the parked entry to its queue, which admits it, stamped with this cycle; of a free counter it traps DEP_UNDERFLOW. Where it
goes beyond the rules it states the model's own choices: log 65, 68. -/
def Obligations.Dependencies : Prop :=
  ∀ (sd sa sb : SReg) (la : La) (s : State) (q0 : Queue),
    let c := s.g.sreg sb
    let h := s.g.sregAt sb 1
    let e := s.g.entryAt sa
    let q := s.qnumOf s.g.launch h
    let count := (c.extractLsb' 42 16).toNat
    let d := s.g.sreg sa
    let k := s.counter (counterDie d) (counterNum d)
    (badEntry e = false → counterOk true c = true → handleOk h = true → s.deviceOf c = s.device →
      s.deviceOf h = s.device → s.ownsCounter s.greach (counterDie c) (counterNum c) = true → s.queue? s.greach q = some q0 →
      s.g.launch ∈ q0.producers → (s.counter (counterDie c) (counterNum c)).free = true → s.admits q0 s.g.launch = true →
      0 < count → (s.level (.core s.g.core)).length < 64 → NobodyWaits s → ∀ w, Weighs e w s →
        Completes (.deparm sd sa sb la) s fun t => Retires s t ∧ t.g.sreg sd = statusWord 0 w
          ∧ (∀ r, r ≠ sd → t.g.sreg r = s.g.sreg r)
          ∧ { unretired s.g t.g with s := s.g.s, qw := s.g.qw, borrow := s.g.borrow } = s.g
          ∧ t.g.qw.toNat + (if w = 63 then 0 else 2 ^ w) = s.g.qw.toNat
          ∧ t = { s with g := t.g, counters := t.counters, roots := t.roots, olds := t.olds, fresh := s.fresh + 1 }
          ∧ t.counter (counterDie c) (counterNum c) = {
              die := counterDie c, ctr := counterNum c, count := count, unadmitted := false
              parked := some {
                reach := s.greach, qnum := q, e := stampEntry e w false true (linkOf (counterDie c) (counterNum c))
                stamp := s.tick, place := .core s.g.core, producer := s.g.launch, gid := s.g.gid, core := s.g.core
                team := s.g.team, tok := s.fresh, maker := none } })
      ∧ (counterOk false d = true → s.deviceOf d = s.device → s.ownsCounter s.greach (counterDie d) (counterNum d) = true →
          (1 < k.count → Completes (.depdec sd sa la) s fun t => Retires s t ∧ t.g.sreg sd = BitVec.ofNat 64 (k.count - 1)
            ∧ (∀ r, r ≠ sd → t.g.sreg r = s.g.sreg r) ∧ { unretired s.g t.g with s := s.g.s } = s.g
            ∧ t = { s with g := t.g, counters := t.counters, olds := t.olds }
            ∧ t.counter (counterDie d) (counterNum d) = { k with count := k.count - 1 })
          ∧ (∀ (x : QEntry) (qx : Queue), k.count = 1 → k.parked = some x → k.unadmitted = false → s.queue? x.reach x.qnum = some qx →
            qx.desc.wharf = false → (s.setCounter { k with count := 0, parked := none }).admits qx x.producer = true →
            (s.level x.place).length < levelCap x.place → NobodyWaits s →
            Completes (.depdec sd sa la) s fun t => Retires s t ∧ t.g.sreg sd = 0
              ∧ (∀ r, r ≠ sd → t.g.sreg r = s.g.sreg r) ∧ { unretired s.g t.g with s := s.g.s } = s.g
              ∧ t = { s with g := t.g, counters := t.counters, olds := t.olds, entries := s.entries ++ [{ x with stamp := s.tick }] }
              ∧ (t.counter (counterDie d) (counterNum d)).free = true)
          ∧ (k.count = 0 → exec (.depdec sd sa la) s =
            s.trapAt 0x10 (BitVec.ofNat 64 (counterDie d * 65536 + counterNum d)) s.g.em))

/-! Commands to the engines. -/

/-- CPY and TMOVE give a one-shot copy to the Tugs, COLL a member's operation to the Hoists, RELAYOUT a conversion to the Dredger of
the die, and sd stands pending; a second COLL with the tag on the die writes MISMATCH, and so does one whose members have disagreed
before it issued. WAITSEQ completes when SEQ has reached its number, and YIELD goes to its target when its register is there. CHEAD
gives a channel with no record in flight its head and starts it again, and returns SEQ; CTAIL has the channel walk to its tail,
moves half of the group's weight into it, and answers at once for a tail whose record has completed. Where it goes beyond the rules
it states the model's own choices: log 52, 54, 56, 57, 58. -/
def Obligations.EngineCommands : Prop :=
  (∀ (sd sa sb : SReg) (sched : Bool) (la : La) (k : CollKind) (tag : Tag) (off : BitVec 19) (s : State),
    let a := s.g.sreg sa
    let b := s.g.sreg sb
    let a1 := (s.g.sreg (sa + 1)).toNat
    let b1 := (s.g.sreg (sb + 1)).toNat
    let sent := fun (i : Instr) (P : State → Prop) => Completes i s fun t => Retires s t ∧ P t ∧ t.fresh = s.fresh + 1
      ∧ { unretired s.g t.g with pendS := s.g.pendS } = s.g
      ∧ t.g.pendS = { reg := sd, op := s.fresh, left := la.toNat, at_ := s.g.pc } :: s.g.pendS.filter fun p => p.reg != sd
    let copy := fun ss ds w n => { id := s.fresh, grp := s.g.key, launch := s.g.launch, team := s.g.team, core := s.g.core, src := a
                                   dst := b, sstride := ss, dstride := ds, rowBytes := w, rows := n
                                   tug := (s.freeTug s.g.core).getD false, wrote := [] : OneShot }
    (s.oneShotRoom s.g.core = true →
      sent (.cpy sd sa sb sched la) (fun t => t = { s with g := t.g, fresh := t.fresh, olds := t.olds
                                                           oneShots := s.oneShots ++ [copy 0 0 b1 (if b1 = 0 then 0 else 1)] })
      ∧ sent (.tmove sd sa sb sched la) fun t => t = { s with g := t.g, fresh := t.fresh, olds := t.olds
                                                              oneShots := s.oneShots ++ [copy (a1 % 2 ^ 32) (b1 % 2 ^ 32) (a1 / 2 ^ 32) (b1 / 2 ^ 32)] })
      ∧ ((∀ c ∈ s.colls, ¬(c.launch = s.g.launch ∧ c.tag = b ∧ c.core.die = s.g.core.die)) →
        s.collLate s.g.launch b s.g.core.die = false →
        sent (.coll k sd sa sb la) fun t => t = { s with g := t.g, fresh := t.fresh, olds := t.olds, colls := s.colls ++ [
          { grp := s.g.key, op := s.fresh, launch := s.g.launch, team := s.g.team, core := s.g.core, kind := k, tag := b, desc := a
            wrote := [] }] })
      ∧ ((∃ c ∈ s.colls, c.launch = s.g.launch ∧ c.tag = b ∧ c.core.die = s.g.core.die) →
        ScalarResult (.coll k sd sa sb la) sd (statusWord 0x0C 0) s)
      ∧ ((∀ c ∈ s.colls, ¬(c.launch = s.g.launch ∧ c.tag = b ∧ c.core.die = s.g.core.die)) →
        s.collLate s.g.launch b s.g.core.die = true →
        Completes (.coll k sd sa sb la) s fun t => Retires s t ∧ t.g.sreg sd = statusWord 0x0C 0
          ∧ OnlyScalar sd s { t with collsBad := s.collsBad } ∧ t.collLate s.g.launch b s.g.core.die = false)
      ∧ sent (.relayout tag sd sa sb la) (fun t => ∃ c : Conv, t = { s with g := t.g, fresh := t.fresh, convs := s.convs ++ [c] }
        ∧ c.id = s.fresh ∧ c.attach = a.toNat ∧ c.new = b.toNat ∧ c.die = s.g.core.die ∧ c.launch = s.g.launch ∧ c.running = false
        ∧ c.tag = match tag with | .row => 0 | .col => 1 | .tile16 => 2 | .tile128 => 3 | .kblk32 => 4 | .swz => 5)
      ∧ (∀ c : Channel, a.toNat < 512 → handleCluster (a.setWidth 9) < 5 → s.channel? (a.setWidth 9) = some c →
        (c.seq - b.setWidth 32).toNat < 2 ^ 31 →
        Completes (.waitseq sa sb) s fun t => Retires s t ∧ OnlyPc s { t with olds := s.olds })
      ∧ ((∀ p ∈ s.g.pendS, p.reg ≠ sd) → Branches (.yield sd off) (s.g.pc + BitVec.ofInt 64 (4 * off.toInt)) s))
    ∧ (∀ (sd sa sb : SReg) (la : La) (s : State) (c : Channel),
    let h := s.g.sreg sa
    let b := s.g.sreg sb
    h.toNat < 512 → handleCluster (h.setWidth 9) < 5 → s.channel? (h.setWidth 9) = some c → c.launch = s.g.launch → NobodyWaits s →
      (c.running = [] → Completes (.chead sd sa sb la) s fun t => Retires s t ∧ t.g.sreg sd = c.seq.setWidth 64
        ∧ t.channel? (h.setWidth 9) = some { c with
            head := some b, pos := b, tail := none, taken := [], stopped := none, walking := false, ctails := [], cqw := 0 }
        ∧ (c.ctails = [] → { unretired s.g t.g with s := s.g.s } = s.g ∧ (∀ r, r ≠ sd → t.g.sreg r = s.g.sreg r)
          ∧ t = { s with g := t.g, channels := t.channels, returns := t.returns }))
      ∧ (c.ctails = [] → c.stopped = none → (∀ x ∈ c.taken, x.1 ≠ b) → c.cqw = 0 →
        (s.g.qw = 0 ∨ (1 < s.g.qw.toNat ∧ JoinsHere s.g.domain s)) →
        Completes (.ctail sd sa sb la) s fun t => Retires s t
          ∧ { unretired s.g t.g with pendS := s.g.pendS, qw := s.g.qw, borrow := s.g.borrow } = s.g
          ∧ t.g.pendS = { reg := sd, op := s.fresh, left := la.toNat, at_ := s.g.pc } :: s.g.pendS.filter (fun p => p.reg != sd)
          ∧ ∃ d : Channel, t.channel? (h.setWidth 9) = some d ∧ d.tail = some b ∧ d.walking = true
            ∧ d.ctails = [{ grp := s.g.key, op := s.fresh, tail := b, num := none, refused := false, team := s.g.team, core := s.g.core }]
            ∧ t.g.qw.toNat + d.cqw.toNat = s.g.qw.toNat ∧ d.cqw.toNat ≤ s.g.qw.toNat / 2 ∧ (s.g.qw ≠ 0 → 0 < d.cqw ∧ d.cdom = s.g.domain))
      ∧ ∀ n, c.ctails = [] → c.stopped = none → (c.taken.find? fun x => x.1 == b) = some (b, n) → (c.seq - n).toNat < 2 ^ 31 →
        s.g.qw = 0 → la.toNat = 0 →
          Completes (.ctail sd sa sb la) s fun t => Retires s t ∧ t.g.sreg sd = statusWord 0 n.toNat)

/-- TLOAD gives each lane the elements of the run that its coordinates name, and 0 beyond E0; TSTORE holds them under the slot's
attachment, where the highest lane that stores an element decides; with no lane both only retire. A TLOAD that the schedule lets
read later than it issues retires with all its lanes held. TSLOAD puts a valid descriptor and its attachment into the slot, and
traps with the first invalid field; TSEVICT of an empty slot does nothing, at address 0 it empties the slot, and otherwise it also
stores the descriptor. Where it goes beyond the rules it states the model's own choices: log 2, 60, 76. -/
def Obligations.Tensors : Prop :=
  (∀ (slot : BitVec 5) (d a : LReg) (la : La) (gd : Guard) (s : State) (sh : Shape),
    let m := s.g.acts gd
    let w := typeBits sh.desc.type
    let n := typeBytes sh.desc.type
    let x := fun l k => elem 16 k (s.g.lane a l)
    let c := fun l i => [x l 0 + i, x l 1, x l 2, x l 3]
    let inRow := fun l i => i < 64 / w ∧ x l 0 + i < sh.desc.e 0
    let fits := ∀ l, m.has l = true → x l 0 % (64 / w) = 0
      ∧ ∀ k, k < 4 → if k < sh.desc.rank then x l k < sh.desc.e k else x l k = 0
    let goes := fun acc l i (p : Word × Nat) (loc : Loc) => s.resolve (s.viewOf s.g) sh.desc (c l i) = .ok p.1 p.2
      ∧ s.dirPoisoned (s.viewOf s.g) sh.desc (c l i) = false ∧ ∃ q, s.probe s.g (some l) acc false n p.1 = .ok q loc
    let group := fun t : State => { unretired s.g t.g with v := s.g.v, e := s.g.e, eWritten := s.g.eWritten, hits := s.g.hits
                                                           heldT := s.g.heldT, poison := s.g.poison, sig := s.g.sig } = s.g
    (m = 0 → Branches (.tload slot d a la gd) (s.g.pc + 4) s ∧ Branches (.tstore slot d a la gd) (s.g.pc + 4) s)
      ∧ (m ≠ 0 → s.slot? s.g slot.toNat = some sh → sh.desc.type ≤ 10 → sh.desc.rank ≤ 4 → sh.bad = false → fits →
        (s.g.late = false → s.g.heldT = [] → s.g.drains = [] → s.g.side = [] →
        (∀ l i, m.has l = true → inRow l i → ∃ p loc, goes .read l i p loc ∧ s.poisoned loc.key n = false) →
        Completes (.tload slot d a la gd) s fun t => Retires s t ∧ group t
          ∧ t = { s with g := t.g, mem := t.mem, olds := t.olds, traffic := t.traffic }
          ∧ t.g.heldT = [] ∧ t.g.sig = s.g.sig
          ∧ (∀ r, r ≠ d → t.g.lreg r = s.g.lreg r) ∧ (∀ l, m.has l = false → t.g.lane d l = s.g.lane d l)
          ∧ (∀ l i, m.has l = true → i < 64 / w → sh.desc.e 0 ≤ x l 0 + i → elem w i (t.g.lane d l) = 0)
          ∧ ∀ l i p loc, m.has l = true → inRow l i → goes .read l i p loc →
            elem w i (t.g.lane d l) = leNat ((List.range n).map (s.raceByte s.g.reader l loc)) / 2 ^ p.2 % 2 ^ w)
        ∧ (s.g.late = true → (∀ l i, m.has l = true → inRow l i → ∃ p loc, goes .read l i p loc) →
          Completes (.tload slot d a la gd) s fun t => Retires s t ∧ t = { s with g := t.g }
            ∧ { unretired s.g t.g with hits := s.g.hits, heldOps := s.g.heldOps, late := s.g.late } = s.g ∧ t.g.late = false
            ∧ ∃ h, t.g.heldOps = s.g.heldOps ++ [h] ∧ h.i = .tload slot d a la gd ∧ h.lanes = m ∧ h.late = true))
      ∧ (m ≠ 0 → s.slot? s.g slot.toNat = some sh → sh.desc.type ≤ 10 → sh.desc.rank ≤ 4 → sh.bad = false → fits → s.sideRoom 0 = true →
        (∀ l i, m.has l = true → inRow l i → ∃ p loc, goes .write l i p loc) →
        HeldBy (.tstore slot d a la gd) s fun t => Retires s t ∧ t = { s with g := t.g, mem := t.mem } ∧ group t
          ∧ t.g.v = s.g.v ∧ t.g.e = s.g.e
          ∧ ∀ l i, m.has l = true → inRow l i → (∀ k, l < k → m.has k = true → s.g.lane a k ≠ s.g.lane a l) →
            (t.g.heldT.find? fun h => h.attach == sh.attach && h.coord == c l i) = some
              { attach := sh.attach, coord := c l i, bits := BitVec.ofNat 64 (elem w i (s.g.lane d l)), desc := sh.desc, epoch := s.g.epoch
                lane := l, po := s.g.retired.toNat }))
    ∧ (∀ (slot : BitVec 5) (sa : SReg) (s u : State) (t0 : Team) (x : Nat) (sh : Shape) (q : Spot) (loc : Loc),
    let a := s.g.sreg sa
    let bs := leBytes x 64
    s.teamOf? s.g = some t0 → slot.toNat < t0.shapes.length → s.slotBusy slot = false →
      (Reads true 64 a s u x → descFault bs = none →
        Completes (.tsload slot sa) s fun t => Retires s t ∧ t = { u with g := t.g, teams := t.teams } ∧ unretired u.g t.g = u.g
          ∧ t.slot? t.g slot.toNat = some { desc := descOf bs, attach := a.toNat }
          ∧ ∀ k, k ≠ slot.toNat → t.slot? t.g k = s.slot? s.g k)
      ∧ (∀ off, Reads true 64 a s u x → descFault bs = some off →
        exec (.tsload slot sa) s = u.trapU 0x1B (BitVec.ofNat 64 (slot.toNat * 2 ^ 35 + off)))
      ∧ (s.slot? s.g slot.toNat = none → Branches (.tsevict slot sa) (s.g.pc + 4) s)
      ∧ (s.slot? s.g slot.toNat = some sh → a = 0 →
        Completes (.tsevict slot sa) s fun t => Retires s t ∧ unretired s.g t.g = s.g ∧ t = { s with g := t.g, teams := t.teams }
          ∧ t.slot? t.g slot.toNat = none)
      ∧ (s.slot? s.g slot.toNat = some sh → sh.bad = false → a ≠ 0 → s.probe s.g none .write false 64 a = .ok q loc → s.sideRoom 0 = true →
        HeldBy (.tsevict slot sa) s fun t => Retires s t ∧ t.slot? t.g slot.toNat = none
          ∧ (∀ j, j < 64 → t.g.heldByte (loc.key + j) = some ((descBytes sh.desc).getD j 0))
          ∧ (∀ k, k < 2 ^ 128 → k < loc.key ∨ loc.key + 64 ≤ k → t.g.heldByte k = s.g.heldByte k)
          ∧ t = { s with g := t.g, teams := t.teams, mem := t.mem }))

/-- OCLAIM and ACLAIM grant the lowest free numbers of the reach's partition, or answer all ones where there are too few; the
releases give back numbers that the team holds and no command names, and answer the ones it keeps; a claim beyond the partition
traps. Where it goes beyond the rules it states the model's own choice: log 62. -/
def Obligations.Claims : Prop :=
  ∀ (sd sa : SReg) (la : La) (s : State) (t0 : Team),
    let n := (s.g.sreg sa).toNat
    let mask := fun (l : List Nat) (x : Word) => ∀ k, k < 64 → (x.getLsbD k = true ↔ k ∈ l)
    let named := fun k => (s.g.sreg sa).getLsbD k = true
    let only := fun t : State => { unretired s.g t.g with s := s.g.s } = s.g ∧ (∀ r, r ≠ sd → t.g.sreg r = s.g.sreg r)
      ∧ t = { s with g := t.g, teams := t.teams }
    let slots := s.freeSlots s.greach s.g.core
    let tiles := s.freeTiles s.greach s.g.core
    s.teamOf? s.g = some t0 →
      (n ≤ slots.length → Completes (.oclaim sd sa la) s fun t => Retires s t ∧ only t ∧ mask (slots.take n) (t.g.sreg sd)
        ∧ t.teamOf? t.g = some { t0 with slots := t0.slots ++ slots.take n })
      ∧ (slots.length < n → n ≤ s.partSize ReachRec.oslot → ScalarResult (.oclaim sd sa la) sd (BitVec.allOnes 64) s)
      ∧ (s.partSize ReachRec.oslot < n → exec (.oclaim sd sa la) s = s.trapU 9 (BitVec.ofNat 64 (2 ^ 30)))
      ∧ (n ≤ tiles.length → (∀ x ∈ (s.core s.g.core).claims, x.1 ≠ s.greach) →
        Completes (.aclaim sd sa la) s fun t => Retires s t ∧ only t ∧ mask (tiles.take n) (t.g.sreg sd)
          ∧ t.teamOf? t.g = some { t0 with tiles := t0.tiles ++ tiles.take n })
      ∧ (tiles.length < n → n ≤ s.partSize ReachRec.atile → t0.tiles ≠ [] →
        ScalarResult (.aclaim sd sa la) sd (BitVec.allOnes 64) s)
      ∧ (s.partSize ReachRec.atile < n → exec (.aclaim sd sa la) s = s.trapU 8 (BitVec.ofNat 64 (2 ^ 30)))
      ∧ ((∀ k, k < 64 → named k → k ∈ t0.slots) → t0.queue = [] → s.channels = [] →
        Completes (.orelease sd sa la) s fun t => Retires s t ∧ only t
          ∧ mask (t0.slots.filter fun k => !(s.g.sreg sa).getLsbD k) (t.g.sreg sd)
          ∧ t.teamOf? t.g = some { t0 with slots := t0.slots.filter fun k => !(s.g.sreg sa).getLsbD k })
      ∧ ((∀ k, k < 64 → named k → k ∈ t0.tiles) → t0.queue = [] → (s.core s.g.core).claims = [] →
        Completes (.arelease sd sa la) s fun t => Retires s t ∧ only t
          ∧ mask (t0.tiles.filter fun k => !(s.g.sreg sa).getLsbD k) (t.g.sreg sd)
          ∧ t.teamOf? t.g = some { t0 with tiles := t0.tiles.filter fun k => !(s.g.sreg sa).getLsbD k })

/-- MLOOP reads its blocks, and a command that passes the checks of R287 enters the queue under the next ticket; MLOOP wait
completes when MSEQ has reached the ticket. AREAD gives lane l two or four words of a row of a tile that the team holds and no
command names, the four rounded to BF16; AZERO clears such a tile; both trap ACC_CLAIM for a tile that the team does not hold. Where
it goes beyond the rules it states the model's own choice: log 63. -/
def Obligations.Matrix : Prop :=
  (∀ (sd sa sb : SReg) (la : La) (s u v : State) (t0 : Team) (x y : Nat),
    let word := s.g.sreg sb
    let low := fun z : Nat => BitVec.ofNat 64 z
    let cmd := fun ring : Option (Word × Word) => { ticket := t0.tickets + 1, word := word, fmtA := low x, fmtB := low (x / 2 ^ 64)
                                                    ring := ring, step := 0, acquired := 0, waits := none
                                                    granted := false : MCmd }
    let queued := fun (r : State) ring => Completes (.mloop sd sa sb la) s fun t => Retires s t
      ∧ t.g.sreg sd = (t0.tickets + 1).setWidth 64 ∧ t = { r with g := t.g, teams := t.teams, olds := t.olds }
      ∧ { unretired r.g t.g with s := r.g.s } = r.g ∧ (∀ k, k ≠ sd → t.g.sreg k = s.g.sreg k)
      ∧ t.teamOf? t.g = some { t0 with tickets := t0.tickets + 1, queue := t0.queue ++ [cmd ring] }
    s.teamOf? s.g = some t0 →
      (Reads false 16 (s.g.sreg sa) s u x → word.getLsbD 39 = false → u.cmdFault t0 (cmd none) = none → t0.queue.length < 16 → queued u none)
      ∧ (Reads false 16 (s.g.sreg sa) s u x → word.getLsbD 39 = true →
        Reads false 16 (BitVec.ofNat 64 (4 * 2 ^ 56 + 16 * (word.toNat / 2 ^ 48))) u v y →
        v.cmdFault t0 (cmd (some (low y, low (y / 2 ^ 64)))) = none → t0.queue.length < 16 → queued v (some (low y, low (y / 2 ^ 64))))
      ∧ ((t0.mseq - (s.g.sreg sa).setWidth 32).toNat < 2 ^ 31 →
        Completes (.mloopWait sa la) s fun t => Retires s t ∧ OnlyPc s { t with olds := s.olds }))
    ∧ (∀ (f : AFmt) (vd : LReg) (sa : SReg) (la : La) (s : State) (t0 : Team),
    let x := (s.g.sreg sa).toNat
    let tile := x % 64
    let row := x / 64 % 128
    let half := x / 2 ^ 13 % 2
    let word := fun (t : State) i j => memRead t.mem (tileKey t0.core tile (4 * (128 * i + j))) 4
    s.teamOf? s.g = some t0 →
      (tile ∈ t0.tiles → (∀ c ∈ t0.queue, cmdTile c.word ≠ tile) →
        (s.poisoned (tileKey t0.core tile (512 * row)) 512 = false →
          Completes (.aread f vd sa la) s fun t => Retires s t
            ∧ OnlyLanesFlags vd s.g.em s { t with olds := s.olds } ∧ ∀ l, s.g.em.has l = true → match f with
              | .bf16 => ∀ i, i < 4 → elem 16 i (t.g.lane vd l) = (cvtFF fp32 bf16 s.g.frm (word s row (4 * l + i))).1 % 2 ^ 16
              | _ => ∀ i, i < 2 → elem 32 i (t.g.lane vd l) = word s row (64 * half + 2 * l + i))
        ∧ (Memory.wf s.mem = true → Completes (.azero sa la) s fun t => Retires s t ∧ unretired s.g t.g = s.g
          ∧ t = { s with g := t.g, mem := t.mem, poison := t.poison, olds := t.olds } ∧ OnlyBytes (tileKey t0.core tile 0) 65536 s t
          ∧ ∀ i j, i < 128 → j < 128 → word t i j = 0))
      ∧ (tile ∉ t0.tiles → exec (.aread f vd sa la) s = s.trapU 8 (BitVec.ofNat 64 tile)
        ∧ exec (.azero sa la) s = s.trapU 8 (BitVec.ofNat 64 tile)))

/-! Events. -/

/-- What reaches a group from its core's memory path: a result in flight, the acknowledgement of its oldest RED, a drained
scratchpad byte, which comes after every write that is single-copy atomic, the group's own or ordered before it, the replay of a
store whose page has come, the end of fault service for a load, and soft errors. Where it goes beyond the rules it states the
model's own choices: log 2, 19, 33, 39, 40, 41, 48. -/
def Obligations.GroupEvents : Prop :=
  ∀ (s : State) (idx n page : Nat) (f : BitVec 5) (rest : List (BitVec 5)) (loc : ErrLoc),
    let k := s.g.key
    let own := fun t : State => SameOthers s t ∧ t = { s with g := t.g, others := t.others }
    (∀ p, s.g.inflight[idx]? = some p → p.left = 0 → p.clash = 0 →
      (p.file = 0 → p.reg < 64 → Completes (.longLatencyResult k idx) s fun t => own t ∧ t.g.inflight = s.g.inflight.eraseIdx idx
        ∧ (∀ r : LReg, r.toNat ≠ p.reg → t.g.lreg r = s.g.lreg r)
        ∧ (∀ l, t.g.lane (BitVec.ofNat 6 p.reg) l = if p.lanes.has l then p.vals.at l else s.g.lane (BitVec.ofNat 6 p.reg) l)
        ∧ { t.g with v := s.g.v, e := s.g.e, eWritten := s.g.eWritten, inflight := s.g.inflight } = s.g)
      ∧ (p.file = 2 → p.lanes ≠ 0 → Completes (.longLatencyResult k idx) s fun t => own t
        ∧ t.g = { s.g.setS (BitVec.ofNat 6 p.reg) (p.vals.at 0) with inflight := s.g.inflight.eraseIdx idx }))
      ∧ (s.g.reds = f :: rest → s.g.twin = none → Completes (.redAck k) s fun t => own t
        ∧ t.g = { s.g with reds := rest, fflags := s.g.fflags ||| f })
      ∧ (∀ h sc, s.g.drains[n]? = some (.byte h false sc) → h.again = false → h.loc = padLoc h.key → Memory.wf s.mem = true →
        s.g.drainBlocked n (.byte h false sc) = false → .drain (wordKey h.key) ∉ s.g.poison →
        Completes (.drainComplete k n) s fun t => SameOthers s t ∧ t.g = { s.g with drains := s.g.drains.eraseIdx n }
          ∧ OnlyBytes h.key 1 s t ∧ t = { s with g := t.g, others := t.others, mem := t.mem, olds := t.olds }
          ∧ (memGet h.key t.mem = h.val ∨ memGet h.key t.mem = memGet h.key s.mem)
          ∧ ((∀ o ∈ s.olds, o.key = h.key → o.atomic = true ∨ o.writer = .group k ∨ .group k ∈ o.known) → memGet h.key t.mem = h.val))
      ∧ (∀ e bs q l, s.g.side = [e] → e.op = .store bs → e.va / 2 ^ 18 = page → s.sideHit s.greach e = .ok q l → s.g.bound = none →
        .side e.va ∉ s.g.poison → (∀ h ∈ s.g.held, h.po ≤ e.po) →
        Completes (.sideLogReplay k page) s fun t => SameOthers s t ∧ t = { s with g := t.g, others := t.others, mem := t.mem }
          ∧ t.g.side = [] ∧ (∀ j, j < bs.length → t.g.heldByte (l.key + j) = some (bs.getD j 0))
          ∧ (∀ x, x < 2 ^ 128 → x < l.key ∨ l.key + bs.length ≤ x → t.g.heldByte x = s.g.heldByte x)
          ∧ { t.g with side := s.g.side, held := s.g.held, poison := s.g.poison } = s.g)
      ∧ (∀ (h : HeldOp) w d a off la g (q : Nat → Spot) (lc : Nat → Loc), s.g.heldOps = [h] → h.i = .ld w d a off la g → h.left = 0 → h.lanes ≠ 0 → s.g.fetchHeld = none →
        s.g.offCore = false → NobodyWaits s →
        (∀ l, h.lanes.has l = true →
          s.probe s.g (some l) .read false (widthBytes w) (h.a.at l + BitVec.ofNat 64 (off.toNat * widthBytes w)) = .ok (q l) (lc l)
          ∧ s.viewPoisoned s.g (h.reader s.g) (lc l) (widthBytes w) = false) →
        Completes (.faultServiceEnd k) s fun t => SameOthers s t
          ∧ t = { s with g := t.g, others := t.others, mem := t.mem, olds := t.olds, traffic := t.traffic }
          ∧ t.g.heldOps = [] ∧ (∀ r, r ≠ d → t.g.lreg r = s.g.lreg r)
          ∧ ∀ l, t.g.lane d l = if h.lanes.has l then BitVec.ofNat 64 (s.viewRead s.g (h.reader s.g) l (lc l) (widthBytes w))
            else s.g.lane d l)
      ∧ exec (.softError loc false) s = .next { s with corrected := s.corrected + 1 }
      ∧ (∀ r, Completes (.softError (.sreg k r) true) s fun t => own t ∧ { t.g with poison := s.g.poison } = s.g
        ∧ ∀ p, p ∈ t.g.poison ↔ p = .s r.toNat ∨ p ∈ s.g.poison)
      ∧ (∀ r, Completes (.softError (.preg k r) true) s fun t => own t ∧ { t.g with poison := s.g.poison } = s.g
        ∧ ∀ p, p ∈ t.g.poison ↔ p = .p r.toNat ∨ p ∈ s.g.poison)
      ∧ (Completes (.softError (.entry n) true) s fun t => t = { s with entries := t.entries }
        ∧ ∀ i, t.entries[i]? = (s.entries[i]?).map fun x => if i = n then { x with bad := true } else x)
      ∧ ∀ r : LReg, Completes (.softError (.vreg k r) true) s fun t => own t ∧ { t.g with poison := s.g.poison } = s.g
        ∧ ∀ p, p ∈ t.g.poison ↔ (p = if r.toNat < 56 then .v r.toNat else .e (r.toNat - 56)) ∨ p ∈ s.g.poison

/-- A free port goes to the oldest ready group of the class that R143 picks, and the Queued counter follows. A launch that passes
its checks enters with all its teams unstarted, or is refused by the code of R127; a team that no other comes before starts where it
fits, with every group at its entry point; wait-swap takes out teams that have waited for their limit. Where it goes beyond the
rules it states the model's own choices: log 7, 25, 26, 73, 74. -/
def Obligations.PortsAndLaunches : Prop :=
  (∀ (core : CoreId) (port : Bool) (s : State) (g : Group) (c : Sys2Proof.Class),
    let held := s.readyOn core .held
    let queued := s.readyOn core .queued
    let n := (s.core core).queued
    let others := ∃ x ∈ queued, x.key ≠ g.key
    s.portBusy core port = false → (port = true → s.portBusy core false = true) → g ∈ s.readyOn core c →
      (∀ x ∈ s.readyOn core c, x = g ∨ g.age < x.age) → (s.desc g.launch).urgent = false →
      (if queued ≠ [] ∧ (16 ≤ n ∨ held = []) then c = .queued else if held ≠ [] then c = .held else c = .spare) →
        Completes (.portAssignment core port) s fun t => t = { s with g := t.g, others := t.others, cores := t.cores }
          ∧ (∀ x ∈ t.groups, x.key = g.key → x.port = some port ∧ x.last = .retired)
          ∧ (t.groups.filter fun x => x.key != g.key) = s.groups.filter (fun x => x.key != g.key)
          ∧ (∀ k, k ≠ core → t.core k = s.core k) ∧ { t.core core with queued := n } = s.core core
          ∧ (c = .queued → (t.core core).queued = 0)
          ∧ (c = .held → (others → (t.core core).queued = n + 1) ∧ (¬others → (t.core core).queued = 0))
          ∧ (c = .spare → (others → (t.core core).queued = n) ∧ (¬others → (t.core core).queued = 0)))
    ∧ (∀ (bs : List Byte) (lid : BitVec 32) (who : Submitter) (idx : Nat) (core : CoreId) (s u : State) (l0 : Launch) (t0 : Team),
    let d := LaunchDesc.ofBytes bs
    let fresh := lid ≠ 0 ∧ lid ≠ 0xFFFFFFFF ∧ s.launch? lid = none
    let i : Instr := .launchSubmit bs lid who
    let good := launchZeros bs = true ∧ s.malformed d = false
    (¬fresh → exec i s = .next s)
      ∧ (fresh → ¬good → Answers i 1 s)
      ∧ (fresh → good → s.neverFits d = true → Answers i 2 s)
      ∧ (fresh → good → s.neverFits d = false → d.cls = .held → s.admitHeld d lid who none = none → Answers i 3 s)
      ∧ (fresh → good → s.neverFits d = false → d.cls = .held → s.admitHeld d lid who none = some u → exec i s = .next (u.reply 0))
      ∧ (fresh → good → s.neverFits d = false → d.cls ≠ .held → Completes i s fun t =>
        t = { s with fresh := t.fresh, launches := t.launches, teams := t.teams, reaches := t.reaches, replies := t.replies }
          ∧ t.replies = { code := 0, words := [], bytes := [] } :: s.replies
          ∧ (∃ l : Launch, t.launches = s.launches ++ [l] ∧ l.lid = lid ∧ l.pid = who.pid ∧ l.tid = who.tid ∧ l.desc = d
            ∧ l.ended = false)
          ∧ ∃ ts, t.teams = s.teams ++ ts ∧ ts.length = d.teams * (if d.paired then 2 else 1)
            ∧ ∀ x ∈ ts, x.launch = lid ∧ x.idx < d.teams ∧ x.at_ = .unstarted)
      ∧ (KeysApart s → NobodyWaits s → (∀ g ∈ s.groups, g.preempted = false ∧ g.launch ≠ lid) → s.launch? lid = some l0 →
        l0.desc.paired = false → l0.replay = none → OnlyTeam lid idx t0 s → t0.at_ = .unstarted → t0.follower = false → t0.clear = true →
        s.waitsRoom t0 = true → (∀ x ∈ s.teams, s.waitsRoom x = true → s.sooner x t0 = false) → s.coreOff l0.desc.reach core = false →
        s.wayFor t0 core = some [] → Completes (.teamStart lid idx core) s fun t => SameBytes s t
          ∧ (∃ x ∈ t.teams, x.same t0 = true ∧ x.at_ = .resident ∧ x.core = core) ∧ (∀ g ∈ s.groups, g ∈ t.groups)
          ∧ ∀ k, k < l0.desc.groups → ∃ g ∈ t.groups, g.launch = lid ∧ g.team = idx ∧ g.idx = k ∧ g.core = core ∧ g.ended = false
            ∧ g.pc = BitVec.ofNat 64 (l0.desc.codeBase.toNat / 4 * 4) + BitVec.ofNat 64 (4 * l0.desc.entry.toNat) ∧ g.live = g.em
            ∧ ∀ l, l < 32 → g.em.has l = decide (l < l0.desc.lanes))
      ∧ ((s.twinsOf lid idx ≠ [] ∧ s.effective lid = .queued ∧ s.inSlice (s.reachOf lid) = true) →
        (∀ x ∈ s.twinsOf lid idx, x.at_ = .resident ∧ s.allStand x = true ∧ swapLimit (s.desc lid) ≤ x.waited) →
        Completes (.waitSwap lid idx) s fun t =>
          (∀ x ∈ t.teams, x.launch = lid → x.idx = idx → x.at_ = .swapped ∧ x.waitSwapped = true ∧ x.waited = 0)
          ∧ ∀ x ∈ s.twinsOf lid idx, ∀ g ∈ t.groups, x.holds g = true → g.ended = false → g.spilled = true))

/-- At a scheduling boundary the promotion records that no wait holds revert and the proxies forward; the end of a slice is one, and
renews the slice or gives the core to the queued reach; a grant beyond TSHARE is refused; a pre-emption stops the reach's groups on
its cores, but for one that is in the middle of a trap entry or an EXIT, and on all cores halts the reach, whose context area the
device then writes. Where it goes beyond the rules it states the model's own choices: log 76, 77, 89. -/
def Obligations.Slices : Prop :=
  ∀ (reach r : BitVec 4) (core : CoreId) (cores : List CoreId) (s : State) (x : Reach),
    let stops := fun t : State => ∀ g ∈ t.groups, t.reachOf g.launch = reach → g.key ≠ 0 → g.going = false
    let area := fun (t : State) a => ∃ y pa, t.reach? reach = some y ∧ y.area = some pa ∧ globalKey s.device.toNat pa ≤ a
      ∧ a < globalKey s.device.toNat pa + y.size
    (NobodyWaits s → Completes .schedulingBoundary s fun t =>
        (∀ p ∈ t.proms, t.inSlice p.reach = true → p.count ≠ 0) ∧ ∀ p ∈ t.proxies, p.back = 0)
      ∧ ((s.core core).slice ≠ some reach → exec (.sliceEnd reach core) s = .next s)
      ∧ ((s.core core).slice = some reach → (s.core core).next = none → exec (.sliceEnd reach core) s = exec .schedulingBoundary s)
      ∧ ((s.core core).slice = some reach → (s.core core).next = some r → r ≠ reach → Completes (.sliceEnd reach core) s fun t =>
        (t.core core).slice = some r ∧ (t.core core).next = none
          ∧ ∀ g ∈ t.groups, t.reachOf g.launch = reach → g.core = core → g.key ≠ 0 → g.going = false ∨ g.entering = true)
      ∧ (s.reach? reach = none → Answers (.sliceGrant reach core) 1 s)
      ∧ (s.reach? reach = some x →
        let now := Config.wallNs s.tick
        let n := (s.grants.filter fun y => y.2.1 == reach && y.2.2 == core && now < y.1 + 1000000000).length
        let len := 1000 * x.cfg.sliceUs
        (10 ^ 9 * x.cfg.tshare < 1024 * (len * n + len) → Answers (.sliceGrant reach core) 1 s)
        ∧ (1024 * (len * n + len) ≤ 10 ^ 9 * x.cfg.tshare → Completes (.sliceGrant reach core) s fun t =>
          t.replies = { code := 0, words := [], bytes := [] } :: s.replies ∧ (now, reach, core) ∈ t.grants
            ∧ t = { s with cores := t.cores, grants := t.grants, replies := t.replies } ∧ (∀ c, c ≠ core → t.core c = s.core c)
            ∧ t.core core = if (s.core core).slice = none then { s.core core with slice := some reach }
              else { s.core core with next := some reach }))
      ∧ Completes (.preemptionRequest reach cores) s fun t =>
        (∀ g ∈ t.groups, s.reachOf g.launch = reach → g.key ≠ 0 → g.core ∈ cores → g.going = false ∨ g.entering = true)
          ∧ (∀ g ∈ s.groups, (∀ y ∈ s.groups, s.reachOf y.launch = reach → y.core ∈ cores → y.key ≠ g.key ∧ y.twin ≠ some g.key) →
            g ∈ t.groups)
          ∧ t = { s with g := t.g, others := t.others, fresh := t.fresh, launches := t.launches, reaches := t.reaches, convs := t.convs
                         mem := t.mem, olds := t.olds, icache := t.icache, keyTags := t.keyTags, poison := t.poison }
          ∧ (∀ a, ¬area t a → memGet a t.mem = memGet a s.mem)
          ∧ ((∀ c ∈ allCores, c ∈ cores) → (∀ g ∈ s.groups, g.core ∈ allCores ∧ g.entering = false) → s.reach? reach = some x →
            stops t ∧ ∃ y, t.reach? reach = some y ∧ y.halted = true ∧ y.cfg = x.cfg)

/-- A reach resumes with the header of its context area, one of another device too, and its guest time never goes back; a resume
during a pre-emption that has not finished waits for the halt; a halted reach is evacuated by spilling its groups and writing its
area; a reach record within the limits takes effect, and a first one leaves the reach halted; requests that break a rule are
refused. Allocator mode belongs to a core; a compactor move takes a team's block of core scratchpad down into free room with its
bytes; the bind request binds the granules of its range, or refuses a range, a producer or an alignment that is not allowed. Where
it goes beyond the rules it states the model's own choices: log 46, 75, 78, 79, 89. -/
def Obligations.ReachesAndStorage : Prop :=
  (∀ (reach n : BitVec 4) (rev root : Nat) (timex : Bool) (gen : Word) (r : ReachRec) (own : ReachOwn) (s : State) (x : Reach),
    let wall : Int := Config.wallNs s.tick
    let ok := fun t : State => t.replies = { code := 0, words := [], bytes := [] } :: s.replies
    let res : Instr := .reachResume reach rev timex root gen
    let h := s.headerOf x { revision := rev, timex := timex, root := root, snapgen := gen }
    let kept := s.contexts.find? fun c => c.reach.id == reach
    let settled := s.unfinished reach = false
    (s.unfinished reach = true → Completes res s fun t => t = { s with reaches := t.reaches }
        ∧ t.reach? reach = (s.reach? reach).map fun y => { y with resume := some (rev, timex, root, gen) })
      ∧ (settled → s.reach? reach = none → Answers res 1 s)
      ∧ (settled → s.reach? reach = some x → (h.revision ≠ 1 ∨ ∃ c, kept = some c ∧ c.revision ≠ 1) → Answers res 1 s)
      ∧ (settled → s.reach? reach = some x → h.revision = 1 → (∀ c, kept = some c → c.revision = 1 ∧ c.device = s.device) →
        x.halted = true → Completes res s fun t => ok t
        ∧ ∃ y, t.reach? reach = some y ∧ y.halted = false ∧ y.evac = false ∧ y.off = [] ∧ y.root = h.root ∧ y.snapgen = h.snapgen
          ∧ y.cfg = x.cfg ∧ x.tsaved ≤ wall - y.offset ∧ (h.timex = true → wall - y.offset = x.tsaved)
          ∧ (h.timex = false → x.tsaved ≤ wall - x.offset → y.offset = x.offset))
      ∧ (∀ c, settled → s.reach? reach = some x → h.revision = 1 → kept = some c → c.revision = 1 → c.device ≠ s.device →
        Completes res s fun t => ok t
        ∧ ∃ y, t.reach? reach = some y ∧ y.halted = false ∧ y.off = [] ∧ y.cfg = x.cfg ∧ y.keys = x.keys ∧ y.images = c.reach.images
          ∧ c.reach.tsaved ≤ wall - y.offset)
      ∧ (s.reach? reach = none → Answers (.evacuate reach) 1 s)
      ∧ (s.reach? reach = some x → x.halted = false → Answers (.evacuate reach) 1 s)
      ∧ (s.reach? reach = some x → x.halted = true → (∀ c ∈ s.colls, s.reachOf c.launch ≠ reach) → KeysApart s →
        Completes (.evacuate reach) s fun t => ok t ∧ (∃ y, t.reach? reach = some y ∧ y.evac = true ∧ y.halted = true)
          ∧ (∃ c, (t.contexts.find? fun c => c.reach.id == reach) = some c ∧ c.revision = 1 ∧ c.device = s.device)
          ∧ ∀ g ∈ t.groups, s.reachOf g.launch = reach → g.preempted = true → g.ended = true ∨ g.spilled = true)
      ∧ (s.recordFits reach r = false → Answers (.reachRecordWrite reach none r own) 1 s)
      ∧ (s.recordFits reach r = true → Completes (.reachRecordWrite reach none r own) s fun t => ok t
        ∧ ∃ y, t.reach? reach = some y ∧ y.cfg = r ∧ y.regions = own.regions
          ∧ (s.reach? reach = none → y.halted = true ∧ y.minSvn = own.minSvn ∧ y.accepted = own.accepted)
          ∧ (s.reach? reach = some x → y.halted = x.halted ∧ y.root = x.root))
      ∧ (s.reach? reach = some x → x.subFits n r = true → Completes (.reachRecordWrite reach (some n) r own) s fun t => ok t
        ∧ ∃ y, t.reach? reach = some y ∧ y.subs = (n, r) :: (x.subs.filter fun z => z.1 != n) ∧ { y with subs := x.subs } = x)
      ∧ (s.reach? reach = some x → x.subFits n r = false → Answers (.reachRecordWrite reach (some n) r own) 1 s))
    ∧ (∀ (core : CoreId) (on : Bool) (reach : BitVec 4) (u : Unit3) (off len : Nat) (prod : Option Producer) (mode : BindMode) (s : State)
    (t0 : Team),
    let key := scratchKey u reach off
    let bind : Instr := .bindRequest reach u off len prod mode
    let fits := off % 256 = 0 ∧ len % 256 = 0 ∧ off + len ≤ s.partition reach u
    let may := prod = none ∨ prod = some .wharf ∨ ∃ lid, prod = some (.launch lid) ∧ s.podLive lid = true ∧ s.podReach lid = reach
    (Completes (.allocatorMode core on) s fun t => t = { s with cores := t.cores }
        ∧ t.core core = { s.core core with allocator := on } ∧ ∀ c, c ≠ core → t.core c = s.core c)
      ∧ ((s.core core).allocator = false → exec (.compactorMove core) s = .next s)
      ∧ ((s.core core).allocator = true → Memory.wf s.mem = true →
        (s.teams.find? fun t => t.at_ == .resident && t.core == core && s.betweenRuns t && s.lowerBase t < t.scrBase) = some t0 →
        Completes (.compactorMove core) s fun t => ∃ x ∈ t.teams, x = { t0 with scrBase := s.lowerBase t0 } ∧ x.scrBase < t0.scrBase
          ∧ ∀ k, k < 1024 * (s.desc t0.launch).scratch → memGet (t.regionKey x + k) t.mem = memGet (s.regionKey t0 + k) s.mem)
      ∧ (¬(fits ∧ may) → Answers bind 1 s)
      ∧ (fits → may → NobodyWaits s → Completes bind s fun t =>
        t = { s with bindings := t.bindings, full := t.full, olds := t.olds, replies := t.replies }
          ∧ t.replies = { code := 0, words := [], bytes := [] } :: s.replies
          ∧ (∀ y, y.granule < key ∨ key + len ≤ y.granule → (y ∈ t.bindings ↔ y ∈ s.bindings))
          ∧ (∀ y, key ≤ y.granule → y.granule < key + len → (y ∈ t.bindings ↔
            (∃ i, i < len / 256 ∧ y.granule = key + 256 * i) ∧ prod = some y.prod ∧ y.reach = reach))
          ∧ ∀ y, y ∈ t.full ↔ match mode with
            | .bind => y ∈ s.full
            | .empty => y ∈ s.full ∧ ¬∃ i, i < len / 8 ∧ y = key + 8 * i
            | .full => y ∈ s.full ∨ ∃ i, i < len / 8 ∧ y = key + 8 * i))

/-- Queues are created and destroyed with the weight of their entries lost; counters and channels are assigned once; a released
entry that waits unadmitted is admitted as room comes. Returned weight reaches its root, and one that has closed takes none; a
borrow gives 2^24 new units to the group that asked; another device's entry is enqueued and its decrement performed, each with an
answer; a lost device's messages are discarded; after a re-homing every proxy names the new root. Where it goes beyond the rules it
states the model's own choices: log 64, 65, 68, 69. -/
def Obligations.TaskEvents : Prop :=
  (∀ (reach : BitVec 4) (owner : Option (BitVec 32)) (bs : List Byte) (qn lid : BitVec 32) (handle : BitVec 9) (die first last ctr : Nat)
    (s : State) (e : QEntry) (q0 : Queue) (core : CoreId),
    let ok : Reply := { code := 0, words := [], bytes := [] }
    let q := QueueDesc.ofBytes bs
    let good := queueZeros bs = true ∧ 1 ≤ q.quota ∧ q.ovfBase.toNat % 64 = 0
      ∧ q.qnum ≠ 0xFFFFFFFF ∧ s.queue? reach q.qnum = none ∧ (q.wharf = true → owner = none)
    let mine := fun x : QEntry => x.reach == reach && x.qnum == qn
    let back := fun x : QEntry => if entryUnits x.e = 0 then none
      else some { reach := x.reach, domain := entryDomain x.e, units := entryUnits x.e, lost := true, src := none : Return }
    let taken := ∃ x ∈ s.ranges, x.1 = die ∧ x.2.1 ≤ last ∧ first ≤ x.2.2.1 ∧ x.2.2.2 ≠ reach
    let free := handleCluster handle < 5 ∧ s.channel? handle = none ∧ s.isLive lid = true
    (good → exec (.queueInstantiate reach owner bs) s = .next { s with
        queues := s.queues ++ [{ reach := reach, desc := q, owner := owner, producers := [] }], replies := ok :: s.replies })
      ∧ (¬good → Answers (.queueInstantiate reach owner bs) 1 s)
      ∧ (Completes (.queueDestroy reach qn) s fun t => t.replies = ok :: s.replies
        ∧ t = { s with queues := t.queues, entries := t.entries, counters := t.counters, returns := t.returns, replies := t.replies }
        ∧ (∀ x, x ∈ t.queues ↔ x ∈ s.queues ∧ ¬(x.reach = reach ∧ x.desc.qnum = qn))
        ∧ (∀ x, x ∈ t.entries ↔ x ∈ s.entries ∧ mine x = false)
        ∧ (∀ c, c ∈ t.counters ↔ c ∈ s.counters ∧ ∀ x, c.parked = some x → mine x = false)
        ∧ t.returns = s.returns ++ (s.entries.filter mine ++ (s.counters.filterMap Counter.parked).filter mine).filterMap back)
      ∧ (taken → Answers (.counterAssign die first last reach) 1 s)
      ∧ (¬taken → exec (.counterAssign die first last reach) s = .next { s with
        ranges := s.ranges ++ [(die, first, last, reach)], replies := ok :: s.replies })
      ∧ (¬free → Answers (.channelAssign handle lid) 1 s)
      ∧ (free → Completes (.channelAssign handle lid) s fun t => t.replies = ok :: s.replies
        ∧ t = { s with channels := t.channels, replies := t.replies }
        ∧ ∃ c : Channel, t.channels = s.channels ++ [c] ∧ c.handle = handle ∧ c.launch = lid ∧ c.issued = 0 ∧ c.seq = 0 ∧ c.head = none
          ∧ c.cqw = 0 ∧ c.running = [] ∧ c.stopped = none)
      ∧ ((s.counter die ctr).unadmitted = true → (s.counter die ctr).parked = some e → (s.counter die ctr).count = 0 →
        s.queue? e.reach e.qnum = some q0 → q0.desc.wharf = false → e.place = .core core → (s.level (.core core)).length < 64 →
        (s.setCounter { s.counter die ctr with parked := none, unadmitted := false }).admits q0 e.producer = true →
        (∀ x ∈ s.counters, s.couldAdmit x = true → (linkOf die ctr).toNat ≤ (linkOf x.die x.ctr).toNat) → NobodyWaits s →
        Completes (.unadmittedAdmit die ctr) s fun t => t = { s with entries := s.entries ++ [e], counters := t.counters }
          ∧ (t.counter die ctr).free = true))
    ∧ (∀ (s : State) (m : Return) (rest : List Return) (x : Root) (src root : BitVec 8) (reach : BitVec 4) (qn : BitVec 32) (e : Entry)
    (die ctr tag : Nat) (q0 : Queue),
    let out := fun msg : RemoteMsg => s.outbox ++ [{
      tag := s.fresh, dest := src, cls := 2, msg := msg, grp := 0, op := 0
      count := s.sentCount 2 + 1, flying := true }]
    let n := (s.counter die ctr).count
    let enq : RemoteMsg := .enq src reach qn e root tag
    let dec : RemoteMsg := .depdec src reach die ctr tag
    (s.returns = [] → exec .weirReturn s = .next s)
      ∧ (s.returns = m :: rest → OnlyRoot x s → x.reach = m.reach → x.domain = m.domain → x.isOpen = true → x.remote = [] →
        s.movedAway m.reach = false → (∀ dev, m.src = some dev → dev = s.device) → NobodyWaits s →
        Completes .weirReturn s fun t => t = { s with returns := rest, roots := t.roots }
          ∧ RootBecomes x { x with returned := x.returned + m.units, lost := x.lost + if m.lost then m.units else 0 } s t)
      ∧ (s.returns = m :: rest → (∀ y ∈ s.roots, y.reach = m.reach → y.domain = m.domain → y.isOpen = false) →
        s.proxy? m.reach m.domain = none → (∀ y ∈ s.rehomed, y.1 ≠ m.reach) → (∀ c ∈ s.contexts, c.reach.id ≠ m.reach) →
        exec .weirReturn s = .next { s with returns := rest })
      ∧ (s.g.borrow = .asked → (∀ y ∈ s.outbox, y.grp ≠ s.g.key) → OnlyRoot x s → x.reach = s.greach → x.domain = s.g.domain →
        x.isOpen = true → s.movedAway s.greach = false → s.g.qw.toNat + 2 ^ 24 < 2 ^ 48 →
        Completes (.weirBorrow s.g.key) s fun t => t = { s with g := t.g, others := t.others, roots := t.roots } ∧ SameOthers s t
          ∧ t.g = { s.g with borrow := .granted, qw := s.g.qw + 0x1000000 } ∧ RootBecomes x { x with issued := x.issued + 2 ^ 24 } s t)
      ∧ (src ∈ s.lost → exec (.remoteTaskMessage enq) s = .next s ∧ exec (.remoteTaskMessage dec) s = .next s)
      ∧ (src ∉ s.lost → entryWexp e = 63 → s.queue? reach qn = some q0 → q0.desc.wharf = false → s.admits q0 0 = true →
        (s.level (.die q0.desc.home)).length < 4096 → NobodyWaits s → Completes (.remoteTaskMessage enq) s fun t =>
          t = { s with entries := t.entries, outbox := out (.statusReply tag (statusWord 0 63)), fresh := s.fresh + 1
                       sent := t.sent, traffic := t.traffic }
          ∧ ∃ y : QEntry, t.entries = s.entries ++ [y] ∧ y.reach = reach ∧ y.qnum = qn ∧ y.e = stampEntry e 63 true false noLink
            ∧ y.stamp = s.tick ∧ y.place = .die q0.desc.home ∧ y.producer = 0)
      ∧ (src ∉ s.lost → s.ownsCounter reach die ctr = true → 1 < n → Completes (.remoteTaskMessage dec) s fun t =>
        t = { s with counters := t.counters, outbox := out (.statusReply tag (statusWord 0 (n - 1))), fresh := s.fresh + 1
                     sent := t.sent, traffic := t.traffic }
          ∧ t.counter die ctr = { s.counter die ctr with count := n - 1 })
      ∧ (Completes (.rehome reach root) s fun t => t = { s with proxies := t.proxies, rehomed := t.rehomed }
        ∧ t.proxies = (s.proxies.map fun p => if p.reach = reach then { p with root := root } else p)
        ∧ (t.rehomed.find? fun y => y.1 == reach) = some (reach, root)
        ∧ ∀ r, r ≠ reach → (t.rehomed.find? fun y => y.1 == r) = s.rehomed.find? fun y => y.1 == r))

/-- A Basin move, whatever its direction and whoever waits, adds no entry; where nobody waits it keeps every entry that a queue
holds, with its bytes and its time stamp. The 8 oldest of a core basin above its mark move to the cluster, none of them stamped
later than one that stays; the 8 best of a die basin move to a cluster on which a group waits in DEQ on their queue; and from above
to the core on which the group waits, which takes the best of them. Where it goes beyond the rules it states the model's own choice:
log 64. -/
def Obligations.BasinKeepsEntries : Prop :=
  ∀ (dir : BasinDir) (s : State),
    let what := fun e : QEntry => (e.reach, e.qnum, e.e, e.stamp, e.producer)
    (Completes (.basinMove dir) s fun t => ∀ x ∈ t.entries, ∃ y ∈ s.entries, what x = what y)
      ∧ (NobodyWaits s → Completes (.basinMove dir) s fun t => (t.entries.map what).Perm (s.entries.map what))
      ∧ (∀ c : CoreId, 56 < (s.level (.core c)).length → (s.level (.cluster c.die c.cluster)).length + 8 ≤ 512 →
        Completes (.basinMove (.coreUp c)) s fun t => t = { s with entries := t.entries } ∧ (t.entries.map what).Perm (s.entries.map what)
          ∧ ∃ up stay, (s.level (.core c)).Perm (up ++ stay) ∧ up.length = 8 ∧ (∀ a ∈ up, ∀ b ∈ stay, a.stamp ≤ b.stamp)
            ∧ (t.level (.core c)).Perm stay
            ∧ (t.level (.cluster c.die c.cluster)).Perm
                (s.level (.cluster c.die c.cluster) ++ up.map fun e => { e with place := .cluster c.die c.cluster }))
      ∧ ∀ (q : BitVec 32) (sd : SReg) (x : QEntry),
        let c := s.g.core
        let mine := fun p => (s.level p).filter fun e => e.of s.greach q
        let above := s.above s.greach q c
        let die := mine (.die (((s.queue? s.greach q).map fun y => y.desc.home).getD 0))
        (∃ y ∈ s.reaches, y.id = s.greach) → s.g.ended = false → s.g.wait = some (.deq s.greach q sd) → s.g.waitEnd = .pending →
          (∀ g ∈ s.others, g.wait = none) → mine (.core c) = [] →
        ((mine (.cluster c.die c.cluster)).length < 8 → (s.level (.cluster c.die c.cluster)).length + 8 ≤ 512 →
          Completes (.basinMove (.clusterDown c.die c.cluster q)) s fun t => t = { s with entries := t.entries }
            ∧ (t.entries.map what).Perm (s.entries.map what)
            ∧ ∀ e ∈ (best die).take 8, { e with place := .cluster c.die c.cluster } ∈ t.entries)
        ∧ (x ∈ above → x.bad = false → (∀ y ∈ above, y = x ∨ x.before y = true) → (s.level (.core c)).length + 8 ≤ 64 → entryWexp x.e = 63 →
          Completes (.basinMove (.down c q)) s fun t => t.g.waitEnd = .satisfied ∧ t.g.sreg sd = x.e.w0 ∧ t.g.sreg (sd + 1) = x.e.w1
            ∧ t.g.sreg (sd + 2) = x.e.w2 ∧ t.g.sreg (sd + 3) = x.e.w3 ∧ t.g.tasklink = entryLink x.e
            ∧ (t.entries.map what).Perm ((s.entries.erase x).map what)
            ∧ ∀ e ∈ (best above).take 8, e ≠ x → { e with place := .core c } ∈ t.entries)

/-- A one-shot copy between scratchpads moves its row, each byte once, and posts its count; one whose size does not fit posts SHAPE
and moves nothing; a collective of two dies that adds INT32 values leaves the sums modulo 2^32 at both members. Where it goes beyond
the rules it states the model's own choices: log 51, 53, 58. -/
def Obligations.Copies : Prop :=
  ∀ (s : State) (p : PendS), Awaits p s → NobodyWaits s →
    (∀ (o : OneShot), (s.oneShots.find? fun x => x.id == p.op) = some o → s.enginesRun o.launch o.core = true →
      let only := fun t : State => t = { s with g := t.g, others := t.others, mem := t.mem, olds := t.olds, poison := t.poison
                                                stuck := t.stuck, oneShots := t.oneShots }
        ∧ t.oneShots = s.oneShots.filter fun x => x.id != p.op
      let v := s.oneShotView o
      (2 ^ 32 ≤ o.rowBytes * o.rows ∨ (o.rowBytes = 0 ∧ o.rows ≠ 0) → Completes (.oneShotCompletion p.op) s fun t =>
        only t ∧ Posted p (statusWord 7 0) s t ∧ SameBytes s t)
      ∧ ∀ x y n, o.rows = 1 → o.rowBytes = n → 0 < n → n < 2 ^ 32 → o.wrote = [] → (x + n ≤ y ∨ y + n ≤ x) → Memory.wf s.mem = true →
        (∀ k, k < n → (∃ q, s.engineHit v .eread (o.src + BitVec.ofNat 64 k) = .ok q (padLoc (x + k))) ∧ s.poisoned (x + k) 1 = false
          ∧ ∃ q, s.engineHit v .ewrite (o.dst + BitVec.ofNat 64 k) = .ok q (padLoc (y + k))) →
        Completes (.oneShotCompletion p.op) s fun t => only t ∧ Posted p (statusWord 0 n) s t ∧ OnlyBytes y n s t
          ∧ ∀ k, k < n → memGet (y + k) t.mem = s.opByte v (padLoc (x + k)))
      ∧ ∀ (c1 c2 : Coll) (u1 u2 : State) (d1 d2 : CDesc) (a1 a2 b1 b2 : Nat),
        let n := d1.count
        let at_ := fun (c : Coll) acc (a : Word) k => ∀ i, i < 4 * n →
          ∃ q, s.engineHit (s.collView c) acc (a + BitVec.ofNat 64 i) = .ok q (padLoc (k + i))
        let apart := fun x y => x + 4 * n ≤ y ∨ y + 4 * n ≤ x
        let here := fun (c : Coll) => (s.device.toNat, c.core.die)
        let given := fun (c : Coll) a => leNat ((List.range 4).map fun j => u2.opByte (u2.collView c) (padLoc (a + j)))
        s.colls.filter (fun c => c.launch == c1.launch && c.tag == c1.tag) = [c1, c2] →
        s.readColl c1 = .ok u1 d1 → u1.readColl c2 = .ok u2 d2 → c1.kind = .allReduce → c2.kind = .allReduce → d1.same = d2.same →
        d1.members = [here c1, here c2] → d2.members = d1.members → c1.core.die ≠ c2.core.die → d2.count = n → d1.type = 2 → d2.type = 2 →
        d1.redop = 0 → d2.redop = 0 → s.device ∉ s.lost → s.device ∉ s.recovering → n < 2 ^ 32 → p.op = c1.op → c2.op ≠ c1.op → (∀ q ∈ s.g.pendS, q.op ≠ c2.op) → c1.wrote = [] → c2.wrote = [] →
        (∀ a ∈ [d1.src, d1.dst, d2.src, d2.dst], collWindow a = true) → Memory.wf s.mem = true →
        at_ c1 .eread d1.src a1 → at_ c2 .eread d2.src a2 → at_ c1 .ewrite d1.dst b1 → at_ c2 .ewrite d2.dst b2 →
        apart a1 b1 → apart a1 b2 → apart a2 b1 → apart a2 b2 → apart b1 b2 →
        (∀ i, i < 4 * n → s.poisoned (a1 + i) 1 = false ∧ s.poisoned (a2 + i) 1 = false) →
          Completes (.collCompletion c1.launch c1.tag) s fun t => Posted p (statusWord 0 n) s t
            ∧ (∀ c, c ∈ t.colls ↔ c ∈ s.colls ∧ c.op ≠ c1.op ∧ c.op ≠ c2.op)
            ∧ ∀ i, i < n →
              memRead t.mem (b1 + 4 * i) 4 = (given c1 (a1 + 4 * i) + given c2 (a2 + 4 * i)) % 2 ^ 32
              ∧ memRead t.mem (b2 + 4 * i) 4 = (given c1 (a1 + 4 * i) + given c2 (a2 + 4 * i)) % 2 ^ 32

/-- A channel takes the next record when it is valid, under the next number, and stops at one that is not; a completed record
advances SEQ when it is the next, and one that fails stops the channel with its code and number. Where it goes beyond the rules it
states the model's own choices: log 54, 55. -/
def Obligations.Records : Prop :=
  ∀ (s u v w : State) (c : Channel) (t0 : CTail) (bs : List Byte) (r : Rec) (ms : List Move) (n m : Nat),
    let takes := s.engineRead (s.opView (channelTug c.handle) (.op t0.op) t0.grp c.launch t0.team t0.core) c.launch 64 c.pos = .ok u bs
    let view := s.recView c r
    s.channel? c.handle = some c → NobodyWaits s → c.stopped = none →
      (c.seeking = some t0 → c.walking = true → s.enginesRun c.launch t0.core = true →
        s.tugLoad (handleDie c.handle) (handleCluster c.handle) (c.handle.getLsbD 3) < 32 → c.head ≠ none → c.pos ≠ 0 → c.pos.toNat % 64 = 0 → takes →
        ((bs.getD 8 0).getLsbD 0 = true → Completes (.recordTake c.handle) s fun t => ∃ d : Channel, t.channel? c.handle = some d
          ∧ d.issued = c.issued + 1 ∧ d.taken = c.taken ++ [(c.pos, c.issued + 1)] ∧ d.pos = BitVec.ofNat 64 (field bs 0 8)
          ∧ d.running = c.running ++ [{ num := c.issued + 1, addr := c.pos.toNat, bytes := bs, team := t0.team, core := t0.core,
                                         grp := t0.grp, wrote := [], stage := none }]
          ∧ d.seq = c.seq ∧ d.stopped = none)
        ∧ ((bs.getD 8 0).getLsbD 0 = false → Completes (.recordTake c.handle) s fun t => ∃ d : Channel, t.channel? c.handle = some d
          ∧ d.stopped = some (4, 0) ∧ d.walking = false ∧ d.running = c.running ∧ d.issued = c.issued))
      ∧ (r ∈ c.running → (∀ x ∈ c.running, x.num = r.num → x = r) → s.enginesRun c.launch r.core = true → r.stage = none → byteAt r.bytes 10 = 0 → byteAt r.bytes 9 ≠ 0 →
        (∃ z, s.engineRead view c.launch 64 (BitVec.ofNat 64 r.addr) = .ok z r.bytes) →
        let clear := litMoves (BitVec.ofNat 64 r.addr + 8) [0]
        let done := fun t : State => ∃ d : Channel, t.channel? c.handle = some d ∧ d.running = (c.running.filter fun x => x.num != r.num)
          ∧ d.issued = c.issued
        (s.plan view c.launch r.bytes = .moves u ms → u.moves view c.launch ms r.wrote = .done v 0 n →
          v.moves view c.launch clear = .done w 0 m → Completes (.recordCompletion c.handle r.num) s fun t =>
            done t ∧ t.mem = w.mem ∧ ∃ d : Channel, t.channel? c.handle = some d ∧ d.stopped = none
              ∧ (r.num = c.seq + 1 → c.done = [] → d.seq = r.num))
        ∧ ∀ code, code ≠ 0 → s.plan view c.launch r.bytes = .err u code →
          u.moves view c.launch clear = .done w 0 m → Completes (.recordCompletion c.handle r.num) s fun t =>
            done t ∧ ∃ d : Channel, t.channel? c.handle = some d ∧ d.stopped = some (code, r.num) ∧ d.walking = false)

/-- A conversion begins with the new side in the descriptor, which every slot attached to it takes; a slab is copied, and committed
unless it has been written meanwhile; the last step gives the old side up and posts the number of slabs. A K-step writes every word
of its tile with the sum of R61 and nothing else, and the last one ends its command under the next MSEQ; the engine waits among the
LDFE waiters of an entry's header that is empty; it empties a full one, or takes the one that it has been served, copies the entry's
tile into the slot, and fills the credit word. Where it goes beyond the rules it states the model's own choices: log 61, 63. -/
def Obligations.EngineSteps : Prop :=
  (∀ (s u v w : State) (c : Conv) (bs : List Byte) (n m : Nat) (b : Byte) (p : PendS),
    let view := s.convView c
    let at_ := BitVec.ofNat 64 c.attach
    let d := (descOf bs).begin_ c.new c.tag
    let slots := fun (t : State) d => ∀ x ∈ t.teams, t.reachOf x.launch = s.reachOf c.launch → ∀ sh, some sh ∈ x.shapes →
      sh.attach = c.attach → sh.desc = d
    s.conv? c.id = some c → s.enginesRun c.launch c.core = true →
      (c.running = false → (s.convs.filter fun x => x.die == c.die && x.running).length < 8 →
        (s.convs.find? fun x => x.die == c.die && !x.running) = some c → c.attach % 64 = 0 → c.new % 64 = 0 → c.attach < 2 ^ 56 →
        c.new < 2 ^ 56 → s.engineRead view c.launch 64 at_ = .ok u bs → convError c bs = none →
        u.moves view c.launch (litMoves at_ (descBytes d)) = .done v 0 n →
        v.moves view c.launch (litMoves (BitVec.ofNat 64 d.dir) (List.replicate ((d.slabs + 63) / 64 * 8) 0)) = .done w 0 m →
        Completes (.dredgerBegin c.id) s fun t => t.conv? c.id = some { c with desc := d, running := true, slabs := d.slabs }
          ∧ t.mem = w.mem ∧ slots t d)
      ∧ (c.running = true → c.slab < c.slabs →
        (c.copied = false → State.copySlab (s.onConv c.id fun c => { c with dirty := c.dirty.filter (· != c.slab) }) c = .done u 0 n →
          Completes (.slabCommit c.id) s fun t =>
            t.conv? c.id = some { c with copied := true, dirty := c.dirty.filter (· != c.slab) } ∧ t.mem = u.mem)
        ∧ (c.copied = true → c.slab ∈ c.dirty → Completes (.slabCommit c.id) s fun t => t = { s with convs := t.convs }
          ∧ t.conv? c.id = some { c with copied := false, attempts := c.attempts + 1 })
        ∧ (c.copied = true → c.slab ∉ c.dirty →
          s.engineRead view c.launch 1 (BitVec.ofNat 64 (c.desc.dir + c.slab / 8)) = .ok u [b] →
          u.moves view c.launch (litMoves (BitVec.ofNat 64 (c.desc.dir + c.slab / 8)) [b ||| BitVec.ofNat 8 (2 ^ (c.slab % 8))]) = .done v 0 n →
          Completes (.slabCommit c.id) s fun t =>
            t.conv? c.id = some { c with slab := c.slab + 1, attempts := 0, copied := false } ∧ t.mem = v.mem))
      ∧ (c.running = true → c.slabs ≤ c.slab → Awaits p s → p.op = c.id → NobodyWaits s →
        s.moves view c.launch (litMoves at_ (descBytes c.desc.finish)) = .done u 0 n →
        Completes (.dredgerComplete c.id) s fun t => t.conv? c.id = none ∧ t.g.sreg p.reg = statusWord 0 c.slabs ∧ t.mem = u.mem
          ∧ slots t c.desc.finish))
    ∧ (∀ (lid : BitVec 32) (idx : Nat) (s : State) (t0 : Team) (c : MCmd) (rest : List MCmd) (r : Word × Word),
    let tile := cmdTile c.word
    let word := fun (z : State) i j => memRead z.mem (tileKey t0.core tile (4 * (128 * i + j))) 4
    let zero := c.step = 0 ∧ c.word.getLsbD 38 = true
    let z := if zero then (s.writeTile t0.core tile fun _ _ => 0).healTile t0.core tile else s
    let n := c.acquired
    let e := s.regionKey t0 + ringEntry r c.fmtA c.fmtB n
    let slot := slotKey t0.core (cmdA c.word n) 0
    let bytes := tileBytes c.fmtA
    OnlyTeam lid idx t0 s → t0.queue = c :: rest → s.matrixRuns t0 = true → Memory.wf s.mem = true →
      (c.ring = none → z.stepPoison t0 c c.step = [] → NobodyWaits s → s.liveOf t0 ≠ [] →
        Completes (.kStep lid idx) s fun t => OnlyBytes (tileKey t0.core tile 0) 65536 s t
          ∧ (∀ i j, i < 128 → j < 128 → word t i j = stepElem (z.stepIn t0 c c.step) i j (word z i j) % 2 ^ 32)
          ∧ OnlyTeam lid idx (if c.step + 1 < cmdSteps c.word then { t0 with queue := { c with step := c.step + 1 } :: rest }
            else { t0 with mseq := t0.mseq + 1, queue := rest }) t
          ∧ t = { s with mem := t.mem, olds := t.olds, poison := t.poison, teams := t.teams })
      ∧ (c.ring = some r → n < cmdSteps c.word → c.granted = false → e ∉ s.full → NobodyWaits s → Completes (.ringEntryAcquire lid idx) s fun t =>
          t = { s with teams := t.teams, fresh := s.fresh + 1 }
            ∧ OnlyTeam lid idx { t0 with queue := { c with waits := some (ringEntry r c.fmtA c.fmtB n, s.fresh) } :: rest } t)
      ∧ (c.ring = some r → ringA r = true → ringB r = false → n < cmdSteps c.word →
        (∀ k, k < n → c.step ≤ k → cmdA c.word k ≠ cmdA c.word n ∧ cmdB c.word k ≠ cmdA c.word n ∧ cmdA c.word n ∉ scaleSlots c) →
        (c.granted = false → e ∈ s.full) → e + 8 ∉ s.full →
        NobodyWaits s → e + 64 + bytes ≤ slot → (∀ k, k < bytes → s.poisoned (e + 64 + k) 1 = false) →
        let read := if c.granted then s else s.grantHeader t0 c e
        Completes (.ringEntryAcquire lid idx) s fun t => e + 8 ∈ t.full
          ∧ (∀ x, x ≠ e + 8 → (x ∈ t.full ↔ x ∈ s.full ∧ ¬(x = e ∧ c.granted = false)))
          ∧ memRead t.mem (e + 8) 8 = (c.ticket.toNat + n * 2 ^ 32) % 2 ^ 64
          ∧ (∀ k, k < bytes → memGet (slot + k) t.mem = read.cmdByte t0 c (e + 64 + k)
            ∧ ((∀ o ∈ s.olds, o.key ≠ e + 64 + k) → memGet (slot + k) t.mem = memGet (e + 64 + k) s.mem))
          ∧ OnlyTeam lid idx { t0 with queue := { c with acquired := n + 1, waits := none, granted := false } :: rest } t
          ∧ t = { s with mem := t.mem, olds := t.olds, full := t.full, poison := t.poison, teams := t.teams }))

/-- The watchdog freezes a group that has run out of its limit; a trap-halted group resumes at TRAPPC with its live lanes of TRAPEM
and a frozen one does not; a halted group is removed with its weight lost; a failed test fences its cluster, a passed one is
recorded; a device under recovery is lost when its window ends, and what stood for it goes on when it recovers; this device itself
rejoins with no translation left from before. Where it goes beyond the rules it states the model's own choices: log 27, 44, 50, 80,
81. -/
def Obligations.RecoveryEvents : Prop :=
  ∀ (s : State) (die cluster windowMs : Nat) (dev : BitVec 8) (gid : Word) (t0 : Team) (x : Group),
    let k := s.g.key
    let on := fun c : CoreId => c.die = die ∧ c.cluster = cluster
    let free := dev ≠ s.device ∧ windowMs ≤ 500 ∧ dev ∉ s.lost ∧ dev ∉ s.recovering
    let own := globalKey s.device.toNat 0
    let ok : Reply := { code := 0, words := [], bytes := [] }
    let awake := fun g : Group => if g.suspended = some dev then { g with suspended := none } else g
    (s.g.ended = false → s.g.halted = none → s.wdLimit ≤ s.g.watchdog → s.g.twin = none → Completes (.watchdog k) s fun t =>
        SameOthers s t ∧ t.g.halted = some .frozen ∧ t.g.port = none ∧ t.g.pc = s.g.pc ∧ t.g.v = s.g.v ∧ t.g.s = s.g.s
          ∧ t = { s with g := t.g, others := t.others, events := t.events, blackBox := t.blackBox }
          ∧ ∃ e, t.events = s.events ++ [e] ∧ e.kind = .watchdog ∧ e.gid = s.g.gid)
      ∧ ((∀ g ∈ s.groups, g.gid = gid → g.ended = true) → Answers (.groupResume gid) 1 s)
      ∧ (s.g.ended = false → k ≠ 0 → s.g.halted = some .frozen → Answers (.groupResume s.g.gid) 1 s)
      ∧ (s.g.ended = false → k ≠ 0 → s.g.halted = some .trap → s.g.twin = none → Completes (.groupResume s.g.gid) s fun t =>
        SameOthers s t ∧ t = { s with g := t.g, others := t.others, replies := ok :: s.replies }
          ∧ t.g = { s.g with halted := none, pc := s.g.trapPc, em := s.g.trapEm &&& s.g.live, watchdog := 0 })
      ∧ (s.g.ended = false → s.g.halted ≠ none → s.g.twin = none → s.g.holds = [] → (s.core s.g.core).claims = [] →
        s.teamOf? s.g = some t0 → t0.bars = [] → x ∈ s.others → x.ended = false → t0.holds x = true → (∀ y ∈ s.others, y.key ≠ k) →
        Completes (.launchRemoval s.g.launch (some k)) s fun t => t.g.ended = true ∧ t.g.live = 0 ∧ t.g.em = 0 ∧ t.g.qw = 0
          ∧ t.others = s.others ∧ SameBytes s t ∧ t.returns = s.returns ++ (if s.g.qw = 0 then [] else
            [{ reach := s.greach, domain := s.g.domain, units := s.g.qw.toNat, lost := true, src := none }]))
      ∧ ((die, cluster) ∈ s.fenced ∨ s.testEvery = 0 → ∀ pass, exec (.infieldTest die cluster pass) s = .next s)
      ∧ ((die, cluster) ∉ s.fenced → s.testEvery ≠ 0 → Completes (.infieldTest die cluster true) s fun t => t.fenced = s.fenced
        ∧ (die, cluster, s.tick) ∈ t.tested ∧ t = { s with g := t.g, others := t.others, fresh := t.fresh, tested := t.tested
                                                           hosted := t.hosted, icache := t.icache }
        ∧ t.g.em = s.g.em ∧ t.g.pc = s.g.pc ∧ ∀ g ∈ t.groups, on g.core → g.key ≠ 0 → g.going = true → g.runLen = 0 ∧ g.port = none)
      ∧ ((die, cluster) ∉ s.fenced → s.testEvery ≠ 0 → (∀ y ∈ s.teams, y.at_ = .resident → on y.core → s.effective y.launch ≠ .held) →
        Completes (.infieldTest die cluster false) s fun t => (die, cluster) ∈ t.fenced
          ∧ (∀ y ∈ t.teams, y.at_ = .resident → ¬on y.core) ∧ ∃ e ∈ t.events, e.kind = .suspectInterval)
      ∧ (500 < windowMs ∨ (dev ≠ s.device ∧ ¬free) → Answers (.fabricRecovery dev windowMs) 1 s)
      ∧ (free → exec (.fabricRecovery dev windowMs) s = .next { s with recovering := dev :: s.recovering, replies := ok :: s.replies })
      ∧ (dev = s.device → windowMs ≤ 500 → exec (.fabricRecovery dev windowMs) s = .next { s with apart := true, replies := ok :: s.replies })
      ∧ (¬(dev = s.device ∧ s.apart = true) → exec (.recoveredWithinWindow dev) s = .next { s with
          recovering := s.recovering.filter (· != dev), g := awake s.g, others := s.others.map awake })
      ∧ (dev = s.device → s.apart = true → Completes (.recoveredWithinWindow dev) s fun t => SameBytes s t
        ∧ t = { s with g := t.g, others := t.others, apart := false, stalePte := t.stalePte }
        ∧ (∀ p, p ∈ t.stalePte ↔ p ∈ s.stalePte ∧ (p.1 < own ∨ own + 2 ^ 52 ≤ p.1)) ∧ ∀ g ∈ t.groups, ∀ h ∈ g.held, h.again = true)
      ∧ (dev ∉ s.recovering → exec (.recoveryWindowEnd dev) s = .next s)
      ∧ (dev ∈ s.recovering → (∀ g ∈ s.groups, g.drains = [] ∧ g.side = [] ∧ g.heldOps = []) →
        Completes (.recoveryWindowEnd dev) s fun t => dev ∈ t.lost ∧ dev ∉ t.recovering ∧ (∀ g ∈ t.groups, g.suspended ≠ some dev)
          ∧ ((∀ y ∈ s.roots, y.remote = []) → t.outbox = s.outbox.filter fun m => m.dest != dev) ∧ ∀ p ∈ t.proxies, p.root ≠ dev)

/-- The debug requests: HALT and RESUME act on every group of a launch; WRITECODE writes one word at its home; INVAL touches caches
only; registers are read and written of halted groups; tiles, mailboxes, trace bytes and replays answer as R347, R353, R355 and R356
say. Where it goes beyond the rules it states the model's own choices: log 37, 83. -/
def Obligations.DebugRequests : Prop :=
  ∀ (s : State) (lid : BitVec 32) (reach : BitVec 4) (a val : Word) (w : BitVec 32) (cores : List CoreId) (gid : Word) (sel : StateSel)
    (r : SReg) (idx tile row n : Nat) (vals : List Word) (bs : List Byte) (who : Submitter) (rec : List (Nat × Nat × List Packet)) (free : Bool)
    (loc : Loc) (t0 : Team),
    let d := LaunchDesc.ofBytes bs
    let mapped := [Acc.fetch, .read, .rmw].findSome? fun acc => (s.lookHit reach 0 acc a.toNat).loc?
    let ok : Reply := { code := 0, words := [], bytes := [] }
    let mine := fun g : Group => g.launch == lid && !g.ended && g.key != 0
    let stands := s.g.halted ≠ none ∨ s.g.dbgStopped = true ∨ s.g.preempted = true ∨ s.g.spilled = true
    let here := s.g.ended = false ∧ s.g.key ≠ 0
    let g := s.g.gid
    let nobody := ∀ x ∈ s.groups, x.gid = gid → x.ended = true ∨ x.key = 0
    let own := fun t : State => SameOthers s t ∧ t = { s with g := t.g, others := t.others, replies := t.replies }
    (s.isLive lid = false → Answers (.halt lid) 3 s ∧ Answers (.resume lid) 3 s)
      ∧ (s.isLive lid = true → (Completes (.halt lid) s fun t => t = { s with g := t.g, others := t.others, fresh := t.fresh, icache := t.icache,
                                                                                        replies := ok :: s.replies }
          ∧ (∀ x ∈ t.groups, mine x = true → x.dbgHalt = true) ∧ ∀ x ∈ s.groups, mine x = false → x ∈ t.groups)
        ∧ exec (.resume lid) s = .next { s with
          g := if s.g.launch = lid then { s.g with dbgHalt := false } else s.g
          others := s.others.map fun x => if x.launch = lid then { x with dbgHalt := false } else x, replies := ok :: s.replies })
      ∧ (a.toNat % 4 ≠ 0 ∨ 2 ^ 56 ≤ a.toNat ∨ mapped = none → Answers (.writecode reach a w) 1 s)
      ∧ (a.toNat % 4 = 0 → a.toNat < 2 ^ 56 → mapped = some loc → Memory.wf s.mem = true →
        Completes (.writecode reach a w) s fun t => memRead t.mem loc.key 4 = w.toNat ∧ OnlyBytes loc.key 4 s t
          ∧ t = { s with mem := t.mem, olds := t.olds, icache := t.icache, keyTags := t.keyTags, poison := t.poison, replies := ok :: s.replies })
      ∧ (Completes (.inval cores) s fun t => t = { s with icache := t.icache, replies := ok :: s.replies })
      ∧ (nobody → Answers (.readState gid sel) 3 s ∧ Answers (.writeState gid sel val) 3 s ∧ Answers (.readout gid) 3 s
        ∧ Answers (.writein gid vals) 3 s)
      ∧ (here → ¬stands → Answers (.readState g sel) 2 s ∧ Answers (.writeState g sel val) 2 s)
      ∧ (here → stands → exec (.readState g (.s r)) s = .next (s.reply 0 [s.g.sreg r]) ∧ exec (.readState g .pc) s = .next (s.reply 0 [s.g.pc]))
      ∧ (here → stands → s.g.twin = none → (Completes (.writeState g (.s r) val) s fun t => own t ∧ t.replies = ok :: s.replies ∧ t.g = s.g.setS r val)
        ∧ Completes (.writeState g .pc val) s fun t => own t ∧ t.replies = ok :: s.replies ∧ t.g = { s.g with pc := val &&& ~~~3#64 })
      ∧ (here → s.g.twin = none → (Completes (.readout g) s fun t => own t ∧ t.g = { s.g with outv := false }
          ∧ t.replies = { code := 0, words := s.g.dbgout.toList, bytes := [] } :: s.replies)
        ∧ Completes (.writein g vals) s fun t => own t ∧ t.replies = ok :: s.replies ∧ t.g = { s.g with inv := true, dbgin := t.g.dbgin }
          ∧ ∀ i (h : i < 16), t.g.dbgin[i] = vals.getD i s.g.dbgin[i])
      ∧ (s.team? lid idx = some t0 → (t0.at_ = .resident ∨ t0.at_ = .swapped) →
        (tile ∉ t0.tiles → Answers (.readtile lid idx tile row) 4 s)
        ∧ (tile ∈ t0.tiles → (∃ c ∈ t0.queue, cmdTile c.word = tile) → Answers (.readtile lid idx tile row) 1 s)
        ∧ (tile ∈ t0.tiles → (∀ c ∈ t0.queue, cmdTile c.word ≠ tile) → exec (.readtile lid idx tile row) s = .next (s.reply 0
          ((List.range 128).map fun j => BitVec.ofNat 64 (memRead s.mem (tileKey t0.core tile (4 * (128 * row + j))) 4)))))
      ∧ (s.team? lid idx = none → Answers (.readtile lid idx tile row) 3 s)
      ∧ Answers (.replayStart bs lid who rec true free) 1 s
      ∧ (lid ≠ 0 → lid ≠ 0xFFFFFFFF → s.launch? lid = none → launchZeros bs = true → s.malformed d = false → s.neverFits d = false →
        d.cls ≠ .held → Completes (.replayStart bs lid who rec false free) s fun t => t.replies = ok :: s.replies
          ∧ ∃ l : Launch, t.launches = s.launches ++ [l] ∧ l.lid = lid ∧ l.desc = d ∧ l.replay = some (rec, free))
      ∧ ((s.traceOf idx row).lost = 0 → Completes (.traceBufferDrain idx row n) s fun t =>
        t = { s with traces := t.traces, replies := { code := 0, words := [], bytes := (s.traceOf idx row).bytes.take n } :: s.replies }
          ∧ t.traceOf idx row = { s.traceOf idx row with bytes := (s.traceOf idx row).bytes.drop n })

/-- Links, routes, page tables and messages: the 16th failed replay takes a link down; a route changes in each class that is idle
towards the destination; an entry of the page table changes in place and is stale until a shootdown of its range, which leaves no
old entry of any level; a message applies its access at its home, or is dropped where it is not authentic; RDMA reaches registered
regions; a call of another system is answered with its header; a call to the wharf is answered by filling its reply word. Where it
goes beyond the rules it states the model's own choices: log 16, 44, 45, 70, 85, 87. -/
def Obligations.FabricEvents : Prop :=
  ∀ (s : State) (link : BitVec 4) (dest src : BitVec 8) (reach : BitVec 4) (root table idx va len pa key region off : Nat) (val : Word)
    (bs : List Byte) (op : FabOp) (x : Reach) (ver : BitVec 8) (rop : BitVec 16) (rlen : BitVec 32) (seq pid : Word) (zeros : Bool)
    (qn : BitVec 32) (code : BitVec 6) (result : BitVec 32) (e : QEntry) (w : Nat) (ls : List Loc),
    let ok : Reply := { code := 0, words := [], bytes := [] }
    let n := ((s.replays.find? fun x => x.1 == link).map Prod.snd).getD 0 + 1
    let rest := s.replays.filter fun x => x.1 != link
    let up := link.toNat < 12 ∧ link ∉ s.linksDown
    let pte := globalKey s.device.toNat (table + 8 * idx)
    let home := s.homeLoc reach pa key
    let ptKey := globalKey s.device.toNat
    let carries := s.reach? reach = some x ∧ x.fabricKey ≠ none
    let table? := fun v => pteBit v 0 = true ∧ pteSize v = 3
    let quiet := fun y : Group => y.ownBytes.any Held.again = false
    let header := fun (st n : Nat) (r : Reply) => r.code = st ∧ r.words = [] ∧ r.bytes.length = 32 + n ∧ byteAt r.bytes 0 = 1 ∧ byteAt r.bytes 1 = st
      ∧ field r.bytes 2 2 = (rop ||| 0x8000).toNat ∧ field r.bytes 4 4 = n ∧ field r.bytes 8 8 = seq.toNat ∧ field r.bytes 16 8 = pid.toNat
      ∧ field r.bytes 24 8 = 0
    (¬up → ∀ good, exec (.flitReplay link good) s = .next s)
      ∧ (up → exec (.flitReplay link true) s = .next { s with replays := rest }
        ∧ (n < 16 → exec (.flitReplay link false) s = .next { s with replays := (link, n) :: rest })
        ∧ (16 ≤ n → Completes (.flitReplay link false) s fun t =>
          t = { s with replays := rest, linksDown := link :: s.linksDown, faultQueue := t.faultQueue, blackBox := t.blackBox }
            ∧ (∃ f, t.faultQueue = s.faultQueue ++ [f] ∧ f.link = some link) ∧ ∃ b, t.blackBox.head? = some b ∧ b.type = 7))
      ∧ (12 ≤ link.toNat → Answers (.routeTableWrite dest link) 1 s)
      ∧ (link.toNat < 12 → s.routesNew = [] → Completes (.routeTableWrite dest link) s fun t =>
        t = { s with routes := t.routes, routesNew := t.routesNew, replies := ok :: s.replies }
          ∧ (∀ c, c < 6 → (∃ m ∈ s.outbox, m.dest = dest ∧ m.cls = c ∧ m.flying = true) →
            t.route? c dest = s.route? c dest ∧ (c, dest, link) ∈ t.routesNew)
          ∧ (∀ c, c < 6 → (∀ m ∈ s.outbox, m.dest = dest → m.cls = c → m.flying = false) →
            t.route? c dest = some link ∧ (c, dest, link) ∉ t.routesNew)
          ∧ ∀ c d, d ≠ dest → t.route? c d = s.route? c d)
      ∧ (Memory.wf s.mem = true → Completes (.pteUpdate root table idx val) s fun t => memRead t.mem pte 8 = val.toNat
        ∧ OnlyBytes pte 8 s t ∧ t = { s with g := t.g, others := t.others, mem := t.mem, poison := t.poison, stalePte := t.stalePte }
        ∧ (∀ y ∈ s.groups, quiet y → y ∈ t.groups)
        ∧ (memRead s.mem pte 8 ≠ val.toNat → (pte, BitVec.ofNat 64 (memRead s.mem pte 8)) ∈ t.stalePte))
      ∧ (s.reach? reach = none → Answers (.shootdown reach va len) 1 s)
      ∧ (s.reach? reach = some x → Completes (.shootdown reach va len) s fun t =>
        t = { s with g := t.g, others := t.others, stalePte := t.stalePte, replies := ok :: s.replies } ∧ (∀ p ∈ t.stalePte, p ∈ s.stalePte)
          ∧ { t.g with held := s.g.held, drains := s.g.drains } = s.g
          ∧ (t.g.held.map fun h => (h.va, h.val, h.epoch, h.po)) = (s.g.held.map fun h => (h.va, h.val, h.epoch, h.po))
          ∧ (∀ y ∈ s.groups, s.reachOf y.launch ≠ reach → quiet y → y ∈ t.groups)
          ∧ (s.greach = reach → ∀ h ∈ t.g.held, ∀ a, h.va = some a → va ≤ a → a < va + len → a < 2 ^ 56 → h.again = true)
          ∧ ∀ a, va ≤ a → a < va + len → a < 2 ^ 56 → ∀ p ∈ t.stalePte,
            let l2 := x.root + 8 * (a / 2 ^ 42)
            p.1 ≠ ptKey l2 ∧ ∀ v2 ∈ s.pteValues l2, table? v2 →
              let l1 := ptePa v2 + 8 * (a / 2 ^ 30 % 2 ^ 12)
              p.1 ≠ ptKey l1 ∧ ∀ v1 ∈ s.pteValues l1, table? v1 → p.1 ≠ ptKey (ptePa v1 + 8 * (a / 2 ^ 18 % 2 ^ 12)))
      ∧ (src ∈ s.lost → ∀ good, exec (.fabricMessage src reach op good) s = .next s)
      ∧ (src ∉ s.lost → ∀ good, good = false ∨ s.hears reach op = false → Completes (.fabricMessage src reach op good) s fun t =>
        t = { s with blackBox := t.blackBox } ∧ ∃ b, t.blackBox.head? = some b ∧ b.type = 8 ∧ b.detail = src.setWidth 64)
      ∧ (src ∉ s.lost → carries → Memory.wf s.mem = true → Completes (.fabricMessage src reach (.write pa key bs) true) s fun t =>
        BytesAt home.key bs t ∧ OnlyBytes home.key bs.length s t
          ∧ t = { s with mem := t.mem, olds := t.olds, icache := t.icache, keyTags := t.keyTags, poison := t.poison, flitsIn := t.flitsIn
                         replies := ok :: s.replies })
      ∧ (src ∉ s.lost → carries → s.poisoned home.key len = false → Completes (.fabricMessage src reach (.read pa key len) true) s fun t =>
        t = { s.reply 0 [] ((List.range len).map (s.homeByte home)) with flitsIn := t.flitsIn })
      ∧ (ver ≠ 1 ∨ zeros = false → Completes (.remoteCall ver rop rlen seq pid zeros) s fun t => ∃ r, header 1 0 r
        ∧ t = { s with replies := r :: s.replies })
      ∧ (ver = 1 → zeros = true → Completes (.remoteCall ver rop rlen seq pid zeros) s fun t => ∃ st n r, st ∈ [0, 2, 3] ∧ header st n r
        ∧ t = { s with requests := s.requests ++ [{ op := rop, len := rlen, seq := seq, pid := pid }], replies := r :: s.replies })
      ∧ ((∀ x y, s.reach? reach = some x → x.regions[region]? = some y → y.2 < off + bs.length) →
        Answers (.rdmaWrite reach region off bs) 1 s)
      ∧ (s.regionVa reach region off bs.length = some va → s.dmaLocs reach .ewrite va bs.length = some ls →
        (∀ i l, ls[i]? = some l → l.key = w + i ∧ ∀ p, l.pte = some p → ptKey p < w ∨ w + bs.length ≤ ptKey p) → Memory.wf s.mem = true →
        Completes (.rdmaWrite reach region off bs) s fun t => BytesAt w bs t ∧ t.replies = ok :: s.replies
          ∧ ∀ a, a < w ∨ w + bs.length ≤ a → (∀ l ∈ ls, ∀ p, l.pte = some p → ptKey p ≠ a) → memGet a t.mem = memGet a s.mem)
      ∧ (s.regionVa reach region off len = some va → s.dmaLocs reach .eread va len = some ls →
        (∀ l ∈ ls, s.poisoned l.key 1 = false) → Completes (.rdmaRead reach region off len) s fun t =>
          t.replies = { code := 0, words := [], bytes := ls.map fun l => s.homeByte l 0 } :: s.replies
          ∧ t = { s with mem := t.mem, replies := t.replies })
      ∧ ((∀ y ∈ s.queues, y.reach = reach → y.desc.qnum = qn → y.desc.wharf = false) →
        exec (.wharfReply reach qn code result bs) s = .next s)
      ∧ ((∃ y ∈ s.queues, y.reach = reach ∧ y.desc.qnum = qn ∧ y.desc.wharf = true) → s.calls = [e] → e.reach = reach → e.qnum = qn →
        let call := ({ s with calls := [] } : State)
        call.replyWord e (call.callBlock e) = some w → blockBad (call.callBlock e) = false → NobodyWaits s → Memory.wf s.mem = true →
        Completes (.wharfReply reach qn code result []) s fun t => w ∈ t.full ∧ t.calls = []
          ∧ memRead t.mem w 8 = (statusWord code.toNat result.toNat).toNat ∧ OnlyBytes w 8 s t
          ∧ t.returns = s.returns ++ (if entryUnits e.e = 0 then [] else
            [{ reach := reach, domain := entryDomain e.e, units := entryUnits e.e, lost := false, src := none }]))

/-- Reset keeps what standby power and the fuses keep and nothing else, and a chain that fails leaves the device down with what the
stages have measured; attestation, keys, the alarm, management and power act as R382–R390 say; a device that the alarm has stopped
takes no event but its reset. Where it goes beyond the rules it states the model's own choices: log 8, 15, 16, 45, 84, 86, 88. -/
def Obligations.SecurityAndPower : Prop :=
  ∀ (s : State) (stages imgs : List StageImage) (f : StageFault) (m watts celsius : Nat) (ms : List Nat) (reach : BitVec 4)
    (nonce : BitVec 256) (x : Reach) (key k : BitVec 7) (fk v : BitVec 256) (peer : BitVec 8) (report wrapped : List Byte) (offer : KeyOffer)
    (cause : BitVec 5) (val : Word) (image : StageImage) (off : BitVec 8) (rest : List Input) (i : Input),
    let ok : Reply := { code := 0, words := [], bytes := [] }
    let stopped := sysCoresAt .stopped .stopped
    let kept := { State.reset with
      tick := s.tick, fresh := s.fresh, inputs := s.inputs, device := s.device, blackBox := s.blackBox, almcause := s.almcause
      almcount := s.almcount, staged := s.staged, fuses := s.fuses : State }
    let chain := bootChain s.svnMin s.staged stages 3 1 romExpects
    let down := fun (detail : Nat) (measured : List (BitVec 512)) (t : State) =>
      t = { kept with down := true, sysCores := stopped, measures := measured, blackBox := t.blackBox }
        ∧ ∃ b, t.blackBox.head? = some b ∧ b.type = 2 ∧ b.detail = BitVec.ofNat 64 detail
    let failed := fun (f : StageFault) (passed : List StageImage) => down (f.stage + 256 * f.cause)
      (passed.map stageMeasure ++ if f.stage = 1 then [] else (f.image.map stageMeasure).toList)
    let modules := fun l : List Nat => ∃ m, m ∈ [2 ^ 34, 2 ^ 35, 2 ^ 36, 2 ^ 37] ∧ l = List.replicate 64 m
    let refused := s.zeroised = true ∨ peer ∈ s.lost ∨ reportSigned peer report = false ∨ offerSigned peer offer = false
    let fits := (∀ j, j < x.minSvn.length → x.minSvn.getD j 0 ≤ field report (12 + 2 * j) 2)
      ∧ ∀ j, j < 3 → BitVec.ofNat 512 (field report (20 + 64 * j) 64) ∈ x.accepted
    let agreed := Config.x448 (Config.ephemeral s.tick) offer.pub
    (m ∈ [2 ^ 34, 2 ^ 35, 2 ^ 36, 2 ^ 37] → chain = (imgs, none) → Completes (.deviceReset stages (List.replicate 64 m)) s fun t =>
        t = { kept with
          module := m, svns := imgs.map StageImage.svn, measures := imgs.map fun j => Config.shake256 (stageBytes j)
          stages := imgs.map fun j => (j.stage, j.load, j.image.take j.len), sysCores := sysCoresAt .runs .runs })
      ∧ (chain = (imgs, some f) → f.stage ≠ 3 ∨ modules ms → Completes (.deviceReset stages ms) s (failed f imgs))
      ∧ (chain = (imgs, none) → ¬modules ms → Completes (.deviceReset stages ms) s (down 0x502 ((imgs.map stageMeasure).take 2)))
      ∧ ((s.zeroised = true ∨ s.reach? reach = none) → Answers (.attestationRequest reach nonce) 1 s)
      ∧ (s.zeroised = false → s.reach? reach = some x → exec (.attestationRequest reach nonce) s = .next (s.reply 0 []
        (s.report384 x nonce ++ leBytes (Config.ed448Sign s.device.toNat (s.report384 x nonce)).toNat 114)))
      ∧ (refused ∨ s.reach? reach = none → Answers (.migrationKeyTransfer reach peer report offer) 1 s)
      ∧ (¬refused → s.reach? reach = some x → offer.sealed = none →
        (fits → Completes (.migrationKeyTransfer reach peer report offer) s fun t =>
          t = { s with rehomed := t.rehomed, replies := { code := 0, words := [], bytes := Config.wrapKeys agreed x.keyBytes } :: s.replies }
            ∧ (t.rehomed.find? fun y => y.1 == reach) = some (reach, peer))
        ∧ (¬fits → Answers (.migrationKeyTransfer reach peer report offer) 1 s))
      ∧ (¬refused → s.reach? reach = some x → offer.sealed = some wrapped →
        Config.unwrapKeys agreed wrapped = leBytes fk.toNat 32 ++ (leBytes k.toNat 1 ++ leBytes v.toNat 32) →
        Completes (.migrationKeyTransfer reach peer report offer) s fun t => t = { s with reaches := t.reaches, replies := ok :: s.replies }
          ∧ (∀ y ∈ t.reaches, k ∈ y.keys ↔ y.id = reach) ∧ ∃ y, t.reach? reach = some y ∧ y.fabricKey = some fk ∧ (k, v) ∈ y.keyVals)
      ∧ ((key = 0 ∨ s.reach? reach = none) → Answers (.keyIdAssignment reach key) 1 s)
      ∧ (key ≠ 0 → s.reach? reach = some x → Completes (.keyIdAssignment reach key) s fun t =>
        t = { s with reaches := t.reaches, keyGens := t.keyGens, replies := ok :: s.replies }
          ∧ (∀ y ∈ t.reaches, key ∈ y.keys ↔ y.id = reach) ∧ ∀ y ∈ t.keyTags, y.2 ≠ t.keyTag key.toNat)
      ∧ exec (.almcauseWrite val) s = .next { s with almcause := s.almcause &&& ~~~(val.setWidth 5) }
      ∧ (Completes (.securityAlarm cause) s fun t => t = { s with
          zeroised := true, alarmed := true, almcause := s.almcause ||| cause, almcount := min 255 (s.almcount + 1), sysCores := stopped
          reaches := s.reaches.map fun x => { x with keyVals := [], fabricKey := none }, blackBox := t.blackBox }
        ∧ ∃ b, t.blackBox.head? = some b ∧ b.type = 1 ∧ b.detail = BitVec.ofNat 64 (256 * t.almcount + t.almcause.toNat))
      ∧ exec (.managementRead .cap) s = .next (s.reply 0 [BitVec.ofNat 64 s.powerCap])
      ∧ exec (.managementRead .status) s = .next (s.reply 0 [if s.down then 1 else 0])
      ∧ (s.reach? reach = some x → exec (.managementRead (.metering reach off)) s = .next (s.reply 0 [x.meter.getD (off.toNat / 8) 0]))
      ∧ (Completes (.firmwareUpdate image) s fun t => t = { s with staged := t.staged, replies := ok :: s.replies }
        ∧ (t.staged.find? fun j => j.stage == image.stage) = some image)
      ∧ (exec (.powerCapSet watts) s = .next (if 800 ≤ watts ∧ watts ≤ 2000 then { s with powerCap := watts, replies := ok :: s.replies }
        else s.reply 1))
      ∧ exec .powerCapExceeded s = .next { s with clock := max 900 (s.clock - 100) }
      ∧ (celsius ≤ 105 → exec (.thermalLimit celsius) s = .next s)
      ∧ (105 < celsius → celsius < 115 → exec (.thermalLimit celsius) s = .next { s with clock := max 900 (s.clock - 100) })
      ∧ (115 ≤ celsius → Completes (.thermalLimit celsius) s fun t =>
        t = { s with down := true, sysCores := stopped, blackBox := t.blackBox } ∧ ∃ b, t.blackBox.head? = some b ∧ b.type = 9)
      ∧ (s.alarmed = true → s.inputs = i :: rest → (∀ a b, i ≠ .event (.deviceReset a b)) → ∃ t, step s = .next t
        ∧ t = { s with inputs := rest, tick := s.tick + 1, traffic := [], g := t.g, others := t.others, teams := t.teams
                       launches := t.launches, reaches := t.reaches }
        ∧ t.g = { s.g with watchdog := t.g.watchdog } ∧ SameBytes s t)

/-! The whole machine. -/

/-- A step of a group that issues fetches its word, decodes it and runs that instruction: with nothing outstanding and nothing that
holds it up, `exec` of it on the group, then what ends an instruction and what time brings. A word that names no instruction traps
ILLEGAL or FIELD. Where it goes beyond the rules it states the model's own choices: log 1, 4, 18, 21. -/
def Obligations.StepRunsDecoded : Prop :=
  ∀ (s : State) (l : Loc) (w : BitVec 32),
    s.alarmed = false → s.down = false → s.inputs = [] → s.mayIssue = true → s.g.last ≠ .stalled → s.g.marked = false → s.fetch s.g = .ok l w →
      let u := s.fetched l
      let ends := fun t : State => State.finish s (if t.g.last = .stalled then t else t.retryOthers)
      (∀ i, s.decodeFor s.g w = .inl i → decode w = some i ∧ WellFormed i = true
        ∧ step s = advanced s (u.issueInstr w i)
        ∧ (s.g.region = none → s.g.twin = none → s.gdesc.debugFlag = false → s.g.pendS = [] → s.g.inflight = [] → s.g.heldOps = [] →
          s.g.poison = [] → s.g.joins = [] → u.mustStall i = false → (∀ r ∈ (uses i).rl ++ (uses i).wl, 56 ≤ r.toNat → s.g.eWritten.getLsbD (r.toNat - 56) = true) →
          let x := { s.g with last := .stalled, hits := none }
          ∃ t, exec i { u with g := x } = .next t ∧ step s = .next (ends (State.after u x i t))))
      ∧ (decode w = none → ∃ c info, c ∈ [1, 2] ∧ step s = .next (ends ((u.trapGroup s.g c info s.g.em s.g.pc).afterTrap s.g.key s.g.pc)))

/-- No instruction and no event stops the machine, and neither does a step: every case of the manual is a next state. Where it goes
beyond the rules it states the model's own choice: log 1. -/
def Obligations.NeverStops : Prop :=
  (∀ i s, ∃ t, exec i s = .next t) ∧ ∀ s, ∃ t, step s = .next t

/-- Every step keeps memory in its canonical form: keys rise strictly, and no listed byte is 0. Where it goes beyond the rules it
states the model's own choices: log 6, 10. -/
def Obligations.MemoryStaysCanonical : Prop :=
  ∀ s t, Memory.wf s.mem = true → step s = .next t → Memory.wf t.mem = true

/-- In every group, EM holds live lanes only, those of context areas and of what the schedule brings too, and every step keeps it
so. -/
def Obligations.ActiveLanesStayLive : Prop :=
  let ok := fun gs : List Group => ∀ g ∈ gs, g.em &&& ~~~g.live = 0
  let inv := fun s : State => ok s.groups ∧ (∀ c ∈ s.contexts, ok c.groups) ∧ ∀ c, .context c ∈ s.inputs → ok c.groups
  ∀ s t, inv s → step s = .next t → inv t

/-- The state after reset: canonical memory with nothing in it, no lane active, no launch, no full word, ALMCAUSE 0. Where it goes
beyond the rules it states the model's own choices: log 6, 7, 8. -/
def Obligations.ResetState : Prop :=
  let s := Sys2Proof.core.reset
  Memory.wf s.mem = true ∧ (∀ a, memGet a s.mem = 0) ∧ (∀ g ∈ s.groups, g.em = 0 ∧ g.live = 0 ∧ g.ended = true) ∧ s.launches = []
    ∧ s.full = [] ∧ s.bindings = [] ∧ s.almcause = 0 ∧ s.alarmed = false ∧ s.reaches = []
end

