-- ==== Sys2Proof/Laws/Memory.lean ====
section
/-! SUPPORT. Bytes: a read after a write, writes that leave other bytes alone, and the canonical form under every operation that
writes memory. -/
namespace Sys2Proof.Machine

/-! Reads after writes. -/

@[simp] theorem memGet_nil (a : Nat) : memGet a [] = 0 := rfl

/-- A lower bound on the keys may be lowered. -/
theorem memWfFrom_mono {lo lo' : Option Nat} {m : List Host.Cell} (h : ∀ x, lo' = some x → ∃ y, lo = some y ∧ x ≤ y)
    (hm : memWfFrom lo m = true) : memWfFrom lo' m = true := by
  cases m with
  | nil => rfl
  | cons c r =>
    obtain ⟨k, b⟩ := c
    simp only [memWfFrom, Bool.and_eq_true] at hm ⊢
    refine ⟨⟨?_, hm.1.2⟩, hm.2⟩
    cases lo' with
    | none => rfl
    | some x =>
      obtain ⟨y, rfl, hy⟩ := h x rfl
      have := hm.1.1
      simp only [decide_eq_true_eq] at this ⊢
      omega

/-- A canonical tail is canonical from nothing. -/
theorem memWf_of_from {lo : Option Nat} {m : List Host.Cell} (h : memWfFrom lo m = true) : memWfFrom none m = true :=
  memWfFrom_mono (fun _ hx => nomatch hx) h

/-- No key at or below the bound is listed. -/
theorem memGet_of_le {lo : Nat} {m : List Host.Cell} (h : memWfFrom (some lo) m = true) {a : Nat} (ha : a ≤ lo) : memGet a m = 0 := by
  induction m generalizing lo with
  | nil => rfl
  | cons c r ih =>
    obtain ⟨k, b⟩ := c
    simp only [memWfFrom, Bool.and_eq_true, decide_eq_true_eq] at h
    have hk : k ≠ a := by omega
    simp only [memGet, hk, if_false]
    exact ih h.2 (by omega)

/-- The canonical form after one byte is written, above any bound below its key. -/
theorem memPut_wfFrom {lo : Option Nat} {m : List Host.Cell} {a : Nat} {b : Byte} (h : memWfFrom lo m = true)
    (ha : ∀ x, lo = some x → x < a) : memWfFrom lo (memPut a b m) = true := by
  induction m generalizing lo with
  | nil =>
    unfold memPut
    split
    · rfl
    · cases lo <;> simp_all [memWfFrom]
  | cons c r ih =>
    obtain ⟨k, d⟩ := c
    have h0 := h
    simp only [memWfFrom, Bool.and_eq_true] at h
    unfold memPut
    split
    · split
      · exact h0
      · rename_i hlt hb
        simp only [memWfFrom, Bool.and_eq_true, decide_eq_true_eq]
        refine ⟨⟨?_, by simpa using hb⟩, ⟨hlt, h.1.2⟩, h.2⟩
        cases lo with
        | none => rfl
        | some x => simpa using ha x rfl
    · split
      · rename_i hlt heq
        subst heq
        split
        · refine memWfFrom_mono (fun x hx => ⟨a, rfl, ?_⟩) h.2
          exact Nat.le_of_lt (ha x hx)
        · rename_i hb
          simp only [memWfFrom, Bool.and_eq_true]
          exact ⟨⟨h.1.1, by simpa using hb⟩, h.2⟩
      · simp only [memWfFrom, Bool.and_eq_true]
        exact ⟨h.1, ih h.2 (fun x hx => by cases hx; omega)⟩

/-- Writing one byte keeps the canonical form. -/
theorem memPut_wf {m : List Host.Cell} {a : Nat} {b : Byte} (h : Memory.wf m = true) : Memory.wf (memPut a b m) = true :=
  memPut_wfFrom h (fun _ hx => nomatch hx)

/-- A byte reads as it was written, and every other byte as before. -/
theorem memGet_memPut_from {lo : Option Nat} {m : List Host.Cell} (h : memWfFrom lo m = true) (a b : Nat) (x : Byte) :
    memGet a (memPut b x m) = if a = b then x else memGet a m := by
  induction m generalizing lo with
  | nil =>
    unfold memPut
    by_cases hx : x = 0
    · simp [hx, memGet]
    · rw [if_neg hx]
      by_cases hab : a = b
      · simp [memGet, hab]
      · simp [memGet, hab, Ne.symm hab]
  | cons c r ih =>
    obtain ⟨k, d⟩ := c
    simp only [memWfFrom, Bool.and_eq_true] at h
    unfold memPut
    split
    · rename_i hlt
      by_cases hx : x = 0
      · simp only [hx, if_true]
        by_cases hab : a = b
        · subst hab
          have : k ≠ a := by omega
          simp only [memGet, this, if_false, if_true]
          exact memGet_of_le h.2 (by omega)
        · simp [hab]
      · simp only [hx, if_false, memGet]
        by_cases hab : a = b
        · simp [hab]
        · simp [hab, Ne.symm hab]
    · split
      · rename_i hlt heq
        subst heq
        by_cases hx : x = 0
        · simp only [hx, if_true]
          by_cases hab : a = b
          · subst hab
            simp only [if_true]
            exact memGet_of_le h.2 (by omega)
          · simp [hab, Ne.symm hab, memGet]
        · rw [if_neg hx]
          by_cases hab : a = b
          · simp [hab, memGet]
          · simp [hab, Ne.symm hab, memGet]
      · rename_i hlt heq
        simp only [memGet, ih h.2]
        by_cases hka : k = a
        · have : a ≠ b := by omega
          simp [hka, this]
        · simp [hka]

/-- A byte reads as it was written, and every other byte as before. -/
theorem memGet_memPut {m : List Host.Cell} (h : Memory.wf m = true) (a b : Nat) (x : Byte) :
    memGet a (memPut b x m) = if a = b then x else memGet a m := memGet_memPut_from h a b x

/-- Writing bytes keeps the canonical form. -/
theorem memWrite_wf {m : List Host.Cell} {a : Nat} {bs : List Byte} (h : Memory.wf m = true) : Memory.wf (memWrite m a bs) = true := by
  induction bs generalizing m a with
  | nil => exact h
  | cons b bs ih => exact ih (memPut_wf h)

/-- A byte below the bytes written reads as before. -/
theorem memGet_memWrite_below {m : List Host.Cell} (h : Memory.wf m = true) {a k : Nat} {bs : List Byte} (hk : k < a) :
    memGet k (memWrite m a bs) = memGet k m := by
  induction bs generalizing m a with
  | nil => rfl
  | cons b bs ih =>
    have : k ≠ a := by omega
    simp only [memWrite]
    rw [ih (memPut_wf h) (by omega), memGet_memPut h, if_neg this]

/-- A byte reads as it was written, and bytes outside those written as before. -/
theorem memGet_memWrite {m : List Host.Cell} (h : Memory.wf m = true) (a k : Nat) (bs : List Byte) :
    memGet k (memWrite m a bs) = if a ≤ k ∧ k < a + bs.length then bs.getD (k - a) 0 else memGet k m := by
  induction bs generalizing m a with
  | nil =>
    have : ¬(a ≤ k ∧ k < a + ([] : List Byte).length) := by simp
    rw [if_neg this]
    rfl
  | cons b bs ih =>
    simp only [memWrite, List.length_cons]
    by_cases hk : k = a
    · subst hk
      rw [memGet_memWrite_below (memPut_wf h) (by omega), memGet_memPut h]
      simp
    · rw [ih (memPut_wf h), memGet_memPut h, if_neg hk]
      by_cases hlo : a ≤ k
      · have h1 : k - a = (k - (a + 1)) + 1 := by omega
        by_cases hhi : k < a + (bs.length + 1)
        · rw [if_pos (by omega), if_pos (by omega), h1, List.getD_cons_succ]
        · rw [if_neg (by omega), if_neg (by omega)]
      · rw [if_neg (by omega), if_neg (by omega)]

/-- The bytes of a canonical list that a test keeps are canonical. -/
theorem filter_wfFrom {lo : Option Nat} {m : List Host.Cell} (f : Host.Cell → Bool) (h : memWfFrom lo m = true) :
    memWfFrom lo (m.filter f) = true := by
  induction m generalizing lo with
  | nil => exact h
  | cons c r ih =>
    obtain ⟨k, b⟩ := c
    simp only [memWfFrom, Bool.and_eq_true] at h
    by_cases hf : f (k, b) = true
    · rw [List.filter_cons_of_pos hf]
      simp only [memWfFrom, Bool.and_eq_true]
      exact ⟨h.1, ih h.2⟩
    · rw [List.filter_cons_of_neg hf]
      refine ih (memWfFrom_mono (fun x hx => ⟨k, rfl, ?_⟩) h.2)
      subst hx
      have := h.1.1
      simp only [decide_eq_true_eq] at this
      omega

theorem filter_wf {m : List Host.Cell} (f : Host.Cell → Bool) (h : Memory.wf m = true) : Memory.wf (m.filter f) = true :=
  filter_wfFrom f h

/-- A fold whose every step keeps the canonical form keeps it. -/
theorem foldl_wf {α : Type} (f : List Host.Cell → α → List Host.Cell) (hf : ∀ m x, Memory.wf m = true → Memory.wf (f m x) = true)
    (xs : List α) {m : List Host.Cell} (h : Memory.wf m = true) : Memory.wf (xs.foldl f m) = true := by
  induction xs generalizing m with
  | nil => exact h
  | cons x xs ih => exact ih (hf m x h)

/-! The operations of the state that write memory; every other one leaves `mem` as it is. -/

theorem homeWrite_wf {s : State} (l : Loc) (bs : List Byte) (h : Memory.wf s.mem = true) : Memory.wf (s.homeWrite l bs).mem = true :=
  memWrite_wf h

/-- Bytes performed at a home read as written, and every other byte as before. -/
theorem memGet_homeWrite {s : State} (h : Memory.wf s.mem = true) (l : Loc) (bs : List Byte) (k : Nat) :
    memGet k (s.homeWrite l bs).mem = if l.key ≤ k ∧ k < l.key + bs.length then bs.getD (k - l.key) 0 else memGet k s.mem :=
  memGet_memWrite h l.key k bs

theorem install_wf {s : State} (w : Bool) (pte : Nat) (h : Memory.wf s.mem = true) : Memory.wf (s.install w pte).mem = true :=
  memPut_wf h

theorem clearPad_wf {s : State} (key len : Nat) (h : Memory.wf s.mem = true) : Memory.wf (s.clearPad key len).mem = true :=
  filter_wf _ h

theorem moveBlocks_wf {s : State} (base size count : Nat) (f : Nat → Option Nat) (h : Memory.wf s.mem = true) :
    Memory.wf (s.moveBlocks base size count f).mem = true := by
  refine foldl_wf _ (fun m x hm => ?_) _ (filter_wf _ h)
  split
  · exact memPut_wf hm
  · exact hm

theorem copyPad_wf {s : State} (src dst n : Nat) (h : Memory.wf s.mem = true) : Memory.wf (s.copyPad src dst n).mem = true := by
  unfold State.copyPad
  split
  · exact h
  · exact foldl_wf _ (fun m x hm => memPut_wf hm) _ (filter_wf _ h)

theorem writeTile_wf {s : State} (core : CoreId) (tile : Nat) (f : Nat → Nat → Nat) (h : Memory.wf s.mem = true) :
    Memory.wf (s.writeTile core tile f).mem = true := by
  simp only [State.writeTile]
  generalize List.range 128 = xs
  exact foldl_wf _ (fun _ _ hm => memWrite_wf hm) xs h

theorem loadMem_wf (device : BitVec 8) (w : BitVec 32) {m : List Host.Cell} (h : Memory.wf m = true) :
    Memory.wf (loadMem device w m) = true := memWrite_wf (memWrite_wf (memWrite_wf (memWrite_wf h)))

/-- Memory after reset is canonical. -/
theorem reset_mem_wf : Memory.wf State.reset.mem = true := rfl

/-! Little-endian numbers (R3). -/

@[simp] theorem leBytes_length (x n : Nat) : (leBytes x n).length = n := by simp [leBytes]

/-- Byte `i` of a number. -/
theorem leBytes_getElem {x n i : Nat} (h : i < (leBytes x n).length) : (leBytes x n)[i] = BitVec.ofNat 8 (x / 256 ^ i) := by
  simp [leBytes]

/-- A number with one more byte at its top. -/
theorem leNat_concat (bs : List Byte) (b : Byte) : leNat (bs ++ [b]) = leNat bs + 256 ^ bs.length * b.toNat := by
  induction bs with
  | nil => simp [leNat]
  | cons c cs ih =>
    have e : 256 ^ (cs.length + 1) * b.toNat = 256 * (256 ^ cs.length * b.toNat) := by rw [Nat.pow_succ, Nat.mul_comm _ 256, Nat.mul_assoc]
    simp only [List.cons_append, leNat, ih, List.length_cons, e]
    omega

/-- What the low bytes of a number stand for. -/
theorem leNat_leBytes (x : Nat) : (n : Nat) → leNat (leBytes x n) = x % 256 ^ n
  | 0 => (Nat.mod_one x).symm
  | n + 1 => by
    have top : leBytes x (n + 1) = leBytes x n ++ [BitVec.ofNat 8 (x / 256 ^ n)] := by simp [leBytes, List.range_succ]
    rw [top, leNat_concat, leNat_leBytes x n, leBytes_length, BitVec.toNat_ofNat, Nat.mod_pow_succ (b := 256)]

end Sys2Proof.Machine
end

