-- ==== Sys2Proof/Laws/State.lean ====
section
/-! SUPPORT. What each update of a group and of the state leaves in each field. -/
namespace Sys2Proof.Machine

/-! `Group.setS`. -/

@[simp] theorem Group.setS_key (g : Group) (r : SReg) (x : Word) : (g.setS r x).key = g.key := by dsimp only [Group.setS]
@[simp] theorem Group.setS_launch (g : Group) (r : SReg) (x : Word) : (g.setS r x).launch = g.launch := by dsimp only [Group.setS]
@[simp] theorem Group.setS_team (g : Group) (r : SReg) (x : Word) : (g.setS r x).team = g.team := by dsimp only [Group.setS]
@[simp] theorem Group.setS_idx (g : Group) (r : SReg) (x : Word) : (g.setS r x).idx = g.idx := by dsimp only [Group.setS]
@[simp] theorem Group.setS_role (g : Group) (r : SReg) (x : Word) : (g.setS r x).role = g.role := by dsimp only [Group.setS]
@[simp] theorem Group.setS_core (g : Group) (r : SReg) (x : Word) : (g.setS r x).core = g.core := by dsimp only [Group.setS]
@[simp] theorem Group.setS_slot (g : Group) (r : SReg) (x : Word) : (g.setS r x).slot = g.slot := by dsimp only [Group.setS]
@[simp] theorem Group.setS_gid (g : Group) (r : SReg) (x : Word) : (g.setS r x).gid = g.gid := by dsimp only [Group.setS]
@[simp] theorem Group.setS_tid (g : Group) (r : SReg) (x : Word) : (g.setS r x).tid = g.tid := by dsimp only [Group.setS]
@[simp] theorem Group.setS_v (g : Group) (r : SReg) (x : Word) : (g.setS r x).v = g.v := by dsimp only [Group.setS]
@[simp] theorem Group.setS_e (g : Group) (r : SReg) (x : Word) : (g.setS r x).e = g.e := by dsimp only [Group.setS]
@[simp] theorem Group.setS_s (g : Group) (r : SReg) (x : Word) : (g.setS r x).s = g.s.set r.toNat x r.isLt := by dsimp only [Group.setS]
@[simp] theorem Group.setS_p (g : Group) (r : SReg) (x : Word) : (g.setS r x).p = g.p := by dsimp only [Group.setS]
@[simp] theorem Group.setS_em (g : Group) (r : SReg) (x : Word) : (g.setS r x).em = g.em := by dsimp only [Group.setS]
@[simp] theorem Group.setS_live (g : Group) (r : SReg) (x : Word) : (g.setS r x).live = g.live := by dsimp only [Group.setS]
@[simp] theorem Group.setS_launched (g : Group) (r : SReg) (x : Word) : (g.setS r x).launched = g.launched := by dsimp only [Group.setS]
@[simp] theorem Group.setS_pc (g : Group) (r : SReg) (x : Word) : (g.setS r x).pc = g.pc := by dsimp only [Group.setS]
@[simp] theorem Group.setS_bankV (g : Group) (r : SReg) (x : Word) : (g.setS r x).bankV = g.bankV := by dsimp only [Group.setS]
@[simp] theorem Group.setS_bankS (g : Group) (r : SReg) (x : Word) : (g.setS r x).bankS = g.bankS := by dsimp only [Group.setS]
@[simp] theorem Group.setS_qw (g : Group) (r : SReg) (x : Word) : (g.setS r x).qw = g.qw := by dsimp only [Group.setS]
@[simp] theorem Group.setS_domain (g : Group) (r : SReg) (x : Word) : (g.setS r x).domain = g.domain := by dsimp only [Group.setS]
@[simp] theorem Group.setS_regpc (g : Group) (r : SReg) (x : Word) : (g.setS r x).regpc = g.regpc := by dsimp only [Group.setS]
@[simp] theorem Group.setS_stack (g : Group) (r : SReg) (x : Word) : (g.setS r x).stack = g.stack := by dsimp only [Group.setS]
@[simp] theorem Group.setS_frm (g : Group) (r : SReg) (x : Word) : (g.setS r x).frm = g.frm := by dsimp only [Group.setS]
@[simp] theorem Group.setS_fflags (g : Group) (r : SReg) (x : Word) : (g.setS r x).fflags = g.fflags := by dsimp only [Group.setS]
@[simp] theorem Group.setS_trapMode (g : Group) (r : SReg) (x : Word) : (g.setS r x).trapMode = g.trapMode := by dsimp only [Group.setS]
@[simp] theorem Group.setS_trapCause (g : Group) (r : SReg) (x : Word) : (g.setS r x).trapCause = g.trapCause := by dsimp only [Group.setS]
@[simp] theorem Group.setS_trapPc (g : Group) (r : SReg) (x : Word) : (g.setS r x).trapPc = g.trapPc := by dsimp only [Group.setS]
@[simp] theorem Group.setS_trapLanes (g : Group) (r : SReg) (x : Word) : (g.setS r x).trapLanes = g.trapLanes := by dsimp only [Group.setS]
@[simp] theorem Group.setS_trapInfo (g : Group) (r : SReg) (x : Word) : (g.setS r x).trapInfo = g.trapInfo := by dsimp only [Group.setS]
@[simp] theorem Group.setS_trapEm (g : Group) (r : SReg) (x : Word) : (g.setS r x).trapEm = g.trapEm := by dsimp only [Group.setS]
@[simp] theorem Group.setS_tasklink (g : Group) (r : SReg) (x : Word) : (g.setS r x).tasklink = g.tasklink := by dsimp only [Group.setS]
@[simp] theorem Group.setS_retired (g : Group) (r : SReg) (x : Word) : (g.setS r x).retired = g.retired := by dsimp only [Group.setS]
@[simp] theorem Group.setS_startTick (g : Group) (r : SReg) (x : Word) : (g.setS r x).startTick = g.startTick := by dsimp only [Group.setS]
@[simp] theorem Group.setS_dbgctl (g : Group) (r : SReg) (x : Word) : (g.setS r x).dbgctl = g.dbgctl := by dsimp only [Group.setS]
@[simp] theorem Group.setS_wwr (g : Group) (r : SReg) (x : Word) : (g.setS r x).wwr = g.wwr := by dsimp only [Group.setS]
@[simp] theorem Group.setS_whit (g : Group) (r : SReg) (x : Word) : (g.setS r x).whit = g.whit := by dsimp only [Group.setS]
@[simp] theorem Group.setS_spend (g : Group) (r : SReg) (x : Word) : (g.setS r x).spend = g.spend := by dsimp only [Group.setS]
@[simp] theorem Group.setS_outv (g : Group) (r : SReg) (x : Word) : (g.setS r x).outv = g.outv := by dsimp only [Group.setS]
@[simp] theorem Group.setS_inv (g : Group) (r : SReg) (x : Word) : (g.setS r x).inv = g.inv := by dsimp only [Group.setS]
@[simp] theorem Group.setS_dbgout (g : Group) (r : SReg) (x : Word) : (g.setS r x).dbgout = g.dbgout := by dsimp only [Group.setS]
@[simp] theorem Group.setS_dbgin (g : Group) (r : SReg) (x : Word) : (g.setS r x).dbgin = g.dbgin := by dsimp only [Group.setS]
@[simp] theorem Group.setS_runLen (g : Group) (r : SReg) (x : Word) : (g.setS r x).runLen = g.runLen := by dsimp only [Group.setS]
@[simp] theorem Group.setS_eWritten (g : Group) (r : SReg) (x : Word) : (g.setS r x).eWritten = g.eWritten := by dsimp only [Group.setS]
@[simp] theorem Group.setS_inflight (g : Group) (r : SReg) (x : Word) : (g.setS r x).inflight = g.inflight := by dsimp only [Group.setS]
@[simp] theorem Group.setS_pendS (g : Group) (r : SReg) (x : Word) : (g.setS r x).pendS = g.pendS := by dsimp only [Group.setS]
@[simp] theorem Group.setS_joins (g : Group) (r : SReg) (x : Word) : (g.setS r x).joins = g.joins := by dsimp only [Group.setS]
@[simp] theorem Group.setS_trailer (g : Group) (r : SReg) (x : Word) : (g.setS r x).trailer = g.trailer := by dsimp only [Group.setS]
@[simp] theorem Group.setS_held (g : Group) (r : SReg) (x : Word) : (g.setS r x).held = g.held := by dsimp only [Group.setS]
@[simp] theorem Group.setS_heldT (g : Group) (r : SReg) (x : Word) : (g.setS r x).heldT = g.heldT := by dsimp only [Group.setS]
@[simp] theorem Group.setS_epoch (g : Group) (r : SReg) (x : Word) : (g.setS r x).epoch = g.epoch := by dsimp only [Group.setS]
@[simp] theorem Group.setS_side (g : Group) (r : SReg) (x : Word) : (g.setS r x).side = g.side := by dsimp only [Group.setS]
@[simp] theorem Group.setS_heldOps (g : Group) (r : SReg) (x : Word) : (g.setS r x).heldOps = g.heldOps := by dsimp only [Group.setS]
@[simp] theorem Group.setS_late (g : Group) (r : SReg) (x : Word) : (g.setS r x).late = g.late := by dsimp only [Group.setS]
@[simp] theorem Group.setS_drains (g : Group) (r : SReg) (x : Word) : (g.setS r x).drains = g.drains := by dsimp only [Group.setS]
@[simp] theorem Group.setS_bound (g : Group) (r : SReg) (x : Word) : (g.setS r x).bound = g.bound := by dsimp only [Group.setS]
@[simp] theorem Group.setS_reds (g : Group) (r : SReg) (x : Word) : (g.setS r x).reds = g.reds := by dsimp only [Group.setS]
@[simp] theorem Group.setS_wait (g : Group) (r : SReg) (x : Word) : (g.setS r x).wait = g.wait := by dsimp only [Group.setS]
@[simp] theorem Group.setS_waitEnd (g : Group) (r : SReg) (x : Word) : (g.setS r x).waitEnd = g.waitEnd := by dsimp only [Group.setS]
@[simp] theorem Group.setS_holds (g : Group) (r : SReg) (x : Word) : (g.setS r x).holds = g.holds := by dsimp only [Group.setS]
@[simp] theorem Group.setS_since (g : Group) (r : SReg) (x : Word) : (g.setS r x).since = g.since := by dsimp only [Group.setS]
@[simp] theorem Group.setS_served (g : Group) (r : SReg) (x : Word) : (g.setS r x).served = g.served := by dsimp only [Group.setS]
@[simp] theorem Group.setS_region (g : Group) (r : SReg) (x : Word) : (g.setS r x).region = g.region := by dsimp only [Group.setS]
@[simp] theorem Group.setS_restarts (g : Group) (r : SReg) (x : Word) : (g.setS r x).restarts = g.restarts := by dsimp only [Group.setS]
@[simp] theorem Group.setS_poison (g : Group) (r : SReg) (x : Word) : (g.setS r x).poison = g.poison := by dsimp only [Group.setS]
@[simp] theorem Group.setS_sig (g : Group) (r : SReg) (x : Word) : (g.setS r x).sig = g.sig := by dsimp only [Group.setS]
@[simp] theorem Group.setS_twin (g : Group) (r : SReg) (x : Word) : (g.setS r x).twin = g.twin := by dsimp only [Group.setS]
@[simp] theorem Group.setS_leader (g : Group) (r : SReg) (x : Word) : (g.setS r x).leader = g.leader := by dsimp only [Group.setS]
@[simp] theorem Group.setS_rdv (g : Group) (r : SReg) (x : Word) : (g.setS r x).rdv = g.rdv := by dsimp only [Group.setS]
@[simp] theorem Group.setS_mismatches (g : Group) (r : SReg) (x : Word) : (g.setS r x).mismatches = g.mismatches := by dsimp only [Group.setS]
@[simp] theorem Group.setS_mismatchAt (g : Group) (r : SReg) (x : Word) : (g.setS r x).mismatchAt = g.mismatchAt := by dsimp only [Group.setS]
@[simp] theorem Group.setS_watchdog (g : Group) (r : SReg) (x : Word) : (g.setS r x).watchdog = g.watchdog := by dsimp only [Group.setS]
@[simp] theorem Group.setS_replay (g : Group) (r : SReg) (x : Word) : (g.setS r x).replay = g.replay := by dsimp only [Group.setS]
@[simp] theorem Group.setS_packets (g : Group) (r : SReg) (x : Word) : (g.setS r x).packets = g.packets := by dsimp only [Group.setS]
@[simp] theorem Group.setS_owed (g : Group) (r : SReg) (x : Word) : (g.setS r x).owed = g.owed := by dsimp only [Group.setS]
@[simp] theorem Group.setS_sinceBar (g : Group) (r : SReg) (x : Word) : (g.setS r x).sinceBar = g.sinceBar := by dsimp only [Group.setS]
@[simp] theorem Group.setS_age (g : Group) (r : SReg) (x : Word) : (g.setS r x).age = g.age := by dsimp only [Group.setS]
@[simp] theorem Group.setS_port (g : Group) (r : SReg) (x : Word) : (g.setS r x).port = g.port := by dsimp only [Group.setS]
@[simp] theorem Group.setS_ended (g : Group) (r : SReg) (x : Word) : (g.setS r x).ended = g.ended := by dsimp only [Group.setS]
@[simp] theorem Group.setS_halted (g : Group) (r : SReg) (x : Word) : (g.setS r x).halted = g.halted := by dsimp only [Group.setS]
@[simp] theorem Group.setS_dbgHalt (g : Group) (r : SReg) (x : Word) : (g.setS r x).dbgHalt = g.dbgHalt := by dsimp only [Group.setS]
@[simp] theorem Group.setS_preempted (g : Group) (r : SReg) (x : Word) : (g.setS r x).preempted = g.preempted := by dsimp only [Group.setS]
@[simp] theorem Group.setS_haltTick (g : Group) (r : SReg) (x : Word) : (g.setS r x).haltTick = g.haltTick := by dsimp only [Group.setS]
@[simp] theorem Group.setS_spilled (g : Group) (r : SReg) (x : Word) : (g.setS r x).spilled = g.spilled := by dsimp only [Group.setS]
@[simp] theorem Group.setS_marked (g : Group) (r : SReg) (x : Word) : (g.setS r x).marked = g.marked := by dsimp only [Group.setS]
@[simp] theorem Group.setS_suspended (g : Group) (r : SReg) (x : Word) : (g.setS r x).suspended = g.suspended := by dsimp only [Group.setS]
@[simp] theorem Group.setS_fetchHeld (g : Group) (r : SReg) (x : Word) : (g.setS r x).fetchHeld = g.fetchHeld := by dsimp only [Group.setS]
@[simp] theorem Group.setS_borrow (g : Group) (r : SReg) (x : Word) : (g.setS r x).borrow = g.borrow := by dsimp only [Group.setS]
@[simp] theorem Group.setS_emTraced (g : Group) (r : SReg) (x : Word) : (g.setS r x).emTraced = g.emTraced := by dsimp only [Group.setS]
@[simp] theorem Group.setS_hits (g : Group) (r : SReg) (x : Word) : (g.setS r x).hits = g.hits := by dsimp only [Group.setS]
@[simp] theorem Group.setS_last (g : Group) (r : SReg) (x : Word) : (g.setS r x).last = g.last := by dsimp only [Group.setS]

/-! `Group.writeP`. -/

@[simp] theorem Group.writeP_key (g : Group) (m : Mask) (r : PReg) (x : Mask) : (g.writeP m r x).key = g.key := by dsimp only [Group.writeP]
@[simp] theorem Group.writeP_launch (g : Group) (m : Mask) (r : PReg) (x : Mask) : (g.writeP m r x).launch = g.launch := by dsimp only [Group.writeP]
@[simp] theorem Group.writeP_team (g : Group) (m : Mask) (r : PReg) (x : Mask) : (g.writeP m r x).team = g.team := by dsimp only [Group.writeP]
@[simp] theorem Group.writeP_idx (g : Group) (m : Mask) (r : PReg) (x : Mask) : (g.writeP m r x).idx = g.idx := by dsimp only [Group.writeP]
@[simp] theorem Group.writeP_role (g : Group) (m : Mask) (r : PReg) (x : Mask) : (g.writeP m r x).role = g.role := by dsimp only [Group.writeP]
@[simp] theorem Group.writeP_core (g : Group) (m : Mask) (r : PReg) (x : Mask) : (g.writeP m r x).core = g.core := by dsimp only [Group.writeP]
@[simp] theorem Group.writeP_slot (g : Group) (m : Mask) (r : PReg) (x : Mask) : (g.writeP m r x).slot = g.slot := by dsimp only [Group.writeP]
@[simp] theorem Group.writeP_gid (g : Group) (m : Mask) (r : PReg) (x : Mask) : (g.writeP m r x).gid = g.gid := by dsimp only [Group.writeP]
@[simp] theorem Group.writeP_tid (g : Group) (m : Mask) (r : PReg) (x : Mask) : (g.writeP m r x).tid = g.tid := by dsimp only [Group.writeP]
@[simp] theorem Group.writeP_v (g : Group) (m : Mask) (r : PReg) (x : Mask) : (g.writeP m r x).v = g.v := by dsimp only [Group.writeP]
@[simp] theorem Group.writeP_e (g : Group) (m : Mask) (r : PReg) (x : Mask) : (g.writeP m r x).e = g.e := by dsimp only [Group.writeP]
@[simp] theorem Group.writeP_s (g : Group) (m : Mask) (r : PReg) (x : Mask) : (g.writeP m r x).s = g.s := by dsimp only [Group.writeP]
@[simp] theorem Group.writeP_p (g : Group) (m : Mask) (r : PReg) (x : Mask) : (g.writeP m r x).p = g.p.set r.toNat ((x &&& m) ||| (g.preg r &&& ~~~m)) r.isLt := by dsimp only [Group.writeP]
@[simp] theorem Group.writeP_em (g : Group) (m : Mask) (r : PReg) (x : Mask) : (g.writeP m r x).em = g.em := by dsimp only [Group.writeP]
@[simp] theorem Group.writeP_live (g : Group) (m : Mask) (r : PReg) (x : Mask) : (g.writeP m r x).live = g.live := by dsimp only [Group.writeP]
@[simp] theorem Group.writeP_launched (g : Group) (m : Mask) (r : PReg) (x : Mask) : (g.writeP m r x).launched = g.launched := by dsimp only [Group.writeP]
@[simp] theorem Group.writeP_pc (g : Group) (m : Mask) (r : PReg) (x : Mask) : (g.writeP m r x).pc = g.pc := by dsimp only [Group.writeP]
@[simp] theorem Group.writeP_bankV (g : Group) (m : Mask) (r : PReg) (x : Mask) : (g.writeP m r x).bankV = g.bankV := by dsimp only [Group.writeP]
@[simp] theorem Group.writeP_bankS (g : Group) (m : Mask) (r : PReg) (x : Mask) : (g.writeP m r x).bankS = g.bankS := by dsimp only [Group.writeP]
@[simp] theorem Group.writeP_qw (g : Group) (m : Mask) (r : PReg) (x : Mask) : (g.writeP m r x).qw = g.qw := by dsimp only [Group.writeP]
@[simp] theorem Group.writeP_domain (g : Group) (m : Mask) (r : PReg) (x : Mask) : (g.writeP m r x).domain = g.domain := by dsimp only [Group.writeP]
@[simp] theorem Group.writeP_regpc (g : Group) (m : Mask) (r : PReg) (x : Mask) : (g.writeP m r x).regpc = g.regpc := by dsimp only [Group.writeP]
@[simp] theorem Group.writeP_stack (g : Group) (m : Mask) (r : PReg) (x : Mask) : (g.writeP m r x).stack = g.stack := by dsimp only [Group.writeP]
@[simp] theorem Group.writeP_frm (g : Group) (m : Mask) (r : PReg) (x : Mask) : (g.writeP m r x).frm = g.frm := by dsimp only [Group.writeP]
@[simp] theorem Group.writeP_fflags (g : Group) (m : Mask) (r : PReg) (x : Mask) : (g.writeP m r x).fflags = g.fflags := by dsimp only [Group.writeP]
@[simp] theorem Group.writeP_trapMode (g : Group) (m : Mask) (r : PReg) (x : Mask) : (g.writeP m r x).trapMode = g.trapMode := by dsimp only [Group.writeP]
@[simp] theorem Group.writeP_trapCause (g : Group) (m : Mask) (r : PReg) (x : Mask) : (g.writeP m r x).trapCause = g.trapCause := by dsimp only [Group.writeP]
@[simp] theorem Group.writeP_trapPc (g : Group) (m : Mask) (r : PReg) (x : Mask) : (g.writeP m r x).trapPc = g.trapPc := by dsimp only [Group.writeP]
@[simp] theorem Group.writeP_trapLanes (g : Group) (m : Mask) (r : PReg) (x : Mask) : (g.writeP m r x).trapLanes = g.trapLanes := by dsimp only [Group.writeP]
@[simp] theorem Group.writeP_trapInfo (g : Group) (m : Mask) (r : PReg) (x : Mask) : (g.writeP m r x).trapInfo = g.trapInfo := by dsimp only [Group.writeP]
@[simp] theorem Group.writeP_trapEm (g : Group) (m : Mask) (r : PReg) (x : Mask) : (g.writeP m r x).trapEm = g.trapEm := by dsimp only [Group.writeP]
@[simp] theorem Group.writeP_tasklink (g : Group) (m : Mask) (r : PReg) (x : Mask) : (g.writeP m r x).tasklink = g.tasklink := by dsimp only [Group.writeP]
@[simp] theorem Group.writeP_retired (g : Group) (m : Mask) (r : PReg) (x : Mask) : (g.writeP m r x).retired = g.retired := by dsimp only [Group.writeP]
@[simp] theorem Group.writeP_startTick (g : Group) (m : Mask) (r : PReg) (x : Mask) : (g.writeP m r x).startTick = g.startTick := by dsimp only [Group.writeP]
@[simp] theorem Group.writeP_dbgctl (g : Group) (m : Mask) (r : PReg) (x : Mask) : (g.writeP m r x).dbgctl = g.dbgctl := by dsimp only [Group.writeP]
@[simp] theorem Group.writeP_wwr (g : Group) (m : Mask) (r : PReg) (x : Mask) : (g.writeP m r x).wwr = g.wwr := by dsimp only [Group.writeP]
@[simp] theorem Group.writeP_whit (g : Group) (m : Mask) (r : PReg) (x : Mask) : (g.writeP m r x).whit = g.whit := by dsimp only [Group.writeP]
@[simp] theorem Group.writeP_spend (g : Group) (m : Mask) (r : PReg) (x : Mask) : (g.writeP m r x).spend = g.spend := by dsimp only [Group.writeP]
@[simp] theorem Group.writeP_outv (g : Group) (m : Mask) (r : PReg) (x : Mask) : (g.writeP m r x).outv = g.outv := by dsimp only [Group.writeP]
@[simp] theorem Group.writeP_inv (g : Group) (m : Mask) (r : PReg) (x : Mask) : (g.writeP m r x).inv = g.inv := by dsimp only [Group.writeP]
@[simp] theorem Group.writeP_dbgout (g : Group) (m : Mask) (r : PReg) (x : Mask) : (g.writeP m r x).dbgout = g.dbgout := by dsimp only [Group.writeP]
@[simp] theorem Group.writeP_dbgin (g : Group) (m : Mask) (r : PReg) (x : Mask) : (g.writeP m r x).dbgin = g.dbgin := by dsimp only [Group.writeP]
@[simp] theorem Group.writeP_runLen (g : Group) (m : Mask) (r : PReg) (x : Mask) : (g.writeP m r x).runLen = g.runLen := by dsimp only [Group.writeP]
@[simp] theorem Group.writeP_eWritten (g : Group) (m : Mask) (r : PReg) (x : Mask) : (g.writeP m r x).eWritten = g.eWritten := by dsimp only [Group.writeP]
@[simp] theorem Group.writeP_inflight (g : Group) (m : Mask) (r : PReg) (x : Mask) : (g.writeP m r x).inflight = g.inflight := by dsimp only [Group.writeP]
@[simp] theorem Group.writeP_pendS (g : Group) (m : Mask) (r : PReg) (x : Mask) : (g.writeP m r x).pendS = g.pendS := by dsimp only [Group.writeP]
@[simp] theorem Group.writeP_joins (g : Group) (m : Mask) (r : PReg) (x : Mask) : (g.writeP m r x).joins = g.joins := by dsimp only [Group.writeP]
@[simp] theorem Group.writeP_trailer (g : Group) (m : Mask) (r : PReg) (x : Mask) : (g.writeP m r x).trailer = g.trailer := by dsimp only [Group.writeP]
@[simp] theorem Group.writeP_held (g : Group) (m : Mask) (r : PReg) (x : Mask) : (g.writeP m r x).held = g.held := by dsimp only [Group.writeP]
@[simp] theorem Group.writeP_heldT (g : Group) (m : Mask) (r : PReg) (x : Mask) : (g.writeP m r x).heldT = g.heldT := by dsimp only [Group.writeP]
@[simp] theorem Group.writeP_epoch (g : Group) (m : Mask) (r : PReg) (x : Mask) : (g.writeP m r x).epoch = g.epoch := by dsimp only [Group.writeP]
@[simp] theorem Group.writeP_side (g : Group) (m : Mask) (r : PReg) (x : Mask) : (g.writeP m r x).side = g.side := by dsimp only [Group.writeP]
@[simp] theorem Group.writeP_heldOps (g : Group) (m : Mask) (r : PReg) (x : Mask) : (g.writeP m r x).heldOps = g.heldOps := by dsimp only [Group.writeP]
@[simp] theorem Group.writeP_late (g : Group) (m : Mask) (r : PReg) (x : Mask) : (g.writeP m r x).late = g.late := by dsimp only [Group.writeP]
@[simp] theorem Group.writeP_drains (g : Group) (m : Mask) (r : PReg) (x : Mask) : (g.writeP m r x).drains = g.drains := by dsimp only [Group.writeP]
@[simp] theorem Group.writeP_bound (g : Group) (m : Mask) (r : PReg) (x : Mask) : (g.writeP m r x).bound = g.bound := by dsimp only [Group.writeP]
@[simp] theorem Group.writeP_reds (g : Group) (m : Mask) (r : PReg) (x : Mask) : (g.writeP m r x).reds = g.reds := by dsimp only [Group.writeP]
@[simp] theorem Group.writeP_wait (g : Group) (m : Mask) (r : PReg) (x : Mask) : (g.writeP m r x).wait = g.wait := by dsimp only [Group.writeP]
@[simp] theorem Group.writeP_waitEnd (g : Group) (m : Mask) (r : PReg) (x : Mask) : (g.writeP m r x).waitEnd = g.waitEnd := by dsimp only [Group.writeP]
@[simp] theorem Group.writeP_holds (g : Group) (m : Mask) (r : PReg) (x : Mask) : (g.writeP m r x).holds = g.holds := by dsimp only [Group.writeP]
@[simp] theorem Group.writeP_since (g : Group) (m : Mask) (r : PReg) (x : Mask) : (g.writeP m r x).since = g.since := by dsimp only [Group.writeP]
@[simp] theorem Group.writeP_served (g : Group) (m : Mask) (r : PReg) (x : Mask) : (g.writeP m r x).served = g.served := by dsimp only [Group.writeP]
@[simp] theorem Group.writeP_region (g : Group) (m : Mask) (r : PReg) (x : Mask) : (g.writeP m r x).region = g.region := by dsimp only [Group.writeP]
@[simp] theorem Group.writeP_restarts (g : Group) (m : Mask) (r : PReg) (x : Mask) : (g.writeP m r x).restarts = g.restarts := by dsimp only [Group.writeP]
@[simp] theorem Group.writeP_poison (g : Group) (m : Mask) (r : PReg) (x : Mask) : (g.writeP m r x).poison = g.poison := by dsimp only [Group.writeP]
@[simp] theorem Group.writeP_sig (g : Group) (m : Mask) (r : PReg) (x : Mask) : (g.writeP m r x).sig = g.sig := by dsimp only [Group.writeP]
@[simp] theorem Group.writeP_twin (g : Group) (m : Mask) (r : PReg) (x : Mask) : (g.writeP m r x).twin = g.twin := by dsimp only [Group.writeP]
@[simp] theorem Group.writeP_leader (g : Group) (m : Mask) (r : PReg) (x : Mask) : (g.writeP m r x).leader = g.leader := by dsimp only [Group.writeP]
@[simp] theorem Group.writeP_rdv (g : Group) (m : Mask) (r : PReg) (x : Mask) : (g.writeP m r x).rdv = g.rdv := by dsimp only [Group.writeP]
@[simp] theorem Group.writeP_mismatches (g : Group) (m : Mask) (r : PReg) (x : Mask) : (g.writeP m r x).mismatches = g.mismatches := by dsimp only [Group.writeP]
@[simp] theorem Group.writeP_mismatchAt (g : Group) (m : Mask) (r : PReg) (x : Mask) : (g.writeP m r x).mismatchAt = g.mismatchAt := by dsimp only [Group.writeP]
@[simp] theorem Group.writeP_watchdog (g : Group) (m : Mask) (r : PReg) (x : Mask) : (g.writeP m r x).watchdog = g.watchdog := by dsimp only [Group.writeP]
@[simp] theorem Group.writeP_replay (g : Group) (m : Mask) (r : PReg) (x : Mask) : (g.writeP m r x).replay = g.replay := by dsimp only [Group.writeP]
@[simp] theorem Group.writeP_packets (g : Group) (m : Mask) (r : PReg) (x : Mask) : (g.writeP m r x).packets = g.packets := by dsimp only [Group.writeP]
@[simp] theorem Group.writeP_owed (g : Group) (m : Mask) (r : PReg) (x : Mask) : (g.writeP m r x).owed = g.owed := by dsimp only [Group.writeP]
@[simp] theorem Group.writeP_sinceBar (g : Group) (m : Mask) (r : PReg) (x : Mask) : (g.writeP m r x).sinceBar = g.sinceBar := by dsimp only [Group.writeP]
@[simp] theorem Group.writeP_age (g : Group) (m : Mask) (r : PReg) (x : Mask) : (g.writeP m r x).age = g.age := by dsimp only [Group.writeP]
@[simp] theorem Group.writeP_port (g : Group) (m : Mask) (r : PReg) (x : Mask) : (g.writeP m r x).port = g.port := by dsimp only [Group.writeP]
@[simp] theorem Group.writeP_ended (g : Group) (m : Mask) (r : PReg) (x : Mask) : (g.writeP m r x).ended = g.ended := by dsimp only [Group.writeP]
@[simp] theorem Group.writeP_halted (g : Group) (m : Mask) (r : PReg) (x : Mask) : (g.writeP m r x).halted = g.halted := by dsimp only [Group.writeP]
@[simp] theorem Group.writeP_dbgHalt (g : Group) (m : Mask) (r : PReg) (x : Mask) : (g.writeP m r x).dbgHalt = g.dbgHalt := by dsimp only [Group.writeP]
@[simp] theorem Group.writeP_preempted (g : Group) (m : Mask) (r : PReg) (x : Mask) : (g.writeP m r x).preempted = g.preempted := by dsimp only [Group.writeP]
@[simp] theorem Group.writeP_haltTick (g : Group) (m : Mask) (r : PReg) (x : Mask) : (g.writeP m r x).haltTick = g.haltTick := by dsimp only [Group.writeP]
@[simp] theorem Group.writeP_spilled (g : Group) (m : Mask) (r : PReg) (x : Mask) : (g.writeP m r x).spilled = g.spilled := by dsimp only [Group.writeP]
@[simp] theorem Group.writeP_marked (g : Group) (m : Mask) (r : PReg) (x : Mask) : (g.writeP m r x).marked = g.marked := by dsimp only [Group.writeP]
@[simp] theorem Group.writeP_suspended (g : Group) (m : Mask) (r : PReg) (x : Mask) : (g.writeP m r x).suspended = g.suspended := by dsimp only [Group.writeP]
@[simp] theorem Group.writeP_fetchHeld (g : Group) (m : Mask) (r : PReg) (x : Mask) : (g.writeP m r x).fetchHeld = g.fetchHeld := by dsimp only [Group.writeP]
@[simp] theorem Group.writeP_borrow (g : Group) (m : Mask) (r : PReg) (x : Mask) : (g.writeP m r x).borrow = g.borrow := by dsimp only [Group.writeP]
@[simp] theorem Group.writeP_emTraced (g : Group) (m : Mask) (r : PReg) (x : Mask) : (g.writeP m r x).emTraced = g.emTraced := by dsimp only [Group.writeP]
@[simp] theorem Group.writeP_hits (g : Group) (m : Mask) (r : PReg) (x : Mask) : (g.writeP m r x).hits = g.hits := by dsimp only [Group.writeP]
@[simp] theorem Group.writeP_last (g : Group) (m : Mask) (r : PReg) (x : Mask) : (g.writeP m r x).last = g.last := by dsimp only [Group.writeP]

/-! `Group.setL`. -/

@[simp] theorem Group.setL_key (g : Group) (r : LReg) (x : Lanes) : (g.setL r x).key = g.key := by unfold Group.setL; split <;> rfl
@[simp] theorem Group.setL_launch (g : Group) (r : LReg) (x : Lanes) : (g.setL r x).launch = g.launch := by unfold Group.setL; split <;> rfl
@[simp] theorem Group.setL_team (g : Group) (r : LReg) (x : Lanes) : (g.setL r x).team = g.team := by unfold Group.setL; split <;> rfl
@[simp] theorem Group.setL_idx (g : Group) (r : LReg) (x : Lanes) : (g.setL r x).idx = g.idx := by unfold Group.setL; split <;> rfl
@[simp] theorem Group.setL_role (g : Group) (r : LReg) (x : Lanes) : (g.setL r x).role = g.role := by unfold Group.setL; split <;> rfl
@[simp] theorem Group.setL_core (g : Group) (r : LReg) (x : Lanes) : (g.setL r x).core = g.core := by unfold Group.setL; split <;> rfl
@[simp] theorem Group.setL_slot (g : Group) (r : LReg) (x : Lanes) : (g.setL r x).slot = g.slot := by unfold Group.setL; split <;> rfl
@[simp] theorem Group.setL_gid (g : Group) (r : LReg) (x : Lanes) : (g.setL r x).gid = g.gid := by unfold Group.setL; split <;> rfl
@[simp] theorem Group.setL_tid (g : Group) (r : LReg) (x : Lanes) : (g.setL r x).tid = g.tid := by unfold Group.setL; split <;> rfl
@[simp] theorem Group.setL_s (g : Group) (r : LReg) (x : Lanes) : (g.setL r x).s = g.s := by unfold Group.setL; split <;> rfl
@[simp] theorem Group.setL_p (g : Group) (r : LReg) (x : Lanes) : (g.setL r x).p = g.p := by unfold Group.setL; split <;> rfl
@[simp] theorem Group.setL_em (g : Group) (r : LReg) (x : Lanes) : (g.setL r x).em = g.em := by unfold Group.setL; split <;> rfl
@[simp] theorem Group.setL_live (g : Group) (r : LReg) (x : Lanes) : (g.setL r x).live = g.live := by unfold Group.setL; split <;> rfl
@[simp] theorem Group.setL_launched (g : Group) (r : LReg) (x : Lanes) : (g.setL r x).launched = g.launched := by unfold Group.setL; split <;> rfl
@[simp] theorem Group.setL_pc (g : Group) (r : LReg) (x : Lanes) : (g.setL r x).pc = g.pc := by unfold Group.setL; split <;> rfl
@[simp] theorem Group.setL_bankV (g : Group) (r : LReg) (x : Lanes) : (g.setL r x).bankV = g.bankV := by unfold Group.setL; split <;> rfl
@[simp] theorem Group.setL_bankS (g : Group) (r : LReg) (x : Lanes) : (g.setL r x).bankS = g.bankS := by unfold Group.setL; split <;> rfl
@[simp] theorem Group.setL_qw (g : Group) (r : LReg) (x : Lanes) : (g.setL r x).qw = g.qw := by unfold Group.setL; split <;> rfl
@[simp] theorem Group.setL_domain (g : Group) (r : LReg) (x : Lanes) : (g.setL r x).domain = g.domain := by unfold Group.setL; split <;> rfl
@[simp] theorem Group.setL_regpc (g : Group) (r : LReg) (x : Lanes) : (g.setL r x).regpc = g.regpc := by unfold Group.setL; split <;> rfl
@[simp] theorem Group.setL_stack (g : Group) (r : LReg) (x : Lanes) : (g.setL r x).stack = g.stack := by unfold Group.setL; split <;> rfl
@[simp] theorem Group.setL_frm (g : Group) (r : LReg) (x : Lanes) : (g.setL r x).frm = g.frm := by unfold Group.setL; split <;> rfl
@[simp] theorem Group.setL_fflags (g : Group) (r : LReg) (x : Lanes) : (g.setL r x).fflags = g.fflags := by unfold Group.setL; split <;> rfl
@[simp] theorem Group.setL_trapMode (g : Group) (r : LReg) (x : Lanes) : (g.setL r x).trapMode = g.trapMode := by unfold Group.setL; split <;> rfl
@[simp] theorem Group.setL_trapCause (g : Group) (r : LReg) (x : Lanes) : (g.setL r x).trapCause = g.trapCause := by unfold Group.setL; split <;> rfl
@[simp] theorem Group.setL_trapPc (g : Group) (r : LReg) (x : Lanes) : (g.setL r x).trapPc = g.trapPc := by unfold Group.setL; split <;> rfl
@[simp] theorem Group.setL_trapLanes (g : Group) (r : LReg) (x : Lanes) : (g.setL r x).trapLanes = g.trapLanes := by unfold Group.setL; split <;> rfl
@[simp] theorem Group.setL_trapInfo (g : Group) (r : LReg) (x : Lanes) : (g.setL r x).trapInfo = g.trapInfo := by unfold Group.setL; split <;> rfl
@[simp] theorem Group.setL_trapEm (g : Group) (r : LReg) (x : Lanes) : (g.setL r x).trapEm = g.trapEm := by unfold Group.setL; split <;> rfl
@[simp] theorem Group.setL_tasklink (g : Group) (r : LReg) (x : Lanes) : (g.setL r x).tasklink = g.tasklink := by unfold Group.setL; split <;> rfl
@[simp] theorem Group.setL_retired (g : Group) (r : LReg) (x : Lanes) : (g.setL r x).retired = g.retired := by unfold Group.setL; split <;> rfl
@[simp] theorem Group.setL_startTick (g : Group) (r : LReg) (x : Lanes) : (g.setL r x).startTick = g.startTick := by unfold Group.setL; split <;> rfl
@[simp] theorem Group.setL_dbgctl (g : Group) (r : LReg) (x : Lanes) : (g.setL r x).dbgctl = g.dbgctl := by unfold Group.setL; split <;> rfl
@[simp] theorem Group.setL_wwr (g : Group) (r : LReg) (x : Lanes) : (g.setL r x).wwr = g.wwr := by unfold Group.setL; split <;> rfl
@[simp] theorem Group.setL_whit (g : Group) (r : LReg) (x : Lanes) : (g.setL r x).whit = g.whit := by unfold Group.setL; split <;> rfl
@[simp] theorem Group.setL_spend (g : Group) (r : LReg) (x : Lanes) : (g.setL r x).spend = g.spend := by unfold Group.setL; split <;> rfl
@[simp] theorem Group.setL_outv (g : Group) (r : LReg) (x : Lanes) : (g.setL r x).outv = g.outv := by unfold Group.setL; split <;> rfl
@[simp] theorem Group.setL_inv (g : Group) (r : LReg) (x : Lanes) : (g.setL r x).inv = g.inv := by unfold Group.setL; split <;> rfl
@[simp] theorem Group.setL_dbgout (g : Group) (r : LReg) (x : Lanes) : (g.setL r x).dbgout = g.dbgout := by unfold Group.setL; split <;> rfl
@[simp] theorem Group.setL_dbgin (g : Group) (r : LReg) (x : Lanes) : (g.setL r x).dbgin = g.dbgin := by unfold Group.setL; split <;> rfl
@[simp] theorem Group.setL_runLen (g : Group) (r : LReg) (x : Lanes) : (g.setL r x).runLen = g.runLen := by unfold Group.setL; split <;> rfl
@[simp] theorem Group.setL_inflight (g : Group) (r : LReg) (x : Lanes) : (g.setL r x).inflight = g.inflight := by unfold Group.setL; split <;> rfl
@[simp] theorem Group.setL_pendS (g : Group) (r : LReg) (x : Lanes) : (g.setL r x).pendS = g.pendS := by unfold Group.setL; split <;> rfl
@[simp] theorem Group.setL_joins (g : Group) (r : LReg) (x : Lanes) : (g.setL r x).joins = g.joins := by unfold Group.setL; split <;> rfl
@[simp] theorem Group.setL_trailer (g : Group) (r : LReg) (x : Lanes) : (g.setL r x).trailer = g.trailer := by unfold Group.setL; split <;> rfl
@[simp] theorem Group.setL_held (g : Group) (r : LReg) (x : Lanes) : (g.setL r x).held = g.held := by unfold Group.setL; split <;> rfl
@[simp] theorem Group.setL_heldT (g : Group) (r : LReg) (x : Lanes) : (g.setL r x).heldT = g.heldT := by unfold Group.setL; split <;> rfl
@[simp] theorem Group.setL_epoch (g : Group) (r : LReg) (x : Lanes) : (g.setL r x).epoch = g.epoch := by unfold Group.setL; split <;> rfl
@[simp] theorem Group.setL_side (g : Group) (r : LReg) (x : Lanes) : (g.setL r x).side = g.side := by unfold Group.setL; split <;> rfl
@[simp] theorem Group.setL_heldOps (g : Group) (r : LReg) (x : Lanes) : (g.setL r x).heldOps = g.heldOps := by unfold Group.setL; split <;> rfl
@[simp] theorem Group.setL_late (g : Group) (r : LReg) (x : Lanes) : (g.setL r x).late = g.late := by unfold Group.setL; split <;> rfl
@[simp] theorem Group.setL_drains (g : Group) (r : LReg) (x : Lanes) : (g.setL r x).drains = g.drains := by unfold Group.setL; split <;> rfl
@[simp] theorem Group.setL_bound (g : Group) (r : LReg) (x : Lanes) : (g.setL r x).bound = g.bound := by unfold Group.setL; split <;> rfl
@[simp] theorem Group.setL_reds (g : Group) (r : LReg) (x : Lanes) : (g.setL r x).reds = g.reds := by unfold Group.setL; split <;> rfl
@[simp] theorem Group.setL_wait (g : Group) (r : LReg) (x : Lanes) : (g.setL r x).wait = g.wait := by unfold Group.setL; split <;> rfl
@[simp] theorem Group.setL_waitEnd (g : Group) (r : LReg) (x : Lanes) : (g.setL r x).waitEnd = g.waitEnd := by unfold Group.setL; split <;> rfl
@[simp] theorem Group.setL_holds (g : Group) (r : LReg) (x : Lanes) : (g.setL r x).holds = g.holds := by unfold Group.setL; split <;> rfl
@[simp] theorem Group.setL_since (g : Group) (r : LReg) (x : Lanes) : (g.setL r x).since = g.since := by unfold Group.setL; split <;> rfl
@[simp] theorem Group.setL_served (g : Group) (r : LReg) (x : Lanes) : (g.setL r x).served = g.served := by unfold Group.setL; split <;> rfl
@[simp] theorem Group.setL_region (g : Group) (r : LReg) (x : Lanes) : (g.setL r x).region = g.region := by unfold Group.setL; split <;> rfl
@[simp] theorem Group.setL_restarts (g : Group) (r : LReg) (x : Lanes) : (g.setL r x).restarts = g.restarts := by unfold Group.setL; split <;> rfl
@[simp] theorem Group.setL_poison (g : Group) (r : LReg) (x : Lanes) : (g.setL r x).poison = g.poison := by unfold Group.setL; split <;> rfl
@[simp] theorem Group.setL_sig (g : Group) (r : LReg) (x : Lanes) : (g.setL r x).sig = g.sig := by unfold Group.setL; split <;> rfl
@[simp] theorem Group.setL_twin (g : Group) (r : LReg) (x : Lanes) : (g.setL r x).twin = g.twin := by unfold Group.setL; split <;> rfl
@[simp] theorem Group.setL_leader (g : Group) (r : LReg) (x : Lanes) : (g.setL r x).leader = g.leader := by unfold Group.setL; split <;> rfl
@[simp] theorem Group.setL_rdv (g : Group) (r : LReg) (x : Lanes) : (g.setL r x).rdv = g.rdv := by unfold Group.setL; split <;> rfl
@[simp] theorem Group.setL_mismatches (g : Group) (r : LReg) (x : Lanes) : (g.setL r x).mismatches = g.mismatches := by unfold Group.setL; split <;> rfl
@[simp] theorem Group.setL_mismatchAt (g : Group) (r : LReg) (x : Lanes) : (g.setL r x).mismatchAt = g.mismatchAt := by unfold Group.setL; split <;> rfl
@[simp] theorem Group.setL_watchdog (g : Group) (r : LReg) (x : Lanes) : (g.setL r x).watchdog = g.watchdog := by unfold Group.setL; split <;> rfl
@[simp] theorem Group.setL_replay (g : Group) (r : LReg) (x : Lanes) : (g.setL r x).replay = g.replay := by unfold Group.setL; split <;> rfl
@[simp] theorem Group.setL_packets (g : Group) (r : LReg) (x : Lanes) : (g.setL r x).packets = g.packets := by unfold Group.setL; split <;> rfl
@[simp] theorem Group.setL_owed (g : Group) (r : LReg) (x : Lanes) : (g.setL r x).owed = g.owed := by unfold Group.setL; split <;> rfl
@[simp] theorem Group.setL_sinceBar (g : Group) (r : LReg) (x : Lanes) : (g.setL r x).sinceBar = g.sinceBar := by unfold Group.setL; split <;> rfl
@[simp] theorem Group.setL_age (g : Group) (r : LReg) (x : Lanes) : (g.setL r x).age = g.age := by unfold Group.setL; split <;> rfl
@[simp] theorem Group.setL_port (g : Group) (r : LReg) (x : Lanes) : (g.setL r x).port = g.port := by unfold Group.setL; split <;> rfl
@[simp] theorem Group.setL_ended (g : Group) (r : LReg) (x : Lanes) : (g.setL r x).ended = g.ended := by unfold Group.setL; split <;> rfl
@[simp] theorem Group.setL_halted (g : Group) (r : LReg) (x : Lanes) : (g.setL r x).halted = g.halted := by unfold Group.setL; split <;> rfl
@[simp] theorem Group.setL_dbgHalt (g : Group) (r : LReg) (x : Lanes) : (g.setL r x).dbgHalt = g.dbgHalt := by unfold Group.setL; split <;> rfl
@[simp] theorem Group.setL_preempted (g : Group) (r : LReg) (x : Lanes) : (g.setL r x).preempted = g.preempted := by unfold Group.setL; split <;> rfl
@[simp] theorem Group.setL_haltTick (g : Group) (r : LReg) (x : Lanes) : (g.setL r x).haltTick = g.haltTick := by unfold Group.setL; split <;> rfl
@[simp] theorem Group.setL_spilled (g : Group) (r : LReg) (x : Lanes) : (g.setL r x).spilled = g.spilled := by unfold Group.setL; split <;> rfl
@[simp] theorem Group.setL_marked (g : Group) (r : LReg) (x : Lanes) : (g.setL r x).marked = g.marked := by unfold Group.setL; split <;> rfl
@[simp] theorem Group.setL_suspended (g : Group) (r : LReg) (x : Lanes) : (g.setL r x).suspended = g.suspended := by unfold Group.setL; split <;> rfl
@[simp] theorem Group.setL_fetchHeld (g : Group) (r : LReg) (x : Lanes) : (g.setL r x).fetchHeld = g.fetchHeld := by unfold Group.setL; split <;> rfl
@[simp] theorem Group.setL_borrow (g : Group) (r : LReg) (x : Lanes) : (g.setL r x).borrow = g.borrow := by unfold Group.setL; split <;> rfl
@[simp] theorem Group.setL_emTraced (g : Group) (r : LReg) (x : Lanes) : (g.setL r x).emTraced = g.emTraced := by unfold Group.setL; split <;> rfl
@[simp] theorem Group.setL_hits (g : Group) (r : LReg) (x : Lanes) : (g.setL r x).hits = g.hits := by unfold Group.setL; split <;> rfl
@[simp] theorem Group.setL_last (g : Group) (r : LReg) (x : Lanes) : (g.setL r x).last = g.last := by unfold Group.setL; split <;> rfl

/-! `Group.writeL`. -/

@[simp] theorem Group.writeL_key (g : Group) (m : Mask) (r : LReg) (f : Nat → Word) : (g.writeL m r f).key = g.key := by unfold Group.writeL; split <;> simp
@[simp] theorem Group.writeL_launch (g : Group) (m : Mask) (r : LReg) (f : Nat → Word) : (g.writeL m r f).launch = g.launch := by unfold Group.writeL; split <;> simp
@[simp] theorem Group.writeL_team (g : Group) (m : Mask) (r : LReg) (f : Nat → Word) : (g.writeL m r f).team = g.team := by unfold Group.writeL; split <;> simp
@[simp] theorem Group.writeL_idx (g : Group) (m : Mask) (r : LReg) (f : Nat → Word) : (g.writeL m r f).idx = g.idx := by unfold Group.writeL; split <;> simp
@[simp] theorem Group.writeL_role (g : Group) (m : Mask) (r : LReg) (f : Nat → Word) : (g.writeL m r f).role = g.role := by unfold Group.writeL; split <;> simp
@[simp] theorem Group.writeL_core (g : Group) (m : Mask) (r : LReg) (f : Nat → Word) : (g.writeL m r f).core = g.core := by unfold Group.writeL; split <;> simp
@[simp] theorem Group.writeL_slot (g : Group) (m : Mask) (r : LReg) (f : Nat → Word) : (g.writeL m r f).slot = g.slot := by unfold Group.writeL; split <;> simp
@[simp] theorem Group.writeL_gid (g : Group) (m : Mask) (r : LReg) (f : Nat → Word) : (g.writeL m r f).gid = g.gid := by unfold Group.writeL; split <;> simp
@[simp] theorem Group.writeL_tid (g : Group) (m : Mask) (r : LReg) (f : Nat → Word) : (g.writeL m r f).tid = g.tid := by unfold Group.writeL; split <;> simp
@[simp] theorem Group.writeL_s (g : Group) (m : Mask) (r : LReg) (f : Nat → Word) : (g.writeL m r f).s = g.s := by unfold Group.writeL; split <;> simp
@[simp] theorem Group.writeL_p (g : Group) (m : Mask) (r : LReg) (f : Nat → Word) : (g.writeL m r f).p = g.p := by unfold Group.writeL; split <;> simp
@[simp] theorem Group.writeL_em (g : Group) (m : Mask) (r : LReg) (f : Nat → Word) : (g.writeL m r f).em = g.em := by unfold Group.writeL; split <;> simp
@[simp] theorem Group.writeL_live (g : Group) (m : Mask) (r : LReg) (f : Nat → Word) : (g.writeL m r f).live = g.live := by unfold Group.writeL; split <;> simp
@[simp] theorem Group.writeL_launched (g : Group) (m : Mask) (r : LReg) (f : Nat → Word) : (g.writeL m r f).launched = g.launched := by unfold Group.writeL; split <;> simp
@[simp] theorem Group.writeL_pc (g : Group) (m : Mask) (r : LReg) (f : Nat → Word) : (g.writeL m r f).pc = g.pc := by unfold Group.writeL; split <;> simp
@[simp] theorem Group.writeL_bankV (g : Group) (m : Mask) (r : LReg) (f : Nat → Word) : (g.writeL m r f).bankV = g.bankV := by unfold Group.writeL; split <;> simp
@[simp] theorem Group.writeL_bankS (g : Group) (m : Mask) (r : LReg) (f : Nat → Word) : (g.writeL m r f).bankS = g.bankS := by unfold Group.writeL; split <;> simp
@[simp] theorem Group.writeL_qw (g : Group) (m : Mask) (r : LReg) (f : Nat → Word) : (g.writeL m r f).qw = g.qw := by unfold Group.writeL; split <;> simp
@[simp] theorem Group.writeL_domain (g : Group) (m : Mask) (r : LReg) (f : Nat → Word) : (g.writeL m r f).domain = g.domain := by unfold Group.writeL; split <;> simp
@[simp] theorem Group.writeL_regpc (g : Group) (m : Mask) (r : LReg) (f : Nat → Word) : (g.writeL m r f).regpc = g.regpc := by unfold Group.writeL; split <;> simp
@[simp] theorem Group.writeL_stack (g : Group) (m : Mask) (r : LReg) (f : Nat → Word) : (g.writeL m r f).stack = g.stack := by unfold Group.writeL; split <;> simp
@[simp] theorem Group.writeL_frm (g : Group) (m : Mask) (r : LReg) (f : Nat → Word) : (g.writeL m r f).frm = g.frm := by unfold Group.writeL; split <;> simp
@[simp] theorem Group.writeL_fflags (g : Group) (m : Mask) (r : LReg) (f : Nat → Word) : (g.writeL m r f).fflags = g.fflags := by unfold Group.writeL; split <;> simp
@[simp] theorem Group.writeL_trapMode (g : Group) (m : Mask) (r : LReg) (f : Nat → Word) : (g.writeL m r f).trapMode = g.trapMode := by unfold Group.writeL; split <;> simp
@[simp] theorem Group.writeL_trapCause (g : Group) (m : Mask) (r : LReg) (f : Nat → Word) : (g.writeL m r f).trapCause = g.trapCause := by unfold Group.writeL; split <;> simp
@[simp] theorem Group.writeL_trapPc (g : Group) (m : Mask) (r : LReg) (f : Nat → Word) : (g.writeL m r f).trapPc = g.trapPc := by unfold Group.writeL; split <;> simp
@[simp] theorem Group.writeL_trapLanes (g : Group) (m : Mask) (r : LReg) (f : Nat → Word) : (g.writeL m r f).trapLanes = g.trapLanes := by unfold Group.writeL; split <;> simp
@[simp] theorem Group.writeL_trapInfo (g : Group) (m : Mask) (r : LReg) (f : Nat → Word) : (g.writeL m r f).trapInfo = g.trapInfo := by unfold Group.writeL; split <;> simp
@[simp] theorem Group.writeL_trapEm (g : Group) (m : Mask) (r : LReg) (f : Nat → Word) : (g.writeL m r f).trapEm = g.trapEm := by unfold Group.writeL; split <;> simp
@[simp] theorem Group.writeL_tasklink (g : Group) (m : Mask) (r : LReg) (f : Nat → Word) : (g.writeL m r f).tasklink = g.tasklink := by unfold Group.writeL; split <;> simp
@[simp] theorem Group.writeL_retired (g : Group) (m : Mask) (r : LReg) (f : Nat → Word) : (g.writeL m r f).retired = g.retired := by unfold Group.writeL; split <;> simp
@[simp] theorem Group.writeL_startTick (g : Group) (m : Mask) (r : LReg) (f : Nat → Word) : (g.writeL m r f).startTick = g.startTick := by unfold Group.writeL; split <;> simp
@[simp] theorem Group.writeL_dbgctl (g : Group) (m : Mask) (r : LReg) (f : Nat → Word) : (g.writeL m r f).dbgctl = g.dbgctl := by unfold Group.writeL; split <;> simp
@[simp] theorem Group.writeL_wwr (g : Group) (m : Mask) (r : LReg) (f : Nat → Word) : (g.writeL m r f).wwr = g.wwr := by unfold Group.writeL; split <;> simp
@[simp] theorem Group.writeL_whit (g : Group) (m : Mask) (r : LReg) (f : Nat → Word) : (g.writeL m r f).whit = g.whit := by unfold Group.writeL; split <;> simp
@[simp] theorem Group.writeL_spend (g : Group) (m : Mask) (r : LReg) (f : Nat → Word) : (g.writeL m r f).spend = g.spend := by unfold Group.writeL; split <;> simp
@[simp] theorem Group.writeL_outv (g : Group) (m : Mask) (r : LReg) (f : Nat → Word) : (g.writeL m r f).outv = g.outv := by unfold Group.writeL; split <;> simp
@[simp] theorem Group.writeL_inv (g : Group) (m : Mask) (r : LReg) (f : Nat → Word) : (g.writeL m r f).inv = g.inv := by unfold Group.writeL; split <;> simp
@[simp] theorem Group.writeL_dbgout (g : Group) (m : Mask) (r : LReg) (f : Nat → Word) : (g.writeL m r f).dbgout = g.dbgout := by unfold Group.writeL; split <;> simp
@[simp] theorem Group.writeL_dbgin (g : Group) (m : Mask) (r : LReg) (f : Nat → Word) : (g.writeL m r f).dbgin = g.dbgin := by unfold Group.writeL; split <;> simp
@[simp] theorem Group.writeL_runLen (g : Group) (m : Mask) (r : LReg) (f : Nat → Word) : (g.writeL m r f).runLen = g.runLen := by unfold Group.writeL; split <;> simp
@[simp] theorem Group.writeL_inflight (g : Group) (m : Mask) (r : LReg) (f : Nat → Word) : (g.writeL m r f).inflight = g.inflight := by unfold Group.writeL; split <;> simp
@[simp] theorem Group.writeL_pendS (g : Group) (m : Mask) (r : LReg) (f : Nat → Word) : (g.writeL m r f).pendS = g.pendS := by unfold Group.writeL; split <;> simp
@[simp] theorem Group.writeL_joins (g : Group) (m : Mask) (r : LReg) (f : Nat → Word) : (g.writeL m r f).joins = g.joins := by unfold Group.writeL; split <;> simp
@[simp] theorem Group.writeL_trailer (g : Group) (m : Mask) (r : LReg) (f : Nat → Word) : (g.writeL m r f).trailer = g.trailer := by unfold Group.writeL; split <;> simp
@[simp] theorem Group.writeL_held (g : Group) (m : Mask) (r : LReg) (f : Nat → Word) : (g.writeL m r f).held = g.held := by unfold Group.writeL; split <;> simp
@[simp] theorem Group.writeL_heldT (g : Group) (m : Mask) (r : LReg) (f : Nat → Word) : (g.writeL m r f).heldT = g.heldT := by unfold Group.writeL; split <;> simp
@[simp] theorem Group.writeL_epoch (g : Group) (m : Mask) (r : LReg) (f : Nat → Word) : (g.writeL m r f).epoch = g.epoch := by unfold Group.writeL; split <;> simp
@[simp] theorem Group.writeL_side (g : Group) (m : Mask) (r : LReg) (f : Nat → Word) : (g.writeL m r f).side = g.side := by unfold Group.writeL; split <;> simp
@[simp] theorem Group.writeL_heldOps (g : Group) (m : Mask) (r : LReg) (f : Nat → Word) : (g.writeL m r f).heldOps = g.heldOps := by unfold Group.writeL; split <;> simp
@[simp] theorem Group.writeL_late (g : Group) (m : Mask) (r : LReg) (f : Nat → Word) : (g.writeL m r f).late = g.late := by unfold Group.writeL; split <;> simp
@[simp] theorem Group.writeL_drains (g : Group) (m : Mask) (r : LReg) (f : Nat → Word) : (g.writeL m r f).drains = g.drains := by unfold Group.writeL; split <;> simp
@[simp] theorem Group.writeL_bound (g : Group) (m : Mask) (r : LReg) (f : Nat → Word) : (g.writeL m r f).bound = g.bound := by unfold Group.writeL; split <;> simp
@[simp] theorem Group.writeL_reds (g : Group) (m : Mask) (r : LReg) (f : Nat → Word) : (g.writeL m r f).reds = g.reds := by unfold Group.writeL; split <;> simp
@[simp] theorem Group.writeL_wait (g : Group) (m : Mask) (r : LReg) (f : Nat → Word) : (g.writeL m r f).wait = g.wait := by unfold Group.writeL; split <;> simp
@[simp] theorem Group.writeL_waitEnd (g : Group) (m : Mask) (r : LReg) (f : Nat → Word) : (g.writeL m r f).waitEnd = g.waitEnd := by unfold Group.writeL; split <;> simp
@[simp] theorem Group.writeL_holds (g : Group) (m : Mask) (r : LReg) (f : Nat → Word) : (g.writeL m r f).holds = g.holds := by unfold Group.writeL; split <;> simp
@[simp] theorem Group.writeL_since (g : Group) (m : Mask) (r : LReg) (f : Nat → Word) : (g.writeL m r f).since = g.since := by unfold Group.writeL; split <;> simp
@[simp] theorem Group.writeL_served (g : Group) (m : Mask) (r : LReg) (f : Nat → Word) : (g.writeL m r f).served = g.served := by unfold Group.writeL; split <;> simp
@[simp] theorem Group.writeL_region (g : Group) (m : Mask) (r : LReg) (f : Nat → Word) : (g.writeL m r f).region = g.region := by unfold Group.writeL; split <;> simp
@[simp] theorem Group.writeL_restarts (g : Group) (m : Mask) (r : LReg) (f : Nat → Word) : (g.writeL m r f).restarts = g.restarts := by unfold Group.writeL; split <;> simp
@[simp] theorem Group.writeL_poison (g : Group) (m : Mask) (r : LReg) (f : Nat → Word) : (g.writeL m r f).poison = g.poison := by unfold Group.writeL; split <;> simp
@[simp] theorem Group.writeL_sig (g : Group) (m : Mask) (r : LReg) (f : Nat → Word) : (g.writeL m r f).sig = g.sig := by unfold Group.writeL; split <;> simp
@[simp] theorem Group.writeL_twin (g : Group) (m : Mask) (r : LReg) (f : Nat → Word) : (g.writeL m r f).twin = g.twin := by unfold Group.writeL; split <;> simp
@[simp] theorem Group.writeL_leader (g : Group) (m : Mask) (r : LReg) (f : Nat → Word) : (g.writeL m r f).leader = g.leader := by unfold Group.writeL; split <;> simp
@[simp] theorem Group.writeL_rdv (g : Group) (m : Mask) (r : LReg) (f : Nat → Word) : (g.writeL m r f).rdv = g.rdv := by unfold Group.writeL; split <;> simp
@[simp] theorem Group.writeL_mismatches (g : Group) (m : Mask) (r : LReg) (f : Nat → Word) : (g.writeL m r f).mismatches = g.mismatches := by unfold Group.writeL; split <;> simp
@[simp] theorem Group.writeL_mismatchAt (g : Group) (m : Mask) (r : LReg) (f : Nat → Word) : (g.writeL m r f).mismatchAt = g.mismatchAt := by unfold Group.writeL; split <;> simp
@[simp] theorem Group.writeL_watchdog (g : Group) (m : Mask) (r : LReg) (f : Nat → Word) : (g.writeL m r f).watchdog = g.watchdog := by unfold Group.writeL; split <;> simp
@[simp] theorem Group.writeL_replay (g : Group) (m : Mask) (r : LReg) (f : Nat → Word) : (g.writeL m r f).replay = g.replay := by unfold Group.writeL; split <;> simp
@[simp] theorem Group.writeL_packets (g : Group) (m : Mask) (r : LReg) (f : Nat → Word) : (g.writeL m r f).packets = g.packets := by unfold Group.writeL; split <;> simp
@[simp] theorem Group.writeL_owed (g : Group) (m : Mask) (r : LReg) (f : Nat → Word) : (g.writeL m r f).owed = g.owed := by unfold Group.writeL; split <;> simp
@[simp] theorem Group.writeL_sinceBar (g : Group) (m : Mask) (r : LReg) (f : Nat → Word) : (g.writeL m r f).sinceBar = g.sinceBar := by unfold Group.writeL; split <;> simp
@[simp] theorem Group.writeL_age (g : Group) (m : Mask) (r : LReg) (f : Nat → Word) : (g.writeL m r f).age = g.age := by unfold Group.writeL; split <;> simp
@[simp] theorem Group.writeL_port (g : Group) (m : Mask) (r : LReg) (f : Nat → Word) : (g.writeL m r f).port = g.port := by unfold Group.writeL; split <;> simp
@[simp] theorem Group.writeL_ended (g : Group) (m : Mask) (r : LReg) (f : Nat → Word) : (g.writeL m r f).ended = g.ended := by unfold Group.writeL; split <;> simp
@[simp] theorem Group.writeL_halted (g : Group) (m : Mask) (r : LReg) (f : Nat → Word) : (g.writeL m r f).halted = g.halted := by unfold Group.writeL; split <;> simp
@[simp] theorem Group.writeL_dbgHalt (g : Group) (m : Mask) (r : LReg) (f : Nat → Word) : (g.writeL m r f).dbgHalt = g.dbgHalt := by unfold Group.writeL; split <;> simp
@[simp] theorem Group.writeL_preempted (g : Group) (m : Mask) (r : LReg) (f : Nat → Word) : (g.writeL m r f).preempted = g.preempted := by unfold Group.writeL; split <;> simp
@[simp] theorem Group.writeL_haltTick (g : Group) (m : Mask) (r : LReg) (f : Nat → Word) : (g.writeL m r f).haltTick = g.haltTick := by unfold Group.writeL; split <;> simp
@[simp] theorem Group.writeL_spilled (g : Group) (m : Mask) (r : LReg) (f : Nat → Word) : (g.writeL m r f).spilled = g.spilled := by unfold Group.writeL; split <;> simp
@[simp] theorem Group.writeL_marked (g : Group) (m : Mask) (r : LReg) (f : Nat → Word) : (g.writeL m r f).marked = g.marked := by unfold Group.writeL; split <;> simp
@[simp] theorem Group.writeL_suspended (g : Group) (m : Mask) (r : LReg) (f : Nat → Word) : (g.writeL m r f).suspended = g.suspended := by unfold Group.writeL; split <;> simp
@[simp] theorem Group.writeL_fetchHeld (g : Group) (m : Mask) (r : LReg) (f : Nat → Word) : (g.writeL m r f).fetchHeld = g.fetchHeld := by unfold Group.writeL; split <;> simp
@[simp] theorem Group.writeL_borrow (g : Group) (m : Mask) (r : LReg) (f : Nat → Word) : (g.writeL m r f).borrow = g.borrow := by unfold Group.writeL; split <;> simp
@[simp] theorem Group.writeL_emTraced (g : Group) (m : Mask) (r : LReg) (f : Nat → Word) : (g.writeL m r f).emTraced = g.emTraced := by unfold Group.writeL; split <;> simp
@[simp] theorem Group.writeL_hits (g : Group) (m : Mask) (r : LReg) (f : Nat → Word) : (g.writeL m r f).hits = g.hits := by unfold Group.writeL; split <;> simp
@[simp] theorem Group.writeL_last (g : Group) (m : Mask) (r : LReg) (f : Nat → Word) : (g.writeL m r f).last = g.last := by unfold Group.writeL; split <;> simp

/-! `Group.retireTo`. -/

@[simp] theorem Group.retireTo_key (g : Group) (pc : Word) : (g.retireTo pc).key = g.key := by dsimp only [Group.retireTo]
@[simp] theorem Group.retireTo_launch (g : Group) (pc : Word) : (g.retireTo pc).launch = g.launch := by dsimp only [Group.retireTo]
@[simp] theorem Group.retireTo_team (g : Group) (pc : Word) : (g.retireTo pc).team = g.team := by dsimp only [Group.retireTo]
@[simp] theorem Group.retireTo_idx (g : Group) (pc : Word) : (g.retireTo pc).idx = g.idx := by dsimp only [Group.retireTo]
@[simp] theorem Group.retireTo_role (g : Group) (pc : Word) : (g.retireTo pc).role = g.role := by dsimp only [Group.retireTo]
@[simp] theorem Group.retireTo_core (g : Group) (pc : Word) : (g.retireTo pc).core = g.core := by dsimp only [Group.retireTo]
@[simp] theorem Group.retireTo_slot (g : Group) (pc : Word) : (g.retireTo pc).slot = g.slot := by dsimp only [Group.retireTo]
@[simp] theorem Group.retireTo_gid (g : Group) (pc : Word) : (g.retireTo pc).gid = g.gid := by dsimp only [Group.retireTo]
@[simp] theorem Group.retireTo_tid (g : Group) (pc : Word) : (g.retireTo pc).tid = g.tid := by dsimp only [Group.retireTo]
@[simp] theorem Group.retireTo_v (g : Group) (pc : Word) : (g.retireTo pc).v = g.v := by dsimp only [Group.retireTo]
@[simp] theorem Group.retireTo_e (g : Group) (pc : Word) : (g.retireTo pc).e = g.e := by dsimp only [Group.retireTo]
@[simp] theorem Group.retireTo_s (g : Group) (pc : Word) : (g.retireTo pc).s = g.s := by dsimp only [Group.retireTo]
@[simp] theorem Group.retireTo_p (g : Group) (pc : Word) : (g.retireTo pc).p = g.p := by dsimp only [Group.retireTo]
@[simp] theorem Group.retireTo_em (g : Group) (pc : Word) : (g.retireTo pc).em = g.em := by dsimp only [Group.retireTo]
@[simp] theorem Group.retireTo_live (g : Group) (pc : Word) : (g.retireTo pc).live = g.live := by dsimp only [Group.retireTo]
@[simp] theorem Group.retireTo_launched (g : Group) (pc : Word) : (g.retireTo pc).launched = g.launched := by dsimp only [Group.retireTo]
@[simp] theorem Group.retireTo_pc (g : Group) (pc : Word) : (g.retireTo pc).pc = pc := by dsimp only [Group.retireTo]
@[simp] theorem Group.retireTo_bankV (g : Group) (pc : Word) : (g.retireTo pc).bankV = g.bankV := by dsimp only [Group.retireTo]
@[simp] theorem Group.retireTo_bankS (g : Group) (pc : Word) : (g.retireTo pc).bankS = g.bankS := by dsimp only [Group.retireTo]
@[simp] theorem Group.retireTo_qw (g : Group) (pc : Word) : (g.retireTo pc).qw = g.qw := by dsimp only [Group.retireTo]
@[simp] theorem Group.retireTo_domain (g : Group) (pc : Word) : (g.retireTo pc).domain = g.domain := by dsimp only [Group.retireTo]
@[simp] theorem Group.retireTo_regpc (g : Group) (pc : Word) : (g.retireTo pc).regpc = g.regpc := by dsimp only [Group.retireTo]
@[simp] theorem Group.retireTo_stack (g : Group) (pc : Word) : (g.retireTo pc).stack = g.stack := by dsimp only [Group.retireTo]
@[simp] theorem Group.retireTo_frm (g : Group) (pc : Word) : (g.retireTo pc).frm = g.frm := by dsimp only [Group.retireTo]
@[simp] theorem Group.retireTo_fflags (g : Group) (pc : Word) : (g.retireTo pc).fflags = g.fflags := by dsimp only [Group.retireTo]
@[simp] theorem Group.retireTo_trapMode (g : Group) (pc : Word) : (g.retireTo pc).trapMode = g.trapMode := by dsimp only [Group.retireTo]
@[simp] theorem Group.retireTo_trapCause (g : Group) (pc : Word) : (g.retireTo pc).trapCause = g.trapCause := by dsimp only [Group.retireTo]
@[simp] theorem Group.retireTo_trapPc (g : Group) (pc : Word) : (g.retireTo pc).trapPc = g.trapPc := by dsimp only [Group.retireTo]
@[simp] theorem Group.retireTo_trapLanes (g : Group) (pc : Word) : (g.retireTo pc).trapLanes = g.trapLanes := by dsimp only [Group.retireTo]
@[simp] theorem Group.retireTo_trapInfo (g : Group) (pc : Word) : (g.retireTo pc).trapInfo = g.trapInfo := by dsimp only [Group.retireTo]
@[simp] theorem Group.retireTo_trapEm (g : Group) (pc : Word) : (g.retireTo pc).trapEm = g.trapEm := by dsimp only [Group.retireTo]
@[simp] theorem Group.retireTo_tasklink (g : Group) (pc : Word) : (g.retireTo pc).tasklink = g.tasklink := by dsimp only [Group.retireTo]
@[simp] theorem Group.retireTo_retired (g : Group) (pc : Word) : (g.retireTo pc).retired = g.retired + 1 := by dsimp only [Group.retireTo]
@[simp] theorem Group.retireTo_startTick (g : Group) (pc : Word) : (g.retireTo pc).startTick = g.startTick := by dsimp only [Group.retireTo]
@[simp] theorem Group.retireTo_dbgctl (g : Group) (pc : Word) : (g.retireTo pc).dbgctl = g.dbgctl := by dsimp only [Group.retireTo]
@[simp] theorem Group.retireTo_wwr (g : Group) (pc : Word) : (g.retireTo pc).wwr = g.wwr := by dsimp only [Group.retireTo]
@[simp] theorem Group.retireTo_whit (g : Group) (pc : Word) : (g.retireTo pc).whit = g.whit := by dsimp only [Group.retireTo]
@[simp] theorem Group.retireTo_spend (g : Group) (pc : Word) : (g.retireTo pc).spend = g.spend := by dsimp only [Group.retireTo]
@[simp] theorem Group.retireTo_outv (g : Group) (pc : Word) : (g.retireTo pc).outv = g.outv := by dsimp only [Group.retireTo]
@[simp] theorem Group.retireTo_inv (g : Group) (pc : Word) : (g.retireTo pc).inv = g.inv := by dsimp only [Group.retireTo]
@[simp] theorem Group.retireTo_dbgout (g : Group) (pc : Word) : (g.retireTo pc).dbgout = g.dbgout := by dsimp only [Group.retireTo]
@[simp] theorem Group.retireTo_dbgin (g : Group) (pc : Word) : (g.retireTo pc).dbgin = g.dbgin := by dsimp only [Group.retireTo]
@[simp] theorem Group.retireTo_runLen (g : Group) (pc : Word) : (g.retireTo pc).runLen = g.runLen := by dsimp only [Group.retireTo]
@[simp] theorem Group.retireTo_eWritten (g : Group) (pc : Word) : (g.retireTo pc).eWritten = g.eWritten := by dsimp only [Group.retireTo]
@[simp] theorem Group.retireTo_inflight (g : Group) (pc : Word) : (g.retireTo pc).inflight = g.inflight := by dsimp only [Group.retireTo]
@[simp] theorem Group.retireTo_pendS (g : Group) (pc : Word) : (g.retireTo pc).pendS = g.pendS := by dsimp only [Group.retireTo]
@[simp] theorem Group.retireTo_joins (g : Group) (pc : Word) : (g.retireTo pc).joins = g.joins := by dsimp only [Group.retireTo]
@[simp] theorem Group.retireTo_trailer (g : Group) (pc : Word) : (g.retireTo pc).trailer = g.trailer := by dsimp only [Group.retireTo]
@[simp] theorem Group.retireTo_held (g : Group) (pc : Word) : (g.retireTo pc).held = g.held := by dsimp only [Group.retireTo]
@[simp] theorem Group.retireTo_heldT (g : Group) (pc : Word) : (g.retireTo pc).heldT = g.heldT := by dsimp only [Group.retireTo]
@[simp] theorem Group.retireTo_epoch (g : Group) (pc : Word) : (g.retireTo pc).epoch = g.epoch := by dsimp only [Group.retireTo]
@[simp] theorem Group.retireTo_side (g : Group) (pc : Word) : (g.retireTo pc).side = g.side := by dsimp only [Group.retireTo]
@[simp] theorem Group.retireTo_heldOps (g : Group) (pc : Word) : (g.retireTo pc).heldOps = g.heldOps := by dsimp only [Group.retireTo]
@[simp] theorem Group.retireTo_late (g : Group) (pc : Word) : (g.retireTo pc).late = g.late := by dsimp only [Group.retireTo]
@[simp] theorem Group.retireTo_drains (g : Group) (pc : Word) : (g.retireTo pc).drains = g.drains := by dsimp only [Group.retireTo]
@[simp] theorem Group.retireTo_bound (g : Group) (pc : Word) : (g.retireTo pc).bound = g.bound := by dsimp only [Group.retireTo]
@[simp] theorem Group.retireTo_reds (g : Group) (pc : Word) : (g.retireTo pc).reds = g.reds := by dsimp only [Group.retireTo]
@[simp] theorem Group.retireTo_wait (g : Group) (pc : Word) : (g.retireTo pc).wait = g.wait := by dsimp only [Group.retireTo]
@[simp] theorem Group.retireTo_waitEnd (g : Group) (pc : Word) : (g.retireTo pc).waitEnd = g.waitEnd := by dsimp only [Group.retireTo]
@[simp] theorem Group.retireTo_holds (g : Group) (pc : Word) : (g.retireTo pc).holds = g.holds := by dsimp only [Group.retireTo]
@[simp] theorem Group.retireTo_since (g : Group) (pc : Word) : (g.retireTo pc).since = g.since := by dsimp only [Group.retireTo]
@[simp] theorem Group.retireTo_served (g : Group) (pc : Word) : (g.retireTo pc).served = g.served := by dsimp only [Group.retireTo]
@[simp] theorem Group.retireTo_region (g : Group) (pc : Word) : (g.retireTo pc).region = g.region := by dsimp only [Group.retireTo]
@[simp] theorem Group.retireTo_restarts (g : Group) (pc : Word) : (g.retireTo pc).restarts = g.restarts := by dsimp only [Group.retireTo]
@[simp] theorem Group.retireTo_poison (g : Group) (pc : Word) : (g.retireTo pc).poison = g.poison := by dsimp only [Group.retireTo]
@[simp] theorem Group.retireTo_sig (g : Group) (pc : Word) : (g.retireTo pc).sig = g.sig := by dsimp only [Group.retireTo]
@[simp] theorem Group.retireTo_twin (g : Group) (pc : Word) : (g.retireTo pc).twin = g.twin := by dsimp only [Group.retireTo]
@[simp] theorem Group.retireTo_leader (g : Group) (pc : Word) : (g.retireTo pc).leader = g.leader := by dsimp only [Group.retireTo]
@[simp] theorem Group.retireTo_rdv (g : Group) (pc : Word) : (g.retireTo pc).rdv = g.rdv := by dsimp only [Group.retireTo]
@[simp] theorem Group.retireTo_mismatches (g : Group) (pc : Word) : (g.retireTo pc).mismatches = g.mismatches := by dsimp only [Group.retireTo]
@[simp] theorem Group.retireTo_mismatchAt (g : Group) (pc : Word) : (g.retireTo pc).mismatchAt = g.mismatchAt := by dsimp only [Group.retireTo]
@[simp] theorem Group.retireTo_watchdog (g : Group) (pc : Word) : (g.retireTo pc).watchdog = 0 := by dsimp only [Group.retireTo]
@[simp] theorem Group.retireTo_replay (g : Group) (pc : Word) : (g.retireTo pc).replay = g.replay := by dsimp only [Group.retireTo]
@[simp] theorem Group.retireTo_packets (g : Group) (pc : Word) : (g.retireTo pc).packets = g.packets := by dsimp only [Group.retireTo]
@[simp] theorem Group.retireTo_owed (g : Group) (pc : Word) : (g.retireTo pc).owed = g.owed := by dsimp only [Group.retireTo]
@[simp] theorem Group.retireTo_sinceBar (g : Group) (pc : Word) : (g.retireTo pc).sinceBar = g.sinceBar + 1 := by dsimp only [Group.retireTo]
@[simp] theorem Group.retireTo_age (g : Group) (pc : Word) : (g.retireTo pc).age = g.age := by dsimp only [Group.retireTo]
@[simp] theorem Group.retireTo_port (g : Group) (pc : Word) : (g.retireTo pc).port = g.port := by dsimp only [Group.retireTo]
@[simp] theorem Group.retireTo_ended (g : Group) (pc : Word) : (g.retireTo pc).ended = g.ended := by dsimp only [Group.retireTo]
@[simp] theorem Group.retireTo_halted (g : Group) (pc : Word) : (g.retireTo pc).halted = g.halted := by dsimp only [Group.retireTo]
@[simp] theorem Group.retireTo_dbgHalt (g : Group) (pc : Word) : (g.retireTo pc).dbgHalt = g.dbgHalt := by dsimp only [Group.retireTo]
@[simp] theorem Group.retireTo_preempted (g : Group) (pc : Word) : (g.retireTo pc).preempted = g.preempted := by dsimp only [Group.retireTo]
@[simp] theorem Group.retireTo_haltTick (g : Group) (pc : Word) : (g.retireTo pc).haltTick = g.haltTick := by dsimp only [Group.retireTo]
@[simp] theorem Group.retireTo_spilled (g : Group) (pc : Word) : (g.retireTo pc).spilled = g.spilled := by dsimp only [Group.retireTo]
@[simp] theorem Group.retireTo_marked (g : Group) (pc : Word) : (g.retireTo pc).marked = g.marked := by dsimp only [Group.retireTo]
@[simp] theorem Group.retireTo_suspended (g : Group) (pc : Word) : (g.retireTo pc).suspended = g.suspended := by dsimp only [Group.retireTo]
@[simp] theorem Group.retireTo_fetchHeld (g : Group) (pc : Word) : (g.retireTo pc).fetchHeld = g.fetchHeld := by dsimp only [Group.retireTo]
@[simp] theorem Group.retireTo_borrow (g : Group) (pc : Word) : (g.retireTo pc).borrow = g.borrow := by dsimp only [Group.retireTo]
@[simp] theorem Group.retireTo_emTraced (g : Group) (pc : Word) : (g.retireTo pc).emTraced = g.emTraced := by dsimp only [Group.retireTo]
@[simp] theorem Group.retireTo_hits (g : Group) (pc : Word) : (g.retireTo pc).hits = g.hits := by dsimp only [Group.retireTo]
@[simp] theorem Group.retireTo_last (g : Group) (pc : Word) : (g.retireTo pc).last = .retired := by dsimp only [Group.retireTo]

/-! `Group.recordTrap`. -/

@[simp] theorem Group.recordTrap_key (g : Group) (c : Nat) (i : Word) (m : Mask) (pc : Word) : (g.recordTrap c i m pc).key = g.key := by dsimp only [Group.recordTrap]
@[simp] theorem Group.recordTrap_launch (g : Group) (c : Nat) (i : Word) (m : Mask) (pc : Word) : (g.recordTrap c i m pc).launch = g.launch := by dsimp only [Group.recordTrap]
@[simp] theorem Group.recordTrap_team (g : Group) (c : Nat) (i : Word) (m : Mask) (pc : Word) : (g.recordTrap c i m pc).team = g.team := by dsimp only [Group.recordTrap]
@[simp] theorem Group.recordTrap_idx (g : Group) (c : Nat) (i : Word) (m : Mask) (pc : Word) : (g.recordTrap c i m pc).idx = g.idx := by dsimp only [Group.recordTrap]
@[simp] theorem Group.recordTrap_role (g : Group) (c : Nat) (i : Word) (m : Mask) (pc : Word) : (g.recordTrap c i m pc).role = g.role := by dsimp only [Group.recordTrap]
@[simp] theorem Group.recordTrap_core (g : Group) (c : Nat) (i : Word) (m : Mask) (pc : Word) : (g.recordTrap c i m pc).core = g.core := by dsimp only [Group.recordTrap]
@[simp] theorem Group.recordTrap_slot (g : Group) (c : Nat) (i : Word) (m : Mask) (pc : Word) : (g.recordTrap c i m pc).slot = g.slot := by dsimp only [Group.recordTrap]
@[simp] theorem Group.recordTrap_gid (g : Group) (c : Nat) (i : Word) (m : Mask) (pc : Word) : (g.recordTrap c i m pc).gid = g.gid := by dsimp only [Group.recordTrap]
@[simp] theorem Group.recordTrap_tid (g : Group) (c : Nat) (i : Word) (m : Mask) (pc : Word) : (g.recordTrap c i m pc).tid = g.tid := by dsimp only [Group.recordTrap]
@[simp] theorem Group.recordTrap_v (g : Group) (c : Nat) (i : Word) (m : Mask) (pc : Word) : (g.recordTrap c i m pc).v = g.v := by dsimp only [Group.recordTrap]
@[simp] theorem Group.recordTrap_e (g : Group) (c : Nat) (i : Word) (m : Mask) (pc : Word) : (g.recordTrap c i m pc).e = g.e := by dsimp only [Group.recordTrap]
@[simp] theorem Group.recordTrap_s (g : Group) (c : Nat) (i : Word) (m : Mask) (pc : Word) : (g.recordTrap c i m pc).s = g.s := by dsimp only [Group.recordTrap]
@[simp] theorem Group.recordTrap_p (g : Group) (c : Nat) (i : Word) (m : Mask) (pc : Word) : (g.recordTrap c i m pc).p = g.p := by dsimp only [Group.recordTrap]
@[simp] theorem Group.recordTrap_em (g : Group) (c : Nat) (i : Word) (m : Mask) (pc : Word) : (g.recordTrap c i m pc).em = g.em := by dsimp only [Group.recordTrap]
@[simp] theorem Group.recordTrap_live (g : Group) (c : Nat) (i : Word) (m : Mask) (pc : Word) : (g.recordTrap c i m pc).live = g.live := by dsimp only [Group.recordTrap]
@[simp] theorem Group.recordTrap_launched (g : Group) (c : Nat) (i : Word) (m : Mask) (pc : Word) : (g.recordTrap c i m pc).launched = g.launched := by dsimp only [Group.recordTrap]
@[simp] theorem Group.recordTrap_pc (g : Group) (c : Nat) (i : Word) (m : Mask) (pc : Word) : (g.recordTrap c i m pc).pc = g.pc := by dsimp only [Group.recordTrap]
@[simp] theorem Group.recordTrap_bankV (g : Group) (c : Nat) (i : Word) (m : Mask) (pc : Word) : (g.recordTrap c i m pc).bankV = g.bankV := by dsimp only [Group.recordTrap]
@[simp] theorem Group.recordTrap_bankS (g : Group) (c : Nat) (i : Word) (m : Mask) (pc : Word) : (g.recordTrap c i m pc).bankS = g.bankS := by dsimp only [Group.recordTrap]
@[simp] theorem Group.recordTrap_qw (g : Group) (c : Nat) (i : Word) (m : Mask) (pc : Word) : (g.recordTrap c i m pc).qw = g.qw := by dsimp only [Group.recordTrap]
@[simp] theorem Group.recordTrap_domain (g : Group) (c : Nat) (i : Word) (m : Mask) (pc : Word) : (g.recordTrap c i m pc).domain = g.domain := by dsimp only [Group.recordTrap]
@[simp] theorem Group.recordTrap_regpc (g : Group) (c : Nat) (i : Word) (m : Mask) (pc : Word) : (g.recordTrap c i m pc).regpc = g.regpc := by dsimp only [Group.recordTrap]
@[simp] theorem Group.recordTrap_stack (g : Group) (c : Nat) (i : Word) (m : Mask) (pc : Word) : (g.recordTrap c i m pc).stack = g.stack := by dsimp only [Group.recordTrap]
@[simp] theorem Group.recordTrap_frm (g : Group) (c : Nat) (i : Word) (m : Mask) (pc : Word) : (g.recordTrap c i m pc).frm = g.frm := by dsimp only [Group.recordTrap]
@[simp] theorem Group.recordTrap_fflags (g : Group) (c : Nat) (i : Word) (m : Mask) (pc : Word) : (g.recordTrap c i m pc).fflags = g.fflags := by dsimp only [Group.recordTrap]
@[simp] theorem Group.recordTrap_trapMode (g : Group) (c : Nat) (i : Word) (m : Mask) (pc : Word) : (g.recordTrap c i m pc).trapMode = g.trapMode := by dsimp only [Group.recordTrap]
@[simp] theorem Group.recordTrap_trapCause (g : Group) (c : Nat) (i : Word) (m : Mask) (pc : Word) : (g.recordTrap c i m pc).trapCause = BitVec.ofNat 8 c := by dsimp only [Group.recordTrap]
@[simp] theorem Group.recordTrap_trapPc (g : Group) (c : Nat) (i : Word) (m : Mask) (pc : Word) : (g.recordTrap c i m pc).trapPc = pc := by dsimp only [Group.recordTrap]
@[simp] theorem Group.recordTrap_trapLanes (g : Group) (c : Nat) (i : Word) (m : Mask) (pc : Word) : (g.recordTrap c i m pc).trapLanes = m := by dsimp only [Group.recordTrap]
@[simp] theorem Group.recordTrap_trapInfo (g : Group) (c : Nat) (i : Word) (m : Mask) (pc : Word) : (g.recordTrap c i m pc).trapInfo = i := by dsimp only [Group.recordTrap]
@[simp] theorem Group.recordTrap_trapEm (g : Group) (c : Nat) (i : Word) (m : Mask) (pc : Word) : (g.recordTrap c i m pc).trapEm = g.em := by dsimp only [Group.recordTrap]
@[simp] theorem Group.recordTrap_tasklink (g : Group) (c : Nat) (i : Word) (m : Mask) (pc : Word) : (g.recordTrap c i m pc).tasklink = g.tasklink := by dsimp only [Group.recordTrap]
@[simp] theorem Group.recordTrap_retired (g : Group) (c : Nat) (i : Word) (m : Mask) (pc : Word) : (g.recordTrap c i m pc).retired = g.retired := by dsimp only [Group.recordTrap]
@[simp] theorem Group.recordTrap_startTick (g : Group) (c : Nat) (i : Word) (m : Mask) (pc : Word) : (g.recordTrap c i m pc).startTick = g.startTick := by dsimp only [Group.recordTrap]
@[simp] theorem Group.recordTrap_dbgctl (g : Group) (c : Nat) (i : Word) (m : Mask) (pc : Word) : (g.recordTrap c i m pc).dbgctl = g.dbgctl := by dsimp only [Group.recordTrap]
@[simp] theorem Group.recordTrap_wwr (g : Group) (c : Nat) (i : Word) (m : Mask) (pc : Word) : (g.recordTrap c i m pc).wwr = g.wwr := by dsimp only [Group.recordTrap]
@[simp] theorem Group.recordTrap_whit (g : Group) (c : Nat) (i : Word) (m : Mask) (pc : Word) : (g.recordTrap c i m pc).whit = g.whit := by dsimp only [Group.recordTrap]
@[simp] theorem Group.recordTrap_spend (g : Group) (c : Nat) (i : Word) (m : Mask) (pc : Word) : (g.recordTrap c i m pc).spend = g.spend := by dsimp only [Group.recordTrap]
@[simp] theorem Group.recordTrap_outv (g : Group) (c : Nat) (i : Word) (m : Mask) (pc : Word) : (g.recordTrap c i m pc).outv = g.outv := by dsimp only [Group.recordTrap]
@[simp] theorem Group.recordTrap_inv (g : Group) (c : Nat) (i : Word) (m : Mask) (pc : Word) : (g.recordTrap c i m pc).inv = g.inv := by dsimp only [Group.recordTrap]
@[simp] theorem Group.recordTrap_dbgout (g : Group) (c : Nat) (i : Word) (m : Mask) (pc : Word) : (g.recordTrap c i m pc).dbgout = g.dbgout := by dsimp only [Group.recordTrap]
@[simp] theorem Group.recordTrap_dbgin (g : Group) (c : Nat) (i : Word) (m : Mask) (pc : Word) : (g.recordTrap c i m pc).dbgin = g.dbgin := by dsimp only [Group.recordTrap]
@[simp] theorem Group.recordTrap_runLen (g : Group) (c : Nat) (i : Word) (m : Mask) (pc : Word) : (g.recordTrap c i m pc).runLen = g.runLen := by dsimp only [Group.recordTrap]
@[simp] theorem Group.recordTrap_eWritten (g : Group) (c : Nat) (i : Word) (m : Mask) (pc : Word) : (g.recordTrap c i m pc).eWritten = g.eWritten := by dsimp only [Group.recordTrap]
@[simp] theorem Group.recordTrap_inflight (g : Group) (c : Nat) (i : Word) (m : Mask) (pc : Word) : (g.recordTrap c i m pc).inflight = g.inflight := by dsimp only [Group.recordTrap]
@[simp] theorem Group.recordTrap_pendS (g : Group) (c : Nat) (i : Word) (m : Mask) (pc : Word) : (g.recordTrap c i m pc).pendS = g.pendS := by dsimp only [Group.recordTrap]
@[simp] theorem Group.recordTrap_joins (g : Group) (c : Nat) (i : Word) (m : Mask) (pc : Word) : (g.recordTrap c i m pc).joins = g.joins := by dsimp only [Group.recordTrap]
@[simp] theorem Group.recordTrap_trailer (g : Group) (c : Nat) (i : Word) (m : Mask) (pc : Word) : (g.recordTrap c i m pc).trailer = g.trailer := by dsimp only [Group.recordTrap]
@[simp] theorem Group.recordTrap_held (g : Group) (c : Nat) (i : Word) (m : Mask) (pc : Word) : (g.recordTrap c i m pc).held = g.held := by dsimp only [Group.recordTrap]
@[simp] theorem Group.recordTrap_heldT (g : Group) (c : Nat) (i : Word) (m : Mask) (pc : Word) : (g.recordTrap c i m pc).heldT = g.heldT := by dsimp only [Group.recordTrap]
@[simp] theorem Group.recordTrap_epoch (g : Group) (c : Nat) (i : Word) (m : Mask) (pc : Word) : (g.recordTrap c i m pc).epoch = g.epoch := by dsimp only [Group.recordTrap]
@[simp] theorem Group.recordTrap_side (g : Group) (c : Nat) (i : Word) (m : Mask) (pc : Word) : (g.recordTrap c i m pc).side = g.side := by dsimp only [Group.recordTrap]
@[simp] theorem Group.recordTrap_heldOps (g : Group) (c : Nat) (i : Word) (m : Mask) (pc : Word) : (g.recordTrap c i m pc).heldOps = g.heldOps := by dsimp only [Group.recordTrap]
@[simp] theorem Group.recordTrap_late (g : Group) (c : Nat) (i : Word) (m : Mask) (pc : Word) : (g.recordTrap c i m pc).late = g.late := by dsimp only [Group.recordTrap]
@[simp] theorem Group.recordTrap_drains (g : Group) (c : Nat) (i : Word) (m : Mask) (pc : Word) : (g.recordTrap c i m pc).drains = g.drains := by dsimp only [Group.recordTrap]
@[simp] theorem Group.recordTrap_bound (g : Group) (c : Nat) (i : Word) (m : Mask) (pc : Word) : (g.recordTrap c i m pc).bound = g.bound := by dsimp only [Group.recordTrap]
@[simp] theorem Group.recordTrap_reds (g : Group) (c : Nat) (i : Word) (m : Mask) (pc : Word) : (g.recordTrap c i m pc).reds = g.reds := by dsimp only [Group.recordTrap]
@[simp] theorem Group.recordTrap_wait (g : Group) (c : Nat) (i : Word) (m : Mask) (pc : Word) : (g.recordTrap c i m pc).wait = g.wait := by dsimp only [Group.recordTrap]
@[simp] theorem Group.recordTrap_waitEnd (g : Group) (c : Nat) (i : Word) (m : Mask) (pc : Word) : (g.recordTrap c i m pc).waitEnd = g.waitEnd := by dsimp only [Group.recordTrap]
@[simp] theorem Group.recordTrap_holds (g : Group) (c : Nat) (i : Word) (m : Mask) (pc : Word) : (g.recordTrap c i m pc).holds = g.holds := by dsimp only [Group.recordTrap]
@[simp] theorem Group.recordTrap_since (g : Group) (c : Nat) (i : Word) (m : Mask) (pc : Word) : (g.recordTrap c i m pc).since = g.since := by dsimp only [Group.recordTrap]
@[simp] theorem Group.recordTrap_served (g : Group) (c : Nat) (i : Word) (m : Mask) (pc : Word) : (g.recordTrap c i m pc).served = g.served := by dsimp only [Group.recordTrap]
@[simp] theorem Group.recordTrap_region (g : Group) (c : Nat) (i : Word) (m : Mask) (pc : Word) : (g.recordTrap c i m pc).region = g.region := by dsimp only [Group.recordTrap]
@[simp] theorem Group.recordTrap_restarts (g : Group) (c : Nat) (i : Word) (m : Mask) (pc : Word) : (g.recordTrap c i m pc).restarts = g.restarts := by dsimp only [Group.recordTrap]
@[simp] theorem Group.recordTrap_poison (g : Group) (c : Nat) (i : Word) (m : Mask) (pc : Word) : (g.recordTrap c i m pc).poison = g.poison := by dsimp only [Group.recordTrap]
@[simp] theorem Group.recordTrap_sig (g : Group) (c : Nat) (i : Word) (m : Mask) (pc : Word) : (g.recordTrap c i m pc).sig = g.sig := by dsimp only [Group.recordTrap]
@[simp] theorem Group.recordTrap_twin (g : Group) (c : Nat) (i : Word) (m : Mask) (pc : Word) : (g.recordTrap c i m pc).twin = g.twin := by dsimp only [Group.recordTrap]
@[simp] theorem Group.recordTrap_leader (g : Group) (c : Nat) (i : Word) (m : Mask) (pc : Word) : (g.recordTrap c i m pc).leader = g.leader := by dsimp only [Group.recordTrap]
@[simp] theorem Group.recordTrap_rdv (g : Group) (c : Nat) (i : Word) (m : Mask) (pc : Word) : (g.recordTrap c i m pc).rdv = g.rdv := by dsimp only [Group.recordTrap]
@[simp] theorem Group.recordTrap_mismatches (g : Group) (c : Nat) (i : Word) (m : Mask) (pc : Word) : (g.recordTrap c i m pc).mismatches = g.mismatches := by dsimp only [Group.recordTrap]
@[simp] theorem Group.recordTrap_mismatchAt (g : Group) (c : Nat) (i : Word) (m : Mask) (pc : Word) : (g.recordTrap c i m pc).mismatchAt = g.mismatchAt := by dsimp only [Group.recordTrap]
@[simp] theorem Group.recordTrap_watchdog (g : Group) (c : Nat) (i : Word) (m : Mask) (pc : Word) : (g.recordTrap c i m pc).watchdog = g.watchdog := by dsimp only [Group.recordTrap]
@[simp] theorem Group.recordTrap_replay (g : Group) (c : Nat) (i : Word) (m : Mask) (pc : Word) : (g.recordTrap c i m pc).replay = g.replay := by dsimp only [Group.recordTrap]
@[simp] theorem Group.recordTrap_packets (g : Group) (c : Nat) (i : Word) (m : Mask) (pc : Word) : (g.recordTrap c i m pc).packets = g.packets := by dsimp only [Group.recordTrap]
@[simp] theorem Group.recordTrap_owed (g : Group) (c : Nat) (i : Word) (m : Mask) (pc : Word) : (g.recordTrap c i m pc).owed = g.owed := by dsimp only [Group.recordTrap]
@[simp] theorem Group.recordTrap_sinceBar (g : Group) (c : Nat) (i : Word) (m : Mask) (pc : Word) : (g.recordTrap c i m pc).sinceBar = g.sinceBar := by dsimp only [Group.recordTrap]
@[simp] theorem Group.recordTrap_age (g : Group) (c : Nat) (i : Word) (m : Mask) (pc : Word) : (g.recordTrap c i m pc).age = g.age := by dsimp only [Group.recordTrap]
@[simp] theorem Group.recordTrap_port (g : Group) (c : Nat) (i : Word) (m : Mask) (pc : Word) : (g.recordTrap c i m pc).port = g.port := by dsimp only [Group.recordTrap]
@[simp] theorem Group.recordTrap_ended (g : Group) (c : Nat) (i : Word) (m : Mask) (pc : Word) : (g.recordTrap c i m pc).ended = g.ended := by dsimp only [Group.recordTrap]
@[simp] theorem Group.recordTrap_halted (g : Group) (c : Nat) (i : Word) (m : Mask) (pc : Word) : (g.recordTrap c i m pc).halted = g.halted := by dsimp only [Group.recordTrap]
@[simp] theorem Group.recordTrap_dbgHalt (g : Group) (c : Nat) (i : Word) (m : Mask) (pc : Word) : (g.recordTrap c i m pc).dbgHalt = g.dbgHalt := by dsimp only [Group.recordTrap]
@[simp] theorem Group.recordTrap_preempted (g : Group) (c : Nat) (i : Word) (m : Mask) (pc : Word) : (g.recordTrap c i m pc).preempted = g.preempted := by dsimp only [Group.recordTrap]
@[simp] theorem Group.recordTrap_haltTick (g : Group) (c : Nat) (i : Word) (m : Mask) (pc : Word) : (g.recordTrap c i m pc).haltTick = g.haltTick := by dsimp only [Group.recordTrap]
@[simp] theorem Group.recordTrap_spilled (g : Group) (c : Nat) (i : Word) (m : Mask) (pc : Word) : (g.recordTrap c i m pc).spilled = g.spilled := by dsimp only [Group.recordTrap]
@[simp] theorem Group.recordTrap_marked (g : Group) (c : Nat) (i : Word) (m : Mask) (pc : Word) : (g.recordTrap c i m pc).marked = g.marked := by dsimp only [Group.recordTrap]
@[simp] theorem Group.recordTrap_suspended (g : Group) (c : Nat) (i : Word) (m : Mask) (pc : Word) : (g.recordTrap c i m pc).suspended = g.suspended := by dsimp only [Group.recordTrap]
@[simp] theorem Group.recordTrap_fetchHeld (g : Group) (c : Nat) (i : Word) (m : Mask) (pc : Word) : (g.recordTrap c i m pc).fetchHeld = g.fetchHeld := by dsimp only [Group.recordTrap]
@[simp] theorem Group.recordTrap_borrow (g : Group) (c : Nat) (i : Word) (m : Mask) (pc : Word) : (g.recordTrap c i m pc).borrow = g.borrow := by dsimp only [Group.recordTrap]
@[simp] theorem Group.recordTrap_emTraced (g : Group) (c : Nat) (i : Word) (m : Mask) (pc : Word) : (g.recordTrap c i m pc).emTraced = g.emTraced := by dsimp only [Group.recordTrap]
@[simp] theorem Group.recordTrap_hits (g : Group) (c : Nat) (i : Word) (m : Mask) (pc : Word) : (g.recordTrap c i m pc).hits = g.hits := by dsimp only [Group.recordTrap]
@[simp] theorem Group.recordTrap_last (g : Group) (c : Nat) (i : Word) (m : Mask) (pc : Word) : (g.recordTrap c i m pc).last = .trapped := by dsimp only [Group.recordTrap]

/-! `Group.unwait`. -/

@[simp] theorem Group.unwait_key (g : Group) : (g.unwait).key = g.key := by dsimp only [Group.unwait]
@[simp] theorem Group.unwait_launch (g : Group) : (g.unwait).launch = g.launch := by dsimp only [Group.unwait]
@[simp] theorem Group.unwait_team (g : Group) : (g.unwait).team = g.team := by dsimp only [Group.unwait]
@[simp] theorem Group.unwait_idx (g : Group) : (g.unwait).idx = g.idx := by dsimp only [Group.unwait]
@[simp] theorem Group.unwait_role (g : Group) : (g.unwait).role = g.role := by dsimp only [Group.unwait]
@[simp] theorem Group.unwait_core (g : Group) : (g.unwait).core = g.core := by dsimp only [Group.unwait]
@[simp] theorem Group.unwait_slot (g : Group) : (g.unwait).slot = g.slot := by dsimp only [Group.unwait]
@[simp] theorem Group.unwait_gid (g : Group) : (g.unwait).gid = g.gid := by dsimp only [Group.unwait]
@[simp] theorem Group.unwait_tid (g : Group) : (g.unwait).tid = g.tid := by dsimp only [Group.unwait]
@[simp] theorem Group.unwait_v (g : Group) : (g.unwait).v = g.v := by dsimp only [Group.unwait]
@[simp] theorem Group.unwait_e (g : Group) : (g.unwait).e = g.e := by dsimp only [Group.unwait]
@[simp] theorem Group.unwait_s (g : Group) : (g.unwait).s = g.s := by dsimp only [Group.unwait]
@[simp] theorem Group.unwait_p (g : Group) : (g.unwait).p = g.p := by dsimp only [Group.unwait]
@[simp] theorem Group.unwait_em (g : Group) : (g.unwait).em = g.em := by dsimp only [Group.unwait]
@[simp] theorem Group.unwait_live (g : Group) : (g.unwait).live = g.live := by dsimp only [Group.unwait]
@[simp] theorem Group.unwait_launched (g : Group) : (g.unwait).launched = g.launched := by dsimp only [Group.unwait]
@[simp] theorem Group.unwait_pc (g : Group) : (g.unwait).pc = g.pc := by dsimp only [Group.unwait]
@[simp] theorem Group.unwait_bankV (g : Group) : (g.unwait).bankV = g.bankV := by dsimp only [Group.unwait]
@[simp] theorem Group.unwait_bankS (g : Group) : (g.unwait).bankS = g.bankS := by dsimp only [Group.unwait]
@[simp] theorem Group.unwait_qw (g : Group) : (g.unwait).qw = g.qw := by dsimp only [Group.unwait]
@[simp] theorem Group.unwait_domain (g : Group) : (g.unwait).domain = g.domain := by dsimp only [Group.unwait]
@[simp] theorem Group.unwait_regpc (g : Group) : (g.unwait).regpc = g.regpc := by dsimp only [Group.unwait]
@[simp] theorem Group.unwait_stack (g : Group) : (g.unwait).stack = g.stack := by dsimp only [Group.unwait]
@[simp] theorem Group.unwait_frm (g : Group) : (g.unwait).frm = g.frm := by dsimp only [Group.unwait]
@[simp] theorem Group.unwait_fflags (g : Group) : (g.unwait).fflags = g.fflags := by dsimp only [Group.unwait]
@[simp] theorem Group.unwait_trapMode (g : Group) : (g.unwait).trapMode = g.trapMode := by dsimp only [Group.unwait]
@[simp] theorem Group.unwait_trapCause (g : Group) : (g.unwait).trapCause = g.trapCause := by dsimp only [Group.unwait]
@[simp] theorem Group.unwait_trapPc (g : Group) : (g.unwait).trapPc = g.trapPc := by dsimp only [Group.unwait]
@[simp] theorem Group.unwait_trapLanes (g : Group) : (g.unwait).trapLanes = g.trapLanes := by dsimp only [Group.unwait]
@[simp] theorem Group.unwait_trapInfo (g : Group) : (g.unwait).trapInfo = g.trapInfo := by dsimp only [Group.unwait]
@[simp] theorem Group.unwait_trapEm (g : Group) : (g.unwait).trapEm = g.trapEm := by dsimp only [Group.unwait]
@[simp] theorem Group.unwait_tasklink (g : Group) : (g.unwait).tasklink = g.tasklink := by dsimp only [Group.unwait]
@[simp] theorem Group.unwait_retired (g : Group) : (g.unwait).retired = g.retired := by dsimp only [Group.unwait]
@[simp] theorem Group.unwait_startTick (g : Group) : (g.unwait).startTick = g.startTick := by dsimp only [Group.unwait]
@[simp] theorem Group.unwait_dbgctl (g : Group) : (g.unwait).dbgctl = g.dbgctl := by dsimp only [Group.unwait]
@[simp] theorem Group.unwait_wwr (g : Group) : (g.unwait).wwr = g.wwr := by dsimp only [Group.unwait]
@[simp] theorem Group.unwait_whit (g : Group) : (g.unwait).whit = g.whit := by dsimp only [Group.unwait]
@[simp] theorem Group.unwait_spend (g : Group) : (g.unwait).spend = g.spend := by dsimp only [Group.unwait]
@[simp] theorem Group.unwait_outv (g : Group) : (g.unwait).outv = g.outv := by dsimp only [Group.unwait]
@[simp] theorem Group.unwait_inv (g : Group) : (g.unwait).inv = g.inv := by dsimp only [Group.unwait]
@[simp] theorem Group.unwait_dbgout (g : Group) : (g.unwait).dbgout = g.dbgout := by dsimp only [Group.unwait]
@[simp] theorem Group.unwait_dbgin (g : Group) : (g.unwait).dbgin = g.dbgin := by dsimp only [Group.unwait]
@[simp] theorem Group.unwait_runLen (g : Group) : (g.unwait).runLen = g.runLen := by dsimp only [Group.unwait]
@[simp] theorem Group.unwait_eWritten (g : Group) : (g.unwait).eWritten = g.eWritten := by dsimp only [Group.unwait]
@[simp] theorem Group.unwait_inflight (g : Group) : (g.unwait).inflight = g.inflight := by dsimp only [Group.unwait]
@[simp] theorem Group.unwait_pendS (g : Group) : (g.unwait).pendS = g.pendS := by dsimp only [Group.unwait]
@[simp] theorem Group.unwait_joins (g : Group) : (g.unwait).joins = g.joins := by dsimp only [Group.unwait]
@[simp] theorem Group.unwait_trailer (g : Group) : (g.unwait).trailer = g.trailer := by dsimp only [Group.unwait]
@[simp] theorem Group.unwait_held (g : Group) : (g.unwait).held = g.held := by dsimp only [Group.unwait]
@[simp] theorem Group.unwait_heldT (g : Group) : (g.unwait).heldT = g.heldT := by dsimp only [Group.unwait]
@[simp] theorem Group.unwait_epoch (g : Group) : (g.unwait).epoch = g.epoch := by dsimp only [Group.unwait]
@[simp] theorem Group.unwait_side (g : Group) : (g.unwait).side = g.side := by dsimp only [Group.unwait]
@[simp] theorem Group.unwait_heldOps (g : Group) : (g.unwait).heldOps = g.heldOps := by dsimp only [Group.unwait]
@[simp] theorem Group.unwait_late (g : Group) : (g.unwait).late = g.late := by dsimp only [Group.unwait]
@[simp] theorem Group.unwait_drains (g : Group) : (g.unwait).drains = g.drains := by dsimp only [Group.unwait]
@[simp] theorem Group.unwait_bound (g : Group) : (g.unwait).bound = g.bound := by dsimp only [Group.unwait]
@[simp] theorem Group.unwait_reds (g : Group) : (g.unwait).reds = g.reds := by dsimp only [Group.unwait]
@[simp] theorem Group.unwait_wait (g : Group) : (g.unwait).wait = none := by dsimp only [Group.unwait]
@[simp] theorem Group.unwait_waitEnd (g : Group) : (g.unwait).waitEnd = .pending := by dsimp only [Group.unwait]
@[simp] theorem Group.unwait_holds (g : Group) : (g.unwait).holds = [] := by dsimp only [Group.unwait]
@[simp] theorem Group.unwait_since (g : Group) : (g.unwait).since = g.since := by dsimp only [Group.unwait]
@[simp] theorem Group.unwait_served (g : Group) : (g.unwait).served = 0 := by dsimp only [Group.unwait]
@[simp] theorem Group.unwait_region (g : Group) : (g.unwait).region = g.region := by dsimp only [Group.unwait]
@[simp] theorem Group.unwait_restarts (g : Group) : (g.unwait).restarts = g.restarts := by dsimp only [Group.unwait]
@[simp] theorem Group.unwait_poison (g : Group) : (g.unwait).poison = g.poison := by dsimp only [Group.unwait]
@[simp] theorem Group.unwait_sig (g : Group) : (g.unwait).sig = g.sig := by dsimp only [Group.unwait]
@[simp] theorem Group.unwait_twin (g : Group) : (g.unwait).twin = g.twin := by dsimp only [Group.unwait]
@[simp] theorem Group.unwait_leader (g : Group) : (g.unwait).leader = g.leader := by dsimp only [Group.unwait]
@[simp] theorem Group.unwait_rdv (g : Group) : (g.unwait).rdv = g.rdv := by dsimp only [Group.unwait]
@[simp] theorem Group.unwait_mismatches (g : Group) : (g.unwait).mismatches = g.mismatches := by dsimp only [Group.unwait]
@[simp] theorem Group.unwait_mismatchAt (g : Group) : (g.unwait).mismatchAt = g.mismatchAt := by dsimp only [Group.unwait]
@[simp] theorem Group.unwait_watchdog (g : Group) : (g.unwait).watchdog = g.watchdog := by dsimp only [Group.unwait]
@[simp] theorem Group.unwait_replay (g : Group) : (g.unwait).replay = g.replay := by dsimp only [Group.unwait]
@[simp] theorem Group.unwait_packets (g : Group) : (g.unwait).packets = g.packets := by dsimp only [Group.unwait]
@[simp] theorem Group.unwait_owed (g : Group) : (g.unwait).owed = g.owed := by dsimp only [Group.unwait]
@[simp] theorem Group.unwait_sinceBar (g : Group) : (g.unwait).sinceBar = g.sinceBar := by dsimp only [Group.unwait]
@[simp] theorem Group.unwait_age (g : Group) : (g.unwait).age = g.age := by dsimp only [Group.unwait]
@[simp] theorem Group.unwait_port (g : Group) : (g.unwait).port = g.port := by dsimp only [Group.unwait]
@[simp] theorem Group.unwait_ended (g : Group) : (g.unwait).ended = g.ended := by dsimp only [Group.unwait]
@[simp] theorem Group.unwait_halted (g : Group) : (g.unwait).halted = g.halted := by dsimp only [Group.unwait]
@[simp] theorem Group.unwait_dbgHalt (g : Group) : (g.unwait).dbgHalt = g.dbgHalt := by dsimp only [Group.unwait]
@[simp] theorem Group.unwait_preempted (g : Group) : (g.unwait).preempted = g.preempted := by dsimp only [Group.unwait]
@[simp] theorem Group.unwait_haltTick (g : Group) : (g.unwait).haltTick = g.haltTick := by dsimp only [Group.unwait]
@[simp] theorem Group.unwait_spilled (g : Group) : (g.unwait).spilled = g.spilled := by dsimp only [Group.unwait]
@[simp] theorem Group.unwait_marked (g : Group) : (g.unwait).marked = g.marked := by dsimp only [Group.unwait]
@[simp] theorem Group.unwait_suspended (g : Group) : (g.unwait).suspended = g.suspended := by dsimp only [Group.unwait]
@[simp] theorem Group.unwait_fetchHeld (g : Group) : (g.unwait).fetchHeld = g.fetchHeld := by dsimp only [Group.unwait]
@[simp] theorem Group.unwait_borrow (g : Group) : (g.unwait).borrow = g.borrow := by dsimp only [Group.unwait]
@[simp] theorem Group.unwait_emTraced (g : Group) : (g.unwait).emTraced = g.emTraced := by dsimp only [Group.unwait]
@[simp] theorem Group.unwait_hits (g : Group) : (g.unwait).hits = g.hits := by dsimp only [Group.unwait]
@[simp] theorem Group.unwait_last (g : Group) : (g.unwait).last = g.last := by dsimp only [Group.unwait]

/-! `Group.swapBank`. -/

@[simp] theorem Group.swapBank_key (g : Group) : (g.swapBank).key = g.key := by dsimp only [Group.swapBank]
@[simp] theorem Group.swapBank_launch (g : Group) : (g.swapBank).launch = g.launch := by dsimp only [Group.swapBank]
@[simp] theorem Group.swapBank_team (g : Group) : (g.swapBank).team = g.team := by dsimp only [Group.swapBank]
@[simp] theorem Group.swapBank_idx (g : Group) : (g.swapBank).idx = g.idx := by dsimp only [Group.swapBank]
@[simp] theorem Group.swapBank_role (g : Group) : (g.swapBank).role = g.role := by dsimp only [Group.swapBank]
@[simp] theorem Group.swapBank_core (g : Group) : (g.swapBank).core = g.core := by dsimp only [Group.swapBank]
@[simp] theorem Group.swapBank_slot (g : Group) : (g.swapBank).slot = g.slot := by dsimp only [Group.swapBank]
@[simp] theorem Group.swapBank_gid (g : Group) : (g.swapBank).gid = g.gid := by dsimp only [Group.swapBank]
@[simp] theorem Group.swapBank_tid (g : Group) : (g.swapBank).tid = g.tid := by dsimp only [Group.swapBank]
@[simp] theorem Group.swapBank_e (g : Group) : (g.swapBank).e = g.e := by dsimp only [Group.swapBank]
@[simp] theorem Group.swapBank_p (g : Group) : (g.swapBank).p = g.p := by dsimp only [Group.swapBank]
@[simp] theorem Group.swapBank_em (g : Group) : (g.swapBank).em = g.em := by dsimp only [Group.swapBank]
@[simp] theorem Group.swapBank_live (g : Group) : (g.swapBank).live = g.live := by dsimp only [Group.swapBank]
@[simp] theorem Group.swapBank_launched (g : Group) : (g.swapBank).launched = g.launched := by dsimp only [Group.swapBank]
@[simp] theorem Group.swapBank_pc (g : Group) : (g.swapBank).pc = g.pc := by dsimp only [Group.swapBank]
@[simp] theorem Group.swapBank_qw (g : Group) : (g.swapBank).qw = g.qw := by dsimp only [Group.swapBank]
@[simp] theorem Group.swapBank_domain (g : Group) : (g.swapBank).domain = g.domain := by dsimp only [Group.swapBank]
@[simp] theorem Group.swapBank_regpc (g : Group) : (g.swapBank).regpc = g.regpc := by dsimp only [Group.swapBank]
@[simp] theorem Group.swapBank_stack (g : Group) : (g.swapBank).stack = g.stack := by dsimp only [Group.swapBank]
@[simp] theorem Group.swapBank_frm (g : Group) : (g.swapBank).frm = g.frm := by dsimp only [Group.swapBank]
@[simp] theorem Group.swapBank_fflags (g : Group) : (g.swapBank).fflags = g.fflags := by dsimp only [Group.swapBank]
@[simp] theorem Group.swapBank_trapMode (g : Group) : (g.swapBank).trapMode = g.trapMode := by dsimp only [Group.swapBank]
@[simp] theorem Group.swapBank_trapCause (g : Group) : (g.swapBank).trapCause = g.trapCause := by dsimp only [Group.swapBank]
@[simp] theorem Group.swapBank_trapPc (g : Group) : (g.swapBank).trapPc = g.trapPc := by dsimp only [Group.swapBank]
@[simp] theorem Group.swapBank_trapLanes (g : Group) : (g.swapBank).trapLanes = g.trapLanes := by dsimp only [Group.swapBank]
@[simp] theorem Group.swapBank_trapInfo (g : Group) : (g.swapBank).trapInfo = g.trapInfo := by dsimp only [Group.swapBank]
@[simp] theorem Group.swapBank_trapEm (g : Group) : (g.swapBank).trapEm = g.trapEm := by dsimp only [Group.swapBank]
@[simp] theorem Group.swapBank_tasklink (g : Group) : (g.swapBank).tasklink = g.tasklink := by dsimp only [Group.swapBank]
@[simp] theorem Group.swapBank_retired (g : Group) : (g.swapBank).retired = g.retired := by dsimp only [Group.swapBank]
@[simp] theorem Group.swapBank_startTick (g : Group) : (g.swapBank).startTick = g.startTick := by dsimp only [Group.swapBank]
@[simp] theorem Group.swapBank_dbgctl (g : Group) : (g.swapBank).dbgctl = g.dbgctl := by dsimp only [Group.swapBank]
@[simp] theorem Group.swapBank_wwr (g : Group) : (g.swapBank).wwr = g.wwr := by dsimp only [Group.swapBank]
@[simp] theorem Group.swapBank_whit (g : Group) : (g.swapBank).whit = g.whit := by dsimp only [Group.swapBank]
@[simp] theorem Group.swapBank_spend (g : Group) : (g.swapBank).spend = g.spend := by dsimp only [Group.swapBank]
@[simp] theorem Group.swapBank_outv (g : Group) : (g.swapBank).outv = g.outv := by dsimp only [Group.swapBank]
@[simp] theorem Group.swapBank_inv (g : Group) : (g.swapBank).inv = g.inv := by dsimp only [Group.swapBank]
@[simp] theorem Group.swapBank_dbgout (g : Group) : (g.swapBank).dbgout = g.dbgout := by dsimp only [Group.swapBank]
@[simp] theorem Group.swapBank_dbgin (g : Group) : (g.swapBank).dbgin = g.dbgin := by dsimp only [Group.swapBank]
@[simp] theorem Group.swapBank_runLen (g : Group) : (g.swapBank).runLen = g.runLen := by dsimp only [Group.swapBank]
@[simp] theorem Group.swapBank_eWritten (g : Group) : (g.swapBank).eWritten = g.eWritten := by dsimp only [Group.swapBank]
@[simp] theorem Group.swapBank_inflight (g : Group) : (g.swapBank).inflight = g.inflight := by dsimp only [Group.swapBank]
@[simp] theorem Group.swapBank_pendS (g : Group) : (g.swapBank).pendS = g.pendS := by dsimp only [Group.swapBank]
@[simp] theorem Group.swapBank_joins (g : Group) : (g.swapBank).joins = g.joins := by dsimp only [Group.swapBank]
@[simp] theorem Group.swapBank_trailer (g : Group) : (g.swapBank).trailer = g.trailer := by dsimp only [Group.swapBank]
@[simp] theorem Group.swapBank_held (g : Group) : (g.swapBank).held = g.held := by dsimp only [Group.swapBank]
@[simp] theorem Group.swapBank_heldT (g : Group) : (g.swapBank).heldT = g.heldT := by dsimp only [Group.swapBank]
@[simp] theorem Group.swapBank_epoch (g : Group) : (g.swapBank).epoch = g.epoch := by dsimp only [Group.swapBank]
@[simp] theorem Group.swapBank_side (g : Group) : (g.swapBank).side = g.side := by dsimp only [Group.swapBank]
@[simp] theorem Group.swapBank_heldOps (g : Group) : (g.swapBank).heldOps = g.heldOps := by dsimp only [Group.swapBank]
@[simp] theorem Group.swapBank_late (g : Group) : (g.swapBank).late = g.late := by dsimp only [Group.swapBank]
@[simp] theorem Group.swapBank_drains (g : Group) : (g.swapBank).drains = g.drains := by dsimp only [Group.swapBank]
@[simp] theorem Group.swapBank_bound (g : Group) : (g.swapBank).bound = g.bound := by dsimp only [Group.swapBank]
@[simp] theorem Group.swapBank_reds (g : Group) : (g.swapBank).reds = g.reds := by dsimp only [Group.swapBank]
@[simp] theorem Group.swapBank_wait (g : Group) : (g.swapBank).wait = g.wait := by dsimp only [Group.swapBank]
@[simp] theorem Group.swapBank_waitEnd (g : Group) : (g.swapBank).waitEnd = g.waitEnd := by dsimp only [Group.swapBank]
@[simp] theorem Group.swapBank_holds (g : Group) : (g.swapBank).holds = g.holds := by dsimp only [Group.swapBank]
@[simp] theorem Group.swapBank_since (g : Group) : (g.swapBank).since = g.since := by dsimp only [Group.swapBank]
@[simp] theorem Group.swapBank_served (g : Group) : (g.swapBank).served = g.served := by dsimp only [Group.swapBank]
@[simp] theorem Group.swapBank_region (g : Group) : (g.swapBank).region = g.region := by dsimp only [Group.swapBank]
@[simp] theorem Group.swapBank_restarts (g : Group) : (g.swapBank).restarts = g.restarts := by dsimp only [Group.swapBank]
@[simp] theorem Group.swapBank_poison (g : Group) : (g.swapBank).poison = g.poison.map Mark.swapBank := by dsimp only [Group.swapBank]
@[simp] theorem Group.swapBank_sig (g : Group) : (g.swapBank).sig = g.sig := by dsimp only [Group.swapBank]
@[simp] theorem Group.swapBank_twin (g : Group) : (g.swapBank).twin = g.twin := by dsimp only [Group.swapBank]
@[simp] theorem Group.swapBank_leader (g : Group) : (g.swapBank).leader = g.leader := by dsimp only [Group.swapBank]
@[simp] theorem Group.swapBank_rdv (g : Group) : (g.swapBank).rdv = g.rdv := by dsimp only [Group.swapBank]
@[simp] theorem Group.swapBank_mismatches (g : Group) : (g.swapBank).mismatches = g.mismatches := by dsimp only [Group.swapBank]
@[simp] theorem Group.swapBank_mismatchAt (g : Group) : (g.swapBank).mismatchAt = g.mismatchAt := by dsimp only [Group.swapBank]
@[simp] theorem Group.swapBank_watchdog (g : Group) : (g.swapBank).watchdog = g.watchdog := by dsimp only [Group.swapBank]
@[simp] theorem Group.swapBank_replay (g : Group) : (g.swapBank).replay = g.replay := by dsimp only [Group.swapBank]
@[simp] theorem Group.swapBank_packets (g : Group) : (g.swapBank).packets = g.packets := by dsimp only [Group.swapBank]
@[simp] theorem Group.swapBank_owed (g : Group) : (g.swapBank).owed = g.owed := by dsimp only [Group.swapBank]
@[simp] theorem Group.swapBank_sinceBar (g : Group) : (g.swapBank).sinceBar = g.sinceBar := by dsimp only [Group.swapBank]
@[simp] theorem Group.swapBank_age (g : Group) : (g.swapBank).age = g.age := by dsimp only [Group.swapBank]
@[simp] theorem Group.swapBank_port (g : Group) : (g.swapBank).port = g.port := by dsimp only [Group.swapBank]
@[simp] theorem Group.swapBank_ended (g : Group) : (g.swapBank).ended = g.ended := by dsimp only [Group.swapBank]
@[simp] theorem Group.swapBank_halted (g : Group) : (g.swapBank).halted = g.halted := by dsimp only [Group.swapBank]
@[simp] theorem Group.swapBank_dbgHalt (g : Group) : (g.swapBank).dbgHalt = g.dbgHalt := by dsimp only [Group.swapBank]
@[simp] theorem Group.swapBank_preempted (g : Group) : (g.swapBank).preempted = g.preempted := by dsimp only [Group.swapBank]
@[simp] theorem Group.swapBank_haltTick (g : Group) : (g.swapBank).haltTick = g.haltTick := by dsimp only [Group.swapBank]
@[simp] theorem Group.swapBank_spilled (g : Group) : (g.swapBank).spilled = g.spilled := by dsimp only [Group.swapBank]
@[simp] theorem Group.swapBank_marked (g : Group) : (g.swapBank).marked = g.marked := by dsimp only [Group.swapBank]
@[simp] theorem Group.swapBank_suspended (g : Group) : (g.swapBank).suspended = g.suspended := by dsimp only [Group.swapBank]
@[simp] theorem Group.swapBank_fetchHeld (g : Group) : (g.swapBank).fetchHeld = g.fetchHeld := by dsimp only [Group.swapBank]
@[simp] theorem Group.swapBank_borrow (g : Group) : (g.swapBank).borrow = g.borrow := by dsimp only [Group.swapBank]
@[simp] theorem Group.swapBank_emTraced (g : Group) : (g.swapBank).emTraced = g.emTraced := by dsimp only [Group.swapBank]
@[simp] theorem Group.swapBank_hits (g : Group) : (g.swapBank).hits = g.hits := by dsimp only [Group.swapBank]
@[simp] theorem Group.swapBank_last (g : Group) : (g.swapBank).last = g.last := by dsimp only [Group.swapBank]

/-! `State.onG`. -/

@[simp] theorem State.onG_tick (s : State) (f : Group → Group) : (s.onG f).tick = s.tick := by dsimp only [State.onG]
@[simp] theorem State.onG_fresh (s : State) (f : Group → Group) : (s.onG f).fresh = s.fresh := by dsimp only [State.onG]
@[simp] theorem State.onG_inputs (s : State) (f : Group → Group) : (s.onG f).inputs = s.inputs := by dsimp only [State.onG]
@[simp] theorem State.onG_device (s : State) (f : Group → Group) : (s.onG f).device = s.device := by dsimp only [State.onG]
@[simp] theorem State.onG_g (s : State) (f : Group → Group) : (s.onG f).g = f s.g := by dsimp only [State.onG]
@[simp] theorem State.onG_others (s : State) (f : Group → Group) : (s.onG f).others = s.others := by dsimp only [State.onG]
@[simp] theorem State.onG_mem (s : State) (f : Group → Group) : (s.onG f).mem = s.mem := by dsimp only [State.onG]
@[simp] theorem State.onG_olds (s : State) (f : Group → Group) : (s.onG f).olds = s.olds := by dsimp only [State.onG]
@[simp] theorem State.onG_keyTags (s : State) (f : Group → Group) : (s.onG f).keyTags = s.keyTags := by dsimp only [State.onG]
@[simp] theorem State.onG_keyGens (s : State) (f : Group → Group) : (s.onG f).keyGens = s.keyGens := by dsimp only [State.onG]
@[simp] theorem State.onG_full (s : State) (f : Group → Group) : (s.onG f).full = s.full := by dsimp only [State.onG]
@[simp] theorem State.onG_bindings (s : State) (f : Group → Group) : (s.onG f).bindings = s.bindings := by dsimp only [State.onG]
@[simp] theorem State.onG_poison (s : State) (f : Group → Group) : (s.onG f).poison = s.poison := by dsimp only [State.onG]
@[simp] theorem State.onG_stalePte (s : State) (f : Group → Group) : (s.onG f).stalePte = s.stalePte := by dsimp only [State.onG]
@[simp] theorem State.onG_icache (s : State) (f : Group → Group) : (s.onG f).icache = s.icache := by dsimp only [State.onG]
@[simp] theorem State.onG_code (s : State) (f : Group → Group) : (s.onG f).code = s.code := by dsimp only [State.onG]
@[simp] theorem State.onG_launches (s : State) (f : Group → Group) : (s.onG f).launches = s.launches := by dsimp only [State.onG]
@[simp] theorem State.onG_away (s : State) (f : Group → Group) : (s.onG f).away = s.away := by dsimp only [State.onG]
@[simp] theorem State.onG_contexts (s : State) (f : Group → Group) : (s.onG f).contexts = s.contexts := by dsimp only [State.onG]
@[simp] theorem State.onG_teams (s : State) (f : Group → Group) : (s.onG f).teams = s.teams := by dsimp only [State.onG]
@[simp] theorem State.onG_cores (s : State) (f : Group → Group) : (s.onG f).cores = s.cores := by dsimp only [State.onG]
@[simp] theorem State.onG_fenced (s : State) (f : Group → Group) : (s.onG f).fenced = s.fenced := by dsimp only [State.onG]
@[simp] theorem State.onG_tested (s : State) (f : Group → Group) : (s.onG f).tested = s.tested := by dsimp only [State.onG]
@[simp] theorem State.onG_hosted (s : State) (f : Group → Group) : (s.onG f).hosted = s.hosted := by dsimp only [State.onG]
@[simp] theorem State.onG_grants (s : State) (f : Group → Group) : (s.onG f).grants = s.grants := by dsimp only [State.onG]
@[simp] theorem State.onG_gens (s : State) (f : Group → Group) : (s.onG f).gens = s.gens := by dsimp only [State.onG]
@[simp] theorem State.onG_proms (s : State) (f : Group → Group) : (s.onG f).proms = s.proms := by dsimp only [State.onG]
@[simp] theorem State.onG_oneShots (s : State) (f : Group → Group) : (s.onG f).oneShots = s.oneShots := by dsimp only [State.onG]
@[simp] theorem State.onG_channels (s : State) (f : Group → Group) : (s.onG f).channels = s.channels := by dsimp only [State.onG]
@[simp] theorem State.onG_colls (s : State) (f : Group → Group) : (s.onG f).colls = s.colls := by dsimp only [State.onG]
@[simp] theorem State.onG_queues (s : State) (f : Group → Group) : (s.onG f).queues = s.queues := by dsimp only [State.onG]
@[simp] theorem State.onG_entries (s : State) (f : Group → Group) : (s.onG f).entries = s.entries := by dsimp only [State.onG]
@[simp] theorem State.onG_ranges (s : State) (f : Group → Group) : (s.onG f).ranges = s.ranges := by dsimp only [State.onG]
@[simp] theorem State.onG_counters (s : State) (f : Group → Group) : (s.onG f).counters = s.counters := by dsimp only [State.onG]
@[simp] theorem State.onG_roots (s : State) (f : Group → Group) : (s.onG f).roots = s.roots := by dsimp only [State.onG]
@[simp] theorem State.onG_proxies (s : State) (f : Group → Group) : (s.onG f).proxies = s.proxies := by dsimp only [State.onG]
@[simp] theorem State.onG_returns (s : State) (f : Group → Group) : (s.onG f).returns = s.returns := by dsimp only [State.onG]
@[simp] theorem State.onG_rehomed (s : State) (f : Group → Group) : (s.onG f).rehomed = s.rehomed := by dsimp only [State.onG]
@[simp] theorem State.onG_farRoots (s : State) (f : Group → Group) : (s.onG f).farRoots = s.farRoots := by dsimp only [State.onG]
@[simp] theorem State.onG_convs (s : State) (f : Group → Group) : (s.onG f).convs = s.convs := by dsimp only [State.onG]
@[simp] theorem State.onG_collsBad (s : State) (f : Group → Group) : (s.onG f).collsBad = s.collsBad := by dsimp only [State.onG]
@[simp] theorem State.onG_reaches (s : State) (f : Group → Group) : (s.onG f).reaches = s.reaches := by dsimp only [State.onG]
@[simp] theorem State.onG_outbox (s : State) (f : Group → Group) : (s.onG f).outbox = s.outbox := by dsimp only [State.onG]
@[simp] theorem State.onG_sent (s : State) (f : Group → Group) : (s.onG f).sent = s.sent := by dsimp only [State.onG]
@[simp] theorem State.onG_unheard (s : State) (f : Group → Group) : (s.onG f).unheard = s.unheard := by dsimp only [State.onG]
@[simp] theorem State.onG_recovering (s : State) (f : Group → Group) : (s.onG f).recovering = s.recovering := by dsimp only [State.onG]
@[simp] theorem State.onG_lost (s : State) (f : Group → Group) : (s.onG f).lost = s.lost := by dsimp only [State.onG]
@[simp] theorem State.onG_routes (s : State) (f : Group → Group) : (s.onG f).routes = s.routes := by dsimp only [State.onG]
@[simp] theorem State.onG_routesNew (s : State) (f : Group → Group) : (s.onG f).routesNew = s.routesNew := by dsimp only [State.onG]
@[simp] theorem State.onG_replays (s : State) (f : Group → Group) : (s.onG f).replays = s.replays := by dsimp only [State.onG]
@[simp] theorem State.onG_linksDown (s : State) (f : Group → Group) : (s.onG f).linksDown = s.linksDown := by dsimp only [State.onG]
@[simp] theorem State.onG_faultQueue (s : State) (f : Group → Group) : (s.onG f).faultQueue = s.faultQueue := by dsimp only [State.onG]
@[simp] theorem State.onG_stuck (s : State) (f : Group → Group) : (s.onG f).stuck = s.stuck := by dsimp only [State.onG]
@[simp] theorem State.onG_events (s : State) (f : Group → Group) : (s.onG f).events = s.events := by dsimp only [State.onG]
@[simp] theorem State.onG_replies (s : State) (f : Group → Group) : (s.onG f).replies = s.replies := by dsimp only [State.onG]
@[simp] theorem State.onG_calls (s : State) (f : Group → Group) : (s.onG f).calls = s.calls := by dsimp only [State.onG]
@[simp] theorem State.onG_blackBox (s : State) (f : Group → Group) : (s.onG f).blackBox = s.blackBox := by dsimp only [State.onG]
@[simp] theorem State.onG_traces (s : State) (f : Group → Group) : (s.onG f).traces = s.traces := by dsimp only [State.onG]
@[simp] theorem State.onG_almcause (s : State) (f : Group → Group) : (s.onG f).almcause = s.almcause := by dsimp only [State.onG]
@[simp] theorem State.onG_almcount (s : State) (f : Group → Group) : (s.onG f).almcount = s.almcount := by dsimp only [State.onG]
@[simp] theorem State.onG_alarmed (s : State) (f : Group → Group) : (s.onG f).alarmed = s.alarmed := by dsimp only [State.onG]
@[simp] theorem State.onG_down (s : State) (f : Group → Group) : (s.onG f).down = s.down := by dsimp only [State.onG]
@[simp] theorem State.onG_zeroised (s : State) (f : Group → Group) : (s.onG f).zeroised = s.zeroised := by dsimp only [State.onG]
@[simp] theorem State.onG_measures (s : State) (f : Group → Group) : (s.onG f).measures = s.measures := by dsimp only [State.onG]
@[simp] theorem State.onG_svns (s : State) (f : Group → Group) : (s.onG f).svns = s.svns := by dsimp only [State.onG]
@[simp] theorem State.onG_staged (s : State) (f : Group → Group) : (s.onG f).staged = s.staged := by dsimp only [State.onG]
@[simp] theorem State.onG_fuses (s : State) (f : Group → Group) : (s.onG f).fuses = s.fuses := by dsimp only [State.onG]
@[simp] theorem State.onG_stages (s : State) (f : Group → Group) : (s.onG f).stages = s.stages := by dsimp only [State.onG]
@[simp] theorem State.onG_sysCores (s : State) (f : Group → Group) : (s.onG f).sysCores = s.sysCores := by dsimp only [State.onG]
@[simp] theorem State.onG_requests (s : State) (f : Group → Group) : (s.onG f).requests = s.requests := by dsimp only [State.onG]
@[simp] theorem State.onG_apart (s : State) (f : Group → Group) : (s.onG f).apart = s.apart := by dsimp only [State.onG]
@[simp] theorem State.onG_module (s : State) (f : Group → Group) : (s.onG f).module = s.module := by dsimp only [State.onG]
@[simp] theorem State.onG_powerCap (s : State) (f : Group → Group) : (s.onG f).powerCap = s.powerCap := by dsimp only [State.onG]
@[simp] theorem State.onG_clock (s : State) (f : Group → Group) : (s.onG f).clock = s.clock := by dsimp only [State.onG]
@[simp] theorem State.onG_corrected (s : State) (f : Group → Group) : (s.onG f).corrected = s.corrected := by dsimp only [State.onG]
@[simp] theorem State.onG_wdLimit (s : State) (f : Group → Group) : (s.onG f).wdLimit = s.wdLimit := by dsimp only [State.onG]
@[simp] theorem State.onG_testEvery (s : State) (f : Group → Group) : (s.onG f).testEvery = s.testEvery := by dsimp only [State.onG]
@[simp] theorem State.onG_flits (s : State) (f : Group → Group) : (s.onG f).flits = s.flits := by dsimp only [State.onG]
@[simp] theorem State.onG_flitsIn (s : State) (f : Group → Group) : (s.onG f).flitsIn = s.flitsIn := by dsimp only [State.onG]
@[simp] theorem State.onG_flitLog (s : State) (f : Group → Group) : (s.onG f).flitLog = s.flitLog := by dsimp only [State.onG]
@[simp] theorem State.onG_traffic (s : State) (f : Group → Group) : (s.onG f).traffic = s.traffic := by dsimp only [State.onG]

/-! `State.bump`. -/

@[simp] theorem State.bump_tick (s : State) : (s.bump).tick = s.tick := by dsimp only [State.bump]
@[simp] theorem State.bump_fresh (s : State) : (s.bump).fresh = s.fresh + 1 := by dsimp only [State.bump]
@[simp] theorem State.bump_inputs (s : State) : (s.bump).inputs = s.inputs := by dsimp only [State.bump]
@[simp] theorem State.bump_device (s : State) : (s.bump).device = s.device := by dsimp only [State.bump]
@[simp] theorem State.bump_g (s : State) : (s.bump).g = s.g := by dsimp only [State.bump]
@[simp] theorem State.bump_others (s : State) : (s.bump).others = s.others := by dsimp only [State.bump]
@[simp] theorem State.bump_mem (s : State) : (s.bump).mem = s.mem := by dsimp only [State.bump]
@[simp] theorem State.bump_olds (s : State) : (s.bump).olds = s.olds := by dsimp only [State.bump]
@[simp] theorem State.bump_keyTags (s : State) : (s.bump).keyTags = s.keyTags := by dsimp only [State.bump]
@[simp] theorem State.bump_keyGens (s : State) : (s.bump).keyGens = s.keyGens := by dsimp only [State.bump]
@[simp] theorem State.bump_full (s : State) : (s.bump).full = s.full := by dsimp only [State.bump]
@[simp] theorem State.bump_bindings (s : State) : (s.bump).bindings = s.bindings := by dsimp only [State.bump]
@[simp] theorem State.bump_poison (s : State) : (s.bump).poison = s.poison := by dsimp only [State.bump]
@[simp] theorem State.bump_stalePte (s : State) : (s.bump).stalePte = s.stalePte := by dsimp only [State.bump]
@[simp] theorem State.bump_icache (s : State) : (s.bump).icache = s.icache := by dsimp only [State.bump]
@[simp] theorem State.bump_code (s : State) : (s.bump).code = s.code := by dsimp only [State.bump]
@[simp] theorem State.bump_launches (s : State) : (s.bump).launches = s.launches := by dsimp only [State.bump]
@[simp] theorem State.bump_away (s : State) : (s.bump).away = s.away := by dsimp only [State.bump]
@[simp] theorem State.bump_contexts (s : State) : (s.bump).contexts = s.contexts := by dsimp only [State.bump]
@[simp] theorem State.bump_teams (s : State) : (s.bump).teams = s.teams := by dsimp only [State.bump]
@[simp] theorem State.bump_cores (s : State) : (s.bump).cores = s.cores := by dsimp only [State.bump]
@[simp] theorem State.bump_fenced (s : State) : (s.bump).fenced = s.fenced := by dsimp only [State.bump]
@[simp] theorem State.bump_tested (s : State) : (s.bump).tested = s.tested := by dsimp only [State.bump]
@[simp] theorem State.bump_hosted (s : State) : (s.bump).hosted = s.hosted := by dsimp only [State.bump]
@[simp] theorem State.bump_grants (s : State) : (s.bump).grants = s.grants := by dsimp only [State.bump]
@[simp] theorem State.bump_gens (s : State) : (s.bump).gens = s.gens := by dsimp only [State.bump]
@[simp] theorem State.bump_proms (s : State) : (s.bump).proms = s.proms := by dsimp only [State.bump]
@[simp] theorem State.bump_oneShots (s : State) : (s.bump).oneShots = s.oneShots := by dsimp only [State.bump]
@[simp] theorem State.bump_channels (s : State) : (s.bump).channels = s.channels := by dsimp only [State.bump]
@[simp] theorem State.bump_colls (s : State) : (s.bump).colls = s.colls := by dsimp only [State.bump]
@[simp] theorem State.bump_queues (s : State) : (s.bump).queues = s.queues := by dsimp only [State.bump]
@[simp] theorem State.bump_entries (s : State) : (s.bump).entries = s.entries := by dsimp only [State.bump]
@[simp] theorem State.bump_ranges (s : State) : (s.bump).ranges = s.ranges := by dsimp only [State.bump]
@[simp] theorem State.bump_counters (s : State) : (s.bump).counters = s.counters := by dsimp only [State.bump]
@[simp] theorem State.bump_roots (s : State) : (s.bump).roots = s.roots := by dsimp only [State.bump]
@[simp] theorem State.bump_proxies (s : State) : (s.bump).proxies = s.proxies := by dsimp only [State.bump]
@[simp] theorem State.bump_returns (s : State) : (s.bump).returns = s.returns := by dsimp only [State.bump]
@[simp] theorem State.bump_rehomed (s : State) : (s.bump).rehomed = s.rehomed := by dsimp only [State.bump]
@[simp] theorem State.bump_farRoots (s : State) : (s.bump).farRoots = s.farRoots := by dsimp only [State.bump]
@[simp] theorem State.bump_convs (s : State) : (s.bump).convs = s.convs := by dsimp only [State.bump]
@[simp] theorem State.bump_collsBad (s : State) : (s.bump).collsBad = s.collsBad := by dsimp only [State.bump]
@[simp] theorem State.bump_reaches (s : State) : (s.bump).reaches = s.reaches := by dsimp only [State.bump]
@[simp] theorem State.bump_outbox (s : State) : (s.bump).outbox = s.outbox := by dsimp only [State.bump]
@[simp] theorem State.bump_sent (s : State) : (s.bump).sent = s.sent := by dsimp only [State.bump]
@[simp] theorem State.bump_unheard (s : State) : (s.bump).unheard = s.unheard := by dsimp only [State.bump]
@[simp] theorem State.bump_recovering (s : State) : (s.bump).recovering = s.recovering := by dsimp only [State.bump]
@[simp] theorem State.bump_lost (s : State) : (s.bump).lost = s.lost := by dsimp only [State.bump]
@[simp] theorem State.bump_routes (s : State) : (s.bump).routes = s.routes := by dsimp only [State.bump]
@[simp] theorem State.bump_routesNew (s : State) : (s.bump).routesNew = s.routesNew := by dsimp only [State.bump]
@[simp] theorem State.bump_replays (s : State) : (s.bump).replays = s.replays := by dsimp only [State.bump]
@[simp] theorem State.bump_linksDown (s : State) : (s.bump).linksDown = s.linksDown := by dsimp only [State.bump]
@[simp] theorem State.bump_faultQueue (s : State) : (s.bump).faultQueue = s.faultQueue := by dsimp only [State.bump]
@[simp] theorem State.bump_stuck (s : State) : (s.bump).stuck = s.stuck := by dsimp only [State.bump]
@[simp] theorem State.bump_events (s : State) : (s.bump).events = s.events := by dsimp only [State.bump]
@[simp] theorem State.bump_replies (s : State) : (s.bump).replies = s.replies := by dsimp only [State.bump]
@[simp] theorem State.bump_calls (s : State) : (s.bump).calls = s.calls := by dsimp only [State.bump]
@[simp] theorem State.bump_blackBox (s : State) : (s.bump).blackBox = s.blackBox := by dsimp only [State.bump]
@[simp] theorem State.bump_traces (s : State) : (s.bump).traces = s.traces := by dsimp only [State.bump]
@[simp] theorem State.bump_almcause (s : State) : (s.bump).almcause = s.almcause := by dsimp only [State.bump]
@[simp] theorem State.bump_almcount (s : State) : (s.bump).almcount = s.almcount := by dsimp only [State.bump]
@[simp] theorem State.bump_alarmed (s : State) : (s.bump).alarmed = s.alarmed := by dsimp only [State.bump]
@[simp] theorem State.bump_down (s : State) : (s.bump).down = s.down := by dsimp only [State.bump]
@[simp] theorem State.bump_zeroised (s : State) : (s.bump).zeroised = s.zeroised := by dsimp only [State.bump]
@[simp] theorem State.bump_measures (s : State) : (s.bump).measures = s.measures := by dsimp only [State.bump]
@[simp] theorem State.bump_svns (s : State) : (s.bump).svns = s.svns := by dsimp only [State.bump]
@[simp] theorem State.bump_staged (s : State) : (s.bump).staged = s.staged := by dsimp only [State.bump]
@[simp] theorem State.bump_fuses (s : State) : (s.bump).fuses = s.fuses := by dsimp only [State.bump]
@[simp] theorem State.bump_stages (s : State) : (s.bump).stages = s.stages := by dsimp only [State.bump]
@[simp] theorem State.bump_sysCores (s : State) : (s.bump).sysCores = s.sysCores := by dsimp only [State.bump]
@[simp] theorem State.bump_requests (s : State) : (s.bump).requests = s.requests := by dsimp only [State.bump]
@[simp] theorem State.bump_apart (s : State) : (s.bump).apart = s.apart := by dsimp only [State.bump]
@[simp] theorem State.bump_module (s : State) : (s.bump).module = s.module := by dsimp only [State.bump]
@[simp] theorem State.bump_powerCap (s : State) : (s.bump).powerCap = s.powerCap := by dsimp only [State.bump]
@[simp] theorem State.bump_clock (s : State) : (s.bump).clock = s.clock := by dsimp only [State.bump]
@[simp] theorem State.bump_corrected (s : State) : (s.bump).corrected = s.corrected := by dsimp only [State.bump]
@[simp] theorem State.bump_wdLimit (s : State) : (s.bump).wdLimit = s.wdLimit := by dsimp only [State.bump]
@[simp] theorem State.bump_testEvery (s : State) : (s.bump).testEvery = s.testEvery := by dsimp only [State.bump]
@[simp] theorem State.bump_flits (s : State) : (s.bump).flits = s.flits := by dsimp only [State.bump]
@[simp] theorem State.bump_flitsIn (s : State) : (s.bump).flitsIn = s.flitsIn := by dsimp only [State.bump]
@[simp] theorem State.bump_flitLog (s : State) : (s.bump).flitLog = s.flitLog := by dsimp only [State.bump]
@[simp] theorem State.bump_traffic (s : State) : (s.bump).traffic = s.traffic := by dsimp only [State.bump]

/-! `State.mapGroups`. -/

@[simp] theorem State.mapGroups_tick (s : State) (f : Group → Group) : (s.mapGroups f).tick = s.tick := by dsimp only [State.mapGroups]
@[simp] theorem State.mapGroups_fresh (s : State) (f : Group → Group) : (s.mapGroups f).fresh = s.fresh := by dsimp only [State.mapGroups]
@[simp] theorem State.mapGroups_inputs (s : State) (f : Group → Group) : (s.mapGroups f).inputs = s.inputs := by dsimp only [State.mapGroups]
@[simp] theorem State.mapGroups_device (s : State) (f : Group → Group) : (s.mapGroups f).device = s.device := by dsimp only [State.mapGroups]
@[simp] theorem State.mapGroups_g (s : State) (f : Group → Group) : (s.mapGroups f).g = f s.g := by dsimp only [State.mapGroups]
@[simp] theorem State.mapGroups_others (s : State) (f : Group → Group) : (s.mapGroups f).others = s.others.map f := by dsimp only [State.mapGroups]
@[simp] theorem State.mapGroups_mem (s : State) (f : Group → Group) : (s.mapGroups f).mem = s.mem := by dsimp only [State.mapGroups]
@[simp] theorem State.mapGroups_olds (s : State) (f : Group → Group) : (s.mapGroups f).olds = s.olds := by dsimp only [State.mapGroups]
@[simp] theorem State.mapGroups_keyTags (s : State) (f : Group → Group) : (s.mapGroups f).keyTags = s.keyTags := by dsimp only [State.mapGroups]
@[simp] theorem State.mapGroups_keyGens (s : State) (f : Group → Group) : (s.mapGroups f).keyGens = s.keyGens := by dsimp only [State.mapGroups]
@[simp] theorem State.mapGroups_full (s : State) (f : Group → Group) : (s.mapGroups f).full = s.full := by dsimp only [State.mapGroups]
@[simp] theorem State.mapGroups_bindings (s : State) (f : Group → Group) : (s.mapGroups f).bindings = s.bindings := by dsimp only [State.mapGroups]
@[simp] theorem State.mapGroups_poison (s : State) (f : Group → Group) : (s.mapGroups f).poison = s.poison := by dsimp only [State.mapGroups]
@[simp] theorem State.mapGroups_stalePte (s : State) (f : Group → Group) : (s.mapGroups f).stalePte = s.stalePte := by dsimp only [State.mapGroups]
@[simp] theorem State.mapGroups_icache (s : State) (f : Group → Group) : (s.mapGroups f).icache = s.icache := by dsimp only [State.mapGroups]
@[simp] theorem State.mapGroups_code (s : State) (f : Group → Group) : (s.mapGroups f).code = s.code := by dsimp only [State.mapGroups]
@[simp] theorem State.mapGroups_launches (s : State) (f : Group → Group) : (s.mapGroups f).launches = s.launches := by dsimp only [State.mapGroups]
@[simp] theorem State.mapGroups_away (s : State) (f : Group → Group) : (s.mapGroups f).away = s.away := by dsimp only [State.mapGroups]
@[simp] theorem State.mapGroups_contexts (s : State) (f : Group → Group) : (s.mapGroups f).contexts = s.contexts := by dsimp only [State.mapGroups]
@[simp] theorem State.mapGroups_teams (s : State) (f : Group → Group) : (s.mapGroups f).teams = s.teams := by dsimp only [State.mapGroups]
@[simp] theorem State.mapGroups_cores (s : State) (f : Group → Group) : (s.mapGroups f).cores = s.cores := by dsimp only [State.mapGroups]
@[simp] theorem State.mapGroups_fenced (s : State) (f : Group → Group) : (s.mapGroups f).fenced = s.fenced := by dsimp only [State.mapGroups]
@[simp] theorem State.mapGroups_tested (s : State) (f : Group → Group) : (s.mapGroups f).tested = s.tested := by dsimp only [State.mapGroups]
@[simp] theorem State.mapGroups_hosted (s : State) (f : Group → Group) : (s.mapGroups f).hosted = s.hosted := by dsimp only [State.mapGroups]
@[simp] theorem State.mapGroups_grants (s : State) (f : Group → Group) : (s.mapGroups f).grants = s.grants := by dsimp only [State.mapGroups]
@[simp] theorem State.mapGroups_gens (s : State) (f : Group → Group) : (s.mapGroups f).gens = s.gens := by dsimp only [State.mapGroups]
@[simp] theorem State.mapGroups_proms (s : State) (f : Group → Group) : (s.mapGroups f).proms = s.proms := by dsimp only [State.mapGroups]
@[simp] theorem State.mapGroups_oneShots (s : State) (f : Group → Group) : (s.mapGroups f).oneShots = s.oneShots := by dsimp only [State.mapGroups]
@[simp] theorem State.mapGroups_channels (s : State) (f : Group → Group) : (s.mapGroups f).channels = s.channels := by dsimp only [State.mapGroups]
@[simp] theorem State.mapGroups_colls (s : State) (f : Group → Group) : (s.mapGroups f).colls = s.colls := by dsimp only [State.mapGroups]
@[simp] theorem State.mapGroups_queues (s : State) (f : Group → Group) : (s.mapGroups f).queues = s.queues := by dsimp only [State.mapGroups]
@[simp] theorem State.mapGroups_entries (s : State) (f : Group → Group) : (s.mapGroups f).entries = s.entries := by dsimp only [State.mapGroups]
@[simp] theorem State.mapGroups_ranges (s : State) (f : Group → Group) : (s.mapGroups f).ranges = s.ranges := by dsimp only [State.mapGroups]
@[simp] theorem State.mapGroups_counters (s : State) (f : Group → Group) : (s.mapGroups f).counters = s.counters := by dsimp only [State.mapGroups]
@[simp] theorem State.mapGroups_roots (s : State) (f : Group → Group) : (s.mapGroups f).roots = s.roots := by dsimp only [State.mapGroups]
@[simp] theorem State.mapGroups_proxies (s : State) (f : Group → Group) : (s.mapGroups f).proxies = s.proxies := by dsimp only [State.mapGroups]
@[simp] theorem State.mapGroups_returns (s : State) (f : Group → Group) : (s.mapGroups f).returns = s.returns := by dsimp only [State.mapGroups]
@[simp] theorem State.mapGroups_rehomed (s : State) (f : Group → Group) : (s.mapGroups f).rehomed = s.rehomed := by dsimp only [State.mapGroups]
@[simp] theorem State.mapGroups_farRoots (s : State) (f : Group → Group) : (s.mapGroups f).farRoots = s.farRoots := by dsimp only [State.mapGroups]
@[simp] theorem State.mapGroups_convs (s : State) (f : Group → Group) : (s.mapGroups f).convs = s.convs := by dsimp only [State.mapGroups]
@[simp] theorem State.mapGroups_collsBad (s : State) (f : Group → Group) : (s.mapGroups f).collsBad = s.collsBad := by dsimp only [State.mapGroups]
@[simp] theorem State.mapGroups_reaches (s : State) (f : Group → Group) : (s.mapGroups f).reaches = s.reaches := by dsimp only [State.mapGroups]
@[simp] theorem State.mapGroups_outbox (s : State) (f : Group → Group) : (s.mapGroups f).outbox = s.outbox := by dsimp only [State.mapGroups]
@[simp] theorem State.mapGroups_sent (s : State) (f : Group → Group) : (s.mapGroups f).sent = s.sent := by dsimp only [State.mapGroups]
@[simp] theorem State.mapGroups_unheard (s : State) (f : Group → Group) : (s.mapGroups f).unheard = s.unheard := by dsimp only [State.mapGroups]
@[simp] theorem State.mapGroups_recovering (s : State) (f : Group → Group) : (s.mapGroups f).recovering = s.recovering := by dsimp only [State.mapGroups]
@[simp] theorem State.mapGroups_lost (s : State) (f : Group → Group) : (s.mapGroups f).lost = s.lost := by dsimp only [State.mapGroups]
@[simp] theorem State.mapGroups_routes (s : State) (f : Group → Group) : (s.mapGroups f).routes = s.routes := by dsimp only [State.mapGroups]
@[simp] theorem State.mapGroups_routesNew (s : State) (f : Group → Group) : (s.mapGroups f).routesNew = s.routesNew := by dsimp only [State.mapGroups]
@[simp] theorem State.mapGroups_replays (s : State) (f : Group → Group) : (s.mapGroups f).replays = s.replays := by dsimp only [State.mapGroups]
@[simp] theorem State.mapGroups_linksDown (s : State) (f : Group → Group) : (s.mapGroups f).linksDown = s.linksDown := by dsimp only [State.mapGroups]
@[simp] theorem State.mapGroups_faultQueue (s : State) (f : Group → Group) : (s.mapGroups f).faultQueue = s.faultQueue := by dsimp only [State.mapGroups]
@[simp] theorem State.mapGroups_stuck (s : State) (f : Group → Group) : (s.mapGroups f).stuck = s.stuck := by dsimp only [State.mapGroups]
@[simp] theorem State.mapGroups_events (s : State) (f : Group → Group) : (s.mapGroups f).events = s.events := by dsimp only [State.mapGroups]
@[simp] theorem State.mapGroups_replies (s : State) (f : Group → Group) : (s.mapGroups f).replies = s.replies := by dsimp only [State.mapGroups]
@[simp] theorem State.mapGroups_calls (s : State) (f : Group → Group) : (s.mapGroups f).calls = s.calls := by dsimp only [State.mapGroups]
@[simp] theorem State.mapGroups_blackBox (s : State) (f : Group → Group) : (s.mapGroups f).blackBox = s.blackBox := by dsimp only [State.mapGroups]
@[simp] theorem State.mapGroups_traces (s : State) (f : Group → Group) : (s.mapGroups f).traces = s.traces := by dsimp only [State.mapGroups]
@[simp] theorem State.mapGroups_almcause (s : State) (f : Group → Group) : (s.mapGroups f).almcause = s.almcause := by dsimp only [State.mapGroups]
@[simp] theorem State.mapGroups_almcount (s : State) (f : Group → Group) : (s.mapGroups f).almcount = s.almcount := by dsimp only [State.mapGroups]
@[simp] theorem State.mapGroups_alarmed (s : State) (f : Group → Group) : (s.mapGroups f).alarmed = s.alarmed := by dsimp only [State.mapGroups]
@[simp] theorem State.mapGroups_down (s : State) (f : Group → Group) : (s.mapGroups f).down = s.down := by dsimp only [State.mapGroups]
@[simp] theorem State.mapGroups_zeroised (s : State) (f : Group → Group) : (s.mapGroups f).zeroised = s.zeroised := by dsimp only [State.mapGroups]
@[simp] theorem State.mapGroups_measures (s : State) (f : Group → Group) : (s.mapGroups f).measures = s.measures := by dsimp only [State.mapGroups]
@[simp] theorem State.mapGroups_svns (s : State) (f : Group → Group) : (s.mapGroups f).svns = s.svns := by dsimp only [State.mapGroups]
@[simp] theorem State.mapGroups_staged (s : State) (f : Group → Group) : (s.mapGroups f).staged = s.staged := by dsimp only [State.mapGroups]
@[simp] theorem State.mapGroups_fuses (s : State) (f : Group → Group) : (s.mapGroups f).fuses = s.fuses := by dsimp only [State.mapGroups]
@[simp] theorem State.mapGroups_stages (s : State) (f : Group → Group) : (s.mapGroups f).stages = s.stages := by dsimp only [State.mapGroups]
@[simp] theorem State.mapGroups_sysCores (s : State) (f : Group → Group) : (s.mapGroups f).sysCores = s.sysCores := by dsimp only [State.mapGroups]
@[simp] theorem State.mapGroups_requests (s : State) (f : Group → Group) : (s.mapGroups f).requests = s.requests := by dsimp only [State.mapGroups]
@[simp] theorem State.mapGroups_apart (s : State) (f : Group → Group) : (s.mapGroups f).apart = s.apart := by dsimp only [State.mapGroups]
@[simp] theorem State.mapGroups_module (s : State) (f : Group → Group) : (s.mapGroups f).module = s.module := by dsimp only [State.mapGroups]
@[simp] theorem State.mapGroups_powerCap (s : State) (f : Group → Group) : (s.mapGroups f).powerCap = s.powerCap := by dsimp only [State.mapGroups]
@[simp] theorem State.mapGroups_clock (s : State) (f : Group → Group) : (s.mapGroups f).clock = s.clock := by dsimp only [State.mapGroups]
@[simp] theorem State.mapGroups_corrected (s : State) (f : Group → Group) : (s.mapGroups f).corrected = s.corrected := by dsimp only [State.mapGroups]
@[simp] theorem State.mapGroups_wdLimit (s : State) (f : Group → Group) : (s.mapGroups f).wdLimit = s.wdLimit := by dsimp only [State.mapGroups]
@[simp] theorem State.mapGroups_testEvery (s : State) (f : Group → Group) : (s.mapGroups f).testEvery = s.testEvery := by dsimp only [State.mapGroups]
@[simp] theorem State.mapGroups_flits (s : State) (f : Group → Group) : (s.mapGroups f).flits = s.flits := by dsimp only [State.mapGroups]
@[simp] theorem State.mapGroups_flitsIn (s : State) (f : Group → Group) : (s.mapGroups f).flitsIn = s.flitsIn := by dsimp only [State.mapGroups]
@[simp] theorem State.mapGroups_flitLog (s : State) (f : Group → Group) : (s.mapGroups f).flitLog = s.flitLog := by dsimp only [State.mapGroups]
@[simp] theorem State.mapGroups_traffic (s : State) (f : Group → Group) : (s.mapGroups f).traffic = s.traffic := by dsimp only [State.mapGroups]

/-! `State.onGroup`. -/

@[simp] theorem State.onGroup_tick (s : State) (k : Nat) (f : Group → Group) : (s.onGroup k f).tick = s.tick := by dsimp only [State.onGroup, State.mapGroups]
@[simp] theorem State.onGroup_fresh (s : State) (k : Nat) (f : Group → Group) : (s.onGroup k f).fresh = s.fresh := by dsimp only [State.onGroup, State.mapGroups]
@[simp] theorem State.onGroup_inputs (s : State) (k : Nat) (f : Group → Group) : (s.onGroup k f).inputs = s.inputs := by dsimp only [State.onGroup, State.mapGroups]
@[simp] theorem State.onGroup_device (s : State) (k : Nat) (f : Group → Group) : (s.onGroup k f).device = s.device := by dsimp only [State.onGroup, State.mapGroups]
@[simp] theorem State.onGroup_g (s : State) (k : Nat) (f : Group → Group) : (s.onGroup k f).g = if s.g.key = k then f s.g else s.g := by dsimp only [State.onGroup, State.mapGroups]
@[simp] theorem State.onGroup_others (s : State) (k : Nat) (f : Group → Group) : (s.onGroup k f).others = s.others.map fun x => if x.key = k then f x else x := by dsimp only [State.onGroup, State.mapGroups]
@[simp] theorem State.onGroup_mem (s : State) (k : Nat) (f : Group → Group) : (s.onGroup k f).mem = s.mem := by dsimp only [State.onGroup, State.mapGroups]
@[simp] theorem State.onGroup_olds (s : State) (k : Nat) (f : Group → Group) : (s.onGroup k f).olds = s.olds := by dsimp only [State.onGroup, State.mapGroups]
@[simp] theorem State.onGroup_keyTags (s : State) (k : Nat) (f : Group → Group) : (s.onGroup k f).keyTags = s.keyTags := by dsimp only [State.onGroup, State.mapGroups]
@[simp] theorem State.onGroup_keyGens (s : State) (k : Nat) (f : Group → Group) : (s.onGroup k f).keyGens = s.keyGens := by dsimp only [State.onGroup, State.mapGroups]
@[simp] theorem State.onGroup_full (s : State) (k : Nat) (f : Group → Group) : (s.onGroup k f).full = s.full := by dsimp only [State.onGroup, State.mapGroups]
@[simp] theorem State.onGroup_bindings (s : State) (k : Nat) (f : Group → Group) : (s.onGroup k f).bindings = s.bindings := by dsimp only [State.onGroup, State.mapGroups]
@[simp] theorem State.onGroup_poison (s : State) (k : Nat) (f : Group → Group) : (s.onGroup k f).poison = s.poison := by dsimp only [State.onGroup, State.mapGroups]
@[simp] theorem State.onGroup_stalePte (s : State) (k : Nat) (f : Group → Group) : (s.onGroup k f).stalePte = s.stalePte := by dsimp only [State.onGroup, State.mapGroups]
@[simp] theorem State.onGroup_icache (s : State) (k : Nat) (f : Group → Group) : (s.onGroup k f).icache = s.icache := by dsimp only [State.onGroup, State.mapGroups]
@[simp] theorem State.onGroup_code (s : State) (k : Nat) (f : Group → Group) : (s.onGroup k f).code = s.code := by dsimp only [State.onGroup, State.mapGroups]
@[simp] theorem State.onGroup_launches (s : State) (k : Nat) (f : Group → Group) : (s.onGroup k f).launches = s.launches := by dsimp only [State.onGroup, State.mapGroups]
@[simp] theorem State.onGroup_away (s : State) (k : Nat) (f : Group → Group) : (s.onGroup k f).away = s.away := by dsimp only [State.onGroup, State.mapGroups]
@[simp] theorem State.onGroup_contexts (s : State) (k : Nat) (f : Group → Group) : (s.onGroup k f).contexts = s.contexts := by dsimp only [State.onGroup, State.mapGroups]
@[simp] theorem State.onGroup_teams (s : State) (k : Nat) (f : Group → Group) : (s.onGroup k f).teams = s.teams := by dsimp only [State.onGroup, State.mapGroups]
@[simp] theorem State.onGroup_cores (s : State) (k : Nat) (f : Group → Group) : (s.onGroup k f).cores = s.cores := by dsimp only [State.onGroup, State.mapGroups]
@[simp] theorem State.onGroup_fenced (s : State) (k : Nat) (f : Group → Group) : (s.onGroup k f).fenced = s.fenced := by dsimp only [State.onGroup, State.mapGroups]
@[simp] theorem State.onGroup_tested (s : State) (k : Nat) (f : Group → Group) : (s.onGroup k f).tested = s.tested := by dsimp only [State.onGroup, State.mapGroups]
@[simp] theorem State.onGroup_hosted (s : State) (k : Nat) (f : Group → Group) : (s.onGroup k f).hosted = s.hosted := by dsimp only [State.onGroup, State.mapGroups]
@[simp] theorem State.onGroup_grants (s : State) (k : Nat) (f : Group → Group) : (s.onGroup k f).grants = s.grants := by dsimp only [State.onGroup, State.mapGroups]
@[simp] theorem State.onGroup_gens (s : State) (k : Nat) (f : Group → Group) : (s.onGroup k f).gens = s.gens := by dsimp only [State.onGroup, State.mapGroups]
@[simp] theorem State.onGroup_proms (s : State) (k : Nat) (f : Group → Group) : (s.onGroup k f).proms = s.proms := by dsimp only [State.onGroup, State.mapGroups]
@[simp] theorem State.onGroup_oneShots (s : State) (k : Nat) (f : Group → Group) : (s.onGroup k f).oneShots = s.oneShots := by dsimp only [State.onGroup, State.mapGroups]
@[simp] theorem State.onGroup_channels (s : State) (k : Nat) (f : Group → Group) : (s.onGroup k f).channels = s.channels := by dsimp only [State.onGroup, State.mapGroups]
@[simp] theorem State.onGroup_colls (s : State) (k : Nat) (f : Group → Group) : (s.onGroup k f).colls = s.colls := by dsimp only [State.onGroup, State.mapGroups]
@[simp] theorem State.onGroup_queues (s : State) (k : Nat) (f : Group → Group) : (s.onGroup k f).queues = s.queues := by dsimp only [State.onGroup, State.mapGroups]
@[simp] theorem State.onGroup_entries (s : State) (k : Nat) (f : Group → Group) : (s.onGroup k f).entries = s.entries := by dsimp only [State.onGroup, State.mapGroups]
@[simp] theorem State.onGroup_ranges (s : State) (k : Nat) (f : Group → Group) : (s.onGroup k f).ranges = s.ranges := by dsimp only [State.onGroup, State.mapGroups]
@[simp] theorem State.onGroup_counters (s : State) (k : Nat) (f : Group → Group) : (s.onGroup k f).counters = s.counters := by dsimp only [State.onGroup, State.mapGroups]
@[simp] theorem State.onGroup_roots (s : State) (k : Nat) (f : Group → Group) : (s.onGroup k f).roots = s.roots := by dsimp only [State.onGroup, State.mapGroups]
@[simp] theorem State.onGroup_proxies (s : State) (k : Nat) (f : Group → Group) : (s.onGroup k f).proxies = s.proxies := by dsimp only [State.onGroup, State.mapGroups]
@[simp] theorem State.onGroup_returns (s : State) (k : Nat) (f : Group → Group) : (s.onGroup k f).returns = s.returns := by dsimp only [State.onGroup, State.mapGroups]
@[simp] theorem State.onGroup_rehomed (s : State) (k : Nat) (f : Group → Group) : (s.onGroup k f).rehomed = s.rehomed := by dsimp only [State.onGroup, State.mapGroups]
@[simp] theorem State.onGroup_farRoots (s : State) (k : Nat) (f : Group → Group) : (s.onGroup k f).farRoots = s.farRoots := by dsimp only [State.onGroup, State.mapGroups]
@[simp] theorem State.onGroup_convs (s : State) (k : Nat) (f : Group → Group) : (s.onGroup k f).convs = s.convs := by dsimp only [State.onGroup, State.mapGroups]
@[simp] theorem State.onGroup_collsBad (s : State) (k : Nat) (f : Group → Group) : (s.onGroup k f).collsBad = s.collsBad := by dsimp only [State.onGroup, State.mapGroups]
@[simp] theorem State.onGroup_reaches (s : State) (k : Nat) (f : Group → Group) : (s.onGroup k f).reaches = s.reaches := by dsimp only [State.onGroup, State.mapGroups]
@[simp] theorem State.onGroup_outbox (s : State) (k : Nat) (f : Group → Group) : (s.onGroup k f).outbox = s.outbox := by dsimp only [State.onGroup, State.mapGroups]
@[simp] theorem State.onGroup_sent (s : State) (k : Nat) (f : Group → Group) : (s.onGroup k f).sent = s.sent := by dsimp only [State.onGroup, State.mapGroups]
@[simp] theorem State.onGroup_unheard (s : State) (k : Nat) (f : Group → Group) : (s.onGroup k f).unheard = s.unheard := by dsimp only [State.onGroup, State.mapGroups]
@[simp] theorem State.onGroup_recovering (s : State) (k : Nat) (f : Group → Group) : (s.onGroup k f).recovering = s.recovering := by dsimp only [State.onGroup, State.mapGroups]
@[simp] theorem State.onGroup_lost (s : State) (k : Nat) (f : Group → Group) : (s.onGroup k f).lost = s.lost := by dsimp only [State.onGroup, State.mapGroups]
@[simp] theorem State.onGroup_routes (s : State) (k : Nat) (f : Group → Group) : (s.onGroup k f).routes = s.routes := by dsimp only [State.onGroup, State.mapGroups]
@[simp] theorem State.onGroup_routesNew (s : State) (k : Nat) (f : Group → Group) : (s.onGroup k f).routesNew = s.routesNew := by dsimp only [State.onGroup, State.mapGroups]
@[simp] theorem State.onGroup_replays (s : State) (k : Nat) (f : Group → Group) : (s.onGroup k f).replays = s.replays := by dsimp only [State.onGroup, State.mapGroups]
@[simp] theorem State.onGroup_linksDown (s : State) (k : Nat) (f : Group → Group) : (s.onGroup k f).linksDown = s.linksDown := by dsimp only [State.onGroup, State.mapGroups]
@[simp] theorem State.onGroup_faultQueue (s : State) (k : Nat) (f : Group → Group) : (s.onGroup k f).faultQueue = s.faultQueue := by dsimp only [State.onGroup, State.mapGroups]
@[simp] theorem State.onGroup_stuck (s : State) (k : Nat) (f : Group → Group) : (s.onGroup k f).stuck = s.stuck := by dsimp only [State.onGroup, State.mapGroups]
@[simp] theorem State.onGroup_events (s : State) (k : Nat) (f : Group → Group) : (s.onGroup k f).events = s.events := by dsimp only [State.onGroup, State.mapGroups]
@[simp] theorem State.onGroup_replies (s : State) (k : Nat) (f : Group → Group) : (s.onGroup k f).replies = s.replies := by dsimp only [State.onGroup, State.mapGroups]
@[simp] theorem State.onGroup_calls (s : State) (k : Nat) (f : Group → Group) : (s.onGroup k f).calls = s.calls := by dsimp only [State.onGroup, State.mapGroups]
@[simp] theorem State.onGroup_blackBox (s : State) (k : Nat) (f : Group → Group) : (s.onGroup k f).blackBox = s.blackBox := by dsimp only [State.onGroup, State.mapGroups]
@[simp] theorem State.onGroup_traces (s : State) (k : Nat) (f : Group → Group) : (s.onGroup k f).traces = s.traces := by dsimp only [State.onGroup, State.mapGroups]
@[simp] theorem State.onGroup_almcause (s : State) (k : Nat) (f : Group → Group) : (s.onGroup k f).almcause = s.almcause := by dsimp only [State.onGroup, State.mapGroups]
@[simp] theorem State.onGroup_almcount (s : State) (k : Nat) (f : Group → Group) : (s.onGroup k f).almcount = s.almcount := by dsimp only [State.onGroup, State.mapGroups]
@[simp] theorem State.onGroup_alarmed (s : State) (k : Nat) (f : Group → Group) : (s.onGroup k f).alarmed = s.alarmed := by dsimp only [State.onGroup, State.mapGroups]
@[simp] theorem State.onGroup_down (s : State) (k : Nat) (f : Group → Group) : (s.onGroup k f).down = s.down := by dsimp only [State.onGroup, State.mapGroups]
@[simp] theorem State.onGroup_zeroised (s : State) (k : Nat) (f : Group → Group) : (s.onGroup k f).zeroised = s.zeroised := by dsimp only [State.onGroup, State.mapGroups]
@[simp] theorem State.onGroup_measures (s : State) (k : Nat) (f : Group → Group) : (s.onGroup k f).measures = s.measures := by dsimp only [State.onGroup, State.mapGroups]
@[simp] theorem State.onGroup_svns (s : State) (k : Nat) (f : Group → Group) : (s.onGroup k f).svns = s.svns := by dsimp only [State.onGroup, State.mapGroups]
@[simp] theorem State.onGroup_staged (s : State) (k : Nat) (f : Group → Group) : (s.onGroup k f).staged = s.staged := by dsimp only [State.onGroup, State.mapGroups]
@[simp] theorem State.onGroup_fuses (s : State) (k : Nat) (f : Group → Group) : (s.onGroup k f).fuses = s.fuses := by dsimp only [State.onGroup, State.mapGroups]
@[simp] theorem State.onGroup_stages (s : State) (k : Nat) (f : Group → Group) : (s.onGroup k f).stages = s.stages := by dsimp only [State.onGroup, State.mapGroups]
@[simp] theorem State.onGroup_sysCores (s : State) (k : Nat) (f : Group → Group) : (s.onGroup k f).sysCores = s.sysCores := by dsimp only [State.onGroup, State.mapGroups]
@[simp] theorem State.onGroup_requests (s : State) (k : Nat) (f : Group → Group) : (s.onGroup k f).requests = s.requests := by dsimp only [State.onGroup, State.mapGroups]
@[simp] theorem State.onGroup_apart (s : State) (k : Nat) (f : Group → Group) : (s.onGroup k f).apart = s.apart := by dsimp only [State.onGroup, State.mapGroups]
@[simp] theorem State.onGroup_module (s : State) (k : Nat) (f : Group → Group) : (s.onGroup k f).module = s.module := by dsimp only [State.onGroup, State.mapGroups]
@[simp] theorem State.onGroup_powerCap (s : State) (k : Nat) (f : Group → Group) : (s.onGroup k f).powerCap = s.powerCap := by dsimp only [State.onGroup, State.mapGroups]
@[simp] theorem State.onGroup_clock (s : State) (k : Nat) (f : Group → Group) : (s.onGroup k f).clock = s.clock := by dsimp only [State.onGroup, State.mapGroups]
@[simp] theorem State.onGroup_corrected (s : State) (k : Nat) (f : Group → Group) : (s.onGroup k f).corrected = s.corrected := by dsimp only [State.onGroup, State.mapGroups]
@[simp] theorem State.onGroup_wdLimit (s : State) (k : Nat) (f : Group → Group) : (s.onGroup k f).wdLimit = s.wdLimit := by dsimp only [State.onGroup, State.mapGroups]
@[simp] theorem State.onGroup_testEvery (s : State) (k : Nat) (f : Group → Group) : (s.onGroup k f).testEvery = s.testEvery := by dsimp only [State.onGroup, State.mapGroups]
@[simp] theorem State.onGroup_flits (s : State) (k : Nat) (f : Group → Group) : (s.onGroup k f).flits = s.flits := by dsimp only [State.onGroup, State.mapGroups]
@[simp] theorem State.onGroup_flitsIn (s : State) (k : Nat) (f : Group → Group) : (s.onGroup k f).flitsIn = s.flitsIn := by dsimp only [State.onGroup, State.mapGroups]
@[simp] theorem State.onGroup_flitLog (s : State) (k : Nat) (f : Group → Group) : (s.onGroup k f).flitLog = s.flitLog := by dsimp only [State.onGroup, State.mapGroups]
@[simp] theorem State.onGroup_traffic (s : State) (k : Nat) (f : Group → Group) : (s.onGroup k f).traffic = s.traffic := by dsimp only [State.onGroup, State.mapGroups]

/-! `State.reply`. -/

@[simp] theorem State.reply_tick (s : State) (c : Nat) (ws : List Word) (bs : List Byte) : (s.reply c ws bs).tick = s.tick := by dsimp only [State.reply]
@[simp] theorem State.reply_fresh (s : State) (c : Nat) (ws : List Word) (bs : List Byte) : (s.reply c ws bs).fresh = s.fresh := by dsimp only [State.reply]
@[simp] theorem State.reply_inputs (s : State) (c : Nat) (ws : List Word) (bs : List Byte) : (s.reply c ws bs).inputs = s.inputs := by dsimp only [State.reply]
@[simp] theorem State.reply_device (s : State) (c : Nat) (ws : List Word) (bs : List Byte) : (s.reply c ws bs).device = s.device := by dsimp only [State.reply]
@[simp] theorem State.reply_g (s : State) (c : Nat) (ws : List Word) (bs : List Byte) : (s.reply c ws bs).g = s.g := by dsimp only [State.reply]
@[simp] theorem State.reply_others (s : State) (c : Nat) (ws : List Word) (bs : List Byte) : (s.reply c ws bs).others = s.others := by dsimp only [State.reply]
@[simp] theorem State.reply_mem (s : State) (c : Nat) (ws : List Word) (bs : List Byte) : (s.reply c ws bs).mem = s.mem := by dsimp only [State.reply]
@[simp] theorem State.reply_olds (s : State) (c : Nat) (ws : List Word) (bs : List Byte) : (s.reply c ws bs).olds = s.olds := by dsimp only [State.reply]
@[simp] theorem State.reply_keyTags (s : State) (c : Nat) (ws : List Word) (bs : List Byte) : (s.reply c ws bs).keyTags = s.keyTags := by dsimp only [State.reply]
@[simp] theorem State.reply_keyGens (s : State) (c : Nat) (ws : List Word) (bs : List Byte) : (s.reply c ws bs).keyGens = s.keyGens := by dsimp only [State.reply]
@[simp] theorem State.reply_full (s : State) (c : Nat) (ws : List Word) (bs : List Byte) : (s.reply c ws bs).full = s.full := by dsimp only [State.reply]
@[simp] theorem State.reply_bindings (s : State) (c : Nat) (ws : List Word) (bs : List Byte) : (s.reply c ws bs).bindings = s.bindings := by dsimp only [State.reply]
@[simp] theorem State.reply_poison (s : State) (c : Nat) (ws : List Word) (bs : List Byte) : (s.reply c ws bs).poison = s.poison := by dsimp only [State.reply]
@[simp] theorem State.reply_stalePte (s : State) (c : Nat) (ws : List Word) (bs : List Byte) : (s.reply c ws bs).stalePte = s.stalePte := by dsimp only [State.reply]
@[simp] theorem State.reply_icache (s : State) (c : Nat) (ws : List Word) (bs : List Byte) : (s.reply c ws bs).icache = s.icache := by dsimp only [State.reply]
@[simp] theorem State.reply_code (s : State) (c : Nat) (ws : List Word) (bs : List Byte) : (s.reply c ws bs).code = s.code := by dsimp only [State.reply]
@[simp] theorem State.reply_launches (s : State) (c : Nat) (ws : List Word) (bs : List Byte) : (s.reply c ws bs).launches = s.launches := by dsimp only [State.reply]
@[simp] theorem State.reply_away (s : State) (c : Nat) (ws : List Word) (bs : List Byte) : (s.reply c ws bs).away = s.away := by dsimp only [State.reply]
@[simp] theorem State.reply_contexts (s : State) (c : Nat) (ws : List Word) (bs : List Byte) : (s.reply c ws bs).contexts = s.contexts := by dsimp only [State.reply]
@[simp] theorem State.reply_teams (s : State) (c : Nat) (ws : List Word) (bs : List Byte) : (s.reply c ws bs).teams = s.teams := by dsimp only [State.reply]
@[simp] theorem State.reply_cores (s : State) (c : Nat) (ws : List Word) (bs : List Byte) : (s.reply c ws bs).cores = s.cores := by dsimp only [State.reply]
@[simp] theorem State.reply_fenced (s : State) (c : Nat) (ws : List Word) (bs : List Byte) : (s.reply c ws bs).fenced = s.fenced := by dsimp only [State.reply]
@[simp] theorem State.reply_tested (s : State) (c : Nat) (ws : List Word) (bs : List Byte) : (s.reply c ws bs).tested = s.tested := by dsimp only [State.reply]
@[simp] theorem State.reply_hosted (s : State) (c : Nat) (ws : List Word) (bs : List Byte) : (s.reply c ws bs).hosted = s.hosted := by dsimp only [State.reply]
@[simp] theorem State.reply_grants (s : State) (c : Nat) (ws : List Word) (bs : List Byte) : (s.reply c ws bs).grants = s.grants := by dsimp only [State.reply]
@[simp] theorem State.reply_gens (s : State) (c : Nat) (ws : List Word) (bs : List Byte) : (s.reply c ws bs).gens = s.gens := by dsimp only [State.reply]
@[simp] theorem State.reply_proms (s : State) (c : Nat) (ws : List Word) (bs : List Byte) : (s.reply c ws bs).proms = s.proms := by dsimp only [State.reply]
@[simp] theorem State.reply_oneShots (s : State) (c : Nat) (ws : List Word) (bs : List Byte) : (s.reply c ws bs).oneShots = s.oneShots := by dsimp only [State.reply]
@[simp] theorem State.reply_channels (s : State) (c : Nat) (ws : List Word) (bs : List Byte) : (s.reply c ws bs).channels = s.channels := by dsimp only [State.reply]
@[simp] theorem State.reply_colls (s : State) (c : Nat) (ws : List Word) (bs : List Byte) : (s.reply c ws bs).colls = s.colls := by dsimp only [State.reply]
@[simp] theorem State.reply_queues (s : State) (c : Nat) (ws : List Word) (bs : List Byte) : (s.reply c ws bs).queues = s.queues := by dsimp only [State.reply]
@[simp] theorem State.reply_entries (s : State) (c : Nat) (ws : List Word) (bs : List Byte) : (s.reply c ws bs).entries = s.entries := by dsimp only [State.reply]
@[simp] theorem State.reply_ranges (s : State) (c : Nat) (ws : List Word) (bs : List Byte) : (s.reply c ws bs).ranges = s.ranges := by dsimp only [State.reply]
@[simp] theorem State.reply_counters (s : State) (c : Nat) (ws : List Word) (bs : List Byte) : (s.reply c ws bs).counters = s.counters := by dsimp only [State.reply]
@[simp] theorem State.reply_roots (s : State) (c : Nat) (ws : List Word) (bs : List Byte) : (s.reply c ws bs).roots = s.roots := by dsimp only [State.reply]
@[simp] theorem State.reply_proxies (s : State) (c : Nat) (ws : List Word) (bs : List Byte) : (s.reply c ws bs).proxies = s.proxies := by dsimp only [State.reply]
@[simp] theorem State.reply_returns (s : State) (c : Nat) (ws : List Word) (bs : List Byte) : (s.reply c ws bs).returns = s.returns := by dsimp only [State.reply]
@[simp] theorem State.reply_rehomed (s : State) (c : Nat) (ws : List Word) (bs : List Byte) : (s.reply c ws bs).rehomed = s.rehomed := by dsimp only [State.reply]
@[simp] theorem State.reply_farRoots (s : State) (c : Nat) (ws : List Word) (bs : List Byte) : (s.reply c ws bs).farRoots = s.farRoots := by dsimp only [State.reply]
@[simp] theorem State.reply_convs (s : State) (c : Nat) (ws : List Word) (bs : List Byte) : (s.reply c ws bs).convs = s.convs := by dsimp only [State.reply]
@[simp] theorem State.reply_collsBad (s : State) (c : Nat) (ws : List Word) (bs : List Byte) : (s.reply c ws bs).collsBad = s.collsBad := by dsimp only [State.reply]
@[simp] theorem State.reply_reaches (s : State) (c : Nat) (ws : List Word) (bs : List Byte) : (s.reply c ws bs).reaches = s.reaches := by dsimp only [State.reply]
@[simp] theorem State.reply_outbox (s : State) (c : Nat) (ws : List Word) (bs : List Byte) : (s.reply c ws bs).outbox = s.outbox := by dsimp only [State.reply]
@[simp] theorem State.reply_sent (s : State) (c : Nat) (ws : List Word) (bs : List Byte) : (s.reply c ws bs).sent = s.sent := by dsimp only [State.reply]
@[simp] theorem State.reply_unheard (s : State) (c : Nat) (ws : List Word) (bs : List Byte) : (s.reply c ws bs).unheard = s.unheard := by dsimp only [State.reply]
@[simp] theorem State.reply_recovering (s : State) (c : Nat) (ws : List Word) (bs : List Byte) : (s.reply c ws bs).recovering = s.recovering := by dsimp only [State.reply]
@[simp] theorem State.reply_lost (s : State) (c : Nat) (ws : List Word) (bs : List Byte) : (s.reply c ws bs).lost = s.lost := by dsimp only [State.reply]
@[simp] theorem State.reply_routes (s : State) (c : Nat) (ws : List Word) (bs : List Byte) : (s.reply c ws bs).routes = s.routes := by dsimp only [State.reply]
@[simp] theorem State.reply_routesNew (s : State) (c : Nat) (ws : List Word) (bs : List Byte) : (s.reply c ws bs).routesNew = s.routesNew := by dsimp only [State.reply]
@[simp] theorem State.reply_replays (s : State) (c : Nat) (ws : List Word) (bs : List Byte) : (s.reply c ws bs).replays = s.replays := by dsimp only [State.reply]
@[simp] theorem State.reply_linksDown (s : State) (c : Nat) (ws : List Word) (bs : List Byte) : (s.reply c ws bs).linksDown = s.linksDown := by dsimp only [State.reply]
@[simp] theorem State.reply_faultQueue (s : State) (c : Nat) (ws : List Word) (bs : List Byte) : (s.reply c ws bs).faultQueue = s.faultQueue := by dsimp only [State.reply]
@[simp] theorem State.reply_stuck (s : State) (c : Nat) (ws : List Word) (bs : List Byte) : (s.reply c ws bs).stuck = s.stuck := by dsimp only [State.reply]
@[simp] theorem State.reply_events (s : State) (c : Nat) (ws : List Word) (bs : List Byte) : (s.reply c ws bs).events = s.events := by dsimp only [State.reply]
@[simp] theorem State.reply_calls (s : State) (c : Nat) (ws : List Word) (bs : List Byte) : (s.reply c ws bs).calls = s.calls := by dsimp only [State.reply]
@[simp] theorem State.reply_blackBox (s : State) (c : Nat) (ws : List Word) (bs : List Byte) : (s.reply c ws bs).blackBox = s.blackBox := by dsimp only [State.reply]
@[simp] theorem State.reply_traces (s : State) (c : Nat) (ws : List Word) (bs : List Byte) : (s.reply c ws bs).traces = s.traces := by dsimp only [State.reply]
@[simp] theorem State.reply_almcause (s : State) (c : Nat) (ws : List Word) (bs : List Byte) : (s.reply c ws bs).almcause = s.almcause := by dsimp only [State.reply]
@[simp] theorem State.reply_almcount (s : State) (c : Nat) (ws : List Word) (bs : List Byte) : (s.reply c ws bs).almcount = s.almcount := by dsimp only [State.reply]
@[simp] theorem State.reply_alarmed (s : State) (c : Nat) (ws : List Word) (bs : List Byte) : (s.reply c ws bs).alarmed = s.alarmed := by dsimp only [State.reply]
@[simp] theorem State.reply_down (s : State) (c : Nat) (ws : List Word) (bs : List Byte) : (s.reply c ws bs).down = s.down := by dsimp only [State.reply]
@[simp] theorem State.reply_zeroised (s : State) (c : Nat) (ws : List Word) (bs : List Byte) : (s.reply c ws bs).zeroised = s.zeroised := by dsimp only [State.reply]
@[simp] theorem State.reply_measures (s : State) (c : Nat) (ws : List Word) (bs : List Byte) : (s.reply c ws bs).measures = s.measures := by dsimp only [State.reply]
@[simp] theorem State.reply_svns (s : State) (c : Nat) (ws : List Word) (bs : List Byte) : (s.reply c ws bs).svns = s.svns := by dsimp only [State.reply]
@[simp] theorem State.reply_staged (s : State) (c : Nat) (ws : List Word) (bs : List Byte) : (s.reply c ws bs).staged = s.staged := by dsimp only [State.reply]
@[simp] theorem State.reply_fuses (s : State) (c : Nat) (ws : List Word) (bs : List Byte) : (s.reply c ws bs).fuses = s.fuses := by dsimp only [State.reply]
@[simp] theorem State.reply_stages (s : State) (c : Nat) (ws : List Word) (bs : List Byte) : (s.reply c ws bs).stages = s.stages := by dsimp only [State.reply]
@[simp] theorem State.reply_sysCores (s : State) (c : Nat) (ws : List Word) (bs : List Byte) : (s.reply c ws bs).sysCores = s.sysCores := by dsimp only [State.reply]
@[simp] theorem State.reply_requests (s : State) (c : Nat) (ws : List Word) (bs : List Byte) : (s.reply c ws bs).requests = s.requests := by dsimp only [State.reply]
@[simp] theorem State.reply_apart (s : State) (c : Nat) (ws : List Word) (bs : List Byte) : (s.reply c ws bs).apart = s.apart := by dsimp only [State.reply]
@[simp] theorem State.reply_module (s : State) (c : Nat) (ws : List Word) (bs : List Byte) : (s.reply c ws bs).module = s.module := by dsimp only [State.reply]
@[simp] theorem State.reply_powerCap (s : State) (c : Nat) (ws : List Word) (bs : List Byte) : (s.reply c ws bs).powerCap = s.powerCap := by dsimp only [State.reply]
@[simp] theorem State.reply_clock (s : State) (c : Nat) (ws : List Word) (bs : List Byte) : (s.reply c ws bs).clock = s.clock := by dsimp only [State.reply]
@[simp] theorem State.reply_corrected (s : State) (c : Nat) (ws : List Word) (bs : List Byte) : (s.reply c ws bs).corrected = s.corrected := by dsimp only [State.reply]
@[simp] theorem State.reply_wdLimit (s : State) (c : Nat) (ws : List Word) (bs : List Byte) : (s.reply c ws bs).wdLimit = s.wdLimit := by dsimp only [State.reply]
@[simp] theorem State.reply_testEvery (s : State) (c : Nat) (ws : List Word) (bs : List Byte) : (s.reply c ws bs).testEvery = s.testEvery := by dsimp only [State.reply]
@[simp] theorem State.reply_flits (s : State) (c : Nat) (ws : List Word) (bs : List Byte) : (s.reply c ws bs).flits = s.flits := by dsimp only [State.reply]
@[simp] theorem State.reply_flitsIn (s : State) (c : Nat) (ws : List Word) (bs : List Byte) : (s.reply c ws bs).flitsIn = s.flitsIn := by dsimp only [State.reply]
@[simp] theorem State.reply_flitLog (s : State) (c : Nat) (ws : List Word) (bs : List Byte) : (s.reply c ws bs).flitLog = s.flitLog := by dsimp only [State.reply]
@[simp] theorem State.reply_traffic (s : State) (c : Nat) (ws : List Word) (bs : List Byte) : (s.reply c ws bs).traffic = s.traffic := by dsimp only [State.reply]

/-! `State.report`. -/

@[simp] theorem State.report_tick (s : State) (k : WKind) (x : Group) (d : List Nat) : (s.report k x d).tick = s.tick := by dsimp only [State.report]
@[simp] theorem State.report_fresh (s : State) (k : WKind) (x : Group) (d : List Nat) : (s.report k x d).fresh = s.fresh := by dsimp only [State.report]
@[simp] theorem State.report_inputs (s : State) (k : WKind) (x : Group) (d : List Nat) : (s.report k x d).inputs = s.inputs := by dsimp only [State.report]
@[simp] theorem State.report_device (s : State) (k : WKind) (x : Group) (d : List Nat) : (s.report k x d).device = s.device := by dsimp only [State.report]
@[simp] theorem State.report_g (s : State) (k : WKind) (x : Group) (d : List Nat) : (s.report k x d).g = s.g := by dsimp only [State.report]
@[simp] theorem State.report_others (s : State) (k : WKind) (x : Group) (d : List Nat) : (s.report k x d).others = s.others := by dsimp only [State.report]
@[simp] theorem State.report_mem (s : State) (k : WKind) (x : Group) (d : List Nat) : (s.report k x d).mem = s.mem := by dsimp only [State.report]
@[simp] theorem State.report_olds (s : State) (k : WKind) (x : Group) (d : List Nat) : (s.report k x d).olds = s.olds := by dsimp only [State.report]
@[simp] theorem State.report_keyTags (s : State) (k : WKind) (x : Group) (d : List Nat) : (s.report k x d).keyTags = s.keyTags := by dsimp only [State.report]
@[simp] theorem State.report_keyGens (s : State) (k : WKind) (x : Group) (d : List Nat) : (s.report k x d).keyGens = s.keyGens := by dsimp only [State.report]
@[simp] theorem State.report_full (s : State) (k : WKind) (x : Group) (d : List Nat) : (s.report k x d).full = s.full := by dsimp only [State.report]
@[simp] theorem State.report_bindings (s : State) (k : WKind) (x : Group) (d : List Nat) : (s.report k x d).bindings = s.bindings := by dsimp only [State.report]
@[simp] theorem State.report_poison (s : State) (k : WKind) (x : Group) (d : List Nat) : (s.report k x d).poison = s.poison := by dsimp only [State.report]
@[simp] theorem State.report_stalePte (s : State) (k : WKind) (x : Group) (d : List Nat) : (s.report k x d).stalePte = s.stalePte := by dsimp only [State.report]
@[simp] theorem State.report_icache (s : State) (k : WKind) (x : Group) (d : List Nat) : (s.report k x d).icache = s.icache := by dsimp only [State.report]
@[simp] theorem State.report_code (s : State) (k : WKind) (x : Group) (d : List Nat) : (s.report k x d).code = s.code := by dsimp only [State.report]
@[simp] theorem State.report_launches (s : State) (k : WKind) (x : Group) (d : List Nat) : (s.report k x d).launches = s.launches := by dsimp only [State.report]
@[simp] theorem State.report_away (s : State) (k : WKind) (x : Group) (d : List Nat) : (s.report k x d).away = s.away := by dsimp only [State.report]
@[simp] theorem State.report_contexts (s : State) (k : WKind) (x : Group) (d : List Nat) : (s.report k x d).contexts = s.contexts := by dsimp only [State.report]
@[simp] theorem State.report_teams (s : State) (k : WKind) (x : Group) (d : List Nat) : (s.report k x d).teams = s.teams := by dsimp only [State.report]
@[simp] theorem State.report_cores (s : State) (k : WKind) (x : Group) (d : List Nat) : (s.report k x d).cores = s.cores := by dsimp only [State.report]
@[simp] theorem State.report_fenced (s : State) (k : WKind) (x : Group) (d : List Nat) : (s.report k x d).fenced = s.fenced := by dsimp only [State.report]
@[simp] theorem State.report_tested (s : State) (k : WKind) (x : Group) (d : List Nat) : (s.report k x d).tested = s.tested := by dsimp only [State.report]
@[simp] theorem State.report_hosted (s : State) (k : WKind) (x : Group) (d : List Nat) : (s.report k x d).hosted = s.hosted := by dsimp only [State.report]
@[simp] theorem State.report_grants (s : State) (k : WKind) (x : Group) (d : List Nat) : (s.report k x d).grants = s.grants := by dsimp only [State.report]
@[simp] theorem State.report_gens (s : State) (k : WKind) (x : Group) (d : List Nat) : (s.report k x d).gens = s.gens := by dsimp only [State.report]
@[simp] theorem State.report_proms (s : State) (k : WKind) (x : Group) (d : List Nat) : (s.report k x d).proms = s.proms := by dsimp only [State.report]
@[simp] theorem State.report_oneShots (s : State) (k : WKind) (x : Group) (d : List Nat) : (s.report k x d).oneShots = s.oneShots := by dsimp only [State.report]
@[simp] theorem State.report_channels (s : State) (k : WKind) (x : Group) (d : List Nat) : (s.report k x d).channels = s.channels := by dsimp only [State.report]
@[simp] theorem State.report_colls (s : State) (k : WKind) (x : Group) (d : List Nat) : (s.report k x d).colls = s.colls := by dsimp only [State.report]
@[simp] theorem State.report_queues (s : State) (k : WKind) (x : Group) (d : List Nat) : (s.report k x d).queues = s.queues := by dsimp only [State.report]
@[simp] theorem State.report_entries (s : State) (k : WKind) (x : Group) (d : List Nat) : (s.report k x d).entries = s.entries := by dsimp only [State.report]
@[simp] theorem State.report_ranges (s : State) (k : WKind) (x : Group) (d : List Nat) : (s.report k x d).ranges = s.ranges := by dsimp only [State.report]
@[simp] theorem State.report_counters (s : State) (k : WKind) (x : Group) (d : List Nat) : (s.report k x d).counters = s.counters := by dsimp only [State.report]
@[simp] theorem State.report_roots (s : State) (k : WKind) (x : Group) (d : List Nat) : (s.report k x d).roots = s.roots := by dsimp only [State.report]
@[simp] theorem State.report_proxies (s : State) (k : WKind) (x : Group) (d : List Nat) : (s.report k x d).proxies = s.proxies := by dsimp only [State.report]
@[simp] theorem State.report_returns (s : State) (k : WKind) (x : Group) (d : List Nat) : (s.report k x d).returns = s.returns := by dsimp only [State.report]
@[simp] theorem State.report_rehomed (s : State) (k : WKind) (x : Group) (d : List Nat) : (s.report k x d).rehomed = s.rehomed := by dsimp only [State.report]
@[simp] theorem State.report_farRoots (s : State) (k : WKind) (x : Group) (d : List Nat) : (s.report k x d).farRoots = s.farRoots := by dsimp only [State.report]
@[simp] theorem State.report_convs (s : State) (k : WKind) (x : Group) (d : List Nat) : (s.report k x d).convs = s.convs := by dsimp only [State.report]
@[simp] theorem State.report_collsBad (s : State) (k : WKind) (x : Group) (d : List Nat) : (s.report k x d).collsBad = s.collsBad := by dsimp only [State.report]
@[simp] theorem State.report_reaches (s : State) (k : WKind) (x : Group) (d : List Nat) : (s.report k x d).reaches = s.reaches := by dsimp only [State.report]
@[simp] theorem State.report_outbox (s : State) (k : WKind) (x : Group) (d : List Nat) : (s.report k x d).outbox = s.outbox := by dsimp only [State.report]
@[simp] theorem State.report_sent (s : State) (k : WKind) (x : Group) (d : List Nat) : (s.report k x d).sent = s.sent := by dsimp only [State.report]
@[simp] theorem State.report_unheard (s : State) (k : WKind) (x : Group) (d : List Nat) : (s.report k x d).unheard = s.unheard := by dsimp only [State.report]
@[simp] theorem State.report_recovering (s : State) (k : WKind) (x : Group) (d : List Nat) : (s.report k x d).recovering = s.recovering := by dsimp only [State.report]
@[simp] theorem State.report_lost (s : State) (k : WKind) (x : Group) (d : List Nat) : (s.report k x d).lost = s.lost := by dsimp only [State.report]
@[simp] theorem State.report_routes (s : State) (k : WKind) (x : Group) (d : List Nat) : (s.report k x d).routes = s.routes := by dsimp only [State.report]
@[simp] theorem State.report_routesNew (s : State) (k : WKind) (x : Group) (d : List Nat) : (s.report k x d).routesNew = s.routesNew := by dsimp only [State.report]
@[simp] theorem State.report_replays (s : State) (k : WKind) (x : Group) (d : List Nat) : (s.report k x d).replays = s.replays := by dsimp only [State.report]
@[simp] theorem State.report_linksDown (s : State) (k : WKind) (x : Group) (d : List Nat) : (s.report k x d).linksDown = s.linksDown := by dsimp only [State.report]
@[simp] theorem State.report_faultQueue (s : State) (k : WKind) (x : Group) (d : List Nat) : (s.report k x d).faultQueue = s.faultQueue := by dsimp only [State.report]
@[simp] theorem State.report_stuck (s : State) (k : WKind) (x : Group) (d : List Nat) : (s.report k x d).stuck = s.stuck := by dsimp only [State.report]
@[simp] theorem State.report_replies (s : State) (k : WKind) (x : Group) (d : List Nat) : (s.report k x d).replies = s.replies := by dsimp only [State.report]
@[simp] theorem State.report_calls (s : State) (k : WKind) (x : Group) (d : List Nat) : (s.report k x d).calls = s.calls := by dsimp only [State.report]
@[simp] theorem State.report_blackBox (s : State) (k : WKind) (x : Group) (d : List Nat) : (s.report k x d).blackBox = s.blackBox := by dsimp only [State.report]
@[simp] theorem State.report_traces (s : State) (k : WKind) (x : Group) (d : List Nat) : (s.report k x d).traces = s.traces := by dsimp only [State.report]
@[simp] theorem State.report_almcause (s : State) (k : WKind) (x : Group) (d : List Nat) : (s.report k x d).almcause = s.almcause := by dsimp only [State.report]
@[simp] theorem State.report_almcount (s : State) (k : WKind) (x : Group) (d : List Nat) : (s.report k x d).almcount = s.almcount := by dsimp only [State.report]
@[simp] theorem State.report_alarmed (s : State) (k : WKind) (x : Group) (d : List Nat) : (s.report k x d).alarmed = s.alarmed := by dsimp only [State.report]
@[simp] theorem State.report_down (s : State) (k : WKind) (x : Group) (d : List Nat) : (s.report k x d).down = s.down := by dsimp only [State.report]
@[simp] theorem State.report_zeroised (s : State) (k : WKind) (x : Group) (d : List Nat) : (s.report k x d).zeroised = s.zeroised := by dsimp only [State.report]
@[simp] theorem State.report_measures (s : State) (k : WKind) (x : Group) (d : List Nat) : (s.report k x d).measures = s.measures := by dsimp only [State.report]
@[simp] theorem State.report_svns (s : State) (k : WKind) (x : Group) (d : List Nat) : (s.report k x d).svns = s.svns := by dsimp only [State.report]
@[simp] theorem State.report_staged (s : State) (k : WKind) (x : Group) (d : List Nat) : (s.report k x d).staged = s.staged := by dsimp only [State.report]
@[simp] theorem State.report_fuses (s : State) (k : WKind) (x : Group) (d : List Nat) : (s.report k x d).fuses = s.fuses := by dsimp only [State.report]
@[simp] theorem State.report_stages (s : State) (k : WKind) (x : Group) (d : List Nat) : (s.report k x d).stages = s.stages := by dsimp only [State.report]
@[simp] theorem State.report_sysCores (s : State) (k : WKind) (x : Group) (d : List Nat) : (s.report k x d).sysCores = s.sysCores := by dsimp only [State.report]
@[simp] theorem State.report_requests (s : State) (k : WKind) (x : Group) (d : List Nat) : (s.report k x d).requests = s.requests := by dsimp only [State.report]
@[simp] theorem State.report_apart (s : State) (k : WKind) (x : Group) (d : List Nat) : (s.report k x d).apart = s.apart := by dsimp only [State.report]
@[simp] theorem State.report_module (s : State) (k : WKind) (x : Group) (d : List Nat) : (s.report k x d).module = s.module := by dsimp only [State.report]
@[simp] theorem State.report_powerCap (s : State) (k : WKind) (x : Group) (d : List Nat) : (s.report k x d).powerCap = s.powerCap := by dsimp only [State.report]
@[simp] theorem State.report_clock (s : State) (k : WKind) (x : Group) (d : List Nat) : (s.report k x d).clock = s.clock := by dsimp only [State.report]
@[simp] theorem State.report_corrected (s : State) (k : WKind) (x : Group) (d : List Nat) : (s.report k x d).corrected = s.corrected := by dsimp only [State.report]
@[simp] theorem State.report_wdLimit (s : State) (k : WKind) (x : Group) (d : List Nat) : (s.report k x d).wdLimit = s.wdLimit := by dsimp only [State.report]
@[simp] theorem State.report_testEvery (s : State) (k : WKind) (x : Group) (d : List Nat) : (s.report k x d).testEvery = s.testEvery := by dsimp only [State.report]
@[simp] theorem State.report_flits (s : State) (k : WKind) (x : Group) (d : List Nat) : (s.report k x d).flits = s.flits := by dsimp only [State.report]
@[simp] theorem State.report_flitsIn (s : State) (k : WKind) (x : Group) (d : List Nat) : (s.report k x d).flitsIn = s.flitsIn := by dsimp only [State.report]
@[simp] theorem State.report_flitLog (s : State) (k : WKind) (x : Group) (d : List Nat) : (s.report k x d).flitLog = s.flitLog := by dsimp only [State.report]
@[simp] theorem State.report_traffic (s : State) (k : WKind) (x : Group) (d : List Nat) : (s.report k x d).traffic = s.traffic := by dsimp only [State.report]

/-! `State.notice`. -/

@[simp] theorem State.notice_tick (s : State) (k : WKind) (d : List Nat) : (s.notice k d).tick = s.tick := by dsimp only [State.notice]
@[simp] theorem State.notice_fresh (s : State) (k : WKind) (d : List Nat) : (s.notice k d).fresh = s.fresh := by dsimp only [State.notice]
@[simp] theorem State.notice_inputs (s : State) (k : WKind) (d : List Nat) : (s.notice k d).inputs = s.inputs := by dsimp only [State.notice]
@[simp] theorem State.notice_device (s : State) (k : WKind) (d : List Nat) : (s.notice k d).device = s.device := by dsimp only [State.notice]
@[simp] theorem State.notice_g (s : State) (k : WKind) (d : List Nat) : (s.notice k d).g = s.g := by dsimp only [State.notice]
@[simp] theorem State.notice_others (s : State) (k : WKind) (d : List Nat) : (s.notice k d).others = s.others := by dsimp only [State.notice]
@[simp] theorem State.notice_mem (s : State) (k : WKind) (d : List Nat) : (s.notice k d).mem = s.mem := by dsimp only [State.notice]
@[simp] theorem State.notice_olds (s : State) (k : WKind) (d : List Nat) : (s.notice k d).olds = s.olds := by dsimp only [State.notice]
@[simp] theorem State.notice_keyTags (s : State) (k : WKind) (d : List Nat) : (s.notice k d).keyTags = s.keyTags := by dsimp only [State.notice]
@[simp] theorem State.notice_keyGens (s : State) (k : WKind) (d : List Nat) : (s.notice k d).keyGens = s.keyGens := by dsimp only [State.notice]
@[simp] theorem State.notice_full (s : State) (k : WKind) (d : List Nat) : (s.notice k d).full = s.full := by dsimp only [State.notice]
@[simp] theorem State.notice_bindings (s : State) (k : WKind) (d : List Nat) : (s.notice k d).bindings = s.bindings := by dsimp only [State.notice]
@[simp] theorem State.notice_poison (s : State) (k : WKind) (d : List Nat) : (s.notice k d).poison = s.poison := by dsimp only [State.notice]
@[simp] theorem State.notice_stalePte (s : State) (k : WKind) (d : List Nat) : (s.notice k d).stalePte = s.stalePte := by dsimp only [State.notice]
@[simp] theorem State.notice_icache (s : State) (k : WKind) (d : List Nat) : (s.notice k d).icache = s.icache := by dsimp only [State.notice]
@[simp] theorem State.notice_code (s : State) (k : WKind) (d : List Nat) : (s.notice k d).code = s.code := by dsimp only [State.notice]
@[simp] theorem State.notice_launches (s : State) (k : WKind) (d : List Nat) : (s.notice k d).launches = s.launches := by dsimp only [State.notice]
@[simp] theorem State.notice_away (s : State) (k : WKind) (d : List Nat) : (s.notice k d).away = s.away := by dsimp only [State.notice]
@[simp] theorem State.notice_contexts (s : State) (k : WKind) (d : List Nat) : (s.notice k d).contexts = s.contexts := by dsimp only [State.notice]
@[simp] theorem State.notice_teams (s : State) (k : WKind) (d : List Nat) : (s.notice k d).teams = s.teams := by dsimp only [State.notice]
@[simp] theorem State.notice_cores (s : State) (k : WKind) (d : List Nat) : (s.notice k d).cores = s.cores := by dsimp only [State.notice]
@[simp] theorem State.notice_fenced (s : State) (k : WKind) (d : List Nat) : (s.notice k d).fenced = s.fenced := by dsimp only [State.notice]
@[simp] theorem State.notice_tested (s : State) (k : WKind) (d : List Nat) : (s.notice k d).tested = s.tested := by dsimp only [State.notice]
@[simp] theorem State.notice_hosted (s : State) (k : WKind) (d : List Nat) : (s.notice k d).hosted = s.hosted := by dsimp only [State.notice]
@[simp] theorem State.notice_grants (s : State) (k : WKind) (d : List Nat) : (s.notice k d).grants = s.grants := by dsimp only [State.notice]
@[simp] theorem State.notice_gens (s : State) (k : WKind) (d : List Nat) : (s.notice k d).gens = s.gens := by dsimp only [State.notice]
@[simp] theorem State.notice_proms (s : State) (k : WKind) (d : List Nat) : (s.notice k d).proms = s.proms := by dsimp only [State.notice]
@[simp] theorem State.notice_oneShots (s : State) (k : WKind) (d : List Nat) : (s.notice k d).oneShots = s.oneShots := by dsimp only [State.notice]
@[simp] theorem State.notice_channels (s : State) (k : WKind) (d : List Nat) : (s.notice k d).channels = s.channels := by dsimp only [State.notice]
@[simp] theorem State.notice_colls (s : State) (k : WKind) (d : List Nat) : (s.notice k d).colls = s.colls := by dsimp only [State.notice]
@[simp] theorem State.notice_queues (s : State) (k : WKind) (d : List Nat) : (s.notice k d).queues = s.queues := by dsimp only [State.notice]
@[simp] theorem State.notice_entries (s : State) (k : WKind) (d : List Nat) : (s.notice k d).entries = s.entries := by dsimp only [State.notice]
@[simp] theorem State.notice_ranges (s : State) (k : WKind) (d : List Nat) : (s.notice k d).ranges = s.ranges := by dsimp only [State.notice]
@[simp] theorem State.notice_counters (s : State) (k : WKind) (d : List Nat) : (s.notice k d).counters = s.counters := by dsimp only [State.notice]
@[simp] theorem State.notice_roots (s : State) (k : WKind) (d : List Nat) : (s.notice k d).roots = s.roots := by dsimp only [State.notice]
@[simp] theorem State.notice_proxies (s : State) (k : WKind) (d : List Nat) : (s.notice k d).proxies = s.proxies := by dsimp only [State.notice]
@[simp] theorem State.notice_returns (s : State) (k : WKind) (d : List Nat) : (s.notice k d).returns = s.returns := by dsimp only [State.notice]
@[simp] theorem State.notice_rehomed (s : State) (k : WKind) (d : List Nat) : (s.notice k d).rehomed = s.rehomed := by dsimp only [State.notice]
@[simp] theorem State.notice_farRoots (s : State) (k : WKind) (d : List Nat) : (s.notice k d).farRoots = s.farRoots := by dsimp only [State.notice]
@[simp] theorem State.notice_convs (s : State) (k : WKind) (d : List Nat) : (s.notice k d).convs = s.convs := by dsimp only [State.notice]
@[simp] theorem State.notice_collsBad (s : State) (k : WKind) (d : List Nat) : (s.notice k d).collsBad = s.collsBad := by dsimp only [State.notice]
@[simp] theorem State.notice_reaches (s : State) (k : WKind) (d : List Nat) : (s.notice k d).reaches = s.reaches := by dsimp only [State.notice]
@[simp] theorem State.notice_outbox (s : State) (k : WKind) (d : List Nat) : (s.notice k d).outbox = s.outbox := by dsimp only [State.notice]
@[simp] theorem State.notice_sent (s : State) (k : WKind) (d : List Nat) : (s.notice k d).sent = s.sent := by dsimp only [State.notice]
@[simp] theorem State.notice_unheard (s : State) (k : WKind) (d : List Nat) : (s.notice k d).unheard = s.unheard := by dsimp only [State.notice]
@[simp] theorem State.notice_recovering (s : State) (k : WKind) (d : List Nat) : (s.notice k d).recovering = s.recovering := by dsimp only [State.notice]
@[simp] theorem State.notice_lost (s : State) (k : WKind) (d : List Nat) : (s.notice k d).lost = s.lost := by dsimp only [State.notice]
@[simp] theorem State.notice_routes (s : State) (k : WKind) (d : List Nat) : (s.notice k d).routes = s.routes := by dsimp only [State.notice]
@[simp] theorem State.notice_routesNew (s : State) (k : WKind) (d : List Nat) : (s.notice k d).routesNew = s.routesNew := by dsimp only [State.notice]
@[simp] theorem State.notice_replays (s : State) (k : WKind) (d : List Nat) : (s.notice k d).replays = s.replays := by dsimp only [State.notice]
@[simp] theorem State.notice_linksDown (s : State) (k : WKind) (d : List Nat) : (s.notice k d).linksDown = s.linksDown := by dsimp only [State.notice]
@[simp] theorem State.notice_faultQueue (s : State) (k : WKind) (d : List Nat) : (s.notice k d).faultQueue = s.faultQueue := by dsimp only [State.notice]
@[simp] theorem State.notice_stuck (s : State) (k : WKind) (d : List Nat) : (s.notice k d).stuck = s.stuck := by dsimp only [State.notice]
@[simp] theorem State.notice_replies (s : State) (k : WKind) (d : List Nat) : (s.notice k d).replies = s.replies := by dsimp only [State.notice]
@[simp] theorem State.notice_calls (s : State) (k : WKind) (d : List Nat) : (s.notice k d).calls = s.calls := by dsimp only [State.notice]
@[simp] theorem State.notice_blackBox (s : State) (k : WKind) (d : List Nat) : (s.notice k d).blackBox = s.blackBox := by dsimp only [State.notice]
@[simp] theorem State.notice_traces (s : State) (k : WKind) (d : List Nat) : (s.notice k d).traces = s.traces := by dsimp only [State.notice]
@[simp] theorem State.notice_almcause (s : State) (k : WKind) (d : List Nat) : (s.notice k d).almcause = s.almcause := by dsimp only [State.notice]
@[simp] theorem State.notice_almcount (s : State) (k : WKind) (d : List Nat) : (s.notice k d).almcount = s.almcount := by dsimp only [State.notice]
@[simp] theorem State.notice_alarmed (s : State) (k : WKind) (d : List Nat) : (s.notice k d).alarmed = s.alarmed := by dsimp only [State.notice]
@[simp] theorem State.notice_down (s : State) (k : WKind) (d : List Nat) : (s.notice k d).down = s.down := by dsimp only [State.notice]
@[simp] theorem State.notice_zeroised (s : State) (k : WKind) (d : List Nat) : (s.notice k d).zeroised = s.zeroised := by dsimp only [State.notice]
@[simp] theorem State.notice_measures (s : State) (k : WKind) (d : List Nat) : (s.notice k d).measures = s.measures := by dsimp only [State.notice]
@[simp] theorem State.notice_svns (s : State) (k : WKind) (d : List Nat) : (s.notice k d).svns = s.svns := by dsimp only [State.notice]
@[simp] theorem State.notice_staged (s : State) (k : WKind) (d : List Nat) : (s.notice k d).staged = s.staged := by dsimp only [State.notice]
@[simp] theorem State.notice_fuses (s : State) (k : WKind) (d : List Nat) : (s.notice k d).fuses = s.fuses := by dsimp only [State.notice]
@[simp] theorem State.notice_stages (s : State) (k : WKind) (d : List Nat) : (s.notice k d).stages = s.stages := by dsimp only [State.notice]
@[simp] theorem State.notice_sysCores (s : State) (k : WKind) (d : List Nat) : (s.notice k d).sysCores = s.sysCores := by dsimp only [State.notice]
@[simp] theorem State.notice_requests (s : State) (k : WKind) (d : List Nat) : (s.notice k d).requests = s.requests := by dsimp only [State.notice]
@[simp] theorem State.notice_apart (s : State) (k : WKind) (d : List Nat) : (s.notice k d).apart = s.apart := by dsimp only [State.notice]
@[simp] theorem State.notice_module (s : State) (k : WKind) (d : List Nat) : (s.notice k d).module = s.module := by dsimp only [State.notice]
@[simp] theorem State.notice_powerCap (s : State) (k : WKind) (d : List Nat) : (s.notice k d).powerCap = s.powerCap := by dsimp only [State.notice]
@[simp] theorem State.notice_clock (s : State) (k : WKind) (d : List Nat) : (s.notice k d).clock = s.clock := by dsimp only [State.notice]
@[simp] theorem State.notice_corrected (s : State) (k : WKind) (d : List Nat) : (s.notice k d).corrected = s.corrected := by dsimp only [State.notice]
@[simp] theorem State.notice_wdLimit (s : State) (k : WKind) (d : List Nat) : (s.notice k d).wdLimit = s.wdLimit := by dsimp only [State.notice]
@[simp] theorem State.notice_testEvery (s : State) (k : WKind) (d : List Nat) : (s.notice k d).testEvery = s.testEvery := by dsimp only [State.notice]
@[simp] theorem State.notice_flits (s : State) (k : WKind) (d : List Nat) : (s.notice k d).flits = s.flits := by dsimp only [State.notice]
@[simp] theorem State.notice_flitsIn (s : State) (k : WKind) (d : List Nat) : (s.notice k d).flitsIn = s.flitsIn := by dsimp only [State.notice]
@[simp] theorem State.notice_flitLog (s : State) (k : WKind) (d : List Nat) : (s.notice k d).flitLog = s.flitLog := by dsimp only [State.notice]
@[simp] theorem State.notice_traffic (s : State) (k : WKind) (d : List Nat) : (s.notice k d).traffic = s.traffic := by dsimp only [State.notice]

/-! `State.box`. -/

@[simp] theorem State.box_tick (s : State) (t n : Nat) (d : Word) : (s.box t n d).tick = s.tick := by dsimp only [State.box]
@[simp] theorem State.box_fresh (s : State) (t n : Nat) (d : Word) : (s.box t n d).fresh = s.fresh := by dsimp only [State.box]
@[simp] theorem State.box_inputs (s : State) (t n : Nat) (d : Word) : (s.box t n d).inputs = s.inputs := by dsimp only [State.box]
@[simp] theorem State.box_device (s : State) (t n : Nat) (d : Word) : (s.box t n d).device = s.device := by dsimp only [State.box]
@[simp] theorem State.box_g (s : State) (t n : Nat) (d : Word) : (s.box t n d).g = s.g := by dsimp only [State.box]
@[simp] theorem State.box_others (s : State) (t n : Nat) (d : Word) : (s.box t n d).others = s.others := by dsimp only [State.box]
@[simp] theorem State.box_mem (s : State) (t n : Nat) (d : Word) : (s.box t n d).mem = s.mem := by dsimp only [State.box]
@[simp] theorem State.box_olds (s : State) (t n : Nat) (d : Word) : (s.box t n d).olds = s.olds := by dsimp only [State.box]
@[simp] theorem State.box_keyTags (s : State) (t n : Nat) (d : Word) : (s.box t n d).keyTags = s.keyTags := by dsimp only [State.box]
@[simp] theorem State.box_keyGens (s : State) (t n : Nat) (d : Word) : (s.box t n d).keyGens = s.keyGens := by dsimp only [State.box]
@[simp] theorem State.box_full (s : State) (t n : Nat) (d : Word) : (s.box t n d).full = s.full := by dsimp only [State.box]
@[simp] theorem State.box_bindings (s : State) (t n : Nat) (d : Word) : (s.box t n d).bindings = s.bindings := by dsimp only [State.box]
@[simp] theorem State.box_poison (s : State) (t n : Nat) (d : Word) : (s.box t n d).poison = s.poison := by dsimp only [State.box]
@[simp] theorem State.box_stalePte (s : State) (t n : Nat) (d : Word) : (s.box t n d).stalePte = s.stalePte := by dsimp only [State.box]
@[simp] theorem State.box_icache (s : State) (t n : Nat) (d : Word) : (s.box t n d).icache = s.icache := by dsimp only [State.box]
@[simp] theorem State.box_code (s : State) (t n : Nat) (d : Word) : (s.box t n d).code = s.code := by dsimp only [State.box]
@[simp] theorem State.box_launches (s : State) (t n : Nat) (d : Word) : (s.box t n d).launches = s.launches := by dsimp only [State.box]
@[simp] theorem State.box_away (s : State) (t n : Nat) (d : Word) : (s.box t n d).away = s.away := by dsimp only [State.box]
@[simp] theorem State.box_contexts (s : State) (t n : Nat) (d : Word) : (s.box t n d).contexts = s.contexts := by dsimp only [State.box]
@[simp] theorem State.box_teams (s : State) (t n : Nat) (d : Word) : (s.box t n d).teams = s.teams := by dsimp only [State.box]
@[simp] theorem State.box_cores (s : State) (t n : Nat) (d : Word) : (s.box t n d).cores = s.cores := by dsimp only [State.box]
@[simp] theorem State.box_fenced (s : State) (t n : Nat) (d : Word) : (s.box t n d).fenced = s.fenced := by dsimp only [State.box]
@[simp] theorem State.box_tested (s : State) (t n : Nat) (d : Word) : (s.box t n d).tested = s.tested := by dsimp only [State.box]
@[simp] theorem State.box_hosted (s : State) (t n : Nat) (d : Word) : (s.box t n d).hosted = s.hosted := by dsimp only [State.box]
@[simp] theorem State.box_grants (s : State) (t n : Nat) (d : Word) : (s.box t n d).grants = s.grants := by dsimp only [State.box]
@[simp] theorem State.box_gens (s : State) (t n : Nat) (d : Word) : (s.box t n d).gens = s.gens := by dsimp only [State.box]
@[simp] theorem State.box_proms (s : State) (t n : Nat) (d : Word) : (s.box t n d).proms = s.proms := by dsimp only [State.box]
@[simp] theorem State.box_oneShots (s : State) (t n : Nat) (d : Word) : (s.box t n d).oneShots = s.oneShots := by dsimp only [State.box]
@[simp] theorem State.box_channels (s : State) (t n : Nat) (d : Word) : (s.box t n d).channels = s.channels := by dsimp only [State.box]
@[simp] theorem State.box_colls (s : State) (t n : Nat) (d : Word) : (s.box t n d).colls = s.colls := by dsimp only [State.box]
@[simp] theorem State.box_queues (s : State) (t n : Nat) (d : Word) : (s.box t n d).queues = s.queues := by dsimp only [State.box]
@[simp] theorem State.box_entries (s : State) (t n : Nat) (d : Word) : (s.box t n d).entries = s.entries := by dsimp only [State.box]
@[simp] theorem State.box_ranges (s : State) (t n : Nat) (d : Word) : (s.box t n d).ranges = s.ranges := by dsimp only [State.box]
@[simp] theorem State.box_counters (s : State) (t n : Nat) (d : Word) : (s.box t n d).counters = s.counters := by dsimp only [State.box]
@[simp] theorem State.box_roots (s : State) (t n : Nat) (d : Word) : (s.box t n d).roots = s.roots := by dsimp only [State.box]
@[simp] theorem State.box_proxies (s : State) (t n : Nat) (d : Word) : (s.box t n d).proxies = s.proxies := by dsimp only [State.box]
@[simp] theorem State.box_returns (s : State) (t n : Nat) (d : Word) : (s.box t n d).returns = s.returns := by dsimp only [State.box]
@[simp] theorem State.box_rehomed (s : State) (t n : Nat) (d : Word) : (s.box t n d).rehomed = s.rehomed := by dsimp only [State.box]
@[simp] theorem State.box_farRoots (s : State) (t n : Nat) (d : Word) : (s.box t n d).farRoots = s.farRoots := by dsimp only [State.box]
@[simp] theorem State.box_convs (s : State) (t n : Nat) (d : Word) : (s.box t n d).convs = s.convs := by dsimp only [State.box]
@[simp] theorem State.box_collsBad (s : State) (t n : Nat) (d : Word) : (s.box t n d).collsBad = s.collsBad := by dsimp only [State.box]
@[simp] theorem State.box_reaches (s : State) (t n : Nat) (d : Word) : (s.box t n d).reaches = s.reaches := by dsimp only [State.box]
@[simp] theorem State.box_outbox (s : State) (t n : Nat) (d : Word) : (s.box t n d).outbox = s.outbox := by dsimp only [State.box]
@[simp] theorem State.box_sent (s : State) (t n : Nat) (d : Word) : (s.box t n d).sent = s.sent := by dsimp only [State.box]
@[simp] theorem State.box_unheard (s : State) (t n : Nat) (d : Word) : (s.box t n d).unheard = s.unheard := by dsimp only [State.box]
@[simp] theorem State.box_recovering (s : State) (t n : Nat) (d : Word) : (s.box t n d).recovering = s.recovering := by dsimp only [State.box]
@[simp] theorem State.box_lost (s : State) (t n : Nat) (d : Word) : (s.box t n d).lost = s.lost := by dsimp only [State.box]
@[simp] theorem State.box_routes (s : State) (t n : Nat) (d : Word) : (s.box t n d).routes = s.routes := by dsimp only [State.box]
@[simp] theorem State.box_routesNew (s : State) (t n : Nat) (d : Word) : (s.box t n d).routesNew = s.routesNew := by dsimp only [State.box]
@[simp] theorem State.box_replays (s : State) (t n : Nat) (d : Word) : (s.box t n d).replays = s.replays := by dsimp only [State.box]
@[simp] theorem State.box_linksDown (s : State) (t n : Nat) (d : Word) : (s.box t n d).linksDown = s.linksDown := by dsimp only [State.box]
@[simp] theorem State.box_faultQueue (s : State) (t n : Nat) (d : Word) : (s.box t n d).faultQueue = s.faultQueue := by dsimp only [State.box]
@[simp] theorem State.box_stuck (s : State) (t n : Nat) (d : Word) : (s.box t n d).stuck = s.stuck := by dsimp only [State.box]
@[simp] theorem State.box_events (s : State) (t n : Nat) (d : Word) : (s.box t n d).events = s.events := by dsimp only [State.box]
@[simp] theorem State.box_replies (s : State) (t n : Nat) (d : Word) : (s.box t n d).replies = s.replies := by dsimp only [State.box]
@[simp] theorem State.box_calls (s : State) (t n : Nat) (d : Word) : (s.box t n d).calls = s.calls := by dsimp only [State.box]
@[simp] theorem State.box_traces (s : State) (t n : Nat) (d : Word) : (s.box t n d).traces = s.traces := by dsimp only [State.box]
@[simp] theorem State.box_almcause (s : State) (t n : Nat) (d : Word) : (s.box t n d).almcause = s.almcause := by dsimp only [State.box]
@[simp] theorem State.box_almcount (s : State) (t n : Nat) (d : Word) : (s.box t n d).almcount = s.almcount := by dsimp only [State.box]
@[simp] theorem State.box_alarmed (s : State) (t n : Nat) (d : Word) : (s.box t n d).alarmed = s.alarmed := by dsimp only [State.box]
@[simp] theorem State.box_down (s : State) (t n : Nat) (d : Word) : (s.box t n d).down = s.down := by dsimp only [State.box]
@[simp] theorem State.box_zeroised (s : State) (t n : Nat) (d : Word) : (s.box t n d).zeroised = s.zeroised := by dsimp only [State.box]
@[simp] theorem State.box_measures (s : State) (t n : Nat) (d : Word) : (s.box t n d).measures = s.measures := by dsimp only [State.box]
@[simp] theorem State.box_svns (s : State) (t n : Nat) (d : Word) : (s.box t n d).svns = s.svns := by dsimp only [State.box]
@[simp] theorem State.box_staged (s : State) (t n : Nat) (d : Word) : (s.box t n d).staged = s.staged := by dsimp only [State.box]
@[simp] theorem State.box_fuses (s : State) (t n : Nat) (d : Word) : (s.box t n d).fuses = s.fuses := by dsimp only [State.box]
@[simp] theorem State.box_stages (s : State) (t n : Nat) (d : Word) : (s.box t n d).stages = s.stages := by dsimp only [State.box]
@[simp] theorem State.box_sysCores (s : State) (t n : Nat) (d : Word) : (s.box t n d).sysCores = s.sysCores := by dsimp only [State.box]
@[simp] theorem State.box_requests (s : State) (t n : Nat) (d : Word) : (s.box t n d).requests = s.requests := by dsimp only [State.box]
@[simp] theorem State.box_apart (s : State) (t n : Nat) (d : Word) : (s.box t n d).apart = s.apart := by dsimp only [State.box]
@[simp] theorem State.box_module (s : State) (t n : Nat) (d : Word) : (s.box t n d).module = s.module := by dsimp only [State.box]
@[simp] theorem State.box_powerCap (s : State) (t n : Nat) (d : Word) : (s.box t n d).powerCap = s.powerCap := by dsimp only [State.box]
@[simp] theorem State.box_clock (s : State) (t n : Nat) (d : Word) : (s.box t n d).clock = s.clock := by dsimp only [State.box]
@[simp] theorem State.box_corrected (s : State) (t n : Nat) (d : Word) : (s.box t n d).corrected = s.corrected := by dsimp only [State.box]
@[simp] theorem State.box_wdLimit (s : State) (t n : Nat) (d : Word) : (s.box t n d).wdLimit = s.wdLimit := by dsimp only [State.box]
@[simp] theorem State.box_testEvery (s : State) (t n : Nat) (d : Word) : (s.box t n d).testEvery = s.testEvery := by dsimp only [State.box]
@[simp] theorem State.box_flits (s : State) (t n : Nat) (d : Word) : (s.box t n d).flits = s.flits := by dsimp only [State.box]
@[simp] theorem State.box_flitsIn (s : State) (t n : Nat) (d : Word) : (s.box t n d).flitsIn = s.flitsIn := by dsimp only [State.box]
@[simp] theorem State.box_flitLog (s : State) (t n : Nat) (d : Word) : (s.box t n d).flitLog = s.flitLog := by dsimp only [State.box]
@[simp] theorem State.box_traffic (s : State) (t n : Nat) (d : Word) : (s.box t n d).traffic = s.traffic := by dsimp only [State.box]

@[simp] theorem Group.step4_eq (g : Group) : g.step4 = g.retireTo (g.pc + 4) := rfl

end Sys2Proof.Machine
end

