-- ==== Sys2Proof/Laws/Registers.lean ====
section
/-! SUPPORT. Registers of a group: what a read gives after a write, lane masks, and sub-elements. -/
namespace Sys2Proof

/-! Lane masks. -/

theorem bitsOfFn_getLsbD (f : Nat → Bool) (n i : Nat) : (bitsOfFn f n).getLsbD i = (decide (i < n) && f i) := by
  induction n with
  | zero => simp [bitsOfFn]
  | succ n ih =>
    simp only [bitsOfFn, BitVec.getLsbD_cons, ih]
    by_cases h : i = n
    · simp [h]
    · have h2 : i < n + 1 ↔ i < n := by omega
      simp [h, h2]

/-- A lane is in the mask of the lanes that `f` holds for. -/
@[simp] theorem Mask.has_ofFn (f : Nat → Bool) (l : Nat) : (Mask.ofFn f).has l = (decide (l < 32) && f l) := bitsOfFn_getLsbD f 32 l

@[simp] theorem Mask.has_and (a b : Mask) (l : Nat) : Mask.has (a &&& b) l = (a.has l && b.has l) := BitVec.getLsbD_and
@[simp] theorem Mask.has_or (a b : Mask) (l : Nat) : Mask.has (a ||| b) l = (a.has l || b.has l) := BitVec.getLsbD_or
@[simp] theorem Mask.has_not (a : Mask) (l : Nat) : Mask.has (~~~a) l = (decide (l < 32) && !a.has l) := BitVec.getLsbD_not
@[simp] theorem Mask.has_zero (l : Nat) : Mask.has 0#32 l = false := BitVec.getLsbD_zero

/-- A mask has only lanes 0 to 31. -/
theorem Mask.lt_of_has {m : Mask} {l : Nat} (h : m.has l = true) : l < 32 := BitVec.lt_of_getLsbD h

theorem Mask.ext_has {a b : Mask} (h : ∀ l, l < 32 → a.has l = b.has l) : a = b :=
  BitVec.eq_of_getLsbD_eq fun i hi => h i hi

theorem Mask.mem_lanes {m : Mask} {l : Nat} : l ∈ m.lanes ↔ m.has l = true := by
  simp only [Mask.lanes, List.mem_filter, List.mem_range]
  exact ⟨fun h => h.2, fun h => ⟨Mask.lt_of_has h, h⟩⟩

/-! Vector registers. -/

namespace Machine

@[simp] theorem lanesOf_at (f : Nat → Word) (l : Nat) : (lanesOf f).at l = if l < 32 then f l else 0 := by
  simp only [lanesOf, Lanes.at, Vector.getElem?_mk]
  by_cases h : l < 32
  · simp [h]
  · simp [h]

theorem lanes_at_of_le {x : Lanes} {l : Nat} (h : 32 ≤ l) : x.at l = 0 := by
  have : ¬l < 32 := by omega
  simp [Lanes.at, this]

@[simp] theorem Group.sreg_setS (g : Group) (r q : SReg) (x : Word) : (g.setS r x).sreg q = if q = r then x else g.sreg q := by
  simp only [Group.sreg, Group.setS, Vector.getElem_set, BitVec.toNat_eq, eq_comm]

@[simp] theorem Group.preg_writeP (g : Group) (m : Mask) (r q : PReg) (x : Mask) :
    (g.writeP m r x).preg q = if q = r then (x &&& m) ||| (g.preg r &&& ~~~m) else g.preg q := by
  simp only [Group.preg, Group.writeP, Vector.getElem_set, BitVec.toNat_eq, eq_comm]

/-- A lane field names the register written, and no other one (R14). -/
@[simp] theorem Group.lreg_setL (g : Group) (r q : LReg) (x : Lanes) : (g.setL r x).lreg q = if q = r then x else g.lreg q := by
  have hq := q.isLt
  have hr := r.isLt
  simp only [BitVec.toNat_eq]
  unfold Group.setL
  split
  · unfold Group.lreg
    split
    · simp only [Vector.getElem_set, eq_comm]
    · have : q.toNat ≠ r.toNat := by omega
      simp [this]
  · unfold Group.lreg
    split
    · have : q.toNat ≠ r.toNat := by omega
      simp [this]
    · have : r.toNat - 56 = q.toNat - 56 ↔ q.toNat = r.toNat := by omega
      simp only [Vector.getElem_set, this]

@[simp] theorem Group.lreg_writeL (g : Group) (m : Mask) (r q : LReg) (f : Nat → Word) (h : q ≠ r) :
    (g.writeL m r f).lreg q = g.lreg q := by
  unfold Group.writeL
  split
  · rfl
  · simp [h]

/-- Only the lanes of the mask take new values, and only in the register written (R10). -/
@[simp] theorem Group.lane_writeL (g : Group) (m : Mask) (r q : LReg) (f : Nat → Word) (l : Nat) :
    (g.writeL m r f).lane q l = if q = r ∧ m.has l = true then f l else g.lane q l := by
  unfold Group.writeL Group.lane
  split
  · rename_i h
    simp [h]
  · rw [Group.lreg_setL]
    by_cases hq : q = r
    · subst hq
      by_cases hm : m.has l = true
      · simp [hm, Mask.lt_of_has hm]
      · by_cases hl : l < 32
        · simp [hm, hl]
        · simp [hm, lanes_at_of_le (Nat.le_of_not_lt hl)]
    · simp [hq]

/-- A group differs from another only in its vector registers after a write of one. -/
theorem Group.writeL_rest (g : Group) (m : Mask) (r : LReg) (f : Nat → Word) :
    { g.writeL m r f with v := g.v, e := g.e, eWritten := g.eWritten } = g := by
  unfold Group.writeL Group.setL
  split
  · rfl
  · split <;> rfl

@[simp] theorem Group.lreg_retireTo (g : Group) (pc : Word) (r : LReg) : (g.retireTo pc).lreg r = g.lreg r := rfl
@[simp] theorem Group.lane_retireTo (g : Group) (pc : Word) (r : LReg) (l : Nat) : (g.retireTo pc).lane r l = g.lane r l := rfl
@[simp] theorem Group.sreg_retireTo (g : Group) (pc : Word) (r : SReg) : (g.retireTo pc).sreg r = g.sreg r := rfl
@[simp] theorem Group.preg_retireTo (g : Group) (pc : Word) (r : PReg) : (g.retireTo pc).preg r = g.preg r := rfl

/-! Sub-elements (R7, R53). -/

/-- The lowest sub-element split off. -/
theorem packElems_low (w : Nat) (f : Nat → Nat) (n : Nat) :
    packElems w f (n + 1) = f 0 % 2 ^ w + 2 ^ w * packElems w (fun i => f (i + 1)) n := by
  induction n with
  | zero => simp [packElems]
  | succ n ih =>
    have top : 2 ^ (w * (n + 1)) = 2 ^ w * 2 ^ (w * n) := by rw [Nat.mul_succ, Nat.pow_add, Nat.mul_comm]
    rw [packElems, ih, packElems, top, Nat.mul_add, Nat.add_assoc, Nat.mul_left_comm]

/-- A sub-element of a packed number is the one put there. -/
theorem packElems_elem {w i n : Nat} (f : Nat → Nat) (h : i < n) : packElems w f n / 2 ^ (w * i) % 2 ^ w = f i % 2 ^ w := by
  obtain ⟨n, rfl⟩ : ∃ k, n = k + 1 := ⟨n - 1, by omega⟩
  rw [packElems_low]
  cases i with
  | zero => simp
  | succ i =>
    have hd : (f 0 % 2 ^ w + 2 ^ w * packElems w (fun i => f (i + 1)) n) / 2 ^ w = packElems w (fun i => f (i + 1)) n := by
      rw [Nat.add_mul_div_left _ _ (Nat.two_pow_pos w), Nat.div_eq_of_lt (Nat.mod_lt _ (Nat.two_pow_pos w)), Nat.zero_add]
    rw [Nat.mul_succ, Nat.add_comm (w * i), Nat.pow_add, ← Nat.div_div_eq_div_mul, hd]
    exact packElems_elem (fun i => f (i + 1)) (Nat.lt_of_succ_lt_succ h)

/-- A packed number has no bits beyond its sub-elements. -/
theorem packElems_lt (w n : Nat) (f : Nat → Nat) : packElems w f n < 2 ^ (w * n) := by
  cases n with
  | zero => simp [packElems]
  | succ n =>
    have lo := Nat.mod_lt (f 0) (Nat.two_pow_pos w)
    have hi := Nat.mul_le_mul_left (2 ^ w) (packElems_lt w n fun i => f (i + 1))
    rw [packElems_low, Nat.mul_succ, Nat.add_comm (w * n), Nat.pow_add]
    rw [Nat.mul_succ] at hi
    omega

/-- A sub-element of a register lane is the one put there. -/
theorem elem_ofElems {w i : Nat} (f : Nat → Nat) (h : i < 64 / w) : elem w i (ofElems w f) = f i % 2 ^ w := by
  have hle : w * (64 / w) ≤ 64 := Nat.mul_div_le 64 w
  have hlt : packElems w f (64 / w) < 2 ^ 64 := Nat.lt_of_lt_of_le (packElems_lt w _ f) (Nat.pow_le_pow_right (by decide) hle)
  simp only [elem, ofElems, BitVec.toNat_ofNat, Nat.mod_eq_of_lt hlt]
  exact packElems_elem f h

theorem elem_lt (w i : Nat) (x : Word) : elem w i x < 2 ^ w := Nat.mod_lt _ (Nat.two_pow_pos w)

/-- The loop of R63 at one sub-element. -/
theorem elem_mapElems {w i : Nat} (f : Nat → Nat → Nat → Nat) (a b c : Word) (h : i < 64 / w) :
    elem w i (mapElems w f a b c) = f (elem w i a) (elem w i b) (elem w i c) % 2 ^ w := elem_ofElems _ h

end Machine
end Sys2Proof
end

