-- ==== Sys2Proof/Laws/Ops.lean ====
section
/-! SUPPORT. What each shared operation can do, said once: callers cite these lemmas and do not unfold the operation. -/
namespace Sys2Proof.Machine

/-! Retiring, stalling, waiting. -/

@[simp] theorem State.done_eq (s : State) (g : Group) : s.done g = .next { s with g := g.retireTo (g.pc + 4) } := rfl
@[simp] theorem State.jump_eq (s : State) (g : Group) (pc : Word) : s.jump g pc = .next { s with g := g.retireTo pc } := rfl
@[simp] theorem State.stall_eq (s : State) : s.stall = .next { s with g := { s.g with last := .stalled } } := rfl
@[simp] theorem State.salu_eq (s : State) (sd sa sb : SReg) (f : Word → Word → Word) :
    s.salu sd sa sb f = .next { s with g := (s.g.setS sd (f (s.g.sreg sa) (s.g.sreg sb))).retireTo (s.g.pc + 4) } := rfl
theorem State.suspend_eq (s : State) (dev : Nat) :
    s.suspend dev = .next { s with g := { s.g with suspended := some (BitVec.ofNat 8 dev), last := .stalled } } := rfl
theorem State.beginWait_eq (s : State) (w : Wait) (hs : List Nat) :
    s.beginWait w hs = .next { s with
      g := { s.g with wait := some w, waitEnd := .pending, holds := hs, since := s.fresh, last := .stalled }, fresh := s.fresh + 1 } := rfl

/-! Branch targets (R35). -/

theorem branchTo_eq (pc : Word) {n : Nat} (off : BitVec n) : branchTo pc off = pc + off.signExtend 64 * 4 := rfl

/-! Groups by key. -/

/-- A change of the group in turn, by its key, where no other group has it. -/
theorem State.onGroup_self {s : State} (f : Group → Group) (h : ∀ x ∈ s.others, x.key ≠ s.g.key) :
    s.onGroup s.g.key f = { s with g := f s.g } := by
  have : (s.others.map fun x => if x.key = s.g.key then f x else x) = s.others := by
    rw [List.map_congr_left (g := id) fun x hx => by simp [h x hx], List.map_id]
  simp only [State.onGroup, State.mapGroups, if_true, this]

/-- Groups with another key stand as they did. -/
theorem State.onGroup_same_others (s : State) (k : Nat) (f : Group → Group) (hf : ∀ g, (f g).key = g.key) :
    (s.onGroup k f).others.filter (fun x => x.key != k) = s.others.filter fun x => x.key != k := by
  simp only [State.onGroup_others]
  induction s.others with
  | nil => rfl
  | cons x xs ih =>
    by_cases hx : x.key = k
    · simpa [hx, hf] using ih
    · simpa [hx] using ih

/-! Traps (R21, R117). -/

/-- The three ways of trap entry: a trap in a handler freezes the group; without a handler it halts with the trap CSRs written; else
the trap bank comes in and PC receives TRAPVEC. -/
theorem trapEntry_cases (vec : Word) (tick : Nat) (g : Group) (c : Nat) (i : Word) (m : Mask) (pc : Word) :
    (g.trapMode = true ∧ trapEntry vec tick g c i m pc = ({ g.unwait with halted := some .frozen, haltTick := tick, last := .trapped }, true))
    ∨ (g.trapMode = false ∧ vec = 0 ∧ trapEntry vec tick g c i m pc
        = ({ (g.trapped tick c i m pc) with pc := pc, halted := some .trap, haltTick := tick }, true))
    ∨ (g.trapMode = false ∧ vec ≠ 0 ∧ trapEntry vec tick g c i m pc
        = ({ (g.trapped tick c i m pc).swapBank with trapMode := true, pc := vec &&& ~~~3#64 }, false)) := by
  unfold trapEntry
  by_cases h : g.trapMode = true
  · exact .inl ⟨h, by rw [if_pos h]⟩
  · by_cases hv : vec = 0
    · exact .inr (.inl ⟨by simpa using h, hv, by rw [if_neg h, if_pos hv]⟩)
    · exact .inr (.inr ⟨by simpa using h, hv, by rw [if_neg h, if_neg hv]⟩)

/-- A group that has engine results or held lanes outstanding, and runs no handler, waits before it enters one (R117); the wait that it
stood in is cut off first (R138). -/
theorem State.trapGroup_waits {s : State} {g : Group} (c : Nat) (i : Word) (m : Mask) (pc : Word)
    (h : g.trapMode = false) (hw : g.entryWaits = true) :
    s.trapGroup g c i m pc
      = (if g.wait.isSome then s.cutWait g else s).onGroup g.key fun x =>
          { x with wait := some (.entry c i m pc), waitEnd := .pending, holds := [], last := .stalled } := by
  simp [State.trapGroup, h, hw]

/-- Every other group enters at once; where it halts, the wharf cores hear of it. A group that stands in no wait has none to cut off. -/
theorem State.trapGroup_enters {s : State} {g : Group} (c : Nat) (i : Word) (m : Mask) (pc : Word)
    (h : g.trapMode = true ∨ g.entryWaits = false) (hw : g.wait = none) :
    s.trapGroup g c i m pc =
      (let r := trapEntry (s.desc g.launch).trapVec s.tick g c i m pc
       if r.2 then (s.onGroup g.key fun _ => r.1).report .halted r.1 [c, r.1.pc.toNat] else s.onGroup g.key fun _ => r.1) := by
  have hc : (!g.trapMode && g.entryWaits) = false := by rcases h with h | h <;> simp [h]
  simp [State.trapGroup, hc, hw]

/-- A trap is a next state. -/
theorem State.trapAt_eq (s : State) (c : Nat) (i : Word) (m : Mask) : s.trapAt c i m = .next (s.trapGroup s.g c i m s.g.pc) := rfl
theorem State.trapU_eq (s : State) (c : Nat) (i : Word) : s.trapU c i = .next (s.trapGroup s.g c i s.g.em s.g.pc) := rfl

/-- Two changes of the trap bank undo each other in a poison mark. -/
@[simp] theorem Mark.swapBank_swapBank (m : Mark) : m.swapBank.swapBank = m := by
  cases m with
  | v n =>
    by_cases h : 48 ≤ n
    · simp [Mark.swapBank, h, Nat.add_sub_cancel' h]
    · simp [Mark.swapBank, h]
  | s n =>
    by_cases h : 56 ≤ n
    · simp [Mark.swapBank, h, Nat.add_sub_cancel' h]
    · simp [Mark.swapBank, h]
  | _ => simp [Mark.swapBank]

/-- Two changes of the trap bank undo each other. -/
theorem Group.swapBank_swapBank (g : Group) : g.swapBank.swapBank = g := by
  obtain ⟨key, launch, team, idx, role, core, slot, gid, tid, v, e, s, p, em, live, launched, pc, bankV, bankS⟩ := g
  simp only [Group.swapBank, Group.mk.injEq, true_and, and_true]
  refine ⟨?_, ?_, ?_, ?_, ?_⟩
  · ext i hi
    by_cases h : 48 ≤ i
    · have h1 : i - 48 < 8 := by omega
      have h2 : 48 + (i - 48) = i := by omega
      simp [h, h1, h2, hi]
    · simp [h]
  · ext i hi
    by_cases h : 56 ≤ i
    · have h1 : i - 56 < 8 := by omega
      have h2 : 56 + (i - 56) = i := by omega
      simp [h, h1, h2, hi]
    · simp [h]
  · ext i hi
    have h1 : 48 + i < 56 := by omega
    simp [h1]
  · ext i hi
    have h1 : 56 + i < 64 := by omega
    simp [h1]
  · simp [Function.comp_def]

/-! Accesses. -/

/-- The checks of an access trap (R175), find a lost home (R324), suspend the group (R323), or let the access go on. -/
theorem State.checked_cases (s : State) (ps : List Probe) (kind : Nat) (go : Out) :
    (∃ c i m, trapOf ps = some (c, i, m) ∧ s.checked ps kind go = s.trapAt c i m)
    ∨ (trapOf ps = none ∧ ∃ d m, lostOf ps = some (d, true, m) ∧ s.checked ps kind go = s.trapAt 0x19 (lostInfo d kind) m)
    ∨ (trapOf ps = none ∧ ∃ d m, lostOf ps = some (d, false, m) ∧ s.checked ps kind go = s.suspend d)
    ∨ (trapOf ps = none ∧ lostOf ps = none ∧ s.checked ps kind go = go) := by
  unfold State.checked
  cases ht : trapOf ps with
  | some x =>
    obtain ⟨c, i, m⟩ := x
    exact .inl ⟨c, i, m, rfl, rfl⟩
  | none =>
    cases hl : lostOf ps with
    | none => exact .inr (.inr (.inr ⟨rfl, rfl, rfl⟩))
    | some x =>
      obtain ⟨d, b, m⟩ := x
      cases b with
      | true => exact .inr (.inl ⟨rfl, d, m, rfl, rfl⟩)
      | false => exact .inr (.inr (.inl ⟨rfl, d, m, rfl, rfl⟩))

/-- The checks stop nothing: they answer a next state where the access does. -/
theorem State.checked_next {s : State} {ps : List Probe} {kind : Nat} {go : Out} (h : ∃ t, go = .next t) :
    ∃ t, s.checked ps kind go = .next t := by
  obtain ⟨c, i, m, -, e⟩ | ⟨-, d, m, -, e⟩ | ⟨-, d, m, -, e⟩ | ⟨-, -, e⟩ := s.checked_cases ps kind go
  · exact ⟨_, e⟩
  · exact ⟨_, e⟩
  · exact ⟨_, e⟩
  · rw [e]
    exact h

/-- A read of the instruction's own stops nothing either. -/
theorem State.readAt_next {s : State} {once : Bool} {n : Nat} {a : Word} {k : State → Nat → Out} (h : ∀ t x, ∃ u, k t x = .next u) :
    ∃ t, s.readAt once n a k = .next t := by
  unfold State.readAt
  dsimp only
  split
  · exact ⟨_, rfl⟩
  · split <;> exact ⟨_, rfl⟩
  · exact ⟨_, rfl⟩
  · generalize (if once then s.atOnce s.g.reader _ n else s.g.reader) = r
    split
    · exact ⟨_, rfl⟩
    · exact h _ _

/-- A read that reaches a sound place goes on with the number read. -/
theorem State.readAt_of_reads {s t : State} {once : Bool} {n : Nat} {a : Word} {x : Nat} (k : State → Nat → Out)
    (h : Safety.Reads once n a s t x) : s.readAt once n a k = k t x := by
  obtain ⟨q, l, h, hp, rfl, rfl⟩ := h
  cases once <;> simp_all [State.readAt]

/-! Boundaries (R171). -/

/-- A boundary stops nothing. -/
theorem State.atBound_next {s : State} {b : Bound} {drains : Bool} {finish : State → Out} (h : ∀ t, ∃ u, finish t = .next u) :
    ∃ t, s.atBound b drains finish = .next t := by
  unfold State.atBound
  dsimp only
  split
  · split
    · exact ⟨_, rfl⟩
    · exact h _
  · split
    · split <;> exact ⟨_, rfl⟩
    · split
      · exact ⟨_, rfl⟩
      · cases drains <;> simp only [if_true, Bool.false_eq_true, if_false] <;> split <;> first | exact ⟨_, rfl⟩ | exact h _

/-- A group that stands at a boundary goes on once nothing of it is out. -/
theorem State.atBound_closes {s : State} {b : Bound} (drains : Bool) (finish : State → Out) (hb : s.g.bound = some b)
    (h : s.pair.any Group.bounded = false) :
    s.atBound b drains finish = finish (s.closeBound b) := by
  simp [State.atBound, hb, h]

/-! Element-wise loops (R63). -/

theorem Group.lane_int3 (g : Group) (w : Width) (d a b q : LReg) (gd : Guard) (f : Nat → Nat → Nat → Nat → Nat) (l : Nat) :
    (g.int3 w d a b gd f).lane q l = if q = d ∧ (g.acts gd).has l = true
      then mapElems (widthBits w) (f (widthBits w)) (g.lane a l) (g.lane b l) (g.lane d l) else g.lane q l := by
  simp [Group.int3]

/-- A sub-element of a lane that the instruction acts in. -/
theorem Group.elem_int3 {g : Group} {w : Width} {d a b : LReg} {gd : Guard} {f : Nat → Nat → Nat → Nat → Nat} {l i : Nat}
    (h : (g.acts gd).has l = true) (hi : i < 64 / widthBits w) :
    elem (widthBits w) i ((g.int3 w d a b gd f).lane d l)
      = f (widthBits w) (elem (widthBits w) i (g.lane a l)) (elem (widthBits w) i (g.lane b l)) (elem (widthBits w) i (g.lane d l))
        % 2 ^ widthBits w := by
  rw [Group.lane_int3, if_pos ⟨rfl, h⟩, elem_mapElems _ _ _ _ hi]

/-- What writing lane results with flags leaves in the registers. -/
theorem Group.lane_writeF (g : Group) (m : Mask) (d q : LReg) (f : Nat → Word × BitVec 5) (l : Nat) :
    (g.writeF m d f).lane q l = if q = d ∧ m.has l = true then (f l).1 else g.lane q l :=
  Group.lane_writeL g m d q (fun l => (f l).1) l

/-- Flags are sticky: those raised before stay, and each lane of the mask adds its own (R57). -/
theorem Group.fflags_writeF (g : Group) (m : Mask) (d : LReg) (f : Nat → Word × BitVec 5) :
    (g.writeF m d f).fflags = g.fflags ||| flagsOf m fun l => (f l).2 := by
  simp [Group.writeF, Group.raise]

/-- A flag is raised by some lane of the mask. -/
theorem flagsOf_getLsbD (m : Mask) (f : Nat → BitVec 5) (k : Nat) :
    (flagsOf m f).getLsbD k = true ↔ ∃ l, m.has l = true ∧ (f l).getLsbD k = true := by
  have key : ∀ (ls : List Nat) (a : BitVec 5), (ls.foldl (fun acc l => acc ||| f l) a).getLsbD k = true
      ↔ a.getLsbD k = true ∨ ∃ l ∈ ls, (f l).getLsbD k = true := by
    intro ls
    induction ls with
    | nil => simp
    | cons l ls ih => intro a; simp [ih, or_assoc]
  simp only [flagsOf, key, Mask.mem_lanes]
  simp

/-- A flag of a lane is raised by some sub-element. -/
theorem flagsN_getLsbD (f : Nat → BitVec 5) (n k : Nat) :
    (flagsN f n).getLsbD k = true ↔ ∃ i, i < n ∧ (f i).getLsbD k = true := by
  induction n with
  | zero => simp [flagsN]
  | succ n ih =>
    simp only [flagsN, BitVec.getLsbD_or, Bool.or_eq_true, ih]
    constructor
    · rintro (⟨i, hi, h⟩ | h)
      · exact ⟨i, by omega, h⟩
      · exact ⟨n, by omega, h⟩
    · rintro ⟨i, hi, h⟩
      by_cases hn : i = n
      · exact .inr (hn ▸ h)
      · exact .inl ⟨i, by omega, h⟩

end Sys2Proof.Machine
end

