-- ==== Sys2Proof/Tests/Slice0.lean ====
section
/-! SUPPORT. Tests: ill-formed terms that the checks refuse, words written out from the manual's encodings, single steps with results
from the manual, and for every statement with hypotheses concrete states and operands that meet them. -/
namespace Sys2Proof.Tests
open Sys2Proof.Machine Sys2Proof.Safety

/-! Ill-formed terms, one for each check. -/

/-- p0 guards nothing (R27). -/
theorem test_illformed_guard : WellFormed (.iadd .w32 1 2 3 (.ifSet 0)) = false ∧ WellFormed (.mov 1 2 (.ifClear 0)) = false := by decide
/-- An e register is no destination of a load (R14). -/
theorem test_illformed_long_latency : [WellFormed (.ld .w32 56 1 0 0 .always), WellFormed (.lds .w32 60 1 0 0 .always),
    WellFormed (.ldfe .w32 63 1 0 0 .always), WellFormed (.ldfw .w32 56 1 0 0 .always), WellFormed (.tload 0 56 1 0 .always),
    WellFormed (.aread .f32 56 1 0)] = List.replicate 6 false := by decide
theorem test_illformed_atomics : [WellFormed (.cas true .core 56 1 2 0), WellFormed (.atomAdd true .core 56 1 2 0),
    WellFormed (.atomSmin true .core 57 1 2 0), WellFormed (.atomSmax true .core 58 1 2 0), WellFormed (.atomUmin true .core 59 1 2 0),
    WellFormed (.atomUmax true .core 60 1 2 0), WellFormed (.atomAnd true .core 61 1 2 0), WellFormed (.atomOr true .core 62 1 2 0),
    WellFormed (.atomXchg true .core 63 1 2 0)] = List.replicate 9 false := by decide
theorem test_illformed_e_sources : WellFormed (.sget 5 56 0) = false ∧ WellFormed (.brx 56 0) = false
    ∧ WellFormed (.csrr (.v 56) 0x030) = false := by decide
/-- LDS sign-extends; at 64 bits there is nothing to extend (R31). -/
theorem test_illformed_lds : WellFormed (.lds .w64 1 2 0 0 .always) = false := by decide
theorem test_illformed_mirror : WellFormed (.lxch (.mirror 0) 1 2 .always) = false
    ∧ WellFormed (.lxch (.mirror 6) 1 2 .always) = false := by decide
theorem test_illformed_red : WellFormed (.red .fadd32 true .core 1 2 0) = false := by decide
theorem test_illformed_bra : WellFormed (.bra .always 1 0) = false := by decide
theorem test_illformed_runend : WellFormed (.runend 7 1 0 0) = false ∧ WellFormed (.runend 0 0 7 0x80) = false := by decide
/-- A CSR number that the table does not list, and a per-lane CSR into an s register (R36, R33). -/
theorem test_illformed_csr : WellFormed (.csrr (.s 1) 0x007) = false ∧ WellFormed (.csrw 0x007 1) = false
    ∧ WellFormed (.csrr (.s 1) 0x030) = false := by decide
/-- Operands of four or two consecutive s registers end at s63 (R35). -/
theorem test_illformed_sregs : [WellFormed (.enq 1 61 2 0), WellFormed (.deq 61 2 0), WellFormed (.deqNb 61 2 0),
    WellFormed (.deparm 1 61 2 0), WellFormed (.deparm 1 2 63 0), WellFormed (.cpy 1 2 63 false 0), WellFormed (.tmove 1 63 2 false 0),
    WellFormed (.tmove 1 2 63 false 0)] = List.replicate 8 false := by decide
/-- A selector that R93 does not list, and a part beyond the last. -/
theorem test_illformed_cvt : WellFormed (.cvt 63 0 1 2 .always) = false ∧ WellFormed (.cvt 0 2 1 2 .always) = false := by decide
/-- Parts that the device does not have (R1). -/
theorem test_illformed_core : [WellFormed (.portAssignment ⟨4, 0, 0⟩ false), WellFormed (.teamStart 1 0 ⟨0, 5, 0⟩),
    WellFormed (.sliceEnd 0 ⟨0, 0, 8⟩), WellFormed (.sliceGrant 0 ⟨0, 5, 0⟩), WellFormed (.preemptionRequest 0 [⟨4, 0, 0⟩]),
    WellFormed (.allocatorMode ⟨0, 0, 8⟩ true), WellFormed (.compactorMove ⟨4, 0, 0⟩), WellFormed (.inval [⟨0, 5, 0⟩])]
    = List.replicate 8 false := by decide
theorem test_illformed_unit : WellFormed (.bindRequest 0 (.die 4) 0 0 none .bind) = false
    ∧ WellFormed (.bindRequest 0 (.cluster 0 5) 0 0 none .bind) = false
    ∧ WellFormed (.bindRequest 0 (.core ⟨0, 0, 8⟩) 0 0 none .bind) = false := by decide
theorem test_illformed_basin : [WellFormed (.basinMove (.coreUp ⟨4, 0, 0⟩)), WellFormed (.basinMove (.clusterUp 0 5)),
    WellFormed (.basinMove (.dieUp 4)), WellFormed (.basinMove (.down ⟨0, 5, 0⟩ 0)), WellFormed (.basinMove (.ovfDown 4)),
    WellFormed (.basinMove (.spill 4 0))] = List.replicate 6 false := by decide
theorem test_illformed_ranges : [WellFormed (.watchWrite 5 0), WellFormed (.counterAssign 4 0 1 0), WellFormed (.counterAssign 0 0 65536 0),
    WellFormed (.unadmittedAdmit 4 0), WellFormed (.unadmittedAdmit 0 65536), WellFormed (.infieldTest 4 0 true),
    WellFormed (.infieldTest 0 5 true), WellFormed (.readtile 1 0 48 0), WellFormed (.readtile 1 0 0 128),
    WellFormed (.traceBufferDrain 4 0 1), WellFormed (.traceBufferDrain 0 5 1)] = List.replicate 11 false := by decide
/-- The limits of R46: roles whose groups do not add up, a budget of 0, no lane, more shape slots than 32, an odd stack area. -/
theorem test_illformed_launch : loadDesc.wf = true ∧ [LaunchDesc.wf { loadDesc with roles := [(2, 7)] },
    LaunchDesc.wf { loadDesc with roles := [(1, 0)] }, LaunchDesc.wf { loadDesc with lanes := 0 },
    LaunchDesc.wf { loadDesc with shapes := 33 }, LaunchDesc.wf { loadDesc with stackArea := 1 },
    LaunchDesc.wf { loadDesc with teams := 0 }, LaunchDesc.wf { loadDesc with roles := [] }] = List.replicate 7 false := by decide

/-! Words written out from R25 to R36. -/

theorem test_decode_integer : decode 0x240841C0#32 = some (.bfx .w32 1 2 3 .always)
    ∧ decode 0x0230C7F0#32 = some (.iaddi .w8 6 6 (-1) .always) := by decide
theorem test_decode_pmov : decode 0x3602A030#32 = some (.pmovSet 21 true .always) := by decide
theorem test_decode_float : decode 0x3C182140#32 = some (.ffma .f32 3 1 2 .always)
    ∧ decode 0x40288120#32 = some (.fspec .rsq .f16 5 4 .always) ∧ decode 0x32101090#32 = some (.fcmp 4 1 2 .lt .set) := by decide
theorem test_decode_convert_dot : decode 0x4240C1A0#32 = some (.cvt 3 1 8 6 .always)
    ∧ decode 0x44516610#32 = some (.dot .e4m3 true 10 11 12 .always) := by decide
theorem test_decode_exchange : decode 0x48182140#32 = some (.perm .w32 3 1 2 .always)
    ∧ decode 0x4A103810#32 = some (.lxch (.xor 1) 2 1 .always) := by decide
theorem test_decode_reduce : decode 0x4C102440#32 = some (.lred (.flt .fadd .f32) 2 1 .always)
    ∧ decode 0x4E288050#32 = some (.lscan (.int .add .w32) true 5 4 .always) := by decide
theorem test_decode_memory : decode 0x56086900#32 = some (.lds .w16 1 3 1 0 .always)
    ∧ decode 0x5820F900#32 = some (.st .w64 4 7 1 0 .always) := by decide
theorem test_decode_full_empty : decode 0x5A285800#32 = some (.ldfe .w64 5 2 0 0 .always)
    ∧ decode 0x5E305800#32 = some (.stfe .w64 6 2 0 0 .always) := by decide
theorem test_decode_atomics : decode 0x63C0E420#32 = some (.red .fadd32 false .device 7 8 0)
    ∧ decode 0x76106200#32 = some (.atomXchg false .core 2 3 4 0) := by decide
theorem test_decode_uniform : decode 0x80182103#32 = some (.smulhi 3 1 2) ∧ decode 0x860C4154#32 = some (.scmp 3 4 5 .lt true .set)
    ∧ decode 0x88293100#32 = some (.sget 5 9 17) := by decide
theorem test_decode_csr : decode 0xD4860600#32 = some (.csrr (.v 3) 0x030) ∧ decode 0xD5080080#32 = some (.csrw 0x004 4) := by decide
theorem test_decode_control : decode 0x96000006#32 = some (.jpush 6) ∧ decode 0x98000000#32 = some .join
    ∧ decode 0xA9000000#32 = some (.phase .device) ∧ decode 0xAA000000#32 = some .xfence := by decide
theorem test_decode_febind : decode 0xE0106240#32 = some (.febind 2 3 4 .full) := by decide
/-- The worked relocation of chapter 3: `bra.any p3`, 240 words on. -/
theorem test_decode_branch : decode 0x904180F0#32 = some (.bra .any 3 240) := by decide
/-- A reserved opcode and a reserved field decode to nothing (R36). -/
theorem test_decode_refuses : decode 0xFFFFFFFF#32 = none ∧ decode 0xE4000001#32 = none := by decide

/-! For every statement with hypotheses: states and operands that meet them, clause by clause. -/

theorem has_lt {m : Mask} {l : Nat} (h : m.has l = true) : l < 32 := BitVec.lt_of_getLsbD h

theorem ball {α : Type} {P : α → Prop} [DecidablePred P] {xs : List α} (h : (xs.all fun x => decide (P x)) = true) : ∀ x ∈ xs, P x := by
  simpa [List.all_eq_true] using h

theorem on_lanes {m : Mask} {P : Nat → Prop} (h : ∀ l, l < 32 → m.has l = true → P l) : ∀ l, m.has l = true → P l :=
  fun l hl => h l (has_lt hl) hl

/-- A mask with lane 0 alone. -/
theorem on_lane0 {m : Mask} (hm : m = 1) {P : Nat → Prop} (h : P 0) : ∀ l, m.has l = true → P l := by
  intro l hl
  subst hm
  match l, hl with
  | 0, _ => exact h
  | l + 1, hl => exact absurd hl (by simp [Mask.has])

/-- Where no byte has an earlier value, a read of a scratchpad byte is of what stands there. -/
theorem seen_pad {s : State} (ho : s.olds = []) (r : Reader) (k n : Nat) (x : Probe) {q : Spot} (h : x.hit = .ok q (padLoc k)) :
    s.seenAll r n [x] = s := by
  have hl : ∀ (is : List Nat), is.foldl (fun os i => learnFrom r.agent (k + i) (s.raceChoice r x.lane (padLoc k) i) os) ([] : List Old) = [] := by
    intro is
    induction is with
    | nil => rfl
    | cons i is ih => simpa [learnFrom] using ih
  obtain ⟨⟩ := s
  simp only at ho
  subst ho
  simp only [State.seenAll, List.foldl_cons, List.foldl_nil, Probe.place, h, State.seen, State.carried, padLoc, Option.isSome,
    Bool.false_eq_true, if_false, List.nil_append]
  simpa [padLoc] using hl (List.range n)

/-- A read of scratchpad bytes. -/
theorem reads_pad {once : Bool} {n : Nat} {a : Word} {s : State} {q : Spot} {k x : Nat}
    (h : (s.uprobe .read n a).hit = .ok q (padLoc k)) (ho : s.olds = [])
    (hp : s.viewPoisoned s.g (if once then s.atOnce s.g.reader (padLoc k) n else s.g.reader) (padLoc k) n = false)
    (hx : s.viewRead s.g (if once then s.atOnce s.g.reader (padLoc k) n else s.g.reader) 0 (padLoc k) n = x) : Reads once n a s s x :=
  ⟨q, padLoc k, h, hp, hx.symm, by rw [seen_pad ho _ _ _ _ h]; simp [State.installAll, Probe.place, h, padLoc]⟩

/-- One group of a launch at a NOP, with lane 0 active and all 32 lanes live. -/
def one : State := (State.reset.loadWord 0xE4000000#32).onG fun g => { g with em := 1 }

/-- The same with another group state. -/
def onG (f : Group → Group) : State := one.onG f

/-- The same with another launch descriptor. -/
def onD (f : LaunchDesc → LaunchDesc) : State := { one with launches := one.launches.map fun l => { l with desc := f l.desc } }

/-- Byte 0 of the team's core region, by address and by key. -/
def padAddr : Word := 0x0400000000000000
def padKey : Nat := scratchKey (.core ⟨0, 0, 0⟩) 0 0

/-- Scratchpad bytes from a place in the team's core region on. -/
def withPad (off : Nat) (bs : List Byte) (s : State) : State := { s with mem := memWrite s.mem (padKey + off) bs }

/-- A vector register that holds lane-dependent values, and a uniform one. -/
def setV (r : LReg) (f : Nat → Word) (s : State) : State := s.onG fun g => g.setL r (lanesOf f)
def setU (r : SReg) (x : Word) (s : State) : State := s.onG fun g => g.setS r x

theorem witness_DecodeEncode : ∃ w, WellFormed (.ld .w64 55 63 7 15 (.ifSet 7)) = true ∧ encode (.ld .w64 55 63 7 15 (.ifSet 7)) = some w :=
  ⟨_, by decide, rfl⟩

theorem witness_DecodeSound : decode 0x98000000#32 = some .join := by decide

theorem witness_IntegerArithmetic : (2 ^ 64 - 1 < 2 ^ widthBits .w64) ∧ (0 < 2 ^ widthBits .w8) ∧ (255 < 2 ^ widthBits .w8) := by decide

/-- A NaN that FADD of two infinities, FMAX of two NaNs and a conversion of a NaN give; a finite x; a representable value. -/
theorem witness_FloatDelivery : (fp32.val (fp32.add 0 0x7F800000 0xFF800000).1).isNan = true
    ∧ (fp32.val (fp32.minMax true 0x7FC00001 0xFFC00000).1).isNan = true
    ∧ (fp16.val (cvtFF fp32 fp16 0 0x7F800001).1).isNan = true
    ∧ (∃ n m e, (fmtOf .f32).val 0x7F7FFFFF = .fin n m e)
    ∧ 15 < 2 ^ e2m1.width ∧ ∃ n m e, e2m1.val 15 = .fin n m e :=
  ⟨by decide, by decide, by decide, ⟨_, _, _, by rfl⟩, by decide, _, _, _, by rfl⟩

theorem witness_Convert : (∃ r, cvtRow 0x05 = some r) ∧ cvtOk 0x05 3 = true ∧ (∃ r, cvtRow 0x22 = some r) ∧ cvtOk 0x22 0 = true :=
  ⟨⟨_, rfl⟩, by decide, ⟨_, rfl⟩, by decide⟩

theorem witness_DotProduct : (∃ t, dotFmt .e4m3 = some t) ∧ (∃ t, dotFmt .e5m2 = some t) ∧ ∃ t, dotFmt .e2m1 = some t :=
  ⟨⟨_, rfl⟩, ⟨_, rfl⟩, _, rfl⟩

theorem witness_LaneExchange : (Xch.mirror 1).wf = true ∧ (Xch.mirror 5).wf = true ∧ (Xch.bcast 31).wf = true ∧ (Xch.rot 31).wf = true
    ∧ (Xch.xor 31).wf = true := by decide

theorem witness_ReduceAddIsSum : (one.g.acts .always).has 0 = true ∧ 7 < 64 / widthBits .w8 := by decide

theorem witness_BranchCall : ((setU 63 (BitVec.ofNat 64 (2 ^ 64 - 4)) one).g.sreg 63).toNat % 4 = 0 := by decide

/-- BRD that falls through, goes whole, and splits with a stack that has one entry free; JPUSH with the same stack; JOIN past a dead
entry, and with none left; EXIT past a dead entry. -/
theorem witness_Divergence :
    (let s := one; s.g.em &&& s.g.preg 5 = 0)
    ∧ (let s := onG fun g => g.writeP g.em 5 1; s.g.em &&& s.g.preg 5 ≠ 0 ∧ s.g.em &&& ~~~(s.g.preg 5) = 0)
    ∧ (let s := onG fun g => { g.writeP 1 5 1 with em := 3, stack := List.replicate 31 (1, 0) }
      s.g.em &&& s.g.preg 5 ≠ 0 ∧ s.g.em &&& ~~~(s.g.preg 5) ≠ 0 ∧ s.g.stack.length < 32)
    ∧ (let s := onG fun g => { g with stack := [(0, 0), (1, 8)] }
      (∀ e ∈ [((0 : Mask), (0 : Word))], e.1 &&& s.g.live = 0) ∧ (1 : Mask) &&& s.g.live ≠ 0 ∧ s.g.stack = [(0, 0)] ++ (1, 8) :: [])
    ∧ (let s := onG fun g => { g with stack := [(0, 0)] }; ∀ e ∈ s.g.stack, e.1 &&& s.g.live = 0)
    ∧ (let s := onG fun g => { g with stack := [(1, 4), (2, 8)] }
      let live := s.g.live &&& ~~~s.g.em
      (∀ e ∈ [((1 : Mask), (4 : Word))], e.1 &&& live = 0) ∧ (2 : Mask) &&& live ≠ 0 ∧ s.g.stack = [(1, 4)] ++ (2, 8) :: []) :=
  ⟨by decide, by decide, ⟨by decide, by decide, Nat.le_refl 32⟩, ⟨ball rfl, by decide, rfl⟩, ball rfl, ⟨ball rfl, by decide, rfl⟩⟩

/-- A jump table in the core scratchpad: join 9, two targets 3 and 5; lanes 0 and 1 with indices 0 and 1. -/
def brx : State :=
  setV 7 (fun l => BitVec.ofNat 64 l) (withPad 0 (leBytes 9 4 ++ leBytes 2 4 ++ leBytes 3 4 ++ leBytes 5 4)
    ((onD fun d => { d with ttabBase := padAddr, rgnBase := padAddr }).onG fun g => { g with em := 3 }))

theorem brx_read (off x : Nat) (h : (brx.uprobe .read 4 (padAddr + BitVec.ofNat 64 off)).hit = .ok (.pad (.core ⟨0, 0, 0⟩) (padKey + off)) (padLoc (padKey + off)))
    (hp : brx.viewPoisoned brx.g brx.g.reader (padLoc (padKey + off)) 4 = false)
    (hx : brx.viewRead brx.g brx.g.reader 0 (padLoc (padKey + off)) 4 = x) :
    Reads false 4 (padAddr + BitVec.ofNat 64 off) brx brx x := reads_pad h rfl hp hx

theorem witness_TableReads :
    (let s := brx
    let base := s.gdesc.ttabBase + BitVec.ofNat 64 (8 * (0 : BitVec 19).toNat)
    let idx := fun l => (s.g.lane 7 l).toNat % 2 ^ 32
    Reads false 4 base s s 9 ∧ Reads false 4 (base + 4) s s 2 ∧ (∀ l, s.g.em.has l = true → idx l < 2) ∧ (∃ l, s.g.em.has l = true ∧ idx l = 1)
      ∧ (∀ l, s.g.em.has l = true → idx l ≤ 1)
      ∧ ReadsAll 4 ((List.range (1 + 1)).map fun i => base + BitVec.ofNat 64 (8 + 4 * i)) s s [3, 5]
      ∧ brxGroups [3, 5] s.g.em idx = (1, 3) :: [(2, 5)] ∧ s.g.stack.length + [((2 : Mask), 5)].length + 1 ≤ 32)
    ∧ (let s := brx.onG fun g => { g with em := 0 }; s.g.em = 0)
    ∧ (let s := brx; let a := s.gdesc.rgnBase + BitVec.ofNat 64 (48 * (0 : BitVec 18).toNat); Reads false 4 a s s 9 ∧ Reads false 4 (a + 4) s s 2) := by
  have r0 : Reads false 4 padAddr brx brx 9 := brx_read 0 9 (by decide) (by decide) (by decide)
  have r4 : Reads false 4 (padAddr + 4) brx brx 2 := brx_read 4 2 (by decide) (by decide) (by decide)
  refine ⟨⟨r0, r4, on_lanes (by decide), ⟨1, by decide⟩, on_lanes (by decide), ?_, by decide, by decide⟩, by decide, r0, r4⟩
  exact ⟨brx, 3, [5], brx_read 8 3 (by decide) (by decide) (by decide), ⟨brx, 5, [], brx_read 12 5 (by decide) (by decide) (by decide), ⟨rfl, rfl⟩, rfl⟩, rfl⟩

/-- A launch with a handler; a group in a handler; a launch without a handler. -/
theorem witness_TrapEntry : (Instr.trap 7, 0x18) ∈ [(Instr.trap 7, 0x18), (Instr.bkpt 7, 0x15)] ∧ MayEnter (onD fun d => { d with trapVec := 64 })
    ∧ ((onG fun g => { g with trapMode := true }).g.trapMode = true ∧ Free (onG fun g => { g with trapMode := true }))
    ∧ one.g.trapMode = false ∧ one.gdesc.trapVec = 0 ∧ one.g.pendS = [] ∧ one.g.heldOps = [] ∧ Free one := by decide

theorem witness_TrapReturn :
    (let s := onG fun g => { g with trapMode := true, pendS := [{ reg := 55, op := 1, left := 0, at_ := 0 }] }
    s.g.trapMode = true ∧ s.g.heldOps = [] ∧ ∀ p ∈ s.g.pendS, p.reg.toNat < 56)
    ∧ MayEnter (onD fun d => { d with trapVec := 64 }) ∧ (onD fun d => { d with trapVec := 64 }).g.inflight = [] := by decide

theorem witness_ReadCsr : (csrListed (BitVec.toNat 0x134#12) = true ∧ (0x134 : BitVec 12) ≠ 0x12F ∧ ((0x134 : BitVec 12) = 5 → one.g.redsOut = false))
    ∧ (csrListed (BitVec.toNat 5#12) = true ∧ (5 : BitVec 12) ≠ 0x12F ∧ ((5 : BitVec 12) = 5 → one.g.redsOut = false))
    ∧ 0x200 ≤ (0x200 : BitVec 12).toNat ∧ one.g.trapMode = false := by decide

theorem witness_WriteCsr : one.g.redsOut = false := by decide

theorem witness_CsrEvents : one.watchBarred one.g = false ∧ (one.core one.g.core).watch.length = 4 := by decide

theorem passes_of {s : State} {acc : Acc} {fe : Bool} {n : Nat} {m : Mask} {addr : Nat → Word}
    (h : ∀ l, l < 32 → m.has l = true → (match s.probe s.g (some l) acc fe n (addr l) with
      | .ok _ _ => true
      | .held _ _ => true
      | _ => false) = true) : Passes s acc fe n m addr := by
  intro l hl
  have := h l (has_lt hl) hl
  revert this
  cases s.probe s.g (some l) acc fe n (addr l) <;> simp

theorem reaches_of {s : State} {acc : Acc} {fe : Bool} {n : Nat} {m : Mask} {addr : Nat → Word} {q : Nat → Spot} {loc : Nat → Loc}
    (h : ∀ l, l < 32 → m.has l = true → s.probe s.g (some l) acc fe n (addr l) = .ok (q l) (loc l)) : Reaches s acc fe n m addr q loc :=
  on_lanes h

theorem sound_of {s : State} (hp : s.poison = []) (hh : s.g.poison = []) (r : Reader) (l : Loc) (n : Nat) : s.viewPoisoned s.g r l n = false := by
  simp only [State.viewPoisoned, State.poisoned, Group.badByte, hp, hh, List.any_eq_false]
  intro i _
  split <;> simp

/-- Lanes 0 and 1: v3 holds the first word of the core region and an address whose page is absent. -/
def mixed : State := setV 3 (fun l => if l = 0 then padAddr else 0x100000) (onG fun g => { g with em := 3 })

/-- The same state, in which the schedule lets the next load read later. -/
def later (s : State) : State := s.onG fun g => { g with late := true }

theorem witness_Load : (later mixed).g.late = true ∧ mixed.g.late = false ∧ Passes mixed .read false 4 (mixed.g.acts .always) (fun l => mixed.g.lane 3 l + BitVec.ofNat 64 ((1 : BitVec 3).toNat * 4))
    ∧ ∀ l q loc, (mixed.g.acts .always).has l = true →
      mixed.probe mixed.g (some l) .read false 4 (mixed.g.lane 3 l + BitVec.ofNat 64 ((1 : BitVec 3).toNat * 4)) = .ok q loc →
      mixed.viewPoisoned mixed.g mixed.g.reader loc 4 = false :=
  ⟨rfl, rfl, passes_of (by decide), fun _ _ _ _ _ => sound_of rfl rfl _ _ _⟩

/-- The same lanes; the side log has room for the one lane whose page is absent. -/
theorem witness_Store :
    let hit := fun l => mixed.probe mixed.g (some l) .write false 8 (mixed.g.lane 3 l + BitVec.ofNat 64 ((0 : BitVec 3).toNat * 8))
    Passes mixed .write false 8 (mixed.g.acts .always) (fun l => mixed.g.lane 3 l + BitVec.ofNat 64 ((0 : BitVec 3).toNat * 8))
    ∧ mixed.sideRoom (((List.range 32).filter (mixed.g.acts .always).has).filter fun l => match hit l with
      | .held _ _ => true
      | _ => false).length = true :=
  ⟨passes_of (by decide), by decide⟩

/-- The last doubleword of the team's 64 KiB of core scratchpad. -/
theorem witness_UniformMemory :
    let s := setU 3 (padAddr + 0x10000) one
    let addr := s.g.sreg 3 + BitVec.ofInt 64 ((-1 : BitVec 7).toInt * 8)
    let q := Spot.pad (.core ⟨0, 0, 0⟩) (padKey + 0xFFF8)
    (s.probe s.g none .read false 8 addr = .ok q (padLoc (padKey + 0xFFF8)) ∧ s.viewPoisoned s.g s.g.reader (padLoc (padKey + 0xFFF8)) 8 = false)
    ∧ s.probe s.g none .write false 8 addr = .ok q (padLoc (padKey + 0xFFF8)) ∧ s.sideRoom 0 = true ∧ s.g.late = false
    ∧ (let t := later s; t.probe t.g none .read false 8 addr = .ok q (padLoc (padKey + 0xFFF8)) ∧ t.g.late = true) := by decide

/-- The page at 0x40000 gives no right to read or write. -/
def noRights : State := { one with mem := memPut (globalKey 0 0xC0008) 9 one.mem }

theorem first_fail {s : State} {acc : Acc} {n c : Nat} {m : Mask} {addr : Nat → Word}
    (h : ∀ l, l < 32 → m.has l = true → ∀ b, b < c → s.probe s.g (some l) acc false n (addr l) ≠ .cause b) :
    ∀ b l, b < c → ¬(m.has l = true ∧ s.probe s.g (some l) acc false n (addr l) = .cause b) :=
  fun b l hb hl => h l (has_lt hl.1) hl.1 b hb hl.2

theorem none_below {P : Nat → Prop} : ∀ l, l < 0 → ¬P l := fun _ h => absurd h (Nat.not_lt_zero _)

/-- MISALIGN at byte 1 of a word; APERTURE one word beyond the core region; PROTECTION. Each for loads and stores of 4 bytes. -/
theorem witness_AccessTraps : ∀ acc, acc = .read ∨ acc = .write → ∀ x : Nat × State × Word,
    x ∈ [(4, one, padAddr + 1), (5, one, padAddr + 0x10000), (6, noRights, 0x40000)] →
    let s := setV 3 (fun _ => x.2.2) x.2.1
    let addr := fun l => s.g.lane 3 l + BitVec.ofNat 64 ((0 : BitVec 3).toNat * 4)
    let m := s.g.acts .always
    (∀ b l, b < x.1 → ¬(m.has l = true ∧ s.probe s.g (some l) acc false 4 (addr l) = .cause b))
      ∧ (m.has 0 = true ∧ s.probe s.g (some 0) acc false 4 (addr 0) = .cause x.1)
      ∧ (∀ l, l < 0 → ¬(m.has l = true ∧ s.probe s.g (some l) acc false 4 (addr l) = .cause x.1)) ∧ x.1 ∈ [4, 5, 6] := by
  intro acc ha x hx
  simp only [List.mem_cons, List.not_mem_nil, or_false] at hx
  rcases ha with rfl | rfl <;> rcases hx with rfl | rfl | rfl
  all_goals exact ⟨first_fail (by decide), by decide, none_below, by decide⟩

/-- Lanes 0 and 1 with the addresses of two words of the core region. -/
def pads (n : Nat) : State := setV 3 (fun l => padAddr + BitVec.ofNat 64 (n * l)) (onG fun g => { g with em := 3 })

theorem witness_HomeUpdates : ∀ n, n = 4 ∨ n = 8 →
    let s := pads n
    let key := fun l => padKey + n * l
    let q := fun l => Spot.pad (.core ⟨0, 0, 0⟩) (key l)
    Reaches s .rmw false n s.g.em (s.g.lane 3) q (fun l => padLoc (key l))
      ∧ (∀ l, s.g.em.has l = true → s.viewPoisoned s.g s.g.reader (padLoc (key l)) n = false ∧ s.g.overlaps (.ok (q l) (padLoc (key l))) n = false)
      ∧ s.g.inImplicit = false ∧ s.sideRoom 0 = true ∧ s.g.sideRed = false := by
  intro n hn
  rcases hn with rfl | rfl
  all_goals exact ⟨reaches_of (by decide), on_lanes (by decide), by decide, by decide, by decide⟩

/-- Full words in lanes 0 and 1; empty ones; a full one under lane 0, and lanes 0 and 1 in one empty word; empty words whose granule is
bound to the launch, and to nobody. -/
theorem witness_FullEmpty :
    let key := fun n l : Nat => padKey + n * l
    let q := fun n l : Nat => Spot.pad (.core ⟨0, 0, 0⟩) (key n l)
    let word := fun n l : Nat => (padLoc (key n l)).key / 8 * 8
    let clean := fun (s : State) (n : Nat) => ∀ l, (s.g.acts .always).has l = true →
      s.poisoned (padLoc (key n l)).key n = false ∧ s.g.overlaps (.ok (q n l) (padLoc (key n l))) n = false
    let addr := fun (s : State) (n l : Nat) => s.g.lane 3 l + BitVec.ofNat 64 ((0 : BitVec 3).toNat * n)
    (let s := { pads 8 with full := [padKey, padKey + 8] }
      let m := s.g.acts .always
      Reaches s .read true 8 m (addr s 8) (q 8) (fun l => padLoc (key 8 l))
        ∧ clean s 8 ∧ s.g.inImplicit = false
        ∧ (∀ l, m.has l = true → word 8 l ∈ s.full) ∧ ∀ l k, m.has l = true → m.has k = true → l ≠ k → word 8 l ≠ word 8 k)
    ∧ (let s := pads 8
      let m := s.g.acts .always
      Reaches s .write true 8 m (addr s 8) (q 8) (fun l => padLoc (key 8 l)) ∧ clean s 8 ∧ s.g.inImplicit = false ∧ NobodyWaits s ∧ Memory.wf s.mem = true
        ∧ (∀ l, m.has l = true → word 8 l ∉ s.full) ∧ ∀ l k, m.has l = true → m.has k = true → l ≠ k → word 8 l ≠ word 8 k)
    ∧ (let s := { pads 8 with full := [padKey] }
      let m := s.g.acts .always
      Reaches s .write true 8 m (addr s 8) (q 8) (fun l => padLoc (key 8 l)) ∧ m.has 0 = true ∧ word 8 0 ∈ s.full
        ∧ ∀ l, l < 0 → m.has l = true → word 8 l ∉ s.full ∧ ∀ k, m.has k = true → k < l → word 8 k ≠ word 8 l)
    ∧ (let s := pads 4
      let m := s.g.acts .always
      Reaches s .write true 4 m (addr s 4) (q 4) (fun l => padLoc (key 4 l)) ∧ m.has 1 = true
        ∧ (∃ k, m.has k = true ∧ k < 1 ∧ word 4 k = word 4 1)
        ∧ ∀ l, l < 1 → m.has l = true → word 4 l ∉ s.full ∧ ∀ k, m.has k = true → k < l → word 4 k ≠ word 4 l)
    ∧ ∀ s, s = pads 8 ∨ s = { pads 8 with bindings := [{ granule := padKey, prod := .launch 1, reach := 0 }] } →
      let m := s.g.acts .always
      let bound := fun l => s.bindings.find? fun b => b.granule == word 8 l / 256 * 256
      Reaches s .read true 8 m (addr s 8) (q 8) (fun l => padLoc (key 8 l)) ∧ clean s 8 ∧ s.g.inImplicit = false ∧ m ≠ 0
        ∧ (∀ l, m.has l = true → word 8 l ∉ s.full) ∧ ((∀ l, m.has l = true → bound l = none) ∨ ∀ l, m.has l = true →
          ∃ b, bound l = some b ∧ b.reach = s.greach
            ∧ (b.prod = .wharf ∨ ∃ lid, b.prod = .launch lid ∧ s.podLive lid = true ∧ strength (s.effective s.g.launch) ≤ strength (s.declared lid))) := by
  refine ⟨⟨reaches_of (by decide), on_lanes (by decide), by decide, on_lanes (by decide), ?_⟩,
    ⟨reaches_of (by decide), on_lanes (by decide), by decide, by decide, by decide, on_lanes (by decide), ?_⟩,
    ⟨reaches_of (by decide), by decide, by decide, fun _ h => absurd h (Nat.not_lt_zero _)⟩,
    ⟨reaches_of (by decide), by decide, ⟨0, by decide⟩, ?_⟩, ?_⟩
  · exact fun l k _ _ hlk => by simp only [padLoc, padKey, scratchKey, scratchTop, unitNum]; omega
  · exact fun l k _ _ hlk => by simp only [padLoc, padKey, scratchKey, scratchTop, unitNum]; omega
  · intro l hl _
    obtain rfl : l = 0 := by omega
    exact ⟨by decide, fun k _ hk => absurd hk (Nat.not_lt_zero _)⟩
  · rintro s (rfl | rfl)
    · exact ⟨reaches_of (by decide), on_lanes (by decide), by decide, by decide, on_lanes (by decide), .inl (on_lanes (by decide))⟩
    · refine ⟨reaches_of (by decide), on_lanes (by decide), by decide, by decide, on_lanes (by decide), .inr ?_⟩
      have found : ∀ l, l < 32 → ((pads 8).g.acts .always).has l = true → (padLoc (padKey + 8 * l)).key / 8 * 8 / 256 * 256 = padKey := by decide
      refine on_lanes fun l hl hm => ⟨{ granule := padKey, prod := .launch 1, reach := 0 }, ?_, by decide, .inr ⟨1, by decide⟩⟩
      simp only [found l hl hm, List.find?_cons_of_pos, beq_self_eq_true]

/-- An STFE of lane 0 whose word a lane of another group waits on, as LDFE and as LDFW. -/
theorem witness_FullEmpty_served : ∀ empties : Bool,
    let x : Group := { loadGroup 0 0 with
      key := 2, idx := 1, slot := 1, port := none, waitEnd := .pending
      wait := some (.lanes empties 5 8 [{ lane := 31, word := padKey, off := 0 }]) }
    let s := { setV 3 (fun _ => padAddr) one with others := [x], fresh := 3 }
    let m := s.g.acts .always
    let q := fun _ : Nat => Spot.pad (.core ⟨0, 0, 0⟩) padKey
    let loc := fun _ : Nat => padLoc padKey
    (∀ k, m.has k = true ↔ k = 0) ∧ 31 < 32 ∧ Reaches s .write true 8 m (fun l => s.g.lane 3 l + BitVec.ofNat 64 ((0 : BitVec 3).toNat * 8)) q loc
      ∧ (∀ l, m.has l = true → s.poisoned (loc l).key 8 = false ∧ s.g.overlaps (.ok (q l) (loc l)) 8 = false) ∧ s.g.inImplicit = false
      ∧ Memory.wf s.mem = true ∧ padKey / 8 * 8 ∉ s.full ∧ x ∈ s.others ∧ x.key ≠ s.g.key ∧ (∀ y ∈ s.groups, y.key = x.key → y = x) ∧ x.ended = false
      ∧ x.waitEnd = .pending ∧ x.holds = [] ∧ x.wait = some (.lanes empties 5 8 [{ lane := 31, word := padKey / 8 * 8, off := 0 }])
      ∧ (∀ y ∈ s.groups, y.key ≠ x.key → y.wait = none) ∧ ∀ t ∈ s.teams, ∀ c ∈ t.queue, c.waits = none := by
  intro empties
  refine ⟨fun k => ⟨fun h => ?_, by rintro rfl; cases empties <;> decide⟩, by decide, reaches_of (by cases empties <;> decide),
    on_lanes (by cases empties <;> decide), by cases empties <;> decide +kernel⟩
  have key : ∀ k, k < 32 → (one.g.acts .always).has k = true → k = 0 := by decide
  exact key k (has_lt h) h

/-- The last granule of the core region, bound to nothing, to the wharf and to the launch; and a range of length 0. -/
theorem witness_BindGranules : NobodyWaits one ∧ (0 : Word).toNat % 256 = 0 ∧ (0 : Word).toNat = 0
    ∧ ∀ c ∈ [(0 : Word), 0xFFFFFFFF, 1],
      let s := setU 3 (padAddr + 0xFF00) (setU 4 256 (setU 5 c one))
      let a := (s.g.sreg 3).toNat
      let n := (s.g.sreg 4).toNat
      a % 256 = 0 ∧ n % 256 = 0 ∧ NobodyWaits s ∧ n ≠ 0 ∧ s.padRange { s.viewOf s.g with stack := none } a n = some (padKey + 0xFF00)
        ∧ (s.g.sreg 5 = 0 ∨ s.g.sreg 5 = 0xFFFFFFFF
          ∨ ((s.g.sreg 5).toNat < 2 ^ 32 ∧ s.podLive ((s.g.sreg 5).setWidth 32) = true)) := by
  refine ⟨by decide, by decide, by decide, fun c hc => ?_⟩
  simp only [List.mem_cons, List.not_mem_nil, or_false] at hc
  rcases hc with rfl | rfl | rfl
  all_goals exact ⟨by decide, by decide, by decide, by decide, by decide, by decide⟩

/-- A held byte. -/
def heldOne : Held := { loc := padLoc padKey, val := 1, epoch := 0, po := 0, again := false }

/-- A boundary with nothing held; one that has drained; and one held byte to drain; any leader's group. -/
theorem witness_Boundaries :
    NothingOut one ∧ (one.g.held = [] ∧ one.g.heldT = []) ∧ (NothingOut (onG fun g => { g with bound := some .xfence }))
    ∧ (onG fun g => { g with bound := some .xfence }).g.bound = some .xfence
    ∧ (let s := onG fun g => { g with held := [heldOne] }
      NothingOut s ∧ s.g.bound ≠ some (.phase .core) ∧ Instr.phase .core ≠ .phase .group ∧ s.g.heldPoison = false
        ∧ s.g.drainList (Bound.phase .core).scope ≠ [] ∧ s.g.follower = false) := by decide

/-- A second group of the team, at index 1. -/
def mate : Group := { loadGroup 0 0 with key := 2, idx := 1, slot := 1, port := none }

/-- Two groups of one team. -/
def two : State := { (onD fun d => { d with groups := 2, roles := [(2, 7)] }) with others := [mate], fresh := 3 }

/-- The other group waits at barrier 15 with `mask` in s3, and has arrived. -/
def arrived (mask : Mask) (trapVec : Word) : State :=
  { two with
    others := [{ mate with wait := some (.bar 15), waitEnd := .pending }]
    teams := [{ loadTeam with bars := [{ n := 15, mask := mask, arrived := [1] }] }]
    launches := two.launches.map fun l => { l with desc := { l.desc with trapVec := trapVec } } }

/-- Every group of a mask is a group of the launch of two that has not ended. -/
theorem named {m : Mask} (h : ∀ j, j < 32 → m.has j = true → j < two.gdesc.groups ∧ loadTeam.gone.has j = false) :
    ∀ j, m.has j = true → j < two.gdesc.groups ∧ loadTeam.gone.has j = false := on_lanes h

/-- A mask of the own group alone, of both groups, of the other alone, and with a group that does not exist or has ended; the arrival
that completes a barrier, and one with another mask. -/
theorem witness_BarrierArrival : two.teamOf? two.g = some loadTeam ∧ loadTeam.bar? 15 = none ∧ NobodyWaits two
    ∧ (let m : Mask := 1
      (m.has two.g.idx = true ∧ ∀ j, m.has j = true → j < two.gdesc.groups ∧ loadTeam.gone.has j = false) ∧ ∀ j, m.has j = true → j = two.g.idx)
    ∧ (let m : Mask := 3
      (m.has two.g.idx = true ∧ ∀ j, m.has j = true → j < two.gdesc.groups ∧ loadTeam.gone.has j = false) ∧ ∃ j, m.has j = true ∧ j ≠ two.g.idx)
    ∧ (let m : Mask := 2; m.has two.g.idx = false)
    ∧ (let m : Mask := 0x80000001
      m.has two.g.idx = true ∧ m.has 31 = true ∧ two.gdesc.groups ≤ 31
        ∧ ∀ k, k < 31 → m.has k = true → k < two.gdesc.groups ∧ loadTeam.gone.has k = false)
    ∧ (let t := { loadTeam with gone := 2 }
      let s := { two with teams := [t] }
      let m : Mask := 3
      s.teamOf? s.g = some t ∧ m.has s.g.idx = true ∧ m.has 1 = true ∧ t.gone.has 1 = true
        ∧ ∀ k, k < 1 → m.has k = true → k < s.gdesc.groups ∧ t.gone.has k = false) :=
  ⟨by decide, by decide, by decide, ⟨⟨by decide, named (by decide)⟩, on_lanes (by decide)⟩,
    ⟨⟨by decide, named (by decide)⟩, 1, by decide⟩, by decide, by decide, by decide⟩

/-- The arrival that completes a barrier of two; one that does not complete a barrier of three; one with another mask. -/
theorem witness_BarrierArrival_met :
    (let s := arrived 3 0
      let m : Mask := 3
      ∃ t b, s.teamOf? s.g = some t ∧ t.bar? 15 = some b ∧ b.mask = m ∧ m.has s.g.idx = true
        ∧ (∀ j, m.has j = true → j < s.gdesc.groups ∧ t.gone.has j = false) ∧ KeysApart s ∧ s.g.wait = none
        ∧ ∀ j, m.has j = true ↔ j < 32 ∧ (j = s.g.idx ∨ j ∈ b.arrived))
    ∧ (let s := { arrived 7 0 with launches := two.launches.map fun l => { l with desc := { l.desc with groups := 3, roles := [(3, 7)] } } }
      let m : Mask := 7
      ∃ t b, s.teamOf? s.g = some t ∧ t.bar? 15 = some b ∧ b.mask = m ∧ m.has s.g.idx = true
        ∧ (∀ j, m.has j = true → j < s.gdesc.groups ∧ t.gone.has j = false) ∧ KeysApart s ∧ s.g.wait = none
        ∧ ∃ j, m.has j = true ∧ j ≠ s.g.idx ∧ j ∉ b.arrived)
    ∧ (let s := arrived 2 64
      let m : Mask := 3
      ∃ t b, s.teamOf? s.g = some t ∧ t.bar? 15 = some b ∧ b.mask ≠ m ∧ m.has s.g.idx = true
        ∧ (∀ j, m.has j = true → j < s.gdesc.groups ∧ t.gone.has j = false) ∧ KeysApart s ∧ MayEnter s) := by
  refine ⟨⟨_, _, rfl, rfl, by decide, by decide, on_lanes (by decide), by decide, by decide, fun j => ?_⟩,
    ⟨_, _, rfl, rfl, by decide, by decide, on_lanes (by decide), by decide, by decide, 2, by decide⟩,
    ⟨_, _, rfl, rfl, by decide, by decide, on_lanes (by decide), by decide⟩⟩
  have key : ∀ j, j < 32 → (Mask.has 3 j = true ↔ (j = 0 ∨ j ∈ [1])) := by decide
  exact ⟨fun h => ⟨has_lt h, (key j (has_lt h)).1 h⟩, fun h => (key j h.1).2 h.2⟩

/-- A group that holds a store; one that has nothing to drain; one whose stores have gone home. -/
theorem witness_ExitEnds :
    (let s := onG fun g => { g with held := [heldOne] };
      NothingOut s ∧ (∀ e ∈ s.g.stack, e.1 &&& (s.g.live &&& ~~~s.g.em) = 0) ∧ s.g.pendS = [] ∧ s.g.bound ≠ some .exit
        ∧ s.g.heldPoison = false ∧ s.g.drainList (some 5) ≠ [])
    ∧ ∀ s ∈ [two, two.onG fun g => { g with bound := some .exit }],
      (∀ e ∈ s.g.stack, e.1 &&& (s.g.live &&& ~~~s.g.em) = 0) ∧ NothingOut s ∧ s.g.pendS = []
        ∧ (s.g.bound = some .exit ∨ (s.g.bound = none ∧ s.g.held = [] ∧ s.g.heldT = [])) ∧ s.g.holds = [] ∧ s.g.wait = none
        ∧ s.g.ended = false ∧ s.g.follower = false ∧ (s.core s.g.core).claims = [] ∧ s.teamOf? s.g = some loadTeam ∧ loadTeam.bars = []
        ∧ mate ∈ s.others ∧ mate.ended = false ∧ loadTeam.holds mate = true ∧ mate.key ≠ s.g.key ∧ ∀ y ∈ s.others, y.key ≠ s.g.key := by
  refine ⟨?_, fun s hs => ?_⟩
  · constructorm* _ ∧ _ <;> first | exact ball rfl | decide
  · simp only [List.mem_cons, List.not_mem_nil, or_false] at hs
    rcases hs with rfl | rfl <;> constructorm* _ ∧ _ <;> first | exact ball rfl | exact List.mem_cons_self | decide

/-- An open root of domain 0 with the launch as its member, and figures. -/
def root (issued returned : Nat) : Root :=
  { reach := 0, domain := 0, isOpen := true, issued := issued, returned := returned, lost := 0, members := [1], balances := [], remote := [] }

/-- An open domain; a closed one at the limit of 255 others; a domain whose weight has all come back; a weight of 2 to split. -/
theorem witness_Weight :
    (let s := { one with roots := [root 5 3] }
      let mine := fun x : Root => x.reach = s.greach ∧ x.domain = s.g.domain
      root 5 3 ∈ s.roots ∧ mine (root 5 3) ∧ (root 5 3).isOpen = true ∧ (∀ y ∈ s.roots, mine y → y = root 5 3) ∧ JoinsHere s.g.domain s
        ∧ s.movedAway s.greach = false ∧ s.g.qw.toNat + 2 ^ 32 < 2 ^ 48 ∧ NobodyWaits s)
    ∧ (let s := { one with roots := (List.range 255).map fun n => { root 5 3 with reach := 1, domain := BitVec.ofNat 10 (4 * n) } }
      (∀ x ∈ s.roots, x.reach = s.greach ∧ x.domain = s.g.domain → x.isOpen = false) ∧ NobodyWaits s ∧ s.g.qw.toNat + 2 ^ 32 < 2 ^ 48
        ∧ (s.roots.filter fun x => x.isOpen && x.domain.toNat % 4 == s.g.domain.toNat % 4).length < 256
        ∧ s.farRoot? s.greach s.g.domain = none ∧ s.movedAway s.greach = false)
    ∧ (let s := { one with roots := [root 5 5] }
      let mine := fun x : Root => x.reach = s.greach ∧ x.domain = s.g.domain
      root 5 5 ∈ s.roots ∧ mine (root 5 5) ∧ (root 5 5).isOpen = true ∧ (∀ y ∈ s.roots, mine y → y = root 5 5)
        ∧ (root 5 5).returned = (root 5 5).issued ∧ (root 5 5).lost = 0 ∧ (root 5 5).remote = [] ∧ s.movedAway s.greach = false
        ∧ ∀ g ∈ s.groups, g.wait ≠ some (.quiet s.greach s.g.domain))
    ∧ (2 = (onG fun g => { g with qw := 2 }).g.qw.toNat ∧ 1 < 2) := by decide +kernel

/-- A queue of the launch's reach, with the launch as a producer. -/
def queue5 : Queue :=
  { reach := 0, owner := none, producers := [1]
    desc := { qnum := 5, minClass := .spare, isDefault := false, wharf := false, reserve := 0, quota := 1, ovfCap := 0, ovfBase := 0, home := 0 } }

/-- An entry word 0 that carries no weight, and one that carries a unit. -/
def weightless : Word := 0xFC0000000000
def oneUnit : Word := 0

/-- An entry of the queue in the core's basin. -/
def entryOf (w0 : Word) : QEntry :=
  { reach := 0, qnum := 5, e := ⟨w0, 1, 2, 3⟩, stamp := 0, place := .core ⟨0, 0, 0⟩, producer := 1, gid := 0, core := ⟨0, 0, 0⟩, team := 0, tok := 0,
    maker := none }

/-- s8 to s11 hold an entry, s7 the handle. -/
def sender (w0 : Word) : State := { (setU 8 w0 (setU 7 5 one)) with queues := [queue5] }

theorem witness_Enqueue : ((63 : Nat) < 64 ∧ 2 ^ 32 - 1 < 2 ^ 32)
    ∧ ∀ x : Word × State × Nat, x ∈ [(weightless, sender weightless, 63), (oneUnit, (sender oneUnit).onG fun g => { g with qw := 2 }, 0)] →
    let s := x.2.1
    let e := s.g.entryAt 8
    let h := s.g.sreg 7
    badEntry e = false ∧ handleOk h = true ∧ s.deviceOf h = s.device ∧ s.queue? s.greach (s.qnumOf s.g.launch h) = some queue5
      ∧ queue5.desc.wharf = false ∧ s.g.launch ∈ queue5.producers ∧ s.admits queue5 s.g.launch = true
      ∧ (s.level (.core s.g.core)).length < 64 ∧ NobodyWaits s ∧ Weighs e x.2.2 s := by
  refine ⟨by decide, fun x hx => ?_⟩
  simp only [List.mem_cons, List.not_mem_nil, or_false] at hx
  rcases hx with rfl | rfl <;> decide

/-- An entry without weight, one with a unit, a poisoned one, and an empty queue; the destination ends at s63. -/
theorem witness_Dequeue : (60 : SReg).toNat ≤ 60
    ∧ (∀ x ∈ [entryOf weightless, entryOf oneUnit, { entryOf weightless with bad := true }],
      let s := { sender 0 with entries := [x] }
      let h := s.g.sreg 7
      handleOk h = true ∧ s.deviceOf h = s.device ∧ s.queue? s.greach (s.qnumOf s.g.launch h) = some queue5 ∧ queue5.desc.wharf = false
        ∧ s.ready s.greach (s.qnumOf s.g.launch h) s.g.core = some x
        ∧ (x.bad = true ∨ entryWexp x.e = 63 ∨ (entryDomain x.e = s.g.domain
          ∧ s.g.qw.toNat + 2 ^ entryWexp x.e < 2 ^ 48 ∧ NobodyWaits s ∧ JoinsHere s.g.domain s)))
    ∧ (sender 0).ready (sender 0).greach ((sender 0).qnumOf (sender 0).g.launch ((sender 0).g.sreg 7)) (sender 0).g.core = none := by decide

/-- DEPARM with a count of 1 on the last counter of the tenant's range, of an entry without weight and of one with it. -/
theorem witness_Dependencies_arm : ∀ x ∈ [(weightless, (1 : BitVec 48), 63), (oneUnit, 2, 0)],
    let s : State := { (setU 12 (BitVec.ofNat 64 (2 ^ 42 + 65535)) (setU 13 5 (setU 8 x.1 (onG fun g => { g with qw := x.2.1 })))) with
      queues := [queue5], ranges := [(0, 0, 65535, 0)] }
    let c := s.g.sreg 12
    let h := s.g.sregAt 12 1
    let e := s.g.entryAt 8
    badEntry e = false ∧ counterOk true c = true ∧ handleOk h = true ∧ s.deviceOf c = s.device ∧ s.deviceOf h = s.device
      ∧ s.ownsCounter s.greach (counterDie c) (counterNum c) = true ∧ s.queue? s.greach (s.qnumOf s.g.launch h) = some queue5
      ∧ s.g.launch ∈ queue5.producers ∧ (s.counter (counterDie c) (counterNum c)).free = true ∧ s.admits queue5 s.g.launch = true
      ∧ 0 < (c.extractLsb' 42 16).toNat ∧ (s.level (.core s.g.core)).length < 64 ∧ NobodyWaits s ∧ Weighs e x.2.2 s := by decide

/-- The last counter of the tenant's range with a count and a parked entry. -/
def counting (n : Nat) : Counter := { die := 0, ctr := 65535, count := n, parked := some (entryOf weightless), unadmitted := false }
def depdecs (cs : List Counter) : State := { setU 8 65535 one with queues := [queue5], ranges := [(0, 0, 65535, 0)], counters := cs }

/-- DEPDEC of a count of 2, of 1, and of a free counter. -/
theorem witness_Dependencies :
    (∀ x ∈ [(2, depdecs [counting 2]), (1, depdecs [counting 1]), (0, depdecs [])],
      let s := x.2
      let d := s.g.sreg 8
      counterOk false d = true ∧ s.deviceOf d = s.device ∧ s.ownsCounter s.greach (counterDie d) (counterNum d) = true
        ∧ (s.counter (counterDie d) (counterNum d)).count = x.1)
    ∧ (let s := depdecs [counting 1]
      let k := counting 1
      let x := entryOf weightless
      s.counter (counterDie (s.g.sreg 8)) (counterNum (s.g.sreg 8)) = k ∧ k.count = 1 ∧ k.parked = some x ∧ k.unadmitted = false
        ∧ s.queue? x.reach x.qnum = some queue5 ∧ queue5.desc.wharf = false
        ∧ (s.setCounter { k with count := 0, parked := none }).admits queue5 x.producer = true
        ∧ (s.level x.place).length < levelCap x.place ∧ NobodyWaits s) := by decide

/-- A channel of the launch that has completed records up to `seq`. -/
def chan (seq : BitVec 32) : Channel :=
  { handle := 0, launch := 1, head := some 64, pos := 64, tail := none, taken := [(64, 3)], issued := seq, seq := seq, stopped := none
    walking := false, running := [], done := [], ctails := [], cqw := 0, cdom := 0, borrow := .idle }

/-- A member's collective. -/
def coll1 : Coll := { grp := 2, op := 9, launch := 1, team := 0, core := ⟨0, 0, 0⟩, kind := .allReduce, tag := 0, desc := 0, wrote := [] }

/-- Room for a one-shot; a first COLL and a second one with the tag; WAITSEQ at the number itself, and half the circle behind; YIELD
with nothing pending; CHEAD and CTAIL with weight 2, and for a tail that has completed. -/
theorem witness_EngineCommands :
    one.oneShotRoom one.g.core = true
    ∧ (∀ c ∈ one.colls, ¬(c.launch = one.g.launch ∧ c.tag = one.g.sreg 4 ∧ c.core.die = one.g.core.die))
    ∧ one.collLate one.g.launch (one.g.sreg 4) one.g.core.die = false
    ∧ (let s := { one with collsBad := [(1, 0, [0])] }
      (∀ c ∈ s.colls, ¬(c.launch = s.g.launch ∧ c.tag = s.g.sreg 4 ∧ c.core.die = s.g.core.die))
        ∧ s.collLate s.g.launch (s.g.sreg 4) s.g.core.die = true)
    ∧ (let s := { one with colls := [coll1] }; ∃ c ∈ s.colls, c.launch = s.g.launch ∧ c.tag = s.g.sreg 4 ∧ c.core.die = s.g.core.die)
    ∧ (∀ q, q = (0 : BitVec 32) ∨ q = 0x7FFFFFFF →
      let s := { one with channels := [chan q] }
      let a := s.g.sreg 3
      a.toNat < 512 ∧ handleCluster (a.setWidth 9) < 5 ∧ s.channel? (a.setWidth 9) = some (chan q)
        ∧ ((chan q).seq - (s.g.sreg 4).setWidth 32).toNat < 2 ^ 31)
    ∧ (∀ p ∈ one.g.pendS, p.reg ≠ 5)
    ∧ (let s := { (setU 4 128 (onG fun g => { g with qw := 2 })) with channels := [chan 3] }
      let h := s.g.sreg 3
      let b := s.g.sreg 4
      h.toNat < 512 ∧ handleCluster (h.setWidth 9) < 5 ∧ s.channel? (h.setWidth 9) = some (chan 3) ∧ (chan 3).launch = s.g.launch ∧ NobodyWaits s
        ∧ (chan 3).running = [] ∧ (chan 3).ctails = [] ∧ (chan 3).stopped = none ∧ (∀ x ∈ (chan 3).taken, x.1 ≠ b) ∧ (chan 3).cqw = 0
        ∧ (s.g.qw = 0 ∨ (1 < s.g.qw.toNat ∧ JoinsHere s.g.domain s)))
    ∧ (let s := { setU 4 64 one with channels := [chan 3] }
      let h := s.g.sreg 3
      let b := s.g.sreg 4
      h.toNat < 512 ∧ handleCluster (h.setWidth 9) < 5 ∧ s.channel? (h.setWidth 9) = some (chan 3) ∧ (chan 3).launch = s.g.launch ∧ NobodyWaits s
        ∧ (chan 3).ctails = [] ∧ (chan 3).stopped = none ∧ ((chan 3).taken.find? fun x => x.1 == b) = some (b, 3)
        ∧ ((chan 3).seq - 3).toNat < 2 ^ 31 ∧ s.g.qw = 0 ∧ (0 : La).toNat = 0) := by
  constructorm* _ ∧ _
  all_goals first | exact ball rfl | rintro q (rfl | rfl) <;> decide | decide

/-- A row of three FP32 elements at the start of the core region. -/
def desc3 : Desc :=
  { baseA := padAddr.toNat, baseB := 0, type := 4, rank := 1, tagA := 0, tagB := 0, ext := [3, 0, 0, 0], dir := 0, conv := false, side := false }
def shape3 : Shape := { desc := desc3, attach := 0x40000 }

/-- Slot 31 of the team with the tensor, and empty. -/
def tensor : State := { one with teams := [{ loadTeam with shapes := List.replicate 31 none ++ [some shape3] }] }

/-- The coordinates of the last word of the row: element 2, and one beyond the extent. -/
def lastWord : State := setV 6 (fun _ => 2) tensor

theorem last_inside {i : Nat} (h : i < 64 / typeBits desc3.type ∧ 2 + i < desc3.e 0) : i = 0 := by
  have : i < 1 := by
    have := h.2
    simp [Desc.e, desc3] at this
    omega
  omega

theorem witness_Tensors :
    (let s := onG fun g => { g with em := 0 }; s.g.acts .always = 0)
    ∧ (let s := lastWord
      let m := s.g.acts .always
      let w := typeBits desc3.type
      let n := typeBytes desc3.type
      let x := fun l k => elem 16 k (s.g.lane 6 l)
      let goes := fun acc l i (p : Word × Nat) (loc : Loc) => s.resolve (s.viewOf s.g) desc3 [x l 0 + i, x l 1, x l 2, x l 3] = .ok p.1 p.2
        ∧ s.dirPoisoned (s.viewOf s.g) desc3 [x l 0 + i, x l 1, x l 2, x l 3] = false ∧ ∃ q, s.probe s.g (some l) acc false n p.1 = .ok q loc
      m ≠ 0 ∧ s.slot? s.g 31 = some shape3 ∧ desc3.type ≤ 10 ∧ desc3.rank ≤ 4 ∧ shape3.bad = false ∧ s.g.late = false ∧ (later s).g.late = true
        ∧ (∀ l, m.has l = true → x l 0 % (64 / w) = 0 ∧ ∀ k, k < 4 → if k < desc3.rank then x l k < desc3.e k else x l k = 0)
        ∧ s.g.heldT = [] ∧ s.g.drains = [] ∧ s.g.side = [] ∧ s.sideRoom 0 = true
        ∧ (∀ l i, m.has l = true → i < 64 / w ∧ x l 0 + i < desc3.e 0 → ∃ p loc, goes .read l i p loc ∧ s.poisoned loc.key n = false)
        ∧ ∀ l i, m.has l = true → i < 64 / w ∧ x l 0 + i < desc3.e 0 → ∃ p loc, goes .write l i p loc)
    ∧ (∀ s, s = withPad 0 (descBytes desc3) (setU 3 padAddr tensor) ∨ s = setU 3 padAddr one →
      ∃ t0, s.teamOf? s.g = some t0 ∧ (31 : BitVec 5).toNat < t0.shapes.length ∧ s.slotBusy 31 = false)
    ∧ (let s := withPad 0 (descBytes desc3) (setU 3 padAddr tensor)
      ∃ x, Reads true 64 (s.g.sreg 3) s s x ∧ descFault (leBytes x 64) = none)
    ∧ (let s := setU 3 padAddr one; ∃ x, Reads true 64 (s.g.sreg 3) s s x ∧ descFault (leBytes x 64) = some 17)
    ∧ (let s := setU 3 padAddr one; s.slot? s.g 31 = none)
    ∧ (tensor.slot? tensor.g 31 = some shape3 ∧ tensor.g.sreg 3 = 0)
    ∧ (let s := setU 3 padAddr tensor
      s.slot? s.g 31 = some shape3 ∧ s.g.sreg 3 ≠ 0
        ∧ s.probe s.g none .write false 64 (s.g.sreg 3) = .ok (.pad (.core ⟨0, 0, 0⟩) padKey) (padLoc padKey) ∧ s.sideRoom 0 = true) := by
  have read : ∀ s x, (s.uprobe .read 64 padAddr).hit = .ok (.pad (.core ⟨0, 0, 0⟩) padKey) (padLoc padKey) → s.olds = [] →
      s.viewPoisoned s.g (s.atOnce s.g.reader (padLoc padKey) 64) (padLoc padKey) 64 = false →
      s.viewRead s.g (s.atOnce s.g.reader (padLoc padKey) 64) 0 (padLoc padKey) 64 = x → Reads true 64 padAddr s s x :=
    fun s x h ho hp hx => reads_pad h ho hp hx
  refine ⟨by decide, ⟨by decide, by decide, by decide, by decide, by decide, by decide, by decide, on_lane0 (by decide) (by decide),
    by decide, by decide, by decide, by decide, ?_, ?_⟩, ?_, ⟨_, read _ _ (by decide) rfl (by decide) (by decide +kernel : _ = leNat (descBytes desc3)), by decide⟩,
    ⟨_, read _ _ (by decide) rfl (by decide) (by decide +kernel : _ = 0), by decide⟩, by decide⟩
  · intro l i hl
    revert l
    refine on_lane0 (by decide) fun hi => ?_
    obtain rfl := last_inside hi
    exact ⟨(padAddr + 8, 0), padLoc (padKey + 8), ⟨rfl, by decide, .pad (.core ⟨0, 0, 0⟩) (padKey + 8), by decide⟩, by decide⟩
  · intro l i hl
    revert l
    refine on_lane0 (by decide) fun hi => ?_
    obtain rfl := last_inside hi
    exact ⟨(padAddr + 8, 0), padLoc (padKey + 8), rfl, by decide, .pad (.core ⟨0, 0, 0⟩) (padKey + 8), by decide⟩
  · rintro s (rfl | rfl) <;> exact ⟨_, rfl, by decide, by decide⟩

/-- The team with slots and tiles, and the count or mask in s3. -/
def claimer (slots tiles : List Nat) (x : Word) : State := { setU 3 x one with teams := [{ loadTeam with slots := slots, tiles := tiles }] }

/-- All 32 slots and all 8 tiles of the partition; one too many while one is taken; one more than the partition has; releases. -/
theorem witness_Claims :
    (let s := claimer [] [] 32; (s.g.sreg 3).toNat ≤ (s.freeSlots s.greach s.g.core).length)
    ∧ (let s := claimer [0] [] 32;
      (s.freeSlots s.greach s.g.core).length < (s.g.sreg 3).toNat ∧ (s.g.sreg 3).toNat ≤ s.partSize ReachRec.oslot)
    ∧ (let s := claimer [] [] 33; s.partSize ReachRec.oslot < (s.g.sreg 3).toNat)
    ∧ (let s := claimer [] [] 8;
      (s.g.sreg 3).toNat ≤ (s.freeTiles s.greach s.g.core).length ∧ ∀ x ∈ (s.core s.g.core).claims, x.1 ≠ s.greach)
    ∧ (let s := claimer [] [0] 8;
      (s.freeTiles s.greach s.g.core).length < (s.g.sreg 3).toNat ∧ (s.g.sreg 3).toNat ≤ s.partSize ReachRec.atile
        ∧ s.teamOf? s.g = some { loadTeam with tiles := [0] } ∧ ({ loadTeam with tiles := [0] } : Team).tiles ≠ [])
    ∧ (let s := claimer [] [] 9; s.partSize ReachRec.atile < (s.g.sreg 3).toNat)
    ∧ (let t : Team := { loadTeam with slots := [0, 31], tiles := [0, 7] }
      let s := claimer [0, 31] [0, 7] 1
      s.teamOf? s.g = some t ∧ (∀ k, k < 64 → (s.g.sreg 3).getLsbD k = true → k ∈ t.slots) ∧ t.queue = [] ∧ s.channels = []
        ∧ (∀ k, k < 64 → (s.g.sreg 3).getLsbD k = true → k ∈ t.tiles) ∧ (s.core s.g.core).claims = []) := by decide

/-- A command of one step on tile 0 and slots 0 and 1, without and with a ring; FP16 operands. -/
def word1 : Word := BitVec.ofNat 64 (2 ^ 30 + 2 ^ 12)
def wordRing : Word := BitVec.ofNat 64 (2 ^ 48 + 2 ^ 39 + 2 ^ 30 + 2 ^ 12)

/-- A team with tile 0, slots 0 and 1, and `n` commands in its queue. -/
def holder (n : Nat) : Team :=
  { loadTeam with slots := [0, 1], tiles := [0], queue := List.replicate n { ticket := 1, word := word1, fmtA := 0, fmtB := 0, ring := none, step := 0, acquired := 0, waits := none, granted := false } }

/-- The format block stands at byte 0 of the core region, a ring descriptor at byte 16: one entry at byte 256, for A. -/
def matrix (n : Nat) (word x : Word) : State :=
  { setU 4 word (setU 3 x (withPad 16 (leBytes (256 + 2 ^ 32) 8 ++ leBytes 1 8) one)) with
    teams := [holder n], bindings := [{ granule := padKey + 256, prod := .launch 1, reach := 0 }] }

theorem witness_Matrix :
    (let s := matrix 15 word1 padAddr
      let c : MCmd := { ticket := (holder 15).tickets + 1, word := word1, fmtA := 0, fmtB := 0, ring := none, step := 0, acquired := 0, waits := none, granted := false }
      s.teamOf? s.g = some (holder 15) ∧ Reads false 16 (s.g.sreg 3) s s 0 ∧ (s.g.sreg 4).getLsbD 39 = false ∧ s.cmdFault (holder 15) c = none
        ∧ (holder 15).queue.length < 16)
    ∧ (let s := matrix 15 wordRing padAddr
      let y := 256 + 2 ^ 32 + 2 ^ 64
      let c : MCmd := { ticket := (holder 15).tickets + 1, word := wordRing, fmtA := 0, fmtB := 0
                        ring := some (BitVec.ofNat 64 y, BitVec.ofNat 64 (y / 2 ^ 64)), step := 0, acquired := 0, waits := none, granted := false }
      s.teamOf? s.g = some (holder 15) ∧ Reads false 16 (s.g.sreg 3) s s 0 ∧ (s.g.sreg 4).getLsbD 39 = true
        ∧ Reads false 16 (BitVec.ofNat 64 (4 * 2 ^ 56 + 16 * ((s.g.sreg 4).toNat / 2 ^ 48))) s s y ∧ s.cmdFault (holder 15) c = none
        ∧ (holder 15).queue.length < 16)
    ∧ (let s := matrix 0 word1 0
      s.teamOf? s.g = some (holder 0) ∧ ((holder 0).mseq - (s.g.sreg 3).setWidth 32).toNat < 2 ^ 31)
    ∧ (let s := matrix 0 word1 (BitVec.ofNat 64 (64 * 127))
      let x := (s.g.sreg 3).toNat
      x % 64 ∈ (holder 0).tiles ∧ (∀ c ∈ (holder 0).queue, cmdTile c.word ≠ x % 64)
        ∧ s.poisoned (tileKey (holder 0).core (x % 64) (512 * (x / 64 % 128))) 512 = false ∧ Memory.wf s.mem = true)
    ∧ (let s := matrix 0 word1 63; (s.g.sreg 3).toNat % 64 ∉ (holder 0).tiles) := by
  refine ⟨⟨by decide, reads_pad (q := .pad (.core ⟨0, 0, 0⟩) padKey) (k := padKey) (by decide) rfl (by decide) (by decide), by decide, by decide, by decide⟩,
    ⟨by decide, reads_pad (q := .pad (.core ⟨0, 0, 0⟩) padKey) (k := padKey) (by decide) rfl (by decide) (by decide), by decide,
      reads_pad (q := .pad (.core ⟨0, 0, 0⟩) (padKey + 16)) (k := padKey + 16) (by decide) rfl (by decide) (by decide), by decide, by decide⟩,
    by decide, by decide, by decide⟩

/-- A load of which lane 31 waits for its page. -/
def heldLoad : HeldOp := {
  i := .ld .w32 1 2 0 0 .always, lanes := 0x80000000, a := Lanes.all padAddr, b := Lanes.all 0, d := Lanes.all 0, left := 0
  at_ := 0, kept := false, po := 0, issued := 0, late := false }

/-- A result in flight for v or s register 63; the acknowledgement of a RED; a drained byte; a replayed store to the page at 0x40000;
a load that fault service holds in lane 31. -/
theorem witness_GroupEvents :
    let p := fun f : Nat => { file := f, reg := if f = 0 then 63 else 0, lanes := 1, vals := Lanes.all 1, left := 0, at_ := 0, clash := 0 : Pend }
    (∀ f, f = 0 ∨ f = 2 →
      let s := onG fun g => { g with inflight := [p f] }
      s.g.inflight[0]? = some (p f) ∧ (p f).left = 0 ∧ (p f).clash = 0 ∧ (p f).file = f ∧ (p f).reg < 64 ∧ (p f).lanes ≠ 0)
    ∧ (let s := onG fun g => { g with reds := [1] }; s.g.reds = 1 :: [] ∧ s.g.twin = none)
    ∧ (let s := onG fun g => { g with drains := [.byte heldOne false none] }
      s.g.drains[0]? = some (.byte heldOne false none) ∧ heldOne.again = false ∧ heldOne.loc = padLoc heldOne.key ∧ Memory.wf s.mem = true
        ∧ s.g.drainBlocked 0 (.byte heldOne false none) = false ∧ .drain (wordKey heldOne.key) ∉ s.g.poison
        ∧ ∀ o ∈ s.olds, o.key = heldOne.key → o.atomic = true ∨ o.writer = .group s.g.key ∨ .group s.g.key ∈ o.known)
    ∧ (let e : Side := { va := 0x7FFFF, op := .store [1], epoch := 0, po := 0 }
      let s := onG fun g => { g with side := [e] }
      s.g.side = [e] ∧ e.op = .store [1] ∧ e.va / 2 ^ 18 = 1
        ∧ s.sideHit s.greach e = .ok (.main 0x7FFFF) { key := 0x13FFFF, cipher := some 0, foreign := false, pte := some 0xC0008, va := some 0x7FFFF }
        ∧ s.g.bound = none ∧ .side e.va ∉ s.g.poison ∧ ∀ h ∈ s.g.held, h.po ≤ e.po)
    ∧ (let h := heldLoad
      let s := onG fun g => { g with heldOps := [h] }
      let q := Spot.pad (.core ⟨0, 0, 0⟩) padKey
      s.g.heldOps = [h] ∧ h.i = .ld .w32 1 2 0 0 .always ∧ h.left = 0 ∧ h.lanes ≠ 0 ∧ s.g.fetchHeld = none ∧ s.g.offCore = false ∧ NobodyWaits s
        ∧ ∀ l, h.lanes.has l = true →
          s.probe s.g (some l) .read false 4 (h.a.at l + BitVec.ofNat 64 ((0 : BitVec 3).toNat * 4)) = .ok q (padLoc padKey)
          ∧ s.viewPoisoned s.g (h.reader s.g) (padLoc padKey) 4 = false) := by
  have probed : let s := onG fun g => { g with heldOps := [heldLoad] }
      ∀ l, l < 32 → heldLoad.lanes.has l = true → s.probe s.g (some l) .read false 4
        (heldLoad.a.at l + BitVec.ofNat 64 ((0 : BitVec 3).toNat * 4)) = .ok (.pad (.core ⟨0, 0, 0⟩) padKey) (padLoc padKey) := by
    decide +kernel
  refine ⟨?_, by decide, by decide, by decide +kernel, ⟨rfl, by decide, by decide, by decide, by decide, by decide, by decide,
    fun l hl => ⟨probed l (has_lt hl) hl, sound_of rfl rfl _ _ _⟩⟩⟩
  rintro f (rfl | rfl)
  all_goals exact ⟨rfl, by decide, by decide, by decide, by decide, by decide⟩

/-- The launch's reach with a sub-reach, so that a descriptor passes. -/
def withSub (s : State) : State := { s with reaches := s.reaches.map fun x => { x with subs := [(0, x.cfg)] } }

/-- A second launch, whose team has not started. -/
def entering : State :=
  { withSub one with
    launches := one.launches ++ [{ loadLaunch 0 with lid := 2 }]
    teams := one.teams ++ [{ loadTeam with launch := 2, at_ := .unstarted }] }

/-- The 128 bytes of a launch descriptor (R46): the class byte, the teams and the KiB of core scratchpad. -/
def launchBytes (cls teams scratch : Nat) : List Byte :=
  leBytes 0x40000 8 ++ leBytes 0 4 ++ leBytes cls 1 ++ leBytes 1 1 ++ leBytes 0 2 ++ leBytes teams 4 ++ leBytes (1 + 2 ^ 13 + 2 ^ 21) 4
    ++ leBytes (1 + 7 * 256) 8 ++ leBytes 0 24 ++ leBytes 0 4 ++ leBytes 0xFFFFFFFF 4 ++ leBytes 0 20 ++ leBytes scratch 2 ++ leBytes 0 42

/-- The layout of R46: class QUEUED, one team of one group of 32 lanes, 64 KiB of core scratchpad. -/
theorem test_launch_descriptor : (launchBytes 1 1 64).length = 128 ∧ launchZeros (launchBytes 1 1 64) = true
    ∧ LaunchDesc.ofBytes (launchBytes 1 1 64) = loadDesc ∧ launchZeros (launchBytes 3 1 64) = false := by decide +kernel

/-- The group of `one` without a port, and its class. -/
def portless (c : Sys2Proof.Class) : State := (onD fun d => { d with cls := c }).onG fun g => { g with port := none }

theorem port_case (s : State) (c : Sys2Proof.Class) (hg : (s.g.core == ⟨0, 0, 0⟩ && s.g.port.isNone && s.effective s.g.launch == c
    && s.groupReady s.g.key) = true) (ho : s.others = []) : s.g ∈ s.readyOn ⟨0, 0, 0⟩ c ∧ ∀ x ∈ s.readyOn ⟨0, 0, 0⟩ c, x = s.g ∨ s.g.age < x.age := by
  refine ⟨List.mem_filter.2 ⟨List.mem_cons_self, hg⟩, fun x hx => .inl ?_⟩
  have := (List.mem_filter.1 hx).1
  simpa [State.groups, ho] using this

/-- A thread of the host that submits launches. -/
def thread : Submitter := { pid := 1, tid := 1, tids := [], image := [] }

theorem witness_PortsAndLaunches :
    (∀ c, c = .held ∨ c = .queued ∨ c = .spare →
      let s := portless c
      s.portBusy ⟨0, 0, 0⟩ false = false ∧ (s.g ∈ s.readyOn ⟨0, 0, 0⟩ c ∧ ∀ x ∈ s.readyOn ⟨0, 0, 0⟩ c, x = s.g ∨ s.g.age < x.age)
        ∧ (s.desc s.g.launch).urgent = false
        ∧ (if s.readyOn ⟨0, 0, 0⟩ .queued ≠ [] ∧ (16 ≤ (s.core ⟨0, 0, 0⟩).queued ∨ s.readyOn ⟨0, 0, 0⟩ .held = []) then c = .queued
          else if s.readyOn ⟨0, 0, 0⟩ .held ≠ [] then c = .held else c = .spare))
    ∧ (let s := two
      s.portBusy ⟨0, 0, 0⟩ true = false ∧ s.portBusy ⟨0, 0, 0⟩ false = true ∧ mate ∈ s.readyOn ⟨0, 0, 0⟩ .queued
        ∧ (∀ x ∈ s.readyOn ⟨0, 0, 0⟩ .queued, x = mate ∨ mate.age < x.age) ∧ (s.desc mate.launch).urgent = false
        ∧ s.readyOn ⟨0, 0, 0⟩ .queued ≠ [] ∧ s.readyOn ⟨0, 0, 0⟩ .held = [])
    ∧ ¬((0 : BitVec 32) ≠ 0)
    ∧ ((1 : BitVec 32) ≠ 0 ∧ (2 : BitVec 32) ≠ 0xFFFFFFFF ∧ one.launch? 2 = none ∧ one.malformed (LaunchDesc.ofBytes (launchBytes 1 1 64)) = true
      ∧ launchZeros (launchBytes 3 1 64) = false)
    ∧ (let s := withSub one
      let d := LaunchDesc.ofBytes (launchBytes 1 2 1024)
      let small := LaunchDesc.ofBytes (launchBytes 1 1 64)
      let big := { (withSub one) with reaches := (withSub one).reaches.map fun x : Reach => { x with cfg := { x.cfg with cscr := 63 } : Reach } }
      s.launch? 2 = none ∧ launchZeros (launchBytes 1 2 1024) = true ∧ s.malformed d = false ∧ s.neverFits d = false ∧ d.cls ≠ .held
        ∧ big.launch? 2 = none ∧ launchZeros (launchBytes 1 1 64) = true ∧ big.malformed small = false ∧ big.neverFits small = true)
    ∧ (let s := { withSub one with fenced := allCores.map fun c : CoreId => (c.die, c.cluster) }
      let d := LaunchDesc.ofBytes (launchBytes 0 1 64)
      s.launch? 2 = none ∧ launchZeros (launchBytes 0 1 64) = true ∧ s.malformed d = false ∧ s.neverFits d = false ∧ d.cls = .held
        ∧ s.admitHeld d 2 thread none = none)
    ∧ (let s := withSub one
      let d := LaunchDesc.ofBytes (launchBytes 0 1 64)
      s.launch? 2 = none ∧ launchZeros (launchBytes 0 1 64) = true ∧ s.malformed d = false ∧ s.neverFits d = false ∧ d.cls = .held
        ∧ ∃ u, s.admitHeld d 2 thread none = some u)
    ∧ (let s := entering
      let t0 : Team := { loadTeam with launch := 2, at_ := .unstarted }
      let l0 := { loadLaunch 0 with lid := 2 }
      KeysApart s ∧ NobodyWaits s ∧ (∀ g ∈ s.groups, g.preempted = false ∧ g.launch ≠ 2) ∧ s.launch? 2 = some l0 ∧ l0.desc.paired = false
        ∧ l0.replay = none ∧ OnlyTeam 2 0 t0 s ∧ t0.at_ = .unstarted ∧ t0.follower = false ∧ t0.clear = true ∧ s.waitsRoom t0 = true
        ∧ (∀ x ∈ s.teams, s.waitsRoom x = true → s.sooner x t0 = false) ∧ s.coreOff l0.desc.reach ⟨3, 4, 7⟩ = false
        ∧ s.wayFor t0 ⟨3, 4, 7⟩ = some [])
    ∧ (let s := { (onG fun g => { g with wait := some (.bar 0) }) with teams := [{ loadTeam with waited := 50000 }] }
      s.twinsOf 1 0 ≠ [] ∧ s.effective 1 = .queued ∧ s.inSlice (s.reachOf 1) = true
        ∧ ∀ x ∈ s.twinsOf 1 0, x.at_ = .resident ∧ s.allStand x = true ∧ swapLimit (s.desc 1) ≤ x.waited) := by
  refine ⟨?_, ⟨by decide, by decide, List.mem_filter.2 ⟨List.mem_cons_of_mem _ List.mem_cons_self, by decide⟩, ?_, by decide, by decide, by decide⟩,
    by decide, by decide, by decide, ⟨by decide, by decide, by decide, by decide, by decide, Option.isNone_iff_eq_none.1 (by decide +kernel)⟩,
    ⟨by decide, by decide, by decide, by decide, by decide, Option.isSome_iff_exists.1 (by decide +kernel)⟩,
    ⟨⟨by decide, by decide⟩, by decide, by decide, rfl, by decide, by decide, rfl, by decide, by decide, by decide, by decide, by decide,
      by decide, by decide⟩, by decide⟩
  · rintro c (rfl | rfl | rfl)
    all_goals exact ⟨by decide, port_case _ _ (by decide) rfl, by decide, by decide⟩
  intro x hx
  have h := List.mem_filter.1 hx
  rcases List.mem_cons.1 h.1 with rfl | h1
  · exact absurd h.2 (by decide)
  · exact .inl (List.mem_singleton.1 h1)

/-- The state with another reach record, and with the core in a slice. -/
def withReach (f : Reach → Reach) (s : State) : State := { s with reaches := s.reaches.map f }
def inSliceOf (r : BitVec 4) (next : Option (BitVec 4)) : State :=
  { one with cores := [{ CoreSt.init ⟨0, 0, 0⟩ with slice := some r, next := next }] }

/-- A slice that another reach follows; grants that fill a second's share exactly, and exceed it by the least; all cores. -/
theorem witness_Slices :
    NobodyWaits one ∧ (one.core ⟨0, 0, 0⟩).slice ≠ some 0
    ∧ (let s := inSliceOf 0 none; (s.core ⟨0, 0, 0⟩).slice = some 0 ∧ (s.core ⟨0, 0, 0⟩).next = none)
    ∧ (let s := inSliceOf 0 (some 1); (s.core ⟨0, 0, 0⟩).slice = some 0 ∧ (s.core ⟨0, 0, 0⟩).next = some 1 ∧ (1 : BitVec 4) ≠ 0)
    ∧ one.reach? 1 = none
    ∧ (∀ share, share = 1024 ∨ share = 1023 →
      let s := withReach (fun x => { x with cfg := { x.cfg with sliceUs := 1000000, tshare := share } }) one
      let len := 1000 * 1000000
      let n := (s.grants.filter fun y => y.2.1 == 0 && y.2.2 == ⟨0, 0, 0⟩ && Config.wallNs s.tick < y.1 + 1000000000).length
      (∃ x, s.reach? 0 = some x ∧ x.cfg.sliceUs = 1000000 ∧ x.cfg.tshare = share)
        ∧ if share = 1024 then 1024 * (len * n + len) ≤ 10 ^ 9 * share else 10 ^ 9 * share < 1024 * (len * n + len))
    ∧ (∀ c ∈ allCores, c ∈ allCores) ∧ (∀ g ∈ one.groups, g.core ∈ allCores ∧ g.entering = false) ∧ one.reach? 0 = some loadReach := by
  refine ⟨by decide, by decide, by decide, by decide, by decide, ?_, fun _ h => h, by decide +kernel, rfl⟩
  rintro share (rfl | rfl)
  · exact ⟨⟨_, rfl, by decide, by decide⟩, by decide⟩
  · exact ⟨⟨_, rfl, by decide, by decide⟩, by decide⟩

/-- A core in allocator mode whose one team stands above free room. -/
def movable : State :=
  { one with
    g := { one.g with port := none }
    cores := [{ CoreSt.init ⟨0, 0, 0⟩ with allocator := true }]
    teams := [{ loadTeam with scrBase := 65536 }] }

/-- A reach that is halted, and the context area of a reach that a device has left there. -/
def stopped : State := withReach (fun x => { x with halted := true }) one
def areaOf (device : BitVec 8) (revision : Nat) : Context := { stopped.contextOf { loadReach with halted := true } with device := device, revision := revision }
def header (revision : Nat) : Header := { revision := revision, timex := false, root := 0, snapgen := 0 }

theorem witness_ReachesAndStorage :
    (one.reach? 1 = none ∧ one.unfinished 1 = false ∧ one.unfinished 0 = false ∧ stopped.unfinished 0 = false)
    ∧ (withReach (fun x => { x with off := allCores }) (onG fun g => { g with bound := some .exit })).unfinished 0 = true
    ∧ (let s := one
      s.reach? 0 = some loadReach ∧ (s.headerOf loadReach (header 2)).revision ≠ 1)
    ∧ (let s := { stopped with contexts := [areaOf 0 2] }
      (∃ x, s.reach? 0 = some x) ∧ ∃ c, (s.contexts.find? fun c => c.reach.id == 0) = some c ∧ c.revision ≠ 1)
    ∧ (let s := stopped
      ∃ x, s.reach? 0 = some x ∧ (s.headerOf x (header 1)).revision = 1
        ∧ (∀ c, (s.contexts.find? fun c => c.reach.id == 0) = some c → c.revision = 1 ∧ c.device = s.device) ∧ x.halted = true)
    ∧ (let s := { stopped with contexts := [areaOf 1 1] }
      ∃ x c, s.reach? 0 = some x ∧ (s.headerOf x (header 1)).revision = 1 ∧ (s.contexts.find? fun c => c.reach.id == 0) = some c
        ∧ c.revision = 1 ∧ c.device ≠ s.device)
    ∧ (let s := stopped
      (∃ x, s.reach? 0 = some x ∧ x.halted = true) ∧ (∀ c ∈ s.colls, s.reachOf c.launch ≠ 0) ∧ KeysApart s)
    ∧ (one.reach? 0 = some loadReach ∧ loadReach.halted = false)
    ∧ one.recordFits 1 { loadReach.cfg with cscr := 1, tshare := 0 } = false
    ∧ one.recordFits 0 { loadReach.cfg with oslot := 64, atile := 48, sliceUs := 100 } = true
    ∧ loadReach.subFits 3 { loadReach.cfg with cscr := 0, oslot := 0, atile := 0 } = true ∧ loadReach.subFits 3 loadReach.cfg = false
    ∧ (one.core ⟨0, 0, 0⟩).allocator = false
    ∧ (let s := movable
      (s.core ⟨0, 0, 0⟩).allocator = true ∧ Memory.wf s.mem = true ∧
        (s.teams.find? fun t => t.at_ == .resident && t.core == ⟨0, 0, 0⟩ && s.betweenRuns t && s.lowerBase t < t.scrBase)
          = some { loadTeam with scrBase := 65536 })
    ∧ ¬(2 ^ 20 % 256 = 0 ∧ 256 % 256 = 0 ∧ 2 ^ 20 + 256 ≤ one.partition 0 (.core ⟨0, 0, 0⟩)) ∧ ¬((1 : Nat) % 256 = 0)
    ∧ (¬∃ lid, some (Producer.launch 2) = some (.launch lid) ∧ one.podLive lid = true ∧ one.podReach lid = 0)
    ∧ ((2 ^ 20 - 256) % 256 = 0 ∧ 256 % 256 = 0 ∧ 2 ^ 20 - 256 + 256 ≤ one.partition 0 (.core ⟨0, 0, 0⟩))
    ∧ (∀ s ∈ [one, { (onG fun g => { g with launch := 2 }) with launches := [], away := [{ lid := 1, reach := 0, cls := .queued, noPromote := false, dev := 1 }] }],
      ∃ lid, some (Producer.launch 1) = some (.launch lid) ∧ s.podLive lid = true ∧ s.podReach lid = 0) ∧ NobodyWaits one := by
  refine ⟨by decide, by decide, ⟨rfl, by decide⟩, ⟨⟨_, rfl⟩, _, rfl, by decide⟩, ⟨_, rfl, by decide, fun _ h => absurd h (by simp [stopped, withReach, one, State.onG, State.loadWord, State.reset]), by decide⟩,
    ⟨_, _, rfl, by decide, rfl, by decide, by decide⟩, ⟨⟨_, rfl, by decide⟩, by decide, ⟨by decide, by decide⟩⟩, ⟨rfl, by decide⟩, by decide, by decide, by decide, by decide, by decide, by decide,
    by decide, by decide, ?_, by decide, fun s hs => ⟨1, rfl, ?_⟩, by decide⟩
  rintro ⟨lid, h, hl, -⟩
  simp only [Option.some.injEq, Producer.launch.injEq] at h
  subst h
  · exact absurd hl (by decide)
  · simp only [List.mem_cons, List.not_mem_nil, or_false] at hs
    rcases hs with rfl | rfl <;> decide

/-- The 32 bytes of a queue descriptor (R228): MINCLASS, QUOTA and the home die. -/
def queueBytes (cls quota home : Nat) : List Byte :=
  leBytes 5 4 ++ leBytes cls 1 ++ leBytes 0 1 ++ leBytes 0xFFFF 2 ++ leBytes quota 4 ++ leBytes 0xFFFFFFFF 4 ++ leBytes 64 8 ++ leBytes home 1 ++ leBytes 0 7

/-- The layout of R228. -/
theorem test_queue_descriptor : QueueDesc.ofBytes (queueBytes 2 7 3)
    = { qnum := 5, minClass := .spare, isDefault := false, wharf := false, reserve := 65535, quota := 7, ovfCap := 0xFFFFFFFF, ovfBase := 64, home := 3 } := by
  decide

/-- Queue descriptors at the limits; counter ranges that touch and overlap; the fifth cluster's channels; an entry that waits
unadmitted; a return of weight; a borrow; messages of device 1. -/
theorem witness_TaskEvents :
    (let bs := queueBytes 0 (2 ^ 32 - 1) 3
      let q := QueueDesc.ofBytes bs
      queueZeros bs = true ∧ 1 ≤ q.quota ∧ q.ovfBase.toNat % 64 = 0 ∧ q.qnum ≠ 0xFFFFFFFF ∧ one.queue? 0 q.qnum = none
        ∧ (q.wharf = true → (some (1 : BitVec 32)) = none))
    ∧ ¬(queueZeros (queueBytes 3 1 0) = true) ∧ ¬(1 ≤ (QueueDesc.ofBytes (queueBytes 0 0 0)).quota)
    ∧ (let s := { one with ranges := [(0, 0, 9, 1)] };
      (∃ x ∈ s.ranges, x.1 = 0 ∧ x.2.1 ≤ 20 ∧ 9 ≤ x.2.2.1 ∧ x.2.2.2 ≠ 0) ∧ ¬∃ x ∈ s.ranges, x.1 = 0 ∧ x.2.1 ≤ 20 ∧ 10 ≤ x.2.2.1 ∧ x.2.2.2 ≠ 0)
    ∧ (handleCluster 0x4F < 5 ∧ one.channel? 0x4F = none ∧ one.isLive 1 = true) ∧ ¬(handleCluster 0x50 < 5)
    ∧ (let e := entryOf weightless
      let s := { one with queues := [queue5], counters := [{ die := 0, ctr := 7, count := 0, parked := some e, unadmitted := true }] };
      (s.counter 0 7).unadmitted = true ∧ (s.counter 0 7).parked = some e ∧ (s.counter 0 7).count = 0 ∧ s.queue? e.reach e.qnum = some queue5
        ∧ queue5.desc.wharf = false ∧ e.place = .core ⟨0, 0, 0⟩ ∧ (s.level (.core ⟨0, 0, 0⟩)).length < 64
        ∧ (s.setCounter { s.counter 0 7 with parked := none, unadmitted := false }).admits queue5 e.producer = true
        ∧ (∀ x ∈ s.counters, s.couldAdmit x = true → (linkOf 0 7).toNat ≤ (linkOf x.die x.ctr).toNat) ∧ NobodyWaits s)
    ∧ one.returns = []
    ∧ (let m : Return := { reach := 0, domain := 0, units := 2, lost := true, src := none }
      let s := { one with returns := [m], roots := [root 5 3] }
      s.returns = m :: [] ∧ OnlyRoot (root 5 3) s ∧ (root 5 3).reach = m.reach ∧ (root 5 3).domain = m.domain ∧ (root 5 3).isOpen = true
        ∧ (root 5 3).remote = [] ∧ s.movedAway m.reach = false ∧ (∀ dev, m.src = some dev → dev = s.device) ∧ NobodyWaits s)
    ∧ (let m : Return := { reach := 0, domain := 0, units := 2, lost := true, src := none }
      let s := { one with returns := [m], roots := [{ root 5 3 with isOpen := false }] }
      s.returns = m :: [] ∧ (∀ y ∈ s.roots, y.reach = m.reach → y.domain = m.domain → y.isOpen = false) ∧ s.proxy? m.reach m.domain = none
        ∧ (∀ y ∈ s.rehomed, y.1 ≠ m.reach) ∧ ∀ c ∈ s.contexts, c.reach.id ≠ m.reach)
    ∧ (let s := { (onG fun g => { g with borrow := .asked }) with roots := [root 5 3] }
      s.g.borrow = .asked ∧ (∀ y ∈ s.outbox, y.grp ≠ s.g.key) ∧ OnlyRoot (root 5 3) s ∧ (root 5 3).reach = s.greach
        ∧ (root 5 3).domain = s.g.domain ∧ (root 5 3).isOpen = true ∧ s.movedAway s.greach = false ∧ s.g.qw.toNat + 2 ^ 24 < 2 ^ 48)
    ∧ (let s := { one with lost := [1] }; 1 ∈ s.lost)
    ∧ (let s := sender 0
      (1 : BitVec 8) ∉ s.lost ∧ entryWexp ⟨weightless, 0, 0, 0⟩ = 63 ∧ s.queue? 0 5 = some queue5 ∧ queue5.desc.wharf = false
        ∧ s.admits queue5 0 = true ∧ (s.level (.die queue5.desc.home)).length < 4096 ∧ NobodyWaits s)
    ∧ (let s := { one with ranges := [(0, 0, 9, 0)], counters := [{ die := 0, ctr := 9, count := 2, parked := none, unadmitted := false }] };
      (1 : BitVec 8) ∉ s.lost ∧ s.ownsCounter 0 0 9 = true ∧ 1 < (s.counter 0 9).count) :=
  ⟨by decide, by decide, by decide, by decide, by decide, by decide,
    ⟨by decide, by decide, by decide, by decide, by decide, by decide, by decide, by decide, by decide, by decide⟩, by decide,
    ⟨by decide, ⟨by decide, by decide⟩, by decide, by decide, by decide, by decide, by decide, (fun _ h => nomatch h), by decide⟩,
    ⟨by decide, List.forall_mem_singleton.2 fun _ _ => rfl, by decide, ball rfl, ball rfl⟩,
    ⟨by decide, by decide, ⟨by decide, by decide⟩, by decide, by decide, by decide, by decide, by decide⟩, by decide,
    ⟨by decide, by decide, by decide, by decide, by decide, by decide, by decide⟩, by decide⟩

/-- A core basin above its mark; and a group that waits in DEQ, with an entry in the die basin. -/
def basin (n : Nat) : State := { sender 0 with entries := (List.range n).map fun i => { entryOf weightless with stamp := i } }
def waiter : State :=
  { (sender 0).onG (fun g => { g with wait := some (.deq 0 5 60) }) with entries := [{ entryOf weightless with place := .die 0 }] }

theorem witness_BasinKeepsEntries :
    NobodyWaits (basin 1)
    ∧ (let s := basin 57
      56 < (s.level (.core ⟨0, 0, 0⟩)).length ∧ (s.level (.cluster 0 0)).length + 8 ≤ 512)
    ∧ (let s := waiter
      let x := { entryOf weightless with place := .die 0 }
      let mine := fun p => (s.level p).filter fun e => e.of s.greach 5
      (∃ y ∈ s.reaches, y.id = s.greach) ∧ s.g.ended = false ∧ s.g.wait = some (.deq s.greach 5 60) ∧ s.g.waitEnd = .pending
        ∧ (∀ g ∈ s.others, g.wait = none) ∧ mine (.core s.g.core) = []
        ∧ (mine (.cluster 0 0)).length < 8 ∧ (s.level (.cluster 0 0)).length + 8 ≤ 512
        ∧ x ∈ s.above s.greach 5 s.g.core ∧ (∀ y ∈ s.above s.greach 5 s.g.core, y = x ∨ x.before y = true)
        ∧ (s.level (.core s.g.core)).length + 8 ≤ 64 ∧ entryWexp x.e = 63) :=
  ⟨by decide, by decide +kernel, by decide⟩

/-! What engines read and move, as values. -/

def readSt : ERead → State
  | .ok s _ => s
  | .wait s => s
  | .err s _ => s
def readBytes : ERead → Option (List Byte)
  | .ok _ bs => some bs
  | _ => none
theorem read_ok {x : ERead} {bs : List Byte} (h : readBytes x = some bs) : x = .ok (readSt x) bs := by
  cases x <;> simp_all [readBytes, readSt]

def movedSt : Moved → State
  | .done s _ _ => s
  | .wait s => s
def movedCode : Moved → Option Nat
  | .done _ c _ => some c
  | .wait _ => none
def movedCount : Moved → Nat
  | .done _ _ n => n
  | .wait _ => 0
theorem moved_ok {x : Moved} (h : movedCode x = some 0) : x = .done (movedSt x) 0 (movedCount x) := by
  cases x <;> simp_all [movedCode, movedSt, movedCount]

def planSt : Plan → State
  | .moves s _ => s
  | .wait s => s
  | .err s _ => s
def planMoves : Plan → Option (List Move)
  | .moves _ ms => some ms
  | _ => none
theorem plan_ok {x : Plan} {ms : List Move} (h : planMoves x = some ms) : x = .moves (planSt x) ms := by
  cases x <;> simp_all [planMoves, planSt]

def collSt : CRead → State
  | .ok s _ => s
  | .wait s => s
  | .err s _ => s
def collDesc : CRead → Option CDesc
  | .ok _ d => some d
  | _ => none
theorem coll_ok {x : CRead} {d : CDesc} (h : collDesc x = some d) : x = .ok (collSt x) d := by
  cases x <;> simp_all [collDesc, collSt]

/-- s5 waits for operation 9. -/
def waiting9 : PendS := { reg := 5, op := 9, left := 0, at_ := 0 }

/-- A one-shot between scratchpad bytes. -/
def shot (w n : Nat) : OneShot :=
  { id := 9, grp := 1, launch := 1, team := 0, core := ⟨0, 0, 0⟩, src := padAddr, dst := padAddr + 8, sstride := 0, dstride := 0, rowBytes := w, rows := n,
    tug := false, wrote := [] }
def shooting (o : OneShot) : State := { (onG fun g => { g with pendS := [waiting9] }) with oneShots := [o] }

/-- Two members of a collective, on dies 0 and 1: descriptors at bytes 0 and 64 of the scratchpad of die 0, tables at byte 128, sources
at 256 and 260, destinations at 264 and 268, one INT32 element each. -/
def dieAddr : Word := 0x0200000000000000
def dieKey : Nat := scratchKey (.die 0) 0 0
def member (die op : Nat) : Coll :=
  { grp := 1, op := op, launch := 1, team := die, core := ⟨die, 0, 0⟩, kind := .allReduce, tag := 0, desc := dieAddr + BitVec.ofNat 64 (64 * die)
    wrote := [] }
def cdescBytes (die : Nat) : List Byte :=
  leBytes (dieAddr.toNat + 256 + 4 * die) 8 ++ leBytes (dieAddr.toNat + 264 + 4 * die) 8 ++ leBytes 1 4 ++ [2, 0, 0, 0]
    ++ leBytes (dieAddr.toNat + 128) 8 ++ leBytes 2 2 ++ List.replicate 30 0
def cdesc (die : Nat) : CDesc :=
  { src := dieAddr + BitVec.ofNat 64 (256 + 4 * die), dst := dieAddr + BitVec.ofNat 64 (264 + 4 * die), count := 1, type := 2, redop := 0, root := 0
    members := [(0, 0), (0, 1)], same := leBytes 1 4 ++ [2, 0, 0, 0] ++ leBytes 2 2 ++ [0, 0] }
def collecting : State :=
  { (withReach (fun x => { x with cfg := { x.cfg with dscr := 1 } }) (onG fun g => { g with pendS := [waiting9] })) with
    teams := [loadTeam, { loadTeam with idx := 1, core := ⟨1, 0, 0⟩ }]
    colls := [member 0 9, member 1 10]
    mem := memWrite one.mem dieKey (cdescBytes 0 ++ cdescBytes 1 ++ leBytes 0 8 ++ leBytes 1 8) }

theorem four {P : Nat → Prop} (h0 : P 0) (h1 : P 1) (h2 : P 2) (h3 : P 3) : ∀ i, i < 4 * 1 → P i
  | 0, _ => h0
  | 1, _ => h1
  | 2, _ => h2
  | 3, _ => h3

theorem coll_at (die off : Nat) (acc : Acc)
    (h : ∀ i, i < 4 → collecting.engineHit (collecting.collView (member die (9 + die))) acc (dieAddr + BitVec.ofNat 64 off + BitVec.ofNat 64 i)
      = .ok (.pad (.die 0) (dieKey + off + i)) (padLoc (dieKey + off + i))) :
    ∀ i, i < 4 * 1 → ∃ q, collecting.engineHit (collecting.collView (member die (9 + die))) acc (dieAddr + BitVec.ofNat 64 off + BitVec.ofNat 64 i)
      = .ok q (padLoc (dieKey + off + i)) := fun i hi => ⟨_, h i (by omega)⟩

theorem coll_wf : Memory.wf collecting.mem = true := by decide +kernel
theorem coll_windows : ∀ a ∈ [(cdesc 0).src, (cdesc 0).dst, (cdesc 1).src, (cdesc 1).dst], collWindow a = true :=
  List.all_eq_true.1 rfl
/-- The state after the first member's read. -/
def collRead : State := collSt (collecting.readColl (member 0 9))

theorem coll_reads : collDesc (collecting.readColl (member 0 9)) = some (cdesc 0) ∧ collDesc (collRead.readColl (member 1 10)) = some (cdesc 1) := by
  decide +kernel
theorem coll_src0 : ∀ i, i < 4 * 1 → ∃ q, collecting.engineHit (collecting.collView (member 0 9)) .eread (dieAddr + BitVec.ofNat 64 256 + BitVec.ofNat 64 i)
      = .ok q (padLoc (dieKey + 256 + i)) := coll_at 0 256 .eread (by decide)
theorem coll_src1 : ∀ i, i < 4 * 1 → ∃ q, collecting.engineHit (collecting.collView (member 1 10)) .eread (dieAddr + BitVec.ofNat 64 260 + BitVec.ofNat 64 i)
      = .ok q (padLoc (dieKey + 260 + i)) := coll_at 1 260 .eread (by decide)
theorem coll_dst0 : ∀ i, i < 4 * 1 → ∃ q, collecting.engineHit (collecting.collView (member 0 9)) .ewrite (dieAddr + BitVec.ofNat 64 264 + BitVec.ofNat 64 i)
      = .ok q (padLoc (dieKey + 264 + i)) := coll_at 0 264 .ewrite (by decide)
theorem coll_dst1 : ∀ i, i < 4 * 1 → ∃ q, collecting.engineHit (collecting.collView (member 1 10)) .ewrite (dieAddr + BitVec.ofNat 64 268 + BitVec.ofNat 64 i)
      = .ok q (padLoc (dieKey + 268 + i)) := coll_at 1 268 .ewrite (by decide)
theorem coll_sound : ∀ i, i < 4 * 1 → collecting.poisoned (dieKey + 256 + i) 1 = false ∧ collecting.poisoned (dieKey + 260 + i) 1 = false :=
  fun _ _ => ⟨rfl, rfl⟩

theorem witness_Copies :
    (∀ w n, (w, n) = (2 ^ 32, 1) ∨ (w, n) = (0, 1) →
      let s := shooting (shot w n)
      Awaits waiting9 s ∧ NobodyWaits s ∧ (s.oneShots.find? fun x => x.id == waiting9.op) = some (shot w n)
        ∧ s.enginesRun (shot w n).launch (shot w n).core = true ∧ (2 ^ 32 ≤ (shot w n).rowBytes * (shot w n).rows ∨ ((shot w n).rowBytes = 0 ∧ (shot w n).rows ≠ 0)))
    ∧ (let o := shot 8 1
      let s := shooting o
      let v := s.oneShotView o
      Awaits waiting9 s ∧ NobodyWaits s ∧ (s.oneShots.find? fun x => x.id == waiting9.op) = some o ∧ s.enginesRun o.launch o.core = true ∧ o.rows = 1
        ∧ o.rowBytes = 8 ∧ o.wrote = [] ∧ (padKey + 8 ≤ padKey + 8 ∨ padKey + 8 + 8 ≤ padKey) ∧ Memory.wf s.mem = true
        ∧ ∀ k, k < 8 → (∃ q, s.engineHit v .eread (o.src + BitVec.ofNat 64 k) = .ok q (padLoc (padKey + k)))
          ∧ s.poisoned (padKey + k) 1 = false ∧ ∃ q, s.engineHit v .ewrite (o.dst + BitVec.ofNat 64 k) = .ok q (padLoc (padKey + 8 + k)))
    ∧ (let s := collecting
      let c1 := member 0 9
      let c2 := member 1 10
      let here := fun (c : Coll) => (s.device.toNat, c.core.die)
      let at_ := fun (c : Coll) acc (a : Word) k => ∀ i, i < 4 * 1 →
        ∃ q, s.engineHit (s.collView c) acc (a + BitVec.ofNat 64 i) = .ok q (padLoc (k + i))
      Awaits waiting9 s ∧ NobodyWaits s ∧ s.colls.filter (fun c => c.launch == c1.launch && c.tag == c1.tag) = [c1, c2]
        ∧ s.readColl c1 = .ok collRead (cdesc 0) ∧ collRead.readColl c2 = .ok (collSt (collRead.readColl c2)) (cdesc 1) ∧ c1.kind = .allReduce ∧ c2.kind = .allReduce ∧ (cdesc 0).same = (cdesc 1).same
        ∧ (cdesc 0).members = [here c1, here c2] ∧ (cdesc 1).members = (cdesc 0).members ∧ c1.core.die ≠ c2.core.die
        ∧ (cdesc 1).count = (cdesc 0).count ∧ (cdesc 0).type = 2 ∧ (cdesc 1).type = 2 ∧ (cdesc 0).redop = 0 ∧ (cdesc 1).redop = 0
        ∧ s.device ∉ s.lost ∧ s.device ∉ s.recovering ∧ (cdesc 0).count < 2 ^ 32 ∧ waiting9.op = c1.op ∧ c2.op ≠ c1.op ∧ (∀ q ∈ s.g.pendS, q.op ≠ c2.op) ∧ c1.wrote = []
        ∧ c2.wrote = []
        ∧ (∀ a ∈ [(cdesc 0).src, (cdesc 0).dst, (cdesc 1).src, (cdesc 1).dst], collWindow a = true) ∧ Memory.wf s.mem = true
        ∧ at_ c1 .eread (cdesc 0).src (dieKey + 256) ∧ at_ c2 .eread (cdesc 1).src (dieKey + 260) ∧ at_ c1 .ewrite (cdesc 0).dst (dieKey + 264)
        ∧ at_ c2 .ewrite (cdesc 1).dst (dieKey + 268)
        ∧ (∀ x ∈ [(256, 264), (256, 268), (260, 264), (260, 268), (264, 268)], dieKey + x.1 + 4 * 1 ≤ dieKey + x.2)
        ∧ ∀ i, i < 4 * 1 → s.poisoned (dieKey + 256 + i) 1 = false ∧ s.poisoned (dieKey + 260 + i) 1 = false) := by
  refine ⟨?_, ⟨⟨by decide, by decide⟩, by decide, by decide, by decide, by decide, by decide, by decide, by decide, by decide, ?_⟩,
    ⟨⟨by decide, by decide⟩, by decide, by decide, coll_ok coll_reads.1, coll_ok coll_reads.2, by decide, by decide, by decide,
      by decide, by decide, by decide, by decide, rfl, rfl, rfl, rfl, by decide, by decide, by decide, rfl, by decide, by decide, rfl, rfl,
      coll_windows, coll_wf, coll_src0, coll_src1, coll_dst0, coll_dst1, by decide, coll_sound⟩⟩
  · rintro w n (h | h) <;> cases h
    all_goals exact ⟨⟨by decide, by decide⟩, by decide, by decide, by decide, by decide⟩
  · have h : ∀ k, k < 8 →
        (shooting (shot 8 1)).engineHit ((shooting (shot 8 1)).oneShotView (shot 8 1)) .eread (padAddr + BitVec.ofNat 64 k)
          = .ok (.pad (.core ⟨0, 0, 0⟩) (padKey + k)) (padLoc (padKey + k))
        ∧ (shooting (shot 8 1)).poisoned (padKey + k) 1 = false
        ∧ (shooting (shot 8 1)).engineHit ((shooting (shot 8 1)).oneShotView (shot 8 1)) .ewrite (padAddr + 8 + BitVec.ofNat 64 k)
          = .ok (.pad (.core ⟨0, 0, 0⟩) (padKey + 8 + k)) (padLoc (padKey + 8 + k)) := by decide
    exact fun k hk => ⟨⟨_, (h k hk).1⟩, (h k hk).2.1, _, (h k hk).2.2⟩

/-! Channel records: one that copies 4 bytes of the core region to the next 4, and one whose operation is not defined. -/

def recBytes (op : BitVec 8) : List Byte :=
  List.replicate 8 0 ++ [1, op, 0, 0] ++ leBytes 4 4 ++ leBytes (padAddr.toNat + 64) 8 ++ leBytes (padAddr.toNat + 68) 8 ++ List.replicate 32 0
def rec4 (op : BitVec 8) : Rec :=
  { grp := 1, num := 4, addr := padAddr.toNat, bytes := recBytes op, team := 0, core := ⟨0, 0, 0⟩, wrote := [], stage := none }
def tail0 : CTail := { grp := 1, op := 9, tail := padAddr, num := none, refused := false, team := 0, core := ⟨0, 0, 0⟩ }
/-- A channel that walks to the record, and one that runs it. -/
def walker : Channel := { chan 3 with head := some padAddr, pos := padAddr, walking := true, ctails := [tail0] }
def runner (op : BitVec 8) : Channel := { chan 3 with issued := 4, running := [rec4 op] }
def taking (valid : BitVec 8) : State := { withPad 0 (List.replicate 8 0 ++ [valid]) one with channels := [walker] }
def running (op : BitVec 8) : State := { withPad 0 (recBytes op) one with channels := [runner op] }
def runView (op : BitVec 8) : View := (running op).recView (runner op) (rec4 op)
def runPlan (op : BitVec 8) : Plan := (running op).plan (runView op) 1 (recBytes op)
def runMoves : Moved := (planSt (runPlan 1)).moves (runView 1) 1 ((planMoves (runPlan 1)).getD [])
def runClear (s : State) (op : BitVec 8) : Moved := s.moves (runView op) 1 (litMoves (BitVec.ofNat 64 (rec4 op).addr + 8) [0])

theorem witness_Records :
    (∀ valid : BitVec 8, valid = 1 ∨ valid = 0 →
      let s := taking valid
      s.channel? walker.handle = some walker ∧ s.enginesRun walker.launch tail0.core = true ∧ NobodyWaits s ∧ walker.stopped = none
        ∧ walker.seeking = some tail0 ∧ walker.walking = true
        ∧ s.tugLoad (handleDie walker.handle) (handleCluster walker.handle) (walker.handle.getLsbD 3) < 32 ∧ walker.head ≠ none ∧ walker.pos ≠ 0
        ∧ walker.pos.toNat % 64 = 0
        ∧ (∃ u, s.engineRead (s.opView (channelTug walker.handle) (.op tail0.op) tail0.grp walker.launch tail0.team tail0.core) walker.launch 64 walker.pos
          = .ok u (List.replicate 8 0 ++ [valid] ++ List.replicate 55 0))
        ∧ ((List.replicate 8 0 ++ [valid] ++ List.replicate 55 0).getD 8 0).getLsbD 0 = (valid == 1))
    ∧ (∀ op : BitVec 8, op = 1 ∨ op = 7 →
      let s := running op
      s.channel? (runner op).handle = some (runner op) ∧ s.enginesRun (runner op).launch (rec4 op).core = true ∧ NobodyWaits s ∧ (runner op).stopped = none ∧ (rec4 op).stage = none
        ∧ rec4 op ∈ (runner op).running ∧ (∀ x ∈ (runner op).running, x.num = (rec4 op).num → x = rec4 op) ∧ byteAt (rec4 op).bytes 10 = 0
        ∧ byteAt (rec4 op).bytes 9 ≠ 0
        ∧ ∃ z, s.engineRead (s.recView (runner op) (rec4 op)) (runner op).launch 64 (BitVec.ofNat 64 (rec4 op).addr)
          = .ok z (rec4 op).bytes)
    ∧ (∃ u ms v n w m, runPlan 1 = .moves u ms ∧ u.moves (runView 1) 1 ms (rec4 1).wrote = .done v 0 n ∧ runClear v 1 = .done w 0 m
      ∧ (rec4 1).num = (runner 1).seq + 1 ∧ (runner 1).done = [])
    ∧ ∃ u w m, runPlan 7 = .err u 5 ∧ (5 : Nat) ≠ 0 ∧ runClear u 7 = .done w 0 m := by
  refine ⟨?_, ?_, ⟨planSt (runPlan 1), (planMoves (runPlan 1)).getD [], movedSt runMoves, movedCount runMoves, movedSt (runClear (movedSt runMoves) 1),
    movedCount (runClear (movedSt runMoves) 1), plan_ok ?_, moved_ok ?_, moved_ok ?_, by decide, by decide⟩,
    planSt (runPlan 7), movedSt (runClear (planSt (runPlan 7)) 7), movedCount (runClear (planSt (runPlan 7)) 7), rfl, by decide, moved_ok ?_⟩
  · rintro v (rfl | rfl)
    all_goals exact ⟨by decide, by decide, by decide, by decide, by decide, by decide, by decide, by decide, by decide, by decide,
      ⟨_, read_ok (by decide +kernel)⟩, by decide⟩
  · rintro op (rfl | rfl)
    all_goals exact ⟨rfl, rfl, by decide, rfl, rfl, by decide, by decide, by decide, by decide, _, read_ok (by decide +kernel)⟩
  · decide +kernel
  · decide +kernel
  · decide +kernel
  · decide +kernel


/-! A conversion of the three elements of a row that stands in main memory, one slab; its steps in turn. -/

def row3 : Desc := { desc3 with baseA := 0x40080, dir := 0x40100 }
def conv0 : Conv :=
  { id := 9, grp := 1, launch := 1, team := 0, core := ⟨0, 0, 0⟩, die := 0, attach := 0x40040, new := 0x400C0, tag := 1, desc := row3
    running := false, slab := 0, slabs := 0, attempts := 0, dirty := [], copied := false }
/-- The descriptor with the new side, and the conversion that has begun. -/
def begun : Desc := row3.begin_ 0x400C0 1
def conv1 : Conv := { conv0 with desc := begun, running := true, slabs := 1 }
def converting (c : Conv) (d : Desc) : State :=
  { (onG fun g => { g with pendS := [waiting9] }) with
    convs := [c], mem := memWrite one.mem (globalKey 0 0x100040) (descBytes d) }
def convSt : State := converting conv0 row3
def convV : View := convSt.convView conv0
def readDesc : ERead := convSt.engineRead convV 1 64 0x40040
def putDesc : Moved := (readSt readDesc).moves convV 1 (litMoves 0x40040 (descBytes begun))
def putDir : Moved := (movedSt putDesc).moves convV 1 (litMoves 0x40100 (List.replicate 8 0))

theorem conv_begin : readBytes readDesc = some (descBytes row3) ∧ convError conv0 (descBytes row3) = none ∧ movedCode putDesc = some 0
    ∧ movedCode putDir = some 0 ∧ (descOf (descBytes row3)).begin_ conv0.new conv0.tag = begun := by decide +kernel

/-- The state with a running conversion; its copy; the bitmap byte of the slab, and its commit; and the end. -/
def slabSt (c : Conv) : State := converting c begun
def slabCopy : Moved := State.copySlab ((slabSt conv1).onConv 9 fun c => { c with dirty := c.dirty.filter (· != c.slab) }) conv1
def conv2 : Conv := { conv1 with copied := true }
def slabByte : ERead := (slabSt conv2).engineRead ((slabSt conv2).convView conv2) 1 1 (BitVec.ofNat 64 (conv2.desc.dir + conv2.slab / 8))
def slabMark : Moved :=
  (readSt slabByte).moves ((slabSt conv2).convView conv2) 1
    (litMoves (BitVec.ofNat 64 (conv2.desc.dir + conv2.slab / 8)) [0 ||| BitVec.ofNat 8 (2 ^ (conv2.slab % 8))])
def conv3 : Conv := { conv2 with slab := 1 }
def lastPut : Moved := (slabSt conv3).moves ((slabSt conv3).convView conv3) 1 (litMoves 0x40040 (descBytes conv3.desc.finish))

theorem conv_steps : movedCode slabCopy = some 0 ∧ readBytes slabByte = some [0] ∧ movedCode slabMark = some 0 ∧ movedCode lastPut = some 0 := by
  decide +kernel

/-- A K-step of a one-step command on a clean team; a ring entry for A that stands full, its credit word empty. -/
def cmd1 (word : Word) (ring : Option (Word × Word)) : MCmd :=
  { ticket := 1, word := word, fmtA := 0, fmtB := 0, ring := ring, step := 0, acquired := 0, waits := none, granted := false }
def ring1 : Word × Word := (BitVec.ofNat 64 (256 + 2 ^ 32), 1)
def kTeam (c : MCmd) : Team := { holder 0 with queue := [c] }
def kState (c : MCmd) (full : List Nat) : State := { one with teams := [kTeam c], full := full }

theorem no_poison {s : State} (h : s.poison = []) (k n : Nat) : s.poisoned k n = false := by simp [State.poisoned, h]

theorem step_clean {s : State} (h : s.poison = []) (t : Team) (c : MCmd) (n : Nat) : s.stepPoison t c n = [] := by
  simp [State.stepPoison, no_poison h]

theorem witness_EngineSteps :
    (let c := conv0
      let s := convSt
      s.conv? c.id = some c ∧ s.enginesRun c.launch c.core = true ∧ c.running = false ∧ (s.convs.filter fun x => x.die == c.die && x.running).length < 8
        ∧ (s.convs.find? fun x => x.die == c.die && !x.running) = some c ∧ c.attach % 64 = 0 ∧ c.new % 64 = 0 ∧ c.attach < 2 ^ 56 ∧ c.new < 2 ^ 56
        ∧ (∃ u v n w m, s.engineRead (s.convView c) c.launch 64 (BitVec.ofNat 64 c.attach) = .ok u (descBytes row3)
          ∧ convError c (descBytes row3) = none
          ∧ u.moves (s.convView c) c.launch (litMoves (BitVec.ofNat 64 c.attach) (descBytes begun)) = .done v 0 n
          ∧ v.moves (s.convView c) c.launch (litMoves (BitVec.ofNat 64 begun.dir) (List.replicate ((begun.slabs + 63) / 64 * 8) 0)) = .done w 0 m)
        ∧ (descOf (descBytes row3)).begin_ c.new c.tag = begun)
    ∧ (let c := conv1
      let s := slabSt c
      s.conv? c.id = some c ∧ s.enginesRun c.launch c.core = true ∧ c.running = true ∧ c.slab < c.slabs ∧ c.copied = false
        ∧ ∃ u n, State.copySlab (s.onConv c.id fun c => { c with dirty := c.dirty.filter (· != c.slab) }) c = .done u 0 n)
    ∧ (let c := { conv2 with dirty := [0] }
      let s := slabSt c
      s.conv? c.id = some c ∧ s.enginesRun c.launch c.core = true ∧ c.running = true ∧ c.slab < c.slabs ∧ c.copied = true ∧ c.slab ∈ c.dirty)
    ∧ (let c := conv2
      let s := slabSt c
      s.conv? c.id = some c ∧ s.enginesRun c.launch c.core = true ∧ c.running = true ∧ c.slab < c.slabs ∧ c.copied = true ∧ c.slab ∉ c.dirty
        ∧ ∃ u v n, s.engineRead (s.convView c) c.launch 1 (BitVec.ofNat 64 (c.desc.dir + c.slab / 8)) = .ok u [0]
          ∧ u.moves (s.convView c) c.launch (litMoves (BitVec.ofNat 64 (c.desc.dir + c.slab / 8)) [0 ||| BitVec.ofNat 8 (2 ^ (c.slab % 8))]) = .done v 0 n)
    ∧ (let c := conv3
      let s := slabSt c
      s.conv? c.id = some c ∧ s.enginesRun c.launch c.core = true ∧ c.running = true ∧ c.slabs ≤ c.slab ∧ Awaits waiting9 s ∧ waiting9.op = c.id
        ∧ NobodyWaits s ∧ ∃ u n, s.moves (s.convView c) c.launch (litMoves (BitVec.ofNat 64 c.attach) (descBytes c.desc.finish)) = .done u 0 n)
    ∧ (let c := cmd1 word1 none
      let s := kState c []
      OnlyTeam 1 0 (kTeam c) s ∧ (kTeam c).queue = c :: [] ∧ s.matrixRuns (kTeam c) = true ∧ Memory.wf s.mem = true ∧ c.ring = none
        ∧ ¬(c.step = 0 ∧ c.word.getLsbD 38 = true) ∧ s.stepPoison (kTeam c) c c.step = [] ∧ NobodyWaits s ∧ s.liveOf (kTeam c) ≠ [])
    ∧ (let c := cmd1 wordRing (some ring1)
      let s := kState c []
      OnlyTeam 1 0 (kTeam c) s ∧ (kTeam c).queue = c :: [] ∧ s.matrixRuns (kTeam c) = true ∧ Memory.wf s.mem = true ∧ c.ring = some ring1
        ∧ 0 < cmdSteps c.word ∧ c.granted = false ∧ s.regionKey (kTeam c) + ringEntry ring1 c.fmtA c.fmtB 0 ∉ s.full ∧ NobodyWaits s)
    ∧ ∀ served : Bool,
      let c := { cmd1 wordRing (some ring1) with granted := served }
      let s := kState c (if served then [] else [padKey + 256])
      let e := s.regionKey (kTeam c) + ringEntry ring1 c.fmtA c.fmtB 0
      OnlyTeam 1 0 (kTeam c) s ∧ (kTeam c).queue = c :: [] ∧ s.matrixRuns (kTeam c) = true ∧ Memory.wf s.mem = true ∧ c.ring = some ring1
        ∧ ringA ring1 = true ∧ ringB ring1 = false ∧ c.acquired = 0 ∧ 0 < cmdSteps c.word
        ∧ (∀ k, k < 0 → c.step ≤ k → cmdA c.word k ≠ cmdA c.word 0 ∧ cmdB c.word k ≠ cmdA c.word 0 ∧ cmdA c.word 0 ∉ scaleSlots c)
        ∧ (c.granted = false → e ∈ s.full) ∧ e + 8 ∉ s.full ∧ NobodyWaits s
        ∧ e + 64 + tileBytes c.fmtA ≤ slotKey (kTeam c).core (cmdA c.word 0) 0
        ∧ ∀ k, k < tileBytes c.fmtA → s.poisoned (e + 64 + k) 1 = false := by
  have hb := conv_begin
  have hs := conv_steps
  refine ⟨⟨by decide, by decide, by decide, by decide, by decide, by decide, by decide, by decide, by decide,
      ⟨readSt readDesc, movedSt putDesc, movedCount putDesc, movedSt putDir, movedCount putDir, read_ok hb.1, hb.2.1, moved_ok hb.2.2.1, moved_ok hb.2.2.2.1⟩,
      hb.2.2.2.2⟩,
    ⟨by decide, by decide, by decide, by decide, by decide, _, _, moved_ok hs.1⟩, by decide,
    ⟨by decide, by decide, by decide, by decide, by decide, by decide, readSt slabByte, _, _, read_ok hs.2.1, moved_ok hs.2.2.1⟩,
    ⟨by decide, by decide, by decide, by decide, ⟨by decide, by decide⟩, by decide, by decide, _, _, moved_ok hs.2.2.2⟩,
    ⟨rfl, rfl, by decide, by decide, by decide, by decide, step_clean rfl _ _ _, by decide, List.cons_ne_nil _ _⟩,
    ⟨rfl, rfl, by decide, by decide, by decide, by decide, by decide, by decide, by decide⟩, ?_⟩
  rintro (_ | _)
  all_goals exact ⟨rfl, rfl, by decide, by decide, rfl, by decide, by decide, rfl, by decide, fun _ h => absurd h (Nat.not_lt_zero _),
    by decide, by decide, by decide, by decide, fun _ _ => no_poison rfl _ _⟩

theorem witness_RecoveryEvents :
    (let s := onG fun g => { g with watchdog := 1000000000 }; s.g.ended = false ∧ s.g.halted = none ∧ s.wdLimit ≤ s.g.watchdog ∧ s.g.twin = none)
    ∧ (∀ g ∈ one.groups, g.gid = 0 → g.ended = true)
    ∧ (let s := onG fun g => { g with halted := some .frozen }; s.g.ended = false ∧ s.g.key ≠ 0 ∧ s.g.halted = some .frozen)
    ∧ (let s := onG fun g => { g with halted := some .trap }; s.g.ended = false ∧ s.g.key ≠ 0 ∧ s.g.halted = some .trap ∧ s.g.twin = none)
    ∧ (let s := two.onG fun g => { g with halted := some .trap }
      s.g.ended = false ∧ s.g.halted ≠ none ∧ s.g.twin = none ∧ s.g.holds = [] ∧ (s.core s.g.core).claims = [] ∧ s.teamOf? s.g = some loadTeam
        ∧ loadTeam.bars = [] ∧ mate ∈ s.others ∧ mate.ended = false ∧ loadTeam.holds mate = true ∧ ∀ y ∈ s.others, y.key ≠ s.g.key)
    ∧ (let s := { one with fenced := [(3, 4)] }; (3, 4) ∈ s.fenced)
    ∧ ((0, 0) ∉ one.fenced ∧ one.testEvery ≠ 0 ∧ ∀ y ∈ one.teams, y.at_ = .resident → y.core.die = 0 ∧ y.core.cluster = 0 → one.effective y.launch ≠ .held)
    ∧ (let free := fun (s : State) (dev : BitVec 8) (ms : Nat) => dev ≠ s.device ∧ ms ≤ 500 ∧ dev ∉ s.lost ∧ dev ∉ s.recovering
      free one 1 500 ∧ 500 < 501 ∧ (1 : BitVec 8) ≠ one.device ∧ ¬free { one with lost := [1] } 1 500)
    ∧ ((0 : BitVec 8) = one.device ∧ 500 ≤ 500 ∧ ¬((0 : BitVec 8) = one.device ∧ one.apart = true) ∧ { one with apart := true }.apart = true)
    ∧ (1 : BitVec 8) ∉ one.recovering
    ∧ (let s := { one with recovering := [1] }; 1 ∈ s.recovering ∧ ∀ g ∈ s.groups, g.drains = [] ∧ g.side = [] ∧ g.heldOps = []) :=
  ⟨by decide, by decide, by decide, by decide,
    ⟨by decide, by decide, by decide, by decide, by decide, by decide, by decide, List.mem_cons_self, by decide, by decide, by decide⟩,
    by decide, by decide, by decide, by decide, by decide, by decide⟩

theorem witness_DebugRequests :
    (one.isLive 2 = false ∧ one.isLive 1 = true)
    ∧ (0x40001 : Word).toNat % 4 ≠ 0
    ∧ ((0x7FFFC : Word).toNat % 4 = 0 ∧ (0x7FFFC : Word).toNat < 2 ^ 56
      ∧ ([Acc.fetch, .read, .rmw].findSome? fun acc => (one.lookHit 0 0 acc (0x7FFFC : Word).toNat).loc?)
        = some { key := 0x13FFFC, cipher := some 0, foreign := false, pte := some 0xC0008, va := some 0x7FFFC }
      ∧ Memory.wf one.mem = true)
    ∧ (∀ x ∈ one.groups, x.gid = 0 → x.ended = true ∨ x.key = 0)
    ∧ (one.g.ended = false ∧ one.g.key ≠ 0 ∧ ¬(one.g.halted ≠ none ∨ one.g.dbgStopped = true ∨ one.g.preempted = true ∨ one.g.spilled = true))
    ∧ (∀ f : Group → Group, f ∈ [fun g : Group => { g with halted := some .trap }, fun g => { g with dbgHalt := true },
        fun g => { g with preempted := true }, fun g => { g with spilled := true }] →
      let s := onG f
      s.g.ended = false ∧ s.g.key ≠ 0 ∧ (s.g.halted ≠ none ∨ s.g.dbgStopped = true ∨ s.g.preempted = true ∨ s.g.spilled = true) ∧ s.g.twin = none)
    ∧ (let s := { one with teams := [holder 1] }
      s.team? 1 0 = some (holder 1) ∧ (holder 1).at_ = .resident ∧ 47 ∉ (holder 1).tiles ∧ 0 ∈ (holder 1).tiles
        ∧ ∃ c ∈ (holder 1).queue, cmdTile c.word = 0)
    ∧ (let s := { one with teams := [{ holder 0 with at_ := .swapped }] }
      s.team? 1 0 = some { holder 0 with at_ := .swapped } ∧ 0 ∈ (holder 0).tiles ∧ ∀ c ∈ (holder 0).queue, cmdTile c.word ≠ 0)
    ∧ one.team? 1 1 = none
    ∧ ((2 : BitVec 32) ≠ 0 ∧ (2 : BitVec 32) ≠ 0xFFFFFFFF ∧ (withSub one).launch? 2 = none ∧ launchZeros (launchBytes 1 1 64) = true
      ∧ (withSub one).malformed (LaunchDesc.ofBytes (launchBytes 1 1 64)) = false
      ∧ (withSub one).neverFits (LaunchDesc.ofBytes (launchBytes 1 1 64)) = false ∧ (LaunchDesc.ofBytes (launchBytes 1 1 64)).cls ≠ .held)
    ∧ (one.traceOf 3 4).lost = 0 := by
  refine ⟨by decide, by decide, ⟨by decide, by decide, by decide +kernel, by decide⟩, by decide, by decide, ?_, by decide, by decide, by decide, by decide, by decide⟩
  intro f hf
  simp only [List.mem_cons, List.not_mem_nil, or_false] at hf
  rcases hf with rfl | rfl | rfl | rfl <;> decide

/-- A call of the launch: its block stands at VA 0x40080 and names the first word of the core region, which is bound to the wharf. -/
def calling : State :=
  { one with
    queues := [{ queue5 with desc := { queue5.desc with wharf := true } }]
    calls := [{ entryOf weightless with e := ⟨weightless, 0x40080, 0, 0⟩ }]
    bindings := [{ granule := padKey, prod := .wharf, reach := 0 }]
    mem := memWrite one.mem (globalKey 0 0x100088) (leBytes padAddr.toNat 8) }

/-- A message to device 2; a region of 16 bytes at VA 0x40080, whose last 8 bytes are moved. -/
def region : State := withReach (fun x => { x with regions := [(0x40080, 16)] }) one
def pageLoc (i : Nat) : Loc := { key := 0x100000 + i, cipher := some 0, foreign := false, pte := some 0xC0008, va := some (0x40000 + i) }

theorem witness_FabricEvents :
    ¬((12 : BitVec 4).toNat < 12 ∧ (12 : BitVec 4) ∉ one.linksDown)
    ∧ (∀ k, k = 14 ∨ k = 15 →
      let s := { one with replays := [((11 : BitVec 4), k)] }
      ((11 : BitVec 4).toNat < 12 ∧ (11 : BitVec 4) ∉ s.linksDown) ∧ ((s.replays.find? fun x => x.1 == 11).map Prod.snd).getD 0 + 1 = k + 1
        ∧ if k = 14 then k + 1 < 16 else 16 ≤ k + 1)
    ∧ (12 ≤ (12 : BitVec 4).toNat ∧ (11 : BitVec 4).toNat < 12 ∧ one.routesNew = [])
    ∧ (let s : State := {
        one with outbox := [{ tag := 1, dest := 2, cls := 2, msg := .statusReply 0 0, grp := 0, op := 0, count := 1, flying := true }] }
      (∃ m ∈ s.outbox, m.dest = 2 ∧ m.cls = 2 ∧ m.flying = true) ∧ ∀ m ∈ s.outbox, m.dest = 2 → m.cls = 5 → m.flying = false)
    ∧ (Memory.wf one.mem = true ∧ memRead one.mem (globalKey one.device.toNat (0x40000 + 8 * 0)) 8 ≠ (1 : Word).toNat)
    ∧ (one.reach? 1 = none ∧ one.reach? 0 = some loadReach)
    ∧ (let s := { one with lost := [1] }; (1 : BitVec 8) ∈ s.lost ∧ (2 : BitVec 8) ∉ s.lost)
    ∧ (withReach (fun x => { x with fabricKey := none }) one).hears 0 (.read 0 0 8) = false
    ∧ (loadReach.fabricKey ≠ none ∧ (1 : BitVec 8) ∉ one.lost ∧ one.poisoned (one.homeLoc 0 0 0).key 8 = false)
    ∧ ((∀ x y, one.reach? 0 = some x → x.regions[0]? = some y → y.2 < 0 + [(0 : Byte)].length)
      ∧ ∀ x y, region.reach? 0 = some x → x.regions[0]? = some y → y.2 < 16 + [(0 : Byte)].length)
    ∧ (let bs : List Byte := [1, 2, 3, 4, 5, 6, 7, 8]
      let ls := (List.range 8).map fun i => pageLoc (0x88 + i)
      region.regionVa 0 0 8 bs.length = some 0x40088 ∧ region.dmaLocs 0 .ewrite 0x40088 bs.length = some ls
        ∧ (∀ i l, ls[i]? = some l → l.key = 0x100088 + i ∧ ∀ p, l.pte = some p → globalKey 0 p < 0x100088 ∨ 0x100088 + bs.length ≤ globalKey 0 p)
        ∧ Memory.wf region.mem = true ∧ region.dmaLocs 0 .eread 0x40088 8 = some ls ∧ ∀ l ∈ ls, region.poisoned l.key 1 = false)
    ∧ (∀ y ∈ (sender 0).queues, y.reach = 0 → y.desc.qnum = 5 → y.desc.wharf = false)
    ∧ (let s := calling
      let e : QEntry := { entryOf weightless with e := ⟨weightless, 0x40080, 0, 0⟩ }
      let call : State := { s with calls := [] }
      (∃ y ∈ s.queues, y.reach = 0 ∧ y.desc.qnum = 5 ∧ y.desc.wharf = true) ∧ s.calls = [e] ∧ e.reach = 0 ∧ e.qnum = 5
        ∧ call.replyWord e (call.callBlock e) = some padKey ∧ blockBad (call.callBlock e) = false ∧ NobodyWaits s ∧ Memory.wf s.mem = true) := by
  refine ⟨by decide, ?_, by decide, by decide, by decide, ⟨by decide, rfl⟩, by decide, by decide,
    by decide, ⟨?_, ?_⟩,
    ⟨by decide, by decide +kernel, ?_, by decide, by decide +kernel, by decide +kernel⟩, by decide,
    ⟨by decide, rfl, by decide, by decide, by decide +kernel, by decide +kernel, by decide, by decide +kernel⟩⟩
  · rintro k (rfl | rfl) <;> decide
  · intro x y hx hy
    obtain rfl : loadReach = x := by simpa using show some loadReach = some x from hx
    simp [loadReach, Reach.fresh] at hy
  · intro x y hx hy
    obtain rfl : { loadReach with regions := [(0x40080, 16)] } = x := by simpa using show some _ = some x from hx
    obtain rfl : (0x40080, 16) = y := by simpa using hy
    decide
  · intro i l h
    simp only [List.getElem?_map, Option.map_eq_some_iff] at h
    obtain ⟨j, hj, rfl⟩ := h
    obtain ⟨_, hij⟩ := List.getElem?_eq_some_iff.1 hj
    rw [List.getElem_range] at hij
    subst hij
    refine ⟨by simp [pageLoc, ← Nat.add_assoc], fun p hp => .inl ?_⟩
    obtain rfl : 0xC0008 = p := by simpa [pageLoc] using hp
    decide

/-- A reach whose owner asks for versions and one measurement, and the report that shows the versions of its three stages. -/
def owner : Reach := { loadReach with minSvn := [1, 2, 3], accepted := [7] }
def report (svns : List Nat) (measure : Nat) : List Byte :=
  List.replicate 12 0 ++ svns.flatMap (leBytes · 2) ++ List.replicate 2 0 ++ (List.replicate 3 (leBytes measure 64)).flatten
    ++ List.replicate 286 0
def OwnerFits (svns : List Nat) (measure : Nat) : Prop :=
  (∀ j, j < owner.minSvn.length → owner.minSvn.getD j 0 ≤ field (report svns measure) (12 + 2 * j) 2)
    ∧ ∀ j, j < 3 → BitVec.ofNat 512 (field (report svns measure) (20 + 64 * j) 64) ∈ owner.accepted

/-- Modules of the smallest size; boot with no stage that passes, and with three that the fuses' and the signers' keys verify, which no
computation decides; the owner's rule met by the least versions, and missed by a version and by a measurement; a migration that both
signatures stand for. -/
theorem witness_SecurityAndPower :
    2 ^ 34 ∈ [2 ^ 34, 2 ^ 35, 2 ^ 36, 2 ^ 37]
    ∧ (∃ f, bootChain one.svnMin one.staged [] 3 1 romExpects = ([], some f) ∧ f.stage ≠ 3)
    ∧ (∀ a b c fl, let named := fun i key => key == Config.namedKey (stageBytes i)
      stageFor 1 romExpects (one.svnMin 1) one.staged fl = some a → stageFor 2 (named a) (one.svnMin 2) one.staged fl = some b →
      stageFor 3 (named b) (one.svnMin 3) one.staged fl = some c → bootChain one.svnMin one.staged fl 3 1 romExpects = ([a, b, c], none))
    ∧ (∀ ms ∈ [[], List.replicate 64 7], ¬∃ m, m ∈ [2 ^ 34, 2 ^ 35, 2 ^ 36, 2 ^ 37] ∧ ms = List.replicate 64 m)
    ∧ (one.reach? 1 = none ∧ { one with zeroised := true }.zeroised = true)
    ∧ (one.zeroised = false ∧ one.reach? 0 = some loadReach ∧ (1 : BitVec 8) ∉ one.lost)
    ∧ (∀ r o, reportSigned 1 r = true → offerSigned 1 o = true →
      ¬(one.zeroised = true ∨ (1 : BitVec 8) ∈ one.lost ∨ reportSigned 1 r = false ∨ offerSigned 1 o = false))
    ∧ ({ one with reaches := [owner] }.reach? 0 = some owner ∧ OwnerFits [1, 2, 3] 7 ∧ ¬OwnerFits [1, 2, 2] 7 ∧ ¬OwnerFits [1, 2, 3] 8)
    ∧ ((0 : BitVec 7) = 0 ∧ (127 : BitVec 7) ≠ 0)
    ∧ (105 ≤ 105 ∧ 105 < 106 ∧ 114 < 115 ∧ 115 ≤ 115)
    ∧ (let i : Input := .event (.powerCapSet 800)
      let s := { one with alarmed := true, inputs := [i] }
      s.alarmed = true ∧ s.inputs = i :: [] ∧ ∀ a b, i ≠ .event (.deviceReset a b)) := by
  refine ⟨by decide, ⟨_, rfl, by decide⟩, ?_, ?_, by decide, ⟨by decide, rfl, by decide⟩, ?_, ⟨rfl, ⟨by decide +kernel, by decide +kernel⟩,
    fun h => absurd (h.1 2 (by decide)) (by decide +kernel), fun h => absurd (h.2 0 (by decide)) (by decide +kernel)⟩,
    by decide, by decide, by decide, rfl, fun a b h => by simp at h⟩
  · intro a b c fl named h1 h2 h3
    simp [bootChain, h1, h2, h3, named]
  · intro ms hm
    simp only [List.mem_cons, List.not_mem_nil, or_false] at hm
    rintro ⟨m, hs, rfl⟩
    rcases hm with h | h
    · exact absurd h (by simp)
    · have : m = 7 := by simpa using congrArg (·.getD 0 0) h
      subst this
      exact absurd hs (by decide)
  · rintro r o h1 h2 (h | h | h | h)
    · exact absurd h (by decide)
    · exact absurd h (by decide)
    · cases h1.symm.trans h
    · cases h2.symm.trans h

/-- A NOP that issues with nothing outstanding; a word that names no instruction. -/
theorem witness_StepRunsDecoded :
    (let s := one;
      s.alarmed = false ∧ s.down = false ∧ s.inputs = [] ∧ s.mayIssue = true ∧ s.g.last ≠ .stalled ∧ s.g.marked = false
        ∧ (∃ l, s.fetch s.g = .ok l 0xE4000000 ∧ (s.fetched l).mustStall .nop = false) ∧ s.decodeFor s.g 0xE4000000 = .inl .nop ∧ s.g.region = none ∧ s.g.twin = none
        ∧ s.gdesc.debugFlag = false ∧ s.g.pendS = [] ∧ s.g.inflight = [] ∧ s.g.heldOps = [] ∧ s.g.poison = []
        ∧ s.g.joins = [] ∧ ∀ r ∈ (uses .nop).rl ++ (uses .nop).wl, 56 ≤ r.toNat → s.g.eWritten.getLsbD (r.toNat - 56) = true)
    ∧ (let s := State.reset.loadWord 0xFFFFFFFF#32;
      s.alarmed = false ∧ s.down = false ∧ s.inputs = [] ∧ s.mayIssue = true ∧ s.g.last ≠ .stalled ∧ s.g.marked = false
        ∧ (∃ l, s.fetch s.g = .ok l 0xFFFFFFFF) ∧ decode 0xFFFFFFFF = none) := by
  have hf : ∀ w : BitVec 32, (State.reset.loadWord w).fetch (State.reset.loadWord w).g = .ok (pageLoc 0) w →
      ∃ l, (State.reset.loadWord w).fetch (State.reset.loadWord w).g = .ok l w := fun w h => ⟨_, h⟩
  exact ⟨⟨by decide, by decide, by decide, by decide +kernel, by decide, by decide, ⟨pageLoc 0, by decide +kernel, by decide⟩, by decide, by decide, by decide, by decide,
      by decide, by decide, by decide, by decide, by decide, by decide⟩,
    ⟨by decide, by decide, by decide, by decide +kernel, by decide, by decide, hf _ (by decide +kernel), by decide⟩⟩

/-- Steps that answer a next state, and end in one by every path. -/
theorem witness_MemoryStaysCanonical : Memory.wf one.mem = true ∧ ∃ t, step one = .next t := ⟨by decide, _, rfl⟩

theorem witness_ActiveLanesStayLive :
    ((∀ g ∈ two.groups, g.em &&& ~~~g.live = 0) ∧ (∀ c ∈ two.contexts, ∀ g ∈ c.groups, g.em &&& ~~~g.live = 0)
      ∧ ∀ c, Input.context c ∈ two.inputs → ∀ g ∈ c.groups, g.em &&& ~~~g.live = 0) ∧ ∃ t, step two = .next t :=
  ⟨⟨by decide, by decide, fun _ h => absurd h List.not_mem_nil⟩, _, rfl⟩

/-! Single steps with results from the manual's worked cases. -/

/-- The state after an answer. -/
def after : Out → State
  | .next t => t
  | _ => one

/-- The worked case of R60: lanes 0, 2 and 3 hold 2^24, 1.0 and 1.0; the sum is 16,777,218 and NX stays clear. -/
theorem test_lred_fadd :
    let s := setV 1 (fun l => if l = 0 then 0x4B800000 else 0x3F800000) (onG fun g => { g with em := 0xD })
    let t := after (exec (.lred (.flt .fadd .f32) 2 1 .always) s)
    elem 32 0 (t.g.lane 2 3) = 0x4B800001 ∧ t.g.fflags = 0 ∧ t.g.lane 2 1 = 0 := by decide

/-- The group of the worked case of chapter 9: eight lanes launched, lane 7 exited, lane 6 masked off, v1 = 10 × l. -/
def eight : State :=
  setV 1 (fun l => BitVec.ofNat 64 (10 * l)) (setV 2 (fun _ => 0xFF) (onG fun g => { g with em := 0x3F, live := 0x7F, launched := 0xFF }))

theorem test_lxch_rot : (List.range 7).map ((after (exec (.lxch (.rot 3) 2 1 .always) eight)).g.lane 2) = [30, 40, 50, 60, 70, 0, 0xFF] := by decide
theorem test_lxch_mirror : (List.range 6).map ((after (exec (.lxch (.mirror 3) 2 1 .always) eight)).g.lane 2) = [70, 60, 50, 40, 30, 20] := by decide
theorem test_lscan_inc : (List.range 8).map ((after (exec (.lscan (.int .add .w32) false 2 1 .always) eight)).g.lane 2)
    = [0, 10, 30, 60, 100, 150, 0xFF, 0xFF] := by decide
theorem test_lscan_exc : (List.range 6).map ((after (exec (.lscan (.int .add .w32) true 2 1 .always) eight)).g.lane 2) = [0, 0, 10, 30, 60, 100] := by
  decide
theorem test_vote_count : (after (exec (.vote 4 1 .count) (eight.onG fun g => g.writeP 0xFFFFFFFF 1 0x49))).g.sreg 4 = 2 := by decide

/-- R72: SHRI at width 32 with imm7 = −1 shifts by 31. -/
theorem test_shri_minus_one : (after (exec (.shri .w32 2 1 (-1) .always) (setV 1 (fun _ => 0x8000000080000000) one))).g.lane 2 0
    = 0x0000000100000001 := by decide

/-- The worked translation of chapter 19: a 256 KiB page, and a 1 GiB page. -/
def worked (l1 : Nat) : State :=
  let s := withReach (fun x => { x with root := 0x1000000000 }) one
  { s with
    module := 2 ^ 36
    mem := memWrite (memWrite (memWrite [] 0x1000002468 (leBytes 0x100004003F 8)) 0x1000040AC8 (leBytes l1 8)) 0x1000087130 (leBytes 0x23400000A47 8) }
theorem test_translation_256K : (worked 0x100008003F).look 0 0 .read 0x00123456789ABCDE = .at_ 0x2340002BCDE 5 0x1000087130 := by decide +kernel
theorem test_translation_1G : (worked 0x23400000A67).look 0 0 .read 0x00123456789ABCDE = .at_ 0x234389ABCDE 5 0x1000040AC8 := by decide +kernel
/-- The worked case of R368: link 10, module offset 0x0000_0008_D000_0ADE; and paths of R367. -/
theorem test_memory_link : memoryLink 0x000002340002BCDE = 10 ∧ moduleOffset 0x000002340002BCDE = 0x8D0000ADE := by
  decide +kernel
theorem test_package_path : packagePath 0 3 = [1] ∧ packagePath 1 2 = [0] ∧ packagePath 1 5 = [3] ∧ packagePath 4 2 = [0] ∧ packagePath 5 4 = [2, 0] := by
  decide
/-- An instruction fetch there traps PROTECTION. -/
theorem test_translation_fetch : (worked 0x100008003F).look 0 0 .fetch 0x00123456789ABCDE = .denied := by decide +kernel

/-- The worked case of chapter 14, step 2: of 2^32 units half goes with the entry. -/
theorem test_enq_split :
    let t := after (exec (.enq 3 8 7 0) ((sender oneUnit).onG fun g => { g with qw := 0x100000000 }))
    t.g.qw = 0x80000000 ∧ (t.entries.map fun x => entryWexp x.e) = [31] := by decide
/-- Step 4: WEXP 29, LINK 100, PARKED; steps 7 and 8: the count falls to 1 and 0, and the entry is released. -/
def armed : State :=
  after (exec (.deparm 3 8 12 0) { (setU 12 (BitVec.ofNat 64 (2 * 2 ^ 42 + 100)) (setU 13 5 (sender oneUnit))).onG (fun g => { g with qw := 0x40000000 }) with
    ranges := [(0, 0, 65535, 0)] })
theorem test_deparm : armed.g.qw = 0x20000000 ∧ ((armed.counter 0 100).parked.map fun x => (entryWexp x.e, entryLink x.e)) = some (29, 100) := by decide
theorem test_depdec_last :
    let t := after (exec (.depdec 4 6 0) (setU 6 100 (after (exec (.depdec 4 6 0) (setU 6 100 armed)))))
    (after (exec (.depdec 4 6 0) (setU 6 100 armed))).g.sreg 4 = 1 ∧ t.g.sreg 4 = 0 ∧ (t.entries.map fun x => entryLink x.e) = [100] := by decide

/-- A step runs the word at the pc (R35: NOP). -/
theorem test_step_nop : (after (step one)).g.pc = 0x40004 ∧ (after (step one)).g.retired = 1 := by decide +kernel
/-- A trap without a handler halts the group at the instruction (R21). -/
theorem test_step_illegal :
    let t := after (step (State.reset.loadWord 0xFFFFFFFF#32))
    t.g.halted = some .trap ∧ t.g.trapCause = 1 ∧ t.g.trapPc = 0x40000 ∧ t.g.pc = 0x40000 := by decide +kernel
/-- A load sees the group's own store, byte 0 lowest (R3, R168). -/
theorem test_store_load :
    let s := after (exec (.st .w32 2 1 0 0 .always) (setV 1 (fun _ => padAddr) (setV 2 (fun _ => 0x11223344) one)))
    (after (exec (.ld .w8 3 1 1 0 .always) s)).g.lane 3 0 = 0x33 := by decide

end Sys2Proof.Tests
end

section
/-! PROOFS. Writes of control registers (R4, R11, R114). -/
namespace Sys2Proof.Machine
open Sys2Proof.Safety

/-- Clearing bits 1 and 0 rounds down to a multiple of 4. -/
theorem and_not_three (x : Word) : x &&& ~~~3#64 = BitVec.ofNat 64 (x.toNat / 4 * 4) := by
  have high : x &&& ~~~3#64 = x >>> 2 <<< 2 := (BitVec.shiftLeft_ushiftRight (x := x) (n := 2)).symm
  rw [high]
  apply BitVec.eq_of_toNat_eq
  simp [BitVec.toNat_shiftLeft, BitVec.toNat_ushiftRight, Nat.shiftLeft_eq, Nat.shiftRight_eq_div_pow]

/-- CSRW of a register that a program may write retires with what the register's own update leaves in the groups (R114). -/
theorem csrw_becomesByKey {n : BitVec 12} {sa : SReg} {s : State} {x : Group} {others : List Group} (known : csrPrivileged n.toNat = false)
    (free : n = 5 → s.g.redsOut = false) (hset : s.csrSet s.g.key n.toNat (s.g.sreg sa) = { s with g := x, others := others })
    (same : others.filter (fun y => y.key != s.g.key) = s.others.filter fun y => y.key != s.g.key)
    (hpc : x.pc = s.g.pc) (hretired : x.retired = s.g.retired) : BecomesByKey (.csrw n sa) x (s.g.pc + 4) s := by
  have runs : exec (.csrw n sa) s = .next { s with g := x.retireTo (x.pc + 4), others := others } := by
    have hn : (n.toNat == 5 && s.g.redsOut) = false := by
      by_cases h : n = 5
      · simp [free h]
      · have : n.toNat ≠ 5 := fun e => h (BitVec.eq_of_toNat_eq e)
        simp [this]
    show execCsrw n sa s = _
    simp [execCsrw, State.flagWait, known, hn, hset]
  refine ⟨_, runs, ⟨?_, ?_, rfl⟩, rfl, same, ?_, fun _ => rfl⟩
  · exact congrArg (· + 4) hpc
  · exact congrArg (· + 1) hretired
  · rfl

/-- CSRW of a register whose write is a change `f` of the group. -/
theorem csrw_changes {n : BitVec 12} {sa : SReg} {s : State} (f : Group → Group) (known : csrPrivileged n.toNat = false)
    (free : n = 5 → s.g.redsOut = false) (hset : s.csrSet s.g.key n.toNat (s.g.sreg sa) = s.onGroup s.g.key f)
    (hkey : ∀ g, (f g).key = g.key) (hpc : (f s.g).pc = s.g.pc) (hretired : (f s.g).retired = s.g.retired) :
    BecomesByKey (.csrw n sa) (f s.g) (s.g.pc + 4) s :=
  csrw_becomesByKey known free (hset.trans (by simp [State.onGroup, State.mapGroups])) (s.onGroup_same_others s.g.key f hkey) hpc hretired

/-- CSRW of a register that ignores the write (R4). -/
theorem csrw_ignored {n : BitVec 12} {sa : SReg} {s : State} (known : csrPrivileged n.toNat = false) (free : n ≠ 5)
    (hset : s.csrSet s.g.key n.toNat (s.g.sreg sa) = s) : BecomesByKey (.csrw n sa) s.g (s.g.pc + 4) s :=
  csrw_becomesByKey known (fun h => absurd h free) hset rfl rfl rfl

/-- RO rows of R11's table: the CSRs that ignore a write (R4). -/
def readOnlyCsrs : List (BitVec 12) :=
  [0x002, 0x003, 0x006, 0x010, 0x012, 0x013, 0x015, 0x028, 0x030, 0x031, 0x040, 0x041, 0x042, 0x080, 0x081, 0x101]

/-- The numbers whose write `State.csrSet` takes. -/
def csrWritten (n : Nat) : Bool :=
  [0x000, 0x001, 0x004, 0x005, 0x011, 0x014, 0x100].contains n || (0x110 ≤ n && n < 0x120) || (0x130 ≤ n && n < 0x135)

theorem readOnly_of_mem {n : BitVec 12} (h : n ∈ readOnlyCsrs) :
    csrPrivileged n.toNat = false ∧ n ≠ 5 ∧ csrWritten n.toNat = false := by
  have table : (readOnlyCsrs.all fun n => !csrPrivileged n.toNat && n != 5 && !csrWritten n.toNat) = true := by decide
  simpa [and_assoc] using List.all_eq_true.mp table n h

/-- A write of any other CSR is ignored (R4). -/
theorem State.csrSet_of_not_written (s : State) (k : Nat) {n : Nat} (x : Word) (h : csrWritten n = false) : s.csrSet k n x = s := by
  simp only [csrWritten, List.contains_cons, List.contains_nil, Bool.or_eq_false_iff, beq_eq_false_iff_ne] at h
  obtain ⟨⟨listed, mailbox⟩, watch⟩ := h
  unfold State.csrSet
  split
  case h_8 => simp [mailbox, watch]
  all_goals simp at listed

/-- Settles O23: each register is a change of the group in turn, or of nothing. -/
theorem writeCsr : Obligations.WriteCsr := by
  intro sa s x pc
  refine ⟨?em, ?regpc, ?frm, ?fflags, ?trapPc, ?trapEm, ?dbgctl, ?readOnly⟩
  case em => exact csrw_changes (fun g => { g with em := x.setWidth 32 &&& g.live }) rfl nofun rfl (fun _ => rfl) rfl rfl
  case regpc => exact csrw_changes (fun g => { g with regpc := x }) rfl nofun rfl (fun _ => rfl) rfl rfl
  case frm => exact csrw_changes (fun g => { g with frm := x.setWidth 2 }) rfl nofun rfl (fun _ => rfl) rfl rfl
  case fflags =>
    intro idle
    exact csrw_changes (fun g => { g with fflags := x.setWidth 5 }) rfl (fun _ => idle) rfl (fun _ => rfl) rfl rfl
  case trapPc =>
    rw [← and_not_three]
    exact csrw_changes (fun g => { g with trapPc := x &&& ~~~3#64 }) rfl nofun rfl (fun _ => rfl) rfl rfl
  case trapEm => exact csrw_changes (fun g => { g with trapEm := x.setWidth 32 }) rfl nofun rfl (fun _ => rfl) rfl rfl
  case dbgctl => exact csrw_changes (fun g => { g with dbgctl := x.setWidth 2 }) rfl nofun rfl (fun _ => rfl) rfl rfl
  case readOnly =>
    intro n hn
    obtain ⟨known, free, unwritten⟩ := readOnly_of_mem hn
    exact csrw_ignored known free (s.csrSet_of_not_written _ _ unwritten)
end Sys2Proof.Machine
end

section
/-! PROOFS. Every step keeps memory canonical (R3, R20; log 6, 10). Two kinds of lemmas, one for each function that a step can reach:
`f_mem` where the function leaves memory as it is, and `f_canonical` where it may write. Both follow the functions they call, in the order
of the model's files, so that the lemma about a step is the last of them. Where a function takes a continuation, its lemma asks
that the continuation keep the form too. The idea of each is in the lemmas it cites; no arithmetic is at work, so `grind` runs without its
arithmetic solvers. -/
namespace Sys2Proof.Machine

/-! The invariant, on a state and on what an operation answers. -/

/-- Memory is in its canonical form: keys rise strictly, and no listed byte is 0. -/
abbrev State.Canonical (s : State) : Prop := Memory.wf s.mem = true

/-- The next state, where there is one, is canonical. -/
def Out.Canonical (o : Out) : Prop := ∀ t, o = .next t → t.Canonical

@[simp] theorem Out.canonical_next {t : State} : Out.Canonical (.next t) ↔ t.Canonical :=
  ⟨fun h => h t rfl, fun h _ e => Host.Outcome.next.inj e ▸ h⟩

/-- The state that a split of weight leaves. -/
def Split.st : Split → State
  | .done s _ => s
  | .wait s => s
  | .nodomain s => s

/-- The state that an engine's read leaves. -/
def ERead.st : ERead → State
  | .ok s _ => s
  | .wait s => s
  | .err s _ => s

/-- The state that an engine's moves leave. -/
def Moved.st : Moved → State
  | .wait s => s
  | .done s _ _ => s

/-- The state that the reading of a record's operation leaves. -/
def Plan.st : Plan → State
  | .moves s _ => s
  | .wait s => s
  | .err s _ => s

/-- The state that taking weight from a channel leaves. -/
def Weight.st : Weight → State
  | .exp s _ => s
  | .fail s _ => s
  | .wait s => s

/-- The state that a record's action leaves. -/
def Acted.st : Acted → State
  | .wait s => s
  | .done s _ => s

/-- The state that the reading of a collective's descriptor leaves. -/
def CRead.st : CRead → State
  | .ok s _ => s
  | .wait s => s
  | .err s _ => s

/-- The state that the readings of a collective's members leave. -/
def CollAt.st : CollAt → State
  | .next s => s
  | .go s _ _ _ => s

/-! Branches, choices and loops. -/

theorem State.canonical_ite {c : Prop} [Decidable c] {s t : State} (hs : s.Canonical) (ht : t.Canonical) :
    (if c then s else t).Canonical := by
  split
  · exact hs
  · exact ht

theorem Out.canonical_ite {c : Prop} [Decidable c] {a b : Out} (ha : a.Canonical) (hb : b.Canonical) :
    (if c then a else b).Canonical := by
  split
  · exact ha
  · exact hb

theorem getD_canonical {o : Option State} {s : State} (ho : ∀ t, o = some t → t.Canonical) (h : s.Canonical) :
    (o.getD s).Canonical := by
  cases o with
  | none => exact h
  | some t => exact ho t rfl

theorem orElse_canonical {o : Option State} {f : Unit → Option State} (ho : ∀ t, o = some t → t.Canonical)
    (hf : ∀ t, f () = some t → t.Canonical) {t : State} (e : o.orElse f = some t) : t.Canonical := by
  cases o with
  | none => exact hf t e
  | some u => exact ho t e

theorem findSome?_canonical {α : Type} {f : α → Option State} (hf : ∀ x t, f x = some t → t.Canonical) {xs : List α} {t : State}
    (e : xs.findSome? f = some t) : t.Canonical := by
  obtain ⟨x, -, hx⟩ := List.exists_of_findSome?_eq_some e
  exact hf x t hx

theorem foldl_mem {α : Type} (f : State → α → State) (hf : ∀ s x, (f s x).mem = s.mem) (xs : List α) (s : State) :
    (xs.foldl f s).mem = s.mem :=
  List.foldlRecOn xs f (motive := fun t => t.mem = s.mem) rfl fun t ht x _ => (hf t x).trans ht

theorem foldl_canonical {α : Type} (f : State → α → State) (hf : ∀ s x, s.Canonical → (f s x).Canonical) (xs : List α) {s : State}
    (h : s.Canonical) : (xs.foldl f s).Canonical :=
  List.foldlRecOn xs f (motive := State.Canonical) h fun s hs x _ => hf s x hs

/-- A loop that gathers something beside the state. -/
theorem foldl_fst_canonical {α β : Type} (f : State × β → α → State × β) (hf : ∀ r x, r.1.Canonical → (f r x).1.Canonical)
    (xs : List α) {r : State × β} (h : r.1.Canonical) : (xs.foldl f r).1.Canonical :=
  List.foldlRecOn xs f (motive := fun r => r.1.Canonical) h fun r hr x _ => hf r x hr

/-- A loop that can fail. -/
theorem foldl_bind_canonical {α : Type} {f : State → α → Option State} (hf : ∀ s x t, s.Canonical → f s x = some t → t.Canonical)
    (xs : List α) {o : Option State} (ho : ∀ t, o = some t → t.Canonical) {t : State}
    (e : xs.foldl (fun o x => o.bind fun s => f s x) o = some t) : t.Canonical := by
  refine List.foldlRecOn (motive := fun o => ∀ t, o = some t → t.Canonical) xs _ ho (fun o ho x _ u hu => ?_) t e
  obtain ⟨v, hv, hu⟩ := Option.bind_eq_some_iff.mp hu
  exact hf v x u (ho v hv) hu

section Keeps
-- A lemma here cites the ones before it. Elaborated side by side, each would hold a thread's stack until the ones it cites are done.
set_option Elab.async false
variable {s t u : State}


/-! `Machine/Ops`. -/

@[simp] theorem State.turnTo_mem (s : State) (k : Nat) : (s.turnTo k).mem = s.mem := by
  grind -ring -linarith -order [State.turnTo]

@[simp] theorem State.onLaunch_mem (s : State) (lid : BitVec 32) (f : Launch → Launch) : (s.onLaunch lid f).mem = s.mem := rfl

@[simp] theorem State.onTeamOf_mem (s : State) (g : Group) (f : Team → Team) : (s.onTeamOf g f).mem = s.mem := rfl

@[simp] theorem State.onCore_mem (s : State) (id : CoreId) (f : CoreSt → CoreSt) : (s.onCore id f).mem = s.mem := by
  grind -ring -linarith -order [State.onCore]

@[simp] theorem State.onReach_mem (s : State) (r : BitVec 4) (f : Reach → Reach) : (s.onReach r f).mem = s.mem := rfl

theorem State.done_canonical {g : Group} (h : s.Canonical) : (s.done g).Canonical := by
  grind -ring -linarith -order [State.done, Out.canonical_next]

theorem State.stall_canonical (h : s.Canonical) : s.stall.Canonical := by
  grind -ring -linarith -order [State.stall, State.onG_mem, Out.canonical_next]

@[simp] theorem State.dropWaits_mem (s : State) (ids : List Nat) : (s.dropWaits ids).mem = s.mem := rfl

@[simp] theorem State.cutWait_mem (s : State) (g : Group) : (s.cutWait g).mem = s.mem := by
  grind -ring -linarith -order [State.cutWait, State.onCore_mem, State.dropWaits_mem]

@[simp] theorem State.trapGroup_mem (s : State) (g : Group) (cause : Nat) (info : Word) (lanes : Mask) (pc : Word) :
    (s.trapGroup g cause info lanes pc).mem = s.mem := by
  grind -ring -linarith -order [State.trapGroup, State.cutWait_mem, State.onGroup_mem, State.report_mem]

theorem State.trapAt_canonical {cause : Nat} {info : Word} {lanes : Mask} (h : s.Canonical) : (s.trapAt cause info lanes).Canonical := by
  grind -ring -linarith -order [State.trapAt, State.trapGroup_mem, Out.canonical_next]

theorem State.trapU_canonical {cause : Nat} {info : Word} (h : s.Canonical) : (s.trapU cause info).Canonical := by
  grind -ring -linarith -order [State.trapU, State.trapAt_canonical]

theorem State.beginWait_canonical {w : Wait} {holds : List Nat} (h : s.Canonical) : (s.beginWait w holds).Canonical := by
  grind -ring -linarith -order [State.beginWait, Out.canonical_next]

/-! `Machine/Access`. -/

@[simp] theorem State.seen_mem (s : State) (r : Reader) (lane : Nat) (l : Loc) (n : Nat) : (s.seen r lane l n).mem = s.mem := rfl

@[simp] theorem State.order_mem (s : State) (a : Agent) (p : Old → Bool) : (s.order a p).mem = s.mem := rfl

@[simp] theorem State.orderAfter_mem (s : State) (earlier later : Agent) : (s.orderAfter earlier later).mem = s.mem := rfl

@[simp] theorem State.releaseTo_mem (s : State) (g : Group) (scope : Nat) (tok : Agent) : (s.releaseTo g scope tok).mem = s.mem := rfl

@[simp] theorem State.unlearn_mem (s : State) (p : Agent → Bool) : (s.unlearn p).mem = s.mem := rfl

@[simp] theorem State.unorder_mem (s : State) (tok : Agent) : (s.unorder tok).mem = s.mem := rfl

theorem State.homeWriteBy_canonical {w : Agent} {scope : Option Nat} {atomic : Bool} {core : CoreId} {l : Loc} {bs : List Byte}
    (h : s.Canonical) : (s.homeWriteBy w scope atomic core l bs).Canonical := by
  grind -ring -linarith -order [State.homeWriteBy, homeWrite_wf]

theorem State.drainTo_canonical {w : Agent} {scope : Option Nat} {core : CoreId} {l : Loc} {b : Byte} (h : s.Canonical) :
    (s.drainTo w scope core l b).Canonical := by
  grind -ring -linarith -order [State.drainTo, State.unlearn_mem, State.homeWriteBy_canonical]

theorem State.drainAll_canonical {w : Agent} {scope : Option Nat} {core : CoreId} {l : Loc} {bs : List Byte} (h : s.Canonical) :
    (s.drainAll w scope core l bs).Canonical := by
  grind -ring -linarith -order [State.drainAll, State.drainTo_canonical, foldl_canonical]

@[simp] theorem State.visible_mem (s : State) (sc : Nat) (ks : List Nat) : (s.visible sc ks).mem = s.mem := rfl

theorem State.suspend_canonical {dev : Nat} (h : s.Canonical) : (s.suspend dev).Canonical := by
  grind -ring -linarith -order [State.suspend, State.onG_mem, Out.canonical_next]

theorem State.checked_canonical {ps : List Probe} {kind : Nat} {go : Out} (h : s.Canonical) (hgo : go.Canonical) :
    (s.checked ps kind go).Canonical := by
  obtain ⟨_, _, _, -, e⟩ | ⟨-, _, _, -, e⟩ | ⟨-, _, _, -, e⟩ | ⟨-, -, e⟩ := s.checked_cases ps kind go
  all_goals rw [e]
  · exact State.trapAt_canonical h
  · exact State.trapAt_canonical h
  · exact State.suspend_canonical h
  · exact hgo

@[simp] theorem State.recordFault_mem (s : State) (acc : Acc) (p : Probe) : (s.recordFault acc p).mem = s.mem := by
  grind -ring -linarith -order [State.recordFault]

theorem State.installAll_canonical {acc : Acc} {ps : List Probe} (h : s.Canonical) : (s.installAll acc ps).Canonical := by
  grind -ring -linarith -order [State.installAll, install_wf, State.recordFault_mem, foldl_canonical]

@[simp] theorem State.rehomeAll_mem (s : State) : s.rehomeAll.mem = s.mem := rfl

/-! `Machine/Trace`. -/

@[simp] theorem State.setTrace_mem (s : State) (t : Trace) : (s.setTrace t).mem = s.mem := rfl

@[simp] theorem State.diverge_mem (s : State) (g : Group) (pc : Word) : (s.diverge g pc).mem = s.mem := by
  grind -ring -linarith -order [State.diverge, State.report_mem, State.onGroup_mem]

@[simp] theorem State.comparePacket_mem (s : State) (g : Group) (p : Packet) (pc : Word) : (s.comparePacket g p pc).mem = s.mem := by
  grind -ring -linarith -order [State.comparePacket, State.onGroup_mem, State.diverge_mem]

@[simp] theorem State.tracePacket_mem (s : State) (k : Nat) (p : Packet) (pc : Word) : (s.tracePacket k p pc).mem = s.mem := by
  grind -ring -linarith -order [State.tracePacket, State.comparePacket_mem, State.setTrace_mem]

@[simp] theorem State.packet_mem (s : State) (k : Nat) (p : Packet) (pc : Word) : (s.packet k p pc).mem = s.mem := by
  grind -ring -linarith -order [State.packet, State.onGroup_mem, State.tracePacket_mem]

@[simp] theorem State.owe_mem (s : State) (k : Nat) (o : Owed) : (s.owe k o).mem = s.mem := rfl

@[simp] theorem State.pay_mem (s : State) (n k : Nat) : (State.pay n k s).mem = s.mem := by
  induction n generalizing s with
  | zero => rfl
  | succ n ih => grind -ring -linarith -order [State.pay, State.onGroup_mem, State.tracePacket_mem]

@[simp] theorem State.paid_mem (s : State) : s.paid.mem = s.mem := by
  grind -ring -linarith -order [State.paid, State.pay_mem, foldl_mem]

@[simp] theorem State.emPacket_mem (s : State) (k : Nat) (pc : Word) : (s.emPacket k pc).mem = s.mem := by
  grind -ring -linarith -order [State.emPacket, State.packet_mem, State.onGroup_mem]

/-! `Machine/Place`. -/

@[simp] theorem State.onTeamOnly_mem (s : State) (t : Team) (f : Team → Team) : (s.onTeamOnly t f).mem = s.mem := rfl

@[simp] theorem State.saveWatch_mem (s : State) (t : Team) : (s.saveWatch t).mem = s.mem := by
  grind -ring -linarith -order [State.saveWatch, State.onCore_mem, State.onTeamOnly_mem]

@[simp] theorem State.restoreWatch_mem (s : State) (t : Team) : (s.restoreWatch t).mem = s.mem := by
  grind -ring -linarith -order [State.restoreWatch, State.onCore_mem, State.onTeamOnly_mem]

@[simp] theorem State.applyWatches_mem (s : State) (c : CoreId) : (s.applyWatches c).mem = s.mem := by
  grind -ring -linarith -order [State.applyWatches, State.restoreWatch_mem]

@[simp] theorem State.endRuns_mem (s : State) (p : Group → Bool) (f : (age : Nat) → Group → Group) : (s.endRuns p f).mem = s.mem := rfl

theorem State.keepHeader_canonical {r : BitVec 4} (h : s.Canonical) : (s.keepHeader r).Canonical := by
  grind -ring -linarith -order [State.keepHeader, State.onReach_mem, homeWrite_wf]

@[simp] theorem State.dropClaims_mem (s : State) (t : Team) : (s.dropClaims t).mem = s.mem := by
  grind -ring -linarith -order [State.dropClaims, State.onCore_mem]

@[simp] theorem State.joinClaims_mem (s : State) (t : Team) : (s.joinClaims t).mem = s.mem := by
  grind -ring -linarith -order [State.joinClaims, State.onCore_mem]

theorem State.swapOne_canonical {t : Team} (h : s.Canonical) : (s.swapOne t).Canonical := by
  grind -ring -linarith -order [State.swapOne, State.saveWatch_mem, copyPad_wf, State.endRuns_mem, State.keepHeader_canonical,
    State.applyWatches_mem, State.onTeamOnly_mem]

theorem State.spillOne_canonical {k : Nat} (h : s.Canonical) : (s.spillOne k).Canonical := by
  grind -ring -linarith -order [State.spillOne, State.endRuns_mem, State.keepHeader_canonical, State.applyWatches_mem,
    State.saveWatch_mem, State.swapOne_canonical]

theorem State.spillGroup_canonical {k : Nat} (h : s.Canonical) : (s.spillGroup k).Canonical := by
  grind -ring -linarith -order [State.spillGroup, State.spillOne_canonical]

theorem State.makeRoom_canonical {r : BitVec 4} {c : CoreId} {room : Room} (h : s.Canonical) : (s.makeRoom r c room).Canonical := by
  grind -ring -linarith -order [State.makeRoom, State.spillGroup_canonical, foldl_canonical]

theorem State.claimSide_canonical {r : BitVec 4} {c : CoreId} (h : s.Canonical) : (s.claimSide r c).Canonical := by
  grind -ring -linarith -order [State.claimSide, State.spillGroup_canonical, foldl_canonical]

@[simp] theorem State.seat_mem (s : State) (c : CoreId) (k : Nat) : (s.seat c k).mem = s.mem := by
  grind -ring -linarith -order [State.seat, State.onGroup_mem, State.cutWait_mem, State.packet_mem]

theorem State.swapOut_canonical {lid : BitVec 32} {idx : Nat} (h : s.Canonical) : (s.swapOut lid idx).Canonical := by
  grind -ring -linarith -order [State.swapOut, State.swapOne_canonical, foldl_canonical]

theorem State.moveClaims_canonical {t : Team} {c : CoreId} (h : s.Canonical) : (s.moveClaims t c).Canonical := by
  grind -ring -linarith -order [State.moveClaims, copyPad_wf, foldl_canonical]

@[simp] theorem State.settle_mem (s : State) (t : Team) : (s.settle t).mem = s.mem := by
  grind -ring -linarith -order [State.settle, State.mapGroups_mem, State.onLaunch_mem]

theorem State.placeOne_canonical {t : Team} {c : CoreId} {key twinKey : Nat} {need : Room} (h : s.Canonical) :
    (s.placeOne t c key twinKey need).Canonical := by
  grind -ring -linarith -order [State.placeOne, State.makeRoom_canonical, State.moveClaims_canonical, State.onTeamOnly_mem,
    State.settle_mem, State.seat_mem, State.dropClaims_mem, copyPad_wf, State.restoreWatch_mem, State.joinClaims_mem, foldl_canonical]

theorem State.place_canonical {lid : BitVec 32} {idx : Nat} {c : CoreId} (h : s.Canonical) : (s.place lid idx c).Canonical := by
  grind -ring -linarith -order [State.place, State.placeOne_canonical]

/-! `Machine/Progress`. -/

@[simp] theorem State.onChannel_mem (s : State) (h : BitVec 9) (f : Channel → Channel) : (s.onChannel h f).mem = s.mem := rfl

theorem State.swapAll_canonical {ts : List Team} (h : s.Canonical) : (s.swapAll ts).Canonical := by
  grind -ring -linarith -order [State.swapAll, State.swapOut_canonical, foldl_canonical]

@[simp] theorem State.charge_mem (s : State) (sponsor : BitVec 32) (c : CoreId) (id : Nat) (t : Team) :
    (s.charge sponsor c id t).mem = s.mem := rfl

theorem State.placeReserved_canonical {p : Prom} {t : Team} {c : CoreId} {key twin : Nat} (h : s.Canonical) :
    (s.placeReserved p t c key twin).Canonical := by
  grind -ring -linarith -order [State.placeReserved, State.placeOne_canonical, State.charge_mem]

theorem State.placeInReserve_canonical {p : Prom} {t : Team} (e : s.placeInReserve p t = some u) (h : s.Canonical) : u.Canonical := by
  grind -ring -linarith -order [State.placeInReserve, State.placeReserved_canonical, Option.map_eq_some_iff]

theorem State.placeHeld_canonical {tenant : BitVec 4} {p : Prom} {t : Team} (e : s.placeHeld tenant p t = some u) (h : s.Canonical) :
    u.Canonical := by
  refine orElse_canonical (fun t e => State.placeInReserve_canonical e h) (fun t e => ?_) e
  grind -ring -linarith -order [State.place_canonical, State.swapAll_canonical, Option.map_eq_some_iff]

theorem State.placeTarget_canonical {tenant : BitVec 4} {p : Prom} (e : s.placeTarget tenant p = some t) (h : s.Canonical) :
    t.Canonical := by
  refine foldl_bind_canonical (fun u x v hu hv => State.placeHeld_canonical hv hu) _ (fun u hu => ?_) e
  exact Option.some.inj hu ▸ h

theorem State.promote_canonical {n : Nat} {g : Group} {sponsor : BitVec 32} {depth : Nat} {lid : BitVec 32}
    (e : s.promote g sponsor depth lid = some (t, n)) (h : s.Canonical) : t.Canonical := by
  grind -ring -linarith -order [State.promote, → State.placeTarget_canonical, Option.map_eq_some_iff]

@[simp] theorem State.countWaits_mem (s : State) (ids : List Nat) : (s.countWaits ids).mem = s.mem := rfl

theorem State.checkWait_canonical {g : Group} {kind : Nat} {ts : List Target} (h : s.Canonical) :
    (s.checkWait g kind ts).st.Canonical := by
  grind -ring -linarith -order [State.checkWait, → State.promote_canonical, State.countWaits_mem, foldl_fst_canonical]

theorem State.waitOn_canonical {w : Wait} (h : s.Canonical) : (s.waitOn w).Canonical := by
  grind -ring -linarith -order [State.waitOn, State.checkWait_canonical, State.trapAt_canonical, State.beginWait_canonical]

@[simp] theorem State.mayReturn_mem (s : State) (g : Group) : (s.mayReturn g).mem = s.mem := rfl

@[simp] theorem State.satisfyOne_mem (s : State) (k : Nat) : (s.satisfyOne k).mem = s.mem := by
  grind -ring -linarith -order [State.satisfyOne, State.mayReturn_mem, State.dropWaits_mem, State.onGroup_mem]

@[simp] theorem State.failOne_mem (s : State) (k : Nat) (cause : Nat) (info : Word) (lanes : Mask) :
    (s.failOne k cause info lanes).mem = s.mem := by
  grind -ring -linarith -order [State.failOne, State.mayReturn_mem, State.dropWaits_mem, State.onGroup_mem]

@[simp] theorem State.satisfyAll_mem (s : State) (p : Group → Wait → Bool) : (s.satisfyAll p).mem = s.mem := by
  grind -ring -linarith -order [State.satisfyAll, State.satisfyOne_mem, foldl_mem]

@[simp] theorem State.writeStatus_mem (s : State) (op : Nat) (x : Word) (j : Option Join) : (s.writeStatus op x j).mem = s.mem := by
  grind -ring -linarith -order [State.writeStatus, State.satisfyAll_mem, State.mapGroups_mem]

@[simp] theorem State.failAll_mem (s : State) (p : Group → Wait → Bool) (cause : Nat) (info : Group → Word) :
    (s.failAll p cause info).mem = s.mem := by
  grind -ring -linarith -order [State.failAll, State.failOne_mem, foldl_mem]

theorem State.recheck_canonical {g : Group} {w : Wait} {ts : List Target} (h : s.Canonical) : (s.recheck g w ts).Canonical := by
  unfold State.recheck
  grind -ring -linarith -order [State.checkWait_canonical, State.failOne_mem, State.dropWaits_mem, State.onGroup_mem]

theorem State.recheckGranules_canonical {grans : List Nat} (h : s.Canonical) : (s.recheckGranules grans).Canonical := by
  grind -ring -linarith -order [State.recheckGranules, State.recheck_canonical, foldl_canonical]

theorem State.recheckJoin_canonical {lid : BitVec 32} {p : Wait → Bool} (h : s.Canonical) : (s.recheckJoin lid p).Canonical := by
  grind -ring -linarith -order [State.recheckJoin, State.recheck_canonical, foldl_canonical]

@[simp] theorem State.freeCharges_mem (s : State) (id : Nat) : (s.freeCharges id).mem = s.mem := rfl

@[simp] theorem State.forget_mem (s : State) (id : Nat) : (s.forget id).mem = s.mem := rfl

theorem State.leaveSlot_canonical {t : Team} (h : s.Canonical) : (s.leaveSlot t).Canonical := by
  grind -ring -linarith -order [State.leaveSlot, State.onTeamOnly_mem, State.charge_mem, State.swapOut_canonical]

@[simp] theorem State.rehold_mem (s : State) (a b : Nat) : (s.rehold a b).mem = s.mem := rfl

theorem State.lowerRecord_canonical {p : Prom} {e : Class} (h : s.Canonical) : (s.lowerRecord p e).Canonical := by
  grind -ring -linarith -order [State.lowerRecord, State.freeCharges_mem, State.rehold_mem, State.leaveSlot_canonical, foldl_canonical]

theorem State.lowerHold_canonical {e : Class} {k : Nat} {p : Prom} (h : s.Canonical) : (s.lowerHold e k p).Canonical := by
  grind -ring -linarith -order [State.lowerHold, State.onGroup_mem, State.dropWaits_mem, State.lowerRecord_canonical,
    State.countWaits_mem]

theorem State.lowerWaits_canonical {n : Nat} {lid : BitVec 32} (h : s.Canonical) : (State.lowerWaits n lid s).Canonical := by
  induction n generalizing s lid with
  | zero => exact h
  | succ n ih =>
    refine foldl_canonical _ (fun u x hu => ?_) _ h
    grind -ring -linarith -order [State.lowerHold_canonical]

theorem State.revert_canonical {p : Prom} (h : s.Canonical) : (s.revert p).Canonical := by
  grind -ring -linarith -order [State.revert, State.forget_mem, State.leaveSlot_canonical, State.lowerWaits_canonical, foldl_canonical]

theorem State.revertIdle_canonical {n : Nat} (h : s.Canonical) : (State.revertIdle n s).Canonical := by
  induction n generalizing s with
  | zero => exact h
  | succ n ih => grind -ring -linarith -order [State.revertIdle, State.revert_canonical]

/-! `Machine/Exchange`. -/

@[simp] theorem State.breakBar_mem (s : State) (t : Team) (b : Barrier) (other : Mask) (reason grp : Nat) :
    (s.breakBar t b other reason grp).mem = s.mem := by
  grind -ring -linarith -order [State.breakBar, State.failOne_mem, State.onTeamOnly_mem, foldl_mem]

@[simp] theorem State.releaseBar_mem (s : State) (t : Team) (n : BitVec 4) : (s.releaseBar t n).mem = s.mem := by
  grind -ring -linarith -order [State.releaseBar, State.satisfyAll_mem, State.mapGroups_mem, State.onTeamOnly_mem]

theorem execBar_canonical (n : BitVec 4) (sa : SReg) (h : s.Canonical) : (execBar n sa s).Canonical := by
  grind -ring -linarith -order [execBar, State.trapU_canonical, State.breakBar_mem, State.releaseBar_mem, State.done_canonical,
    State.beginWait_canonical, State.onTeamOnly_mem]

@[simp] theorem State.memberEnded_mem (s : State) (t : Team) (idx : Nat) : (s.memberEnded t idx).mem = s.mem := by
  grind -ring -linarith -order [State.memberEnded, State.breakBar_mem, foldl_mem]

/-! `Machine/Weir`. -/

@[simp] theorem State.onRoot_mem (s : State) (r : BitVec 4) (d : BitVec 10) (f : Root → Root) : (s.onRoot r d f).mem = s.mem := rfl

@[simp] theorem State.closeRoot_mem (s : State) (r : BitVec 4) (d : BitVec 10) : (s.closeRoot r d).mem = s.mem := rfl

@[simp] theorem State.onFarRoot_mem (s : State) (r : BitVec 4) (d : BitVec 10) (f : FarRoot → FarRoot) :
    (s.onFarRoot r d f).mem = s.mem := rfl

@[simp] theorem State.setFarRoot_mem (s : State) (r : BitVec 4) (d : BitVec 10) (dev : BitVec 8) (isOpen : Bool) :
    (s.setFarRoot r d dev isOpen).mem = s.mem := rfl

@[simp] theorem State.send_mem (s : State) (dest : BitVec 8) (m : RemoteMsg) (grp op : Nat) (tag : Nat) :
    (s.send dest m grp op tag).mem = s.mem := rfl

@[simp] theorem State.answer_mem (s : State) (dev : BitVec 8) (m : RemoteMsg) : (s.answer dev m).mem = s.mem := rfl

@[simp] theorem State.landed_mem (s : State) (tag : Nat) : (s.landed tag).mem = s.mem := by
  grind -ring -linarith -order [State.landed]

theorem State.answered_mem {n : OutMsg} (tag : Nat) (e : s.answered tag = some (t, n)) : t.mem = s.mem := by
  grind -ring -linarith -order [State.answered]

@[simp] theorem State.onBalance_mem (s : State) (r : BitVec 4) (d : BitVec 10) (dev : BitVec 8) (f : Int → Int) :
    (s.onBalance r d dev f).mem = s.mem := by
  grind -ring -linarith -order [State.onBalance, State.onRoot_mem, State.answer_mem]

@[simp] theorem State.giveBack_mem (s : State) (r : BitVec 4) (d : BitVec 10) (units : Nat) (lost : Bool) :
    (s.giveBack r d units lost).mem = s.mem := by
  grind -ring -linarith -order [State.giveBack]

@[simp] theorem State.endQuiet_mem (s : State) (x : Root) : (s.endQuiet x).mem = s.mem := by
  grind -ring -linarith -order [State.endQuiet, State.answer_mem, State.satisfyAll_mem, State.failAll_mem, State.closeRoot_mem,
    State.onRoot_mem, foldl_mem]

@[simp] theorem State.quiesce_mem (s : State) (r : BitVec 4) (d : BitVec 10) : (s.quiesce r d).mem = s.mem := by
  grind -ring -linarith -order [State.quiesce, State.endQuiet_mem]

@[simp] theorem State.applyReturn_mem (s : State) (r : BitVec 4) (d : BitVec 10) (units lost : Nat) :
    (s.applyReturn r d units lost).mem = s.mem := by
  grind -ring -linarith -order [State.applyReturn, State.quiesce_mem, State.onRoot_mem]

@[simp] theorem State.forward_mem (s : State) (p : Proxy) : (s.forward p).mem = s.mem := by
  grind -ring -linarith -order [State.forward, State.answer_mem]

@[simp] theorem State.sendOn_mem (s : State) (m : Return) : (s.sendOn m).mem = s.mem := by
  grind -ring -linarith -order [State.sendOn, State.answer_mem]

@[simp] theorem State.deliver_mem (s : State) (m : Return) : (s.deliver m).mem = s.mem := by
  grind -ring -linarith -order [State.deliver, State.onBalance_mem, State.applyReturn_mem, State.sendOn_mem, State.forward_mem]

@[simp] theorem State.tellMembers_mem (s : State) (r : BitVec 4) (d : BitVec 10) : (s.tellMembers r d).mem = s.mem := by
  grind -ring -linarith -order [State.tellMembers, State.answer_mem, foldl_mem]

theorem State.joinDomain_canonical {r : BitVec 4} {d : BitVec 10} {lid : BitVec 32} (h : s.Canonical) :
    (s.joinDomain r d lid).Canonical := by
  grind -ring -linarith -order [State.joinDomain, State.recheckJoin_canonical, State.tellMembers_mem, State.onRoot_mem, State.answer_mem]

theorem State.asGroup_canonical {k : Nat} {f : State → State} (h : s.Canonical) (hf : ∀ u, u.Canonical → (f u).Canonical) :
    (s.asGroup k f).Canonical := by
  grind -ring -linarith -order [State.asGroup, State.turnTo_mem]

@[simp] theorem State.give_mem (s : State) (d : BitVec 10) : (s.give d).mem = s.mem := by
  grind -ring -linarith -order [State.give, State.onG_mem, State.giveBack_mem]

@[simp] theorem State.take_mem (s : State) (u : Nat) : (s.take u).mem = s.mem := by
  grind -ring -linarith -order [State.take, State.onG_mem, State.giveBack_mem]

@[simp] theorem State.retQw_mem (s : State) (lost : Bool) : (s.retQw lost).mem = s.mem := by
  grind -ring -linarith -order [State.retQw, State.onG_mem, State.giveBack_mem]

@[simp] theorem State.askBorrow_mem (s : State) (units : Nat) : (s.askBorrow units).mem = s.mem := by
  grind -ring -linarith -order [State.askBorrow, State.onG_mem, State.send_mem]

@[simp] theorem State.split_mem (s : State) : s.split.st.mem = s.mem := by
  grind -ring -linarith -order [State.split, State.onG_mem, State.askBorrow_mem, Split.st]

@[simp] theorem State.lend_mem (s : State) (k : Nat) (r : BitVec 4) (d : BitVec 10) (units : Nat) : (s.lend k r d units).mem = s.mem := by
  grind -ring -linarith -order [State.lend, State.giveBack_mem, State.onGroup_mem]

theorem Split.elim_canonical {x : Split} {done : State → Nat → Out} {nodomain : State → Out} (h : x.st.Canonical)
    (hdone : ∀ u e, u.Canonical → (done u e).Canonical) (hnone : ∀ u, u.Canonical → (nodomain u).Canonical) :
    (x.elim done nodomain).Canonical := by
  cases x with
  | done u e => exact hdone u e h
  | wait u => exact Out.canonical_next.mpr h
  | nodomain u => exact hnone u h

theorem State.openHere_canonical (h : s.Canonical) : s.openHere.Canonical := by
  grind -ring -linarith -order [State.openHere, State.stall_canonical, State.joinDomain_canonical, State.take_mem, State.done_canonical]

theorem execQopen_canonical (h : s.Canonical) : (execQopen s).Canonical := by
  grind -ring -linarith -order [execQopen, State.onRoot_mem, State.joinDomain_canonical, State.take_mem, State.done_canonical,
    State.openHere_canonical, State.onG_mem, State.askBorrow_mem, State.stall_canonical, Out.canonical_next]

theorem execQret_canonical (h : s.Canonical) : (execQret s).Canonical := by
  grind -ring -linarith -order [execQret, State.retQw_mem, State.done_canonical]

theorem execQwait_canonical (h : s.Canonical) : (execQwait s).Canonical := by
  grind -ring -linarith -order [execQwait, State.retQw_mem, State.done_canonical, State.send_mem, State.waitOn_canonical,
    State.endQuiet_mem, State.trapU_canonical]

theorem execWeirReturn_canonical (h : s.Canonical) : (execWeirReturn s).Canonical := by
  grind -ring -linarith -order [execWeirReturn, State.deliver_mem, Out.canonical_next]

theorem execWeirBorrow_canonical (grp : Nat) (h : s.Canonical) : (execWeirBorrow grp s).Canonical := by
  grind -ring -linarith -order [execWeirBorrow, State.lend_mem, State.onRoot_mem, State.onGroup_mem, Out.canonical_next]

@[simp] theorem State.returnCqw_mem (s : State) (c : Channel) (lost : Bool) : (s.returnCqw c lost).mem = s.mem := by
  grind -ring -linarith -order [State.returnCqw, State.onChannel_mem, State.giveBack_mem]

/-! `Machine/Life`. -/

@[simp] theorem State.serveClaims_mem (s : State) (r : BitVec 4) (c : CoreId) (n : Nat) : (State.serveClaims r c n s).mem = s.mem := by
  induction n generalizing s with
  | zero => rfl
  | succ n ih => grind -ring -linarith -order [State.serveClaims, State.onCore_mem, State.onTeamOf_mem, State.onGroup_mem,
    State.satisfyOne_mem]

@[simp] theorem State.tilesFreed_mem (s : State) (r : BitVec 4) (c : CoreId) : (s.tilesFreed r c).mem = s.mem := by
  grind -ring -linarith -order [State.tilesFreed, State.serveClaims_mem]

theorem State.deviceWrite_canonical {r : BitVec 4} {va : Nat} {bs : List Byte} (h : s.Canonical) : (s.deviceWrite r va bs).Canonical := by
  grind -ring -linarith -order [State.deviceWrite, install_wf, homeWrite_wf]

theorem State.updateAcct_canonical {lid : BitVec 32} {final : Bool} (h : s.Canonical) : (s.updateAcct lid final).Canonical := by
  grind -ring -linarith -order [State.updateAcct, State.deviceWrite_canonical, State.onLaunch_mem]

@[simp] theorem State.entryBack_mem (s : State) (q : QEntry) (lost : Bool) : (s.entryBack q lost).mem = s.mem := by
  grind -ring -linarith -order [State.entryBack, State.giveBack_mem]

@[simp] theorem State.destroyQueue_mem (s : State) (r : BitVec 4) (q : BitVec 32) : (s.destroyQueue r q).mem = s.mem := by
  grind -ring -linarith -order [State.destroyQueue, State.entryBack_mem, foldl_mem]

@[simp] theorem State.targetEnded_mem (s : State) (lid : BitVec 32) : (s.targetEnded lid).mem = s.mem := by
  grind -ring -linarith -order [State.targetEnded, State.failOne_mem, State.forget_mem, foldl_mem]

theorem State.endLaunch_canonical {lid : BitVec 32} (h : s.Canonical) : (s.endLaunch lid).Canonical := by
  grind -ring -linarith -order [State.endLaunch, State.updateAcct_canonical, State.targetEnded_mem, State.onLaunch_mem,
    State.returnCqw_mem, State.destroyQueue_mem, State.applyWatches_mem, State.onCore_mem, foldl_canonical]

theorem State.endTeam_canonical {t : Team} (h : s.Canonical) : (s.endTeam t).Canonical := by
  grind -ring -linarith -order [State.endTeam, State.onTeamOnly_mem, State.tilesFreed_mem, State.endLaunch_canonical]

theorem State.endGroup_canonical {k : Nat} {lost : Bool} (h : s.Canonical) : (s.endGroup k lost).Canonical := by
  grind -ring -linarith -order [State.endGroup, State.dropWaits_mem, State.giveBack_mem, State.onGroup_mem, State.onCore_mem,
    State.tilesFreed_mem, State.onTeamOnly_mem, State.memberEnded_mem, State.endTeam_canonical]

theorem State.uncontain_canonical {k : Nat} {detail : Nat} (h : s.Canonical) : (s.uncontain k detail).Canonical := by
  grind -ring -linarith -order [State.uncontain, State.box_mem, State.report_mem, State.endGroup_canonical]

@[simp] theorem State.restartAt_mem (s : State) (k : Nat) : (s.restartAt k).mem = s.mem := by
  grind -ring -linarith -order [State.restartAt, State.endRuns_mem, State.cutWait_mem]

theorem State.consumeBy_canonical {k : Nat} (h : s.Canonical) : (s.consumeBy k).Canonical := by
  grind -ring -linarith -order [State.consumeBy, State.restartAt_mem, State.uncontain_canonical]

theorem State.consume_canonical (h : s.Canonical) : s.consume.Canonical := by
  grind -ring -linarith -order [State.consume, State.consumeBy_canonical, Out.canonical_next]

theorem State.consumeOutside_canonical (h : s.Canonical) : s.consumeOutside.Canonical := by
  grind -ring -linarith -order [State.consumeOutside, State.uncontain_canonical, Out.canonical_next]

/-! `Machine/Boundary`. -/

@[simp] theorem State.onPair_mem (s : State) (f : Group → Group) : (s.onPair f).mem = s.mem := by
  grind -ring -linarith -order [State.onPair, State.onG_mem, State.onGroup_mem]

@[simp] theorem State.closeBound_mem (s : State) (b : Bound) : (State.closeBound b s).mem = s.mem := by
  grind -ring -linarith -order [State.closeBound, State.visible_mem, State.onPair_mem]

theorem State.atBound_canonical {b : Bound} {drains : Bool} {finish : State → Out} (h : s.Canonical)
    (hfinish : ∀ u, u.Canonical → (finish u).Canonical) : (s.atBound b drains finish).Canonical := by
  grind -ring -linarith -order [State.atBound, State.closeBound_mem, State.stall_canonical, State.trapU_canonical,
    State.consumeBy_canonical, State.onPair_mem, Out.canonical_next]

theorem State.afterImplicit_canonical {sc : Nat} {overlap : Bool} {go : State → Out} (h : s.Canonical)
    (hgo : ∀ u, u.Canonical → (go u).Canonical) : (s.afterImplicit sc overlap go).Canonical := by
  grind -ring -linarith -order [State.afterImplicit, State.atBound_canonical]

theorem execPhase_canonical (sc : PScope) (h : s.Canonical) : (execPhase sc s).Canonical := by
  grind -ring -linarith -order [execPhase, State.atBound_canonical, State.done_canonical]

theorem execXfence_canonical (h : s.Canonical) : (execXfence s).Canonical := by
  grind -ring -linarith -order [execXfence, State.atBound_canonical, State.done_canonical]

@[simp] theorem State.emptyWord_mem (s : State) (w : Nat) : (s.emptyWord w).mem = s.mem := rfl

@[simp] theorem State.setFull_mem (s : State) (w : Nat) : (s.setFull w).mem = s.mem := by
  grind -ring -linarith -order [State.setFull]

@[simp] theorem State.newFill_mem (s : State) (w : Nat) : (s.newFill w).mem = s.mem := rfl

@[simp] theorem State.acquireWord_mem (s : State) (g : Group) (key n : Nat) : (s.acquireWord g key n).mem = s.mem := rfl

theorem State.serveLane_canonical {k : Nat} {l : Lane} (h : s.Canonical) : (s.serveLane k l).Canonical := by
  grind -ring -linarith -order [State.serveLane, State.uncontain_canonical, State.consumeBy_canonical, State.onGroup_mem,
    State.acquireWord_mem, State.satisfyOne_mem]

@[simp] theorem State.grantHeader_mem (s : State) (t : Team) (c : MCmd) (w : Nat) : (s.grantHeader t c w).mem = s.mem := rfl

theorem State.serveWord_canonical {w : Nat} (h : s.Canonical) : (s.serveWord w).Canonical := by
  grind -ring -linarith -order [State.serveWord, State.serveLane_canonical, State.grantHeader_mem, State.emptyWord_mem, foldl_canonical]

theorem State.fillWord_canonical {w : Nat} (h : s.Canonical) : (s.fillWord w).Canonical := by
  grind -ring -linarith -order [State.fillWord, State.serveWord_canonical, State.setFull_mem]

theorem State.modeWord8_canonical {m : BindMode} {w : Nat} (h : s.Canonical) : (s.modeWord8 m w).Canonical := by
  unfold State.modeWord8
  grind -ring -linarith -order [State.emptyWord_mem, State.fillWord_canonical, State.newFill_mem]

theorem State.bindRange_canonical {key len : Nat} {b : Option (Producer × BitVec 4)} {m : BindMode} (h : s.Canonical) :
    (s.bindRange key len b m).Canonical := by
  unfold State.bindRange
  grind -ring -linarith -order [State.recheckGranules_canonical, State.modeWord8_canonical, foldl_canonical]

theorem execFebind_canonical (sa sb sc : SReg) (mode : BindMode) (h : s.Canonical) : (execFebind sa sb sc mode s).Canonical := by
  grind -ring -linarith -order [execFebind, State.trapU_canonical, State.done_canonical, State.bindRange_canonical]

/-! `Machine/MemInstr`. -/

@[simp] theorem State.seenAll_mem (s : State) (r : Reader) (n : Nat) (ps : List Probe) : (s.seenAll r n ps).mem = s.mem := by
  grind -ring -linarith -order [State.seenAll, State.seen_mem, foldl_mem]

theorem State.load_canonical {signed : Bool} {i : Instr} {w : Width} {d a : LReg} {off : BitVec 3} {la : La} {gd : Guard}
    (h : s.Canonical) : (s.load signed i w d a off la gd).Canonical := by
  grind -ring -linarith -order [State.load, State.checked_canonical, State.done_canonical, State.consume_canonical,
    State.installAll_canonical, State.seenAll_mem]

theorem State.doneSide_canonical {g : Group} (h : s.Canonical) : (s.doneSide g).Canonical := by
  grind -ring -linarith -order [State.doneSide, State.claimSide_canonical, Out.canonical_next]

theorem State.store_canonical {n : Nat} {ps : List Probe} {data : Nat → List Byte} {watched : Bool} (h : s.Canonical) :
    (s.store n ps data watched).Canonical := by
  grind -ring -linarith -order [State.store, State.stall_canonical, State.doneSide_canonical, State.installAll_canonical]

theorem execSt_canonical (w : Width) (d a : LReg) (off : BitVec 3) (_la : La) (g : Guard) (h : s.Canonical) :
    (execSt w d a off _la g s).Canonical := by
  grind -ring -linarith -order [execSt, State.checked_canonical, State.store_canonical]

theorem execSld_canonical (w : Width) (sd sa : SReg) (off : BitVec 7) (la : La) (h : s.Canonical) :
    (execSld w sd sa off la s).Canonical := by
  grind -ring -linarith -order [execSld, State.trapU_canonical, State.suspend_canonical, State.done_canonical, State.installAll_canonical,
    State.consume_canonical, State.seenAll_mem]

theorem execSst_canonical (w : Width) (sd sa : SReg) (off : BitVec 7) (_la : La) (h : s.Canonical) :
    (execSst w sd sa off _la s).Canonical := by
  grind -ring -linarith -order [execSst, State.trapU_canonical, State.store_canonical]

theorem State.feCheck_canonical {empties : Bool} {w : Wait} {waits : List Probe} (h : s.Canonical) :
    (s.feCheck empties w waits).st.Canonical := by
  grind -ring -linarith -order [State.feCheck, State.checkWait_canonical]

theorem State.feLoad_canonical {empties : Bool} {w : Width} {d a : LReg} {off : BitVec 3} {gd : Guard} (h : s.Canonical) :
    (s.feLoad empties w d a off gd).Canonical := by
  grind -ring -linarith -order [State.feLoad, State.feCheck_canonical, State.checked_canonical, State.trapAt_canonical,
    State.afterImplicit_canonical, State.consumeOutside_canonical, State.consume_canonical, State.acquireWord_mem, State.done_canonical,
    State.beginWait_canonical, State.onG_mem, foldl_canonical]

theorem State.fillBy_canonical {g : Group} {key : Nat} {bs : List Byte} (h : s.Canonical) : (s.fillBy g key bs).Canonical := by
  grind -ring -linarith -order [State.fillBy, State.unlearn_mem, State.homeWriteBy_canonical, State.fillWord_canonical,
    State.releaseTo_mem, State.newFill_mem]

theorem execStfe_canonical (w : Width) (d a : LReg) (off : BitVec 3) (_la : La) (gd : Guard) (h : s.Canonical) :
    (execStfe w d a off _la gd s).Canonical := by
  grind -ring -linarith -order [execStfe, State.checked_canonical, State.trapAt_canonical, State.afterImplicit_canonical,
    State.consumeOutside_canonical, State.fillBy_canonical, State.done_canonical, foldl_canonical]

@[simp] theorem State.rmwOrder_mem (s : State) (g : Group) (scope : Nat) (l : Loc) (n : Nat) : (s.rmwOrder g scope l n).mem = s.mem := rfl

theorem State.rmwWrite_canonical {g : Group} {scope : Nat} {l : Loc} {bs : List Byte} (h : s.Canonical) :
    (s.rmwWrite g scope l bs).Canonical := by
  grind -ring -linarith -order [State.rmwWrite, State.rmwOrder_mem, State.homeWriteBy_canonical]

theorem State.rmw_canonical {g : Group} {scope : Nat} {l : Loc} {n : Nat} {f : Nat → Nat} (h : s.Canonical) :
    (s.rmw g scope l n f).1.Canonical := by
  grind -ring -linarith -order [State.rmw, State.rmwWrite_canonical]

theorem State.rmwLanes_canonical {g : Group} {scope n : Nat} {ps : List Probe} {f : Nat → Nat → Nat} (h : s.Canonical) :
    (s.rmwLanes g scope n ps f).1.Canonical := by
  grind -ring -linarith -order [State.rmwLanes, State.rmw_canonical, foldl_fst_canonical]

theorem State.atomic_canonical {i : Instr} {w64 : Bool} {d a b : LReg} {la : La} {f : Group → Nat → Nat → Nat} (h : s.Canonical) :
    (s.atomic i w64 d a b la f).Canonical := by
  grind -ring -linarith -order [State.atomic, State.checked_canonical, State.afterImplicit_canonical, State.consumeOutside_canonical,
    State.rmwLanes_canonical, State.installAll_canonical, State.done_canonical]

theorem State.atom_canonical {i : Instr} {w64 : Bool} {d a b : LReg} {la : La} (h : s.Canonical) : (s.atom i w64 d a b la).Canonical := by
  grind -ring -linarith -order [State.atom, State.atomic_canonical]

theorem State.redAt_canonical {g : Group} {scope : Nat} {l : Loc} {op : RedOp} {rm : BitVec 2} {n b : Nat} (h : s.Canonical) :
    (s.redAt g scope l op rm n b).1.Canonical := by
  grind -ring -linarith -order [State.redAt, State.rmwWrite_canonical]

theorem execRed_canonical (op : RedOp) (w64 : Bool) (sc : LxScope) (a b : LReg) (_la : La) (h : s.Canonical) :
    (execRed op w64 sc a b _la s).Canonical := by
  grind -ring -linarith -order [execRed, State.checked_canonical, State.afterImplicit_canonical, State.consumeOutside_canonical,
    State.stall_canonical, State.redAt_canonical, State.installAll_canonical, State.doneSide_canonical, foldl_fst_canonical]

/-! `Machine/Control`. -/

theorem State.jump_canonical {g : Group} {pc : Word} (h : s.Canonical) : (s.jump g pc).Canonical := by
  grind -ring -linarith -order [State.jump, Out.canonical_next]

theorem State.jumpWait_canonical {g : Group} {pc : Word} {w : Wait} (h : s.Canonical) : (s.jumpWait g pc w).Canonical := by
  grind -ring -linarith -order [State.jumpWait, Out.canonical_next]

theorem execBra_canonical (c : BCond) (p : PReg) (off : BitVec 15) (h : s.Canonical) : (execBra c p off s).Canonical := by
  grind -ring -linarith -order [execBra, State.jump_canonical, State.done_canonical]

theorem execRet_canonical (h : s.Canonical) : (execRet s).Canonical := by
  grind -ring -linarith -order [execRet, State.trapU_canonical, State.jump_canonical]

theorem State.stackFull_canonical (h : s.Canonical) : s.stackFull.Canonical := by
  grind -ring -linarith -order [State.stackFull, State.trapU_canonical]

theorem execBrd_canonical (p : PReg) (off : BitVec 18) (h : s.Canonical) : (execBrd p off s).Canonical := by
  grind -ring -linarith -order [execBrd, State.done_canonical, State.jump_canonical, State.stackFull_canonical]

theorem execJpush_canonical (off : BitVec 25) (h : s.Canonical) : (execJpush off s).Canonical := by
  grind -ring -linarith -order [execJpush, State.stackFull_canonical, State.done_canonical]

theorem execJoin_canonical (h : s.Canonical) : (execJoin s).Canonical := by
  grind -ring -linarith -order [execJoin, State.jump_canonical, State.trapU_canonical, State.onG_mem]

theorem State.readAt_canonical {once : Bool} {n : Nat} {a : Word} {k : State → Nat → Out} (h : s.Canonical)
    (hk : ∀ u x, u.Canonical → (k u x).Canonical) : (s.readAt once n a k).Canonical := by
  grind -ring -linarith -order [State.readAt, State.trapU_canonical, State.suspend_canonical, State.installAll_canonical,
    State.consume_canonical, State.seenAll_mem, State.onG_mem, Out.canonical_next]

theorem State.readEach_canonical {n : Nat} {as : List Word} {k : State → List Nat → Out} (h : s.Canonical)
    (hk : ∀ u xs, u.Canonical → (k u xs).Canonical) : (State.readEach n as s k).Canonical := by
  induction as generalizing s k with
  | nil => exact hk s [] h
  | cons a as ih => exact State.readAt_canonical h fun u x hu => ih hu fun v xs hv => hk v (x :: xs) hv

theorem execBrx_canonical (va : LReg) (table : BitVec 19) (h : s.Canonical) : (execBrx va table s).Canonical := by
  grind -ring -linarith -order [execBrx, State.readAt_canonical, State.jump_canonical, State.trapAt_canonical, State.readEach_canonical,
    State.stackFull_canonical]

theorem execExit_canonical (h : s.Canonical) : (execExit s).Canonical := by
  grind -ring -linarith -order [execExit, State.jump_canonical, State.stall_canonical, State.atBound_canonical, State.onG_mem,
    State.endGroup_canonical, Out.canonical_next]

theorem execRft_canonical (h : s.Canonical) : (execRft s).Canonical := by
  grind -ring -linarith -order [execRft, State.trapU_canonical, State.stall_canonical, State.jump_canonical]

theorem execRgn_canonical (region : BitVec 18) (h : s.Canonical) : (execRgn region s).Canonical := by
  grind -ring -linarith -order [execRgn, State.readAt_canonical, State.done_canonical]

@[simp] theorem State.invalidate_mem (s : State) (lv : IcLevel) (c : CoreId) (self : Nat) : (s.invalidate lv c self).mem = s.mem := rfl

/-! `Machine/Csr`. -/

@[simp] theorem State.watchSet_mem (s : State) (g : Group) (n : Nat) (x : Word) : (s.watchSet g n x).mem = s.mem := by
  grind -ring -linarith -order [State.watchSet, State.onCore_mem]

@[simp] theorem State.mailOut_mem (s : State) (k n : Nat) (x : Word) : (s.mailOut k n x).mem = s.mem := by
  grind -ring -linarith -order [State.mailOut, State.onGroup_mem, State.report_mem]

@[simp] theorem State.csrSet_mem (s : State) (k n : Nat) (x : Word) : (s.csrSet k n x).mem = s.mem := by
  unfold State.csrSet
  grind -ring -linarith -order [State.onGroup_mem, State.mailOut_mem, State.watchSet_mem]

theorem State.flagWait_canonical {n : Nat} {go : Out} (h : s.Canonical) (hgo : go.Canonical) :
    (s.flagWait n go).Canonical := by
  grind -ring -linarith -order [State.flagWait, State.stall_canonical]

theorem execCsrr_canonical (dst : CsrDst) (csr : BitVec 12) (h : s.Canonical) : (execCsrr dst csr s).Canonical := by
  unfold execCsrr
  grind -ring -linarith -order [State.trapU_canonical, State.flagWait_canonical, State.done_canonical]

theorem execCsrw_canonical (csr : BitVec 12) (sa : SReg) (h : s.Canonical) : (execCsrw csr sa s).Canonical := by
  grind -ring -linarith -order [execCsrw, State.trapU_canonical, State.flagWait_canonical, State.csrSet_mem, State.done_canonical]

theorem execFflagsAccess_canonical (h : s.Canonical) : (execFflagsAccess s).Canonical := by
  grind -ring -linarith -order [execFflagsAccess, State.flagWait_canonical, Out.canonical_next]

theorem execDbgout15Write_canonical (val : Word) (h : s.Canonical) : (execDbgout15Write val s).Canonical := by
  grind -ring -linarith -order [execDbgout15Write, State.mailOut_mem, Out.canonical_next]

theorem execWatchWrite_canonical (n : BitVec 3) (val : Word) (h : s.Canonical) : (execWatchWrite n val s).Canonical := by
  grind -ring -linarith -order [execWatchWrite, State.watchSet_mem, Out.canonical_next]

/-! `Machine/Integer`. -/

theorem execMovi_canonical (d : LReg) (h : HSel) (imm : BitVec 16) (hs : s.Canonical) : (execMovi d h imm s).Canonical := by
  grind -ring -linarith -order [execMovi, State.done_canonical]

/-! `Machine/Tasks`. -/

@[simp] theorem State.onQueue_mem (s : State) (r : BitVec 4) (q : BitVec 32) (f : Queue → Queue) : (s.onQueue r q f).mem = s.mem := rfl

theorem State.toOverflow_canonical {x : QEntry} (e : s.toOverflow x = some t) (h : s.Canonical) : t.Canonical := by
  grind -ring -linarith -order [State.toOverflow, State.deviceWrite_canonical]

theorem State.moveEach_canonical {es : List QEntry} {f : State → QEntry → Option State} (h : s.Canonical)
    (hf : ∀ u e t, u.Canonical → f u e = some t → t.Canonical) : (s.moveEach es f).Canonical := by
  refine foldl_canonical _ (fun u e hu => ?_) es h
  exact getD_canonical (fun t ht => hf { u with entries := u.entries.erase e } e t hu ht) hu

theorem State.spillLevel_canonical {p : Place} (h : s.Canonical) : (s.spillLevel p).Canonical := by
  grind -ring -linarith -order [State.spillLevel, State.moveEach_canonical, → State.toOverflow_canonical]

theorem State.placeAt_canonical {x : QEntry} {p : Place} (e : s.placeAt x p = some t) (h : s.Canonical) : t.Canonical := by
  grind -ring -linarith -order [State.placeAt, State.spillLevel_canonical]

theorem State.placeEntry_canonical {home : Nat} {x : QEntry} (e : s.placeEntry home x = some t) (h : s.Canonical) : t.Canonical := by
  refine orElse_canonical (fun t e => ?_) (fun t e => State.toOverflow_canonical e h) e
  exact findSome?_canonical (fun p t e => State.placeAt_canonical e h) e

@[simp] theorem State.joinEntry_mem (s : State) (g : Group) (x : QEntry) : (s.joinEntry g x).mem = s.mem := by
  grind -ring -linarith -order [State.joinEntry, State.unorder_mem, State.orderAfter_mem]

theorem State.popTo_canonical {k : Nat} {sd : SReg} {x : QEntry} (h : s.Canonical) : (s.popTo k sd x).Canonical := by
  grind -ring -linarith -order [State.popTo, State.asGroup_canonical, State.joinEntry_mem, State.onG_mem, State.joinDomain_canonical,
    State.take_mem, State.give_mem]

theorem State.popBad_canonical {k : Nat} {sd : SReg} {x : QEntry} (h : s.Canonical) : (s.popBad k sd x).Canonical := by
  grind -ring -linarith -order [State.popBad, State.uncontain_canonical, State.popTo_canonical]

theorem State.serveDeq_canonical {r : BitVec 4} {q : BitVec 32} {c : CoreId} {n : Nat} (h : s.Canonical) :
    (State.serveDeq r q c n s).Canonical := by
  induction n generalizing s with
  | zero => exact h
  | succ n ih => grind -ring -linarith -order [State.serveDeq, State.popBad_canonical, State.popTo_canonical, State.satisfyOne_mem]

theorem State.serveQueue_canonical {r : BitVec 4} {q : BitVec 32} (h : s.Canonical) : (s.serveQueue r q).Canonical := by
  grind -ring -linarith -order [State.serveQueue, State.serveDeq_canonical, foldl_canonical]

theorem State.serveAll_canonical (h : s.Canonical) : s.serveAll.Canonical := by
  grind -ring -linarith -order [State.serveAll, State.serveQueue_canonical, foldl_canonical]

@[simp] theorem State.wharfTake_mem (s : State) (r : BitVec 4) (q : BitVec 32) : (s.wharfTake r q).mem = s.mem := by
  grind -ring -linarith -order [State.wharfTake]

theorem State.arrive_canonical {q : Queue} {x : QEntry} (e : s.arrive q x = some t) (h : s.Canonical) : t.Canonical := by
  grind -ring -linarith -order [State.arrive, → State.placeEntry_canonical, State.wharfTake_mem, State.serveQueue_canonical,
    Option.map_eq_some_iff]

theorem State.produce_canonical {q : Queue} {lid : BitVec 32} (h : s.Canonical) : (s.produce q lid).Canonical := by
  grind -ring -linarith -order [State.produce, State.recheckJoin_canonical, State.onQueue_mem]

theorem State.enqueue_canonical {e : QEntry} (h : s.Canonical) : (s.enqueue e).1.Canonical := by
  grind -ring -linarith -order [State.enqueue, State.produce_canonical, → State.arrive_canonical]

@[simp] theorem State.setCounter_mem (s : State) (c : Counter) : (s.setCounter c).mem = s.mem := rfl

@[simp] theorem State.quotaTrap_mem (s : State) (e : QEntry) : (s.quotaTrap e).mem = s.mem := by
  grind -ring -linarith -order [State.quotaTrap, State.failAll_mem]

theorem State.admitEntry_canonical {q : Queue} {x : QEntry} (e : s.admitEntry q x = some t) (h : s.Canonical) : t.Canonical := by
  grind -ring -linarith -order [State.admitEntry, → State.arrive_canonical]

theorem State.release_canonical {c : Counter} (h : s.Canonical) : (s.release c).Canonical := by
  grind -ring -linarith -order [State.release, → State.admitEntry_canonical, State.setCounter_mem, State.quotaTrap_mem]

theorem State.decrement_canonical {n : Nat} {die ctr : Nat} (e : s.decrement die ctr = some (t, n)) (h : s.Canonical) : t.Canonical := by
  grind -ring -linarith -order [State.decrement, State.release_canonical, State.setCounter_mem]

theorem State.park_canonical {e : QEntry} {die ctr count : Nat} (h : s.Canonical) : (s.park e die ctr count).1.Canonical := by
  grind -ring -linarith -order [State.park, State.produce_canonical, → State.arrive_canonical, State.setCounter_mem]

@[simp] theorem State.made_mem (s : State) (x : QEntry) : (s.made x).mem = s.mem := rfl

theorem State.statusDone_canonical {sd : SReg} {code count : Nat} (h : s.Canonical) : (s.statusDone sd code count).Canonical := by
  grind -ring -linarith -order [State.statusDone, State.done_canonical]

theorem State.weigh_canonical {sd : SReg} {e : Entry} {go : State → Nat → Out} (h : s.Canonical)
    (hgo : ∀ u w, u.Canonical → (go u w).Canonical) : (s.weigh sd e go).Canonical := by
  have hsplit : (s.give (entryDomain e)).split.st.Canonical := by
    rw [State.Canonical, State.split_mem, State.give_mem]
    exact h
  have helim := Split.elim_canonical hsplit
    (done := fun u w => go (u.joinDomain u.greach (entryDomain e) u.g.launch) w) (nodomain := fun u => u.statusDone sd 0x11 0)
    (fun u w hu => hgo _ w (State.joinDomain_canonical hu)) (fun u hu => State.statusDone_canonical hu)
  grind -ring -linarith -order [State.weigh, State.statusDone_canonical]

theorem State.weighedDone_canonical {sd : SReg} {e : QEntry} {code : Nat} (h : s.Canonical) : (s.weighedDone sd e code).Canonical := by
  grind -ring -linarith -order [State.weighedDone, State.statusDone_canonical, State.entryBack_mem]

@[simp] theorem State.onProxy_mem (s : State) (r : BitVec 4) (d : BitVec 10) (f : Proxy → Proxy) : (s.onProxy r d f).mem = s.mem := rfl

@[simp] theorem State.sendUnits_mem (s : State) (r : BitVec 4) (d : BitVec 10) (dev : BitVec 8) (units : Nat) :
    (s.sendUnits r d dev units).mem = s.mem := by
  grind -ring -linarith -order [State.sendUnits, State.onBalance_mem, State.onProxy_mem, State.answer_mem]

@[simp] theorem State.unsendUnits_mem (s : State) (r : BitVec 4) (d : BitVec 10) (dev : BitVec 8) (units : Nat) :
    (s.unsendUnits r d dev units).mem = s.mem := by
  grind -ring -linarith -order [State.unsendUnits, State.onBalance_mem, State.onProxy_mem, State.answer_mem]

theorem State.sendEntry_canonical {dev : BitVec 8} {e : QEntry} {sent : State → Nat → Out} {lost : State → Out}
    {op : Nat → Nat} {m : Nat → RemoteMsg} (h : s.Canonical) (hsent : ∀ u tag, u.Canonical → (sent u tag).Canonical)
    (hlost : ∀ u, u.Canonical → (lost u).Canonical) : (s.sendEntry dev e sent lost op m).Canonical := by
  grind -ring -linarith -order [State.sendEntry, State.sendUnits_mem, State.send_mem]

theorem execEnq_canonical (sd sa sb : SReg) (la : La) (h : s.Canonical) : (execEnq sd sa sb la s).Canonical := by
  grind -ring -linarith -order [execEnq, State.weigh_canonical, State.weighedDone_canonical, State.enqueue_canonical, State.made_mem,
    State.sendEntry_canonical, State.done_canonical]

theorem State.dequeue_canonical {sd sa : SReg} {blocking : Bool} (h : s.Canonical) : (s.dequeue sd sa blocking).Canonical := by
  grind -ring -linarith -order [State.dequeue, State.trapU_canonical, State.popBad_canonical, State.popTo_canonical, State.done_canonical,
    State.waitOn_canonical, Out.canonical_next]

theorem execDeparm_canonical (sd sa sb : SReg) (la : La) (h : s.Canonical) : (execDeparm sd sa sb la s).Canonical := by
  grind -ring -linarith -order [execDeparm, State.trapU_canonical, State.weigh_canonical, State.weighedDone_canonical,
    State.park_canonical, State.made_mem, State.sendEntry_canonical, State.waitOn_canonical]

@[simp] theorem State.decrements_mem (s : State) (die ctr : Nat) : (s.decrements die ctr).mem = s.mem := by
  grind -ring -linarith -order [State.decrements, State.releaseTo_mem]

theorem execDepdec_canonical (sd sa : SReg) (_la : La) (h : s.Canonical) : (execDepdec sd sa _la s).Canonical := by
  unfold execDepdec
  dsimp only
  split
  · exact State.trapU_canonical h
  split
  · exact State.trapU_canonical h
  split
  · exact State.waitOn_canonical h
  split
  · exact State.trapU_canonical h
  grind -ring -linarith -order [State.trapU_canonical, State.decrements_mem, → State.decrement_canonical, State.done_canonical]

theorem execQueueInstantiate_canonical (reach : BitVec 4) (owner : Option (BitVec 32)) (bs : List Byte) (h : s.Canonical) :
    (execQueueInstantiate reach owner bs s).Canonical := by
  grind -ring -linarith -order [execQueueInstantiate, State.reply_mem, Out.canonical_next]

theorem execQueueDestroy_canonical (reach : BitVec 4) (qnum : BitVec 32) (h : s.Canonical) :
    (execQueueDestroy reach qnum s).Canonical := by
  grind -ring -linarith -order [execQueueDestroy, State.reply_mem, State.destroyQueue_mem, Out.canonical_next]

theorem execCounterAssign_canonical (die first last : Nat) (reach : BitVec 4) (h : s.Canonical) :
    (execCounterAssign die first last reach s).Canonical := by
  grind -ring -linarith -order [execCounterAssign, State.reply_mem, Out.canonical_next]

theorem State.moveUp_canonical {p : Place} (h : s.Canonical) : (s.moveUp p).Canonical := by
  grind -ring -linarith -order [State.moveUp, State.moveEach_canonical, → State.placeAt_canonical, → State.toOverflow_canonical]

theorem State.lower_canonical {p : Place} {es : List QEntry} {r : BitVec 4} {q : BitVec 32} (h : s.Canonical) :
    (s.lower p es r q).Canonical := by
  grind -ring -linarith -order [State.lower, State.serveQueue_canonical, State.moveEach_canonical, → State.placeAt_canonical]

theorem State.moveDown_canonical {c : CoreId} {r : BitVec 4} {q : BitVec 32} (h : s.Canonical) : (s.moveDown c r q).Canonical := by
  grind -ring -linarith -order [State.moveDown, State.lower_canonical]

theorem State.moveToCluster_canonical {d c : Nat} {r : BitVec 4} {q : BitVec 32} (h : s.Canonical) :
    (s.moveToCluster d c r q).Canonical := by
  grind -ring -linarith -order [State.moveToCluster, State.lower_canonical]

theorem State.ovfDown_canonical {d : Nat} (h : s.Canonical) : (s.ovfDown d).Canonical := by
  grind -ring -linarith -order [State.ovfDown, State.moveEach_canonical, → State.placeAt_canonical]

theorem execBasinMove_canonical (dir : BasinDir) (h : s.Canonical) : (execBasinMove dir s).Canonical := by
  unfold execBasinMove
  grind -ring -linarith -order [State.moveUp_canonical, State.moveDown_canonical, State.moveToCluster_canonical, State.ovfDown_canonical,
    State.spillLevel_canonical, foldl_canonical, Out.canonical_next]

theorem execUnadmittedAdmit_canonical (die ctr : Nat) (h : s.Canonical) : (execUnadmittedAdmit die ctr s).Canonical := by
  grind -ring -linarith -order [execUnadmittedAdmit, State.release_canonical, Out.canonical_next]

@[simp] theorem State.addProxy_mem (s : State) (r : BitVec 4) (d : BitVec 10) (root : BitVec 8) (units : Nat) :
    (s.addProxy r d root units).mem = s.mem := by
  grind -ring -linarith -order [State.addProxy]

@[simp] theorem State.bringUnits_mem (s : State) (src : BitVec 8) (r : BitVec 4) (e : Entry) (root : BitVec 8) :
    (s.bringUnits src r e root).mem = s.mem := by
  grind -ring -linarith -order [State.bringUnits, State.onBalance_mem, State.addProxy_mem]

@[simp] theorem State.replyEntry_mem (s : State) (src : BitVec 8) (tag code wexp : Nat) :
    (s.replyEntry src tag code wexp).mem = s.mem := rfl

theorem State.remoteEntry_canonical {src : BitVec 8} {x : QEntry} {root : BitVec 8} {tag : Nat} {f : State → State × Nat}
    (h : s.Canonical) (hf : ∀ u, u.Canonical → (f u).1.Canonical) : (s.remoteEntry src x root tag f).Canonical := by
  grind -ring -linarith -order [State.remoteEntry, State.replyEntry_mem, State.bringUnits_mem]

@[simp] theorem State.takeStatus_mem (s : State) (m : OutMsg) (status : Word) : (s.takeStatus m status).mem = s.mem := by
  grind -ring -linarith -order [State.takeStatus, State.giveBack_mem, State.unsendUnits_mem, State.writeStatus_mem, State.failOne_mem,
    State.satisfyOne_mem, State.onGroup_mem]

@[simp] theorem State.borrowed_mem (s : State) (m : OutMsg) (r : BitVec 4) (d : BitVec 10) (units : Nat) (granted : Bool) :
    (s.borrowed m r d units granted).mem = s.mem := by
  grind -ring -linarith -order [State.borrowed, State.addProxy_mem, State.onChannel_mem, State.giveBack_mem, State.lend_mem,
    State.onGroup_mem]

theorem State.membersIn_canonical {r : BitVec 4} {d : BitVec 10} {dev : BitVec 8} {ms : List (BitVec 32)} (h : s.Canonical) :
    (s.membersIn r d dev ms).Canonical := by
  grind -ring -linarith -order [State.membersIn, State.onFarRoot_mem, State.setFarRoot_mem, State.recheckJoin_canonical, foldl_canonical]

theorem State.remoteMessage_canonical {m : RemoteMsg} (h : s.Canonical) : (s.remoteMessage m).Canonical := by
  unfold State.remoteMessage
  grind -ring -linarith -order [State.remoteEntry_canonical, State.enqueue_canonical, State.replyEntry_mem, State.park_canonical,
    State.answer_mem, → State.decrement_canonical, State.applyReturn_mem, State.onBalance_mem, State.sendOn_mem,
    State.joinDomain_canonical, State.onRoot_mem, → State.answered_mem, State.borrowed_mem, State.takeStatus_mem, State.tellMembers_mem,
    State.quiesce_mem, State.membersIn_canonical, State.setFarRoot_mem, State.satisfyOne_mem, State.failOne_mem]

/-! `Machine/Engine`. -/

@[simp] theorem State.sendFlits_mem (s : State) (die : Nat) (lid : BitVec 32) (cls : Nat) (dev : BitVec 8) :
    (s.sendFlits die lid cls dev).mem = s.mem := by
  grind -ring -linarith -order [State.sendFlits]

@[simp] theorem State.engineFlits_mem (s : State) (v : View) (ls : List Loc) : (s.engineFlits v ls).mem = s.mem := by
  grind -ring -linarith -order [State.engineFlits, State.sendFlits_mem, foldl_mem]

@[simp] theorem State.opSeen_mem (s : State) (v : View) (ls : List Loc) : (s.opSeen v ls).mem = s.mem := by
  grind -ring -linarith -order [State.opSeen, State.seen_mem, State.engineFlits_mem, foldl_mem]

theorem State.opWrite_canonical {v : View} {l : Loc} {bs : List Byte} (h : s.Canonical) : (s.opWrite v l bs).Canonical := by
  grind -ring -linarith -order [State.opWrite, State.homeWriteBy_canonical, State.unlearn_mem, homeWrite_wf]

@[simp] theorem State.engineFault_mem (s : State) (v : View) (lid : BitVec 32) (acc : Acc) (h : Hit) :
    (s.engineFault v lid acc h).mem = s.mem := by
  unfold State.engineFault
  grind -ring -linarith -order

@[simp] theorem State.unstick_mem (s : State) (v : View) : (s.unstick v).mem = s.mem := rfl

theorem State.engineRead_canonical {v : View} {lid : BitVec 32} {n : Nat} {a : Word} (h : s.Canonical) :
    (s.engineRead v lid n a).st.Canonical := by
  grind -ring -linarith -order [State.engineRead, State.engineFault_mem, install_wf, State.opSeen_mem, ERead.st, foldl_canonical]

@[simp] theorem State.poisonWords_mem (s : State) (ks : List Nat) : (s.poisonWords ks).mem = s.mem := rfl

theorem State.commit_canonical {v : View} {fs : List Found} (h : s.Canonical) : (s.commit v fs).Canonical := by
  grind -ring -linarith -order [State.commit, install_wf, State.engineFlits_mem, State.opWrite_canonical, State.poisonWords_mem,
    foldl_canonical]

theorem State.readSources_canonical {v : View} {ms : List Move} (h : s.Canonical) : (s.readSources v ms).Canonical := by
  grind -ring -linarith -order [State.readSources, State.opSeen_mem, install_wf, foldl_canonical]

theorem State.moves_canonical {v : View} {lid : BitVec 32} {ms : List Move} {skip : List Nat} (h : s.Canonical) :
    (s.moves v lid ms skip).st.Canonical := by
  grind -ring -linarith -order [State.moves, State.engineFault_mem, State.readSources_canonical, State.unstick_mem,
    State.commit_canonical, Moved.st]

theorem State.moveGranule_canonical {v : View} {ms : List Move} {skip : List Nat} {g : Nat} (e : s.moveGranule v ms skip g = some t)
    (h : s.Canonical) : t.Canonical := by
  grind -ring -linarith -order [State.moveGranule, State.commit_canonical, State.readSources_canonical]

/-! `Machine/Tug`. -/

@[simp] theorem State.fork_mem (s : State) (op : Nat) : (s.fork op).mem = s.mem := rfl

theorem State.oneShot_canonical {sd : SReg} {la : La} {src dst : Word} {sstride dstride rowBytes rows : Nat} (h : s.Canonical) :
    (s.oneShot sd la src dst sstride dstride rowBytes rows).Canonical := by
  grind -ring -linarith -order [State.oneShot, State.stall_canonical, State.done_canonical, State.fork_mem]

theorem State.oneShotGranule_canonical {id g : Nat} (h : s.Canonical) : (s.oneShotGranule id g).Canonical := by
  grind -ring -linarith -order [State.oneShotGranule, → State.moveGranule_canonical]

theorem execOneShotCompletion_canonical (id : Nat) (h : s.Canonical) : (execOneShotCompletion id s).Canonical := by
  grind -ring -linarith -order [execOneShotCompletion, State.writeStatus_mem, State.moves_canonical, Moved.st, Out.canonical_next]

@[simp] theorem State.joinUpTo_mem (s : State) (g : Group) (h : BitVec 9) (n : BitVec 32) : (s.joinUpTo g h n).mem = s.mem := rfl

@[simp] theorem State.joinBy_mem (s : State) (g : Group) (j : Join) : (s.joinBy g j).mem = s.mem := by
  unfold State.joinBy
  grind -ring -linarith -order [State.orderAfter_mem, State.joinUpTo_mem]

@[simp] theorem State.settleChannel_mem (s : State) (h : BitVec 9) : (s.settleChannel h).mem = s.mem := by
  grind -ring -linarith -order [State.settleChannel, State.onChannel_mem, State.writeStatus_mem, State.joinUpTo_mem, State.satisfyAll_mem,
    State.failAll_mem, State.returnCqw_mem, foldl_mem]

theorem State.withChannel_canonical {x : Word} {go : BitVec 9 → Option Channel → Out} (h : s.Canonical)
    (hgo : ∀ n c, (go n c).Canonical) : (s.withChannel x go).Canonical := by
  grind -ring -linarith -order [State.withChannel, State.trapU_canonical]

theorem State.withOwn_canonical {x : Word} {go : Channel → Out} (h : s.Canonical) (hgo : ∀ c, (go c).Canonical) :
    (s.withOwn x go).Canonical := by
  refine State.withChannel_canonical h fun n c => ?_
  grind -ring -linarith -order [State.trapU_canonical]

theorem execChead_canonical (sd sa sb : SReg) (_la : La) (h : s.Canonical) : (execChead sd sa sb _la s).Canonical := by
  grind -ring -linarith -order [execChead, State.withOwn_canonical, State.onChannel_mem, State.waitOn_canonical, State.writeStatus_mem,
    State.settleChannel_mem, State.done_canonical, foldl_canonical]

theorem State.fill_canonical {c : Channel} {go refused : State → Out} (h : s.Canonical)
    (hgo : ∀ u, u.Canonical → (go u).Canonical) (hrefused : ∀ u, u.Canonical → (refused u).Canonical) :
    (s.fill c go refused).Canonical := by
  unfold State.fill
  split
  · exact hgo s h
  · refine Split.elim_canonical ?_ (fun u e hu => hgo _ (State.joinDomain_canonical ?_)) hrefused
    · grind -ring -linarith -order [State.split_mem, State.onChannel_mem, State.returnCqw_mem]
    · grind -ring -linarith -order [State.onChannel_mem, State.returnCqw_mem]

theorem State.sendCtail_canonical {c : Channel} {sd : SReg} {tail : Word} {la : La} {refused : Bool} {upd : Channel → Channel}
    (h : s.Canonical) : (s.sendCtail c sd tail la refused upd).Canonical := by
  grind -ring -linarith -order [State.sendCtail, State.fork_mem, State.settleChannel_mem, State.onChannel_mem, State.done_canonical]

theorem execCtail_canonical (sd sa sb : SReg) (la : La) (h : s.Canonical) : (execCtail sd sa sb la s).Canonical := by
  grind -ring -linarith -order [execCtail, State.withOwn_canonical, State.fill_canonical, State.sendCtail_canonical]

theorem execRecordTake_canonical (handle : BitVec 9) (h : s.Canonical) : (execRecordTake handle s).Canonical := by
  grind -ring -linarith -order [execRecordTake, State.settleChannel_mem, State.onChannel_mem, State.engineRead_canonical,
    State.orderAfter_mem, State.unstick_mem, ERead.st, Out.canonical_next]

theorem State.readList_canonical {v : View} {lid : BitVec 32} {a : Word} {n : Nat} (h : s.Canonical) :
    (s.readList v lid a n).st.Canonical := by
  induction n with
  | zero => exact h
  | succ n ih => grind -ring -linarith -order [State.readList, State.engineRead_canonical, ERead.st]

theorem State.plan_canonical {v : View} {lid : BitVec 32} {bs : List Byte} (h : s.Canonical) : (s.plan v lid bs).st.Canonical := by
  grind -ring -linarith -order [State.plan, State.readList_canonical, ERead.st, Plan.st]

@[simp] theorem State.fillOrder_mem (s : State) (v : View) (k : Nat) : (s.fillOrder v k).mem = s.mem := by
  grind -ring -linarith -order [State.fillOrder, State.orderAfter_mem, State.newFill_mem]

theorem State.fillAction_canonical {v : View} {arg status : Word} (h : s.Canonical) : (s.fillAction v arg status).1.Canonical := by
  grind -ring -linarith -order [State.fillAction, State.fillWord_canonical, State.fillOrder_mem, State.opWrite_canonical]

@[simp] theorem State.channelBorrow_mem (s : State) (c : Channel) : (s.channelBorrow c).st.mem = s.mem := by
  grind -ring -linarith -order [State.channelBorrow, State.onChannel_mem, State.onRoot_mem, State.send_mem, Weight.st]

@[simp] theorem State.channelWeight_mem (s : State) (c : Channel) (e : Entry) : (s.channelWeight c e).st.mem = s.mem := by
  grind -ring -linarith -order [State.channelWeight, State.onChannel_mem, State.channelBorrow_mem, Weight.st]

theorem State.enqueueAction_canonical {c : Channel} {e : Entry} {r : Rec} (h : s.Canonical) : (s.enqueueAction c e r).st.Canonical := by
  grind -ring -linarith -order [State.enqueueAction, State.channelWeight_mem, State.enqueue_canonical, State.entryBack_mem, Weight.st,
    Acted.st]

theorem State.action_canonical {c : Channel} {v : View} {r : Rec} {bs : List Byte} {status : Word} (h : s.Canonical) :
    (s.action c v r bs status).st.Canonical := by
  grind -ring -linarith -order [State.action, State.fillAction_canonical, State.engineRead_canonical, State.enqueueAction_canonical,
    ERead.st, Acted.st]

@[simp] theorem State.onRec_mem (s : State) (h : BitVec 9) (num : BitVec 32) (f : Rec → Rec) : (s.onRec h num f).mem = s.mem := rfl

@[simp] theorem State.recordEnd_mem (s : State) (h : BitVec 9) (num : BitVec 32) (code : Nat) : (s.recordEnd h num code).mem = s.mem := by
  grind -ring -linarith -order [State.recordEnd, State.settleChannel_mem, State.onChannel_mem]

theorem State.recordRewrite_canonical {c : Channel} {v : View} {r : Rec} {code : Nat} (h : s.Canonical) :
    (s.recordRewrite c v r code).Canonical := by
  grind -ring -linarith -order [State.recordRewrite, State.moves_canonical, State.onRec_mem, State.recordEnd_mem, Moved.st]

theorem State.recordAct_canonical {c : Channel} {v : View} {r : Rec} {bs : List Byte} {code : Nat} (h : s.Canonical) :
    (s.recordAct c v r bs code).Canonical := by
  grind -ring -linarith -order [State.recordAct, State.action_canonical, State.onRec_mem, State.unstick_mem, State.recordEnd_mem,
    State.recordRewrite_canonical, Acted.st]

theorem State.recordFinish_canonical {c : Channel} {v : View} {r : Rec} {bs : List Byte} {code : Nat} (h : s.Canonical) :
    (s.recordFinish c v r bs code).Canonical := by
  grind -ring -linarith -order [State.recordFinish, State.moves_canonical, State.onRec_mem, State.recordAct_canonical, Moved.st]

theorem State.recordGranule_canonical {h : BitVec 9} {num : BitVec 32} {g : Nat} (hs : s.Canonical) :
    (s.recordGranule h num g).Canonical := by
  grind -ring -linarith -order [State.recordGranule, State.plan_canonical, → State.moveGranule_canonical, State.onRec_mem, Plan.st]

theorem execRecordCompletion_canonical (handle : BitVec 9) (num : BitVec 32) (h : s.Canonical) :
    (execRecordCompletion handle num s).Canonical := by
  unfold execRecordCompletion
  split
  · exact Out.canonical_next.mpr h
  next c _ =>
    split
    · exact Out.canonical_next.mpr h
    next r _ =>
      refine Out.canonical_ite (Out.canonical_next.mpr h) ?_
      generalize (if r.wrote.isEmpty then s.recBytes c r else r.bytes) = bs
      grind -ring -linarith -order [State.recordFinish_canonical, State.recordAct_canonical, State.recordRewrite_canonical,
        State.plan_canonical, Plan.st, State.moves_canonical, Moved.st, Out.canonical_next]

theorem execChannelAssign_canonical (handle : BitVec 9) (lid : BitVec 32) (h : s.Canonical) :
    (execChannelAssign handle lid s).Canonical := by
  grind -ring -linarith -order [execChannelAssign, State.reply_mem, Out.canonical_next]

theorem execWaitseq_canonical (sa sb : SReg) (h : s.Canonical) : (execWaitseq sa sb s).Canonical := by
  grind -ring -linarith -order [execWaitseq, State.withChannel_canonical, State.trapU_canonical, State.joinUpTo_mem, State.done_canonical,
    State.waitOn_canonical]

theorem execYield_canonical (sd : SReg) (off : BitVec 19) (h : s.Canonical) : (execYield sd off s).Canonical := by
  grind -ring -linarith -order [execYield, State.jumpWait_canonical, State.jump_canonical]

@[simp] theorem State.collTold_mem (s : State) (lid : BitVec 32) (tag : Word) (die : Nat) : (s.collTold lid tag die).mem = s.mem := rfl

theorem execColl_canonical (k : CollKind) (sd sa sb : SReg) (la : La) (h : s.Canonical) : (execColl k sd sa sb la s).Canonical := by
  grind -ring -linarith -order [execColl, State.done_canonical, State.collTold_mem, State.fork_mem]

theorem State.readColl_canonical {c : Coll} (h : s.Canonical) : (s.readColl c).st.Canonical := by
  grind -ring -linarith -order [State.readColl, State.engineRead_canonical, State.readList_canonical, ERead.st, CRead.st]

@[simp] theorem State.endColls_mem (s : State) (cs : List (Coll × Nat × Nat)) : (s.endColls cs).mem = s.mem := by
  grind -ring -linarith -order [State.endColls, State.writeStatus_mem, foldl_mem]

@[simp] theorem State.endBad_mem (s : State) (lid : BitVec 32) (tag : Word) (cs : List (Coll × Nat × Nat)) (ds : List CDesc) :
    (s.endBad lid tag cs ds).mem = s.mem := by
  grind -ring -linarith -order [State.endBad, State.endColls_mem]

theorem State.deliverColl_canonical {c : Coll} {d : CDesc} {xs : List (Nat × Bool)} {code : Nat} (h : s.Canonical) :
    (s.deliverColl c d xs code).Canonical := by
  grind -ring -linarith -order [State.deliverColl, State.commit_canonical, State.readSources_canonical]

theorem State.finishColl_canonical {good : List (Coll × CDesc)} {d0 : CDesc} {k : CollKind} (h : s.Canonical) :
    (s.finishColl good d0 k).Canonical := by
  grind -ring -linarith -order [State.finishColl, State.deliverColl_canonical, State.unstick_mem, State.sendFlits_mem, State.endColls_mem,
    foldl_canonical]

/-- What the loop over a collective's members holds: the state that its first wait would leave, and the state it has come to. -/
def CollRead (r : Option State × List (Coll × Nat × Nat) × List (Coll × CDesc) × State) : Prop :=
  (∀ t, r.1 = some t → t.Canonical) ∧ r.2.2.2.Canonical

theorem State.collAt_canonical {lid : BitVec 32} {tag : Word} (h : s.Canonical) : (s.collAt lid tag).st.Canonical := by
  unfold State.collAt
  dsimp only
  generalize hr : List.foldl _ _ _ = r
  have sound : CollRead r := by
    rw [← hr]
    refine List.foldlRecOn _ _ ⟨fun _ e => (Option.some_ne_none _ e.symm).elim, h⟩ fun r hr c _ => ?_
    obtain ⟨first, last⟩ := hr
    have read := State.readColl_canonical (c := c) last
    split
    case h_1 u e =>
      rw [e] at read
      refine ⟨fun t ht => ?_, last⟩
      exact orElse_canonical (f := fun _ => some u) first (fun w hw => Option.some.inj hw ▸ read) ht
    case h_2 u k e =>
      rw [e] at read
      exact ⟨first, read⟩
    case h_3 u d e =>
      rw [e] at read
      exact ⟨first, read⟩
  obtain ⟨first, last⟩ := sound
  split
  case h_1 t rest => exact first t rfl
  case h_2 errs good u =>
    replace last : u.Canonical := last
    clear first hr
    grind -ring -linarith -order [State.endBad_mem, State.endColls_mem, State.engineFault_mem, CollAt.st]

theorem execCollCompletion_canonical (lid : BitVec 32) (tag : Word) (h : s.Canonical) : (execCollCompletion lid tag s).Canonical := by
  grind -ring -linarith -order [execCollCompletion, State.collAt_canonical, State.finishColl_canonical, CollAt.st, Out.canonical_next]

theorem State.collGranule_canonical {op g : Nat} (h : s.Canonical) : (s.collGranule op g).Canonical := by
  grind -ring -linarith -order [State.collGranule, State.collAt_canonical, State.commit_canonical, State.readSources_canonical, CollAt.st]

/-! `Machine/Tensor`. -/

theorem State.installDir_canonical {v : View} {d : Desc} {c : List Nat} (h : s.Canonical) : (s.installDir v d c).Canonical := by
  grind -ring -linarith -order [State.installDir, install_wf]

theorem State.tensorAccess_canonical {acc : Acc} {slot : BitVec 5} {m : Mask} {a : LReg}
    {go : Shape → List (Nat × List TElem) → List Probe → Out} (h : s.Canonical) (hgo : ∀ sh es ps, (go sh es ps).Canonical) :
    (s.tensorAccess acc slot m a go).Canonical := by
  grind -ring -linarith -order [State.tensorAccess, State.done_canonical, State.trapAt_canonical, State.consume_canonical,
    State.checked_canonical]

theorem State.installElems_canonical {g : Group} {acc : Acc} {d : Desc} {es : List (Nat × List TElem)} (h : s.Canonical) :
    (s.installElems g acc d es).Canonical := by
  grind -ring -linarith -order [State.installElems, State.installDir_canonical, State.installAll_canonical, foldl_canonical]

@[simp] theorem State.seenElems_mem (s : State) (r : Reader) (sh : Shape) (lane : Nat) (es : List TElem) :
    (s.seenElems r sh lane es).mem = s.mem := by
  grind -ring -linarith -order [State.seenElems, State.seen_mem, foldl_mem]

theorem execTload_canonical (slot : BitVec 5) (d a : LReg) (la : La) (gd : Guard) (h : s.Canonical) :
    (execTload slot d a la gd s).Canonical := by
  grind -ring -linarith -order [execTload, State.tensorAccess_canonical, State.done_canonical, State.consume_canonical,
    State.installElems_canonical, State.seenElems_mem, foldl_canonical]

theorem execTstore_canonical (slot : BitVec 5) (d a : LReg) (_la : La) (gd : Guard) (h : s.Canonical) :
    (execTstore slot d a _la gd s).Canonical := by
  grind -ring -linarith -order [execTstore, State.tensorAccess_canonical, State.consume_canonical, State.stall_canonical,
    State.doneSide_canonical, State.installElems_canonical]

@[simp] theorem State.setSlot_mem (s : State) (slot : BitVec 5) (x : Option Shape) : (s.setSlot slot x).mem = s.mem := rfl

theorem execTsload_canonical (slot : BitVec 5) (sa : SReg) (h : s.Canonical) : (execTsload slot sa s).Canonical := by
  grind -ring -linarith -order [execTsload, State.stall_canonical, State.readAt_canonical, State.trapU_canonical, State.setSlot_mem,
    State.done_canonical]

theorem execTsevict_canonical (slot : BitVec 5) (sa : SReg) (h : s.Canonical) : (execTsevict slot sa s).Canonical := by
  grind -ring -linarith -order [execTsevict, State.done_canonical, State.stall_canonical, State.consume_canonical, State.setSlot_mem,
    State.trapU_canonical, State.store_canonical]

@[simp] theorem State.onConv_mem (s : State) (id : Nat) (f : Conv → Conv) : (s.onConv id f).mem = s.mem := rfl

@[simp] theorem State.endConv_mem (s : State) (id code count : Nat) : (s.endConv id code count).mem = s.mem := by
  grind -ring -linarith -order [State.endConv, State.writeStatus_mem]

@[simp] theorem State.renew_mem (s : State) (r : BitVec 4) (attach : Nat) (d : Desc) : (s.renew r attach d).mem = s.mem := rfl

theorem execDredgerBegin_canonical (id : Nat) (h : s.Canonical) : (execDredgerBegin id s).Canonical := by
  unfold execDredgerBegin
  split
  · exact Out.canonical_next.mpr h
  next c _ =>
    have ends (code : Nat) : Out.Canonical (.next (s.endConv id code 0)) := Out.canonical_next.mpr (by rwa [State.Canonical,
      State.endConv_mem])
    refine Out.canonical_ite (Out.canonical_next.mpr h) (Out.canonical_ite (ends 3) (Out.canonical_ite (ends 1) ?_))
    grind -ring -linarith -order [State.engineRead_canonical, ERead.st, State.moves_canonical, Moved.st, State.endConv_mem,
      State.renew_mem, State.onConv_mem, Out.canonical_next]

theorem State.putElem_canonical {put : State → Loc → List Byte → State} {d : Desc} {l : Loc} {bit x : Nat} (h : s.Canonical)
    (hput : ∀ u l bs, u.Canonical → (put u l bs).Canonical) : (s.putElem put d l bit x).Canonical :=
  hput s l _ h

theorem State.copySlab_canonical {c : Conv} (h : s.Canonical) : (s.copySlab c).st.Canonical := by
  grind -ring -linarith -order [State.copySlab, State.engineFault_mem, install_wf, State.unstick_mem, State.putElem_canonical,
    homeWrite_wf, State.poisonWords_mem, State.moves_canonical, Moved.st, foldl_canonical]

theorem execSlabCommit_canonical (id : Nat) (h : s.Canonical) : (execSlabCommit id s).Canonical := by
  grind -ring -linarith -order [execSlabCommit, State.copySlab_canonical, State.onConv_mem, State.endConv_mem, State.engineRead_canonical,
    State.moves_canonical, ERead.st, Moved.st, Out.canonical_next]

theorem execDredgerComplete_canonical (id : Nat) (h : s.Canonical) : (execDredgerComplete id s).Canonical := by
  grind -ring -linarith -order [execDredgerComplete, State.moves_canonical, State.endConv_mem, State.renew_mem, Moved.st,
    Out.canonical_next]

@[simp] theorem State.markDirty_mem (s : State) (r : BitVec 4) (t : HeldT) : (s.markDirty r t).mem = s.mem := rfl

theorem State.writeElem_canonical {g : Group} {put : State → Loc → List Byte → State} {x : HeldT}
    (e : s.writeElem g put x = .ok t) (h : s.Canonical) (hput : ∀ u l bs, u.Canonical → (put u l bs).Canonical) : t.Canonical := by
  have hdir : (s.installDir (s.viewOf g) x.desc x.coord).Canonical := State.installDir_canonical h
  unfold State.writeElem at e
  dsimp only at e
  split at e
  · cases e
  split at e
  · cases e
  split at e
  · cases e
  split at e
  · split at e
    · cases e
    split at e
    · exact TWrite.ok.inj e ▸ hdir
    · refine TWrite.ok.inj e ▸ State.putElem_canonical ?_ hput
      grind -ring -linarith -order [install_wf, State.markDirty_mem]
  · cases e
  · cases e

/-! `Machine/Matrix`. -/

theorem execOclaim_canonical (sd sa : SReg) (_la : La) (h : s.Canonical) : (execOclaim sd sa _la s).Canonical := by
  grind -ring -linarith -order [execOclaim, State.trapU_canonical, State.done_canonical, State.onTeamOf_mem]

theorem execAclaim_canonical (sd sa : SReg) (_la : La) (h : s.Canonical) : (execAclaim sd sa _la s).Canonical := by
  grind -ring -linarith -order [execAclaim, State.trapU_canonical, State.done_canonical, State.onTeamOf_mem, State.checkWait_canonical,
    State.trapAt_canonical, State.beginWait_canonical, State.onCore_mem]

theorem State.releaseClaims_canonical {tile : Bool} {sd sa : SReg} (h : s.Canonical) : (s.releaseClaims tile sd sa).Canonical := by
  grind -ring -linarith -order [State.releaseClaims, State.done_canonical, State.trapU_canonical, State.stall_canonical,
    State.onTeamOf_mem, State.tilesFreed_mem]

@[simp] theorem State.forkCmd_mem (s : State) (t : Team) (c : MCmd) : (s.forkCmd t c).mem = s.mem := by
  grind -ring -linarith -order [State.forkCmd, State.orderAfter_mem, foldl_mem]

@[simp] theorem State.joinCmds_mem (s : State) (g : Group) (t : Team) (n : BitVec 32) : (s.joinCmds g t n).mem = s.mem := rfl

theorem State.queueCmd_canonical {sd : SReg} {word : Word} {fmt : Word × Word} {ring : Option (Word × Word)} (h : s.Canonical) :
    (s.queueCmd sd word fmt ring).Canonical := by
  grind -ring -linarith -order [State.queueCmd, State.trapU_canonical, State.waitOn_canonical, State.onTeamOf_mem, State.forkCmd_mem,
    State.done_canonical]

theorem execMloop_canonical (sd sa sb : SReg) (_la : La) (h : s.Canonical) : (execMloop sd sa sb _la s).Canonical := by
  grind -ring -linarith -order [execMloop, State.readAt_canonical, State.queueCmd_canonical]

theorem execMloopWait_canonical (sa : SReg) (_la : La) (h : s.Canonical) : (execMloopWait sa _la s).Canonical := by
  grind -ring -linarith -order [execMloopWait, State.done_canonical, State.joinCmds_mem, State.waitOn_canonical]

@[simp] theorem State.healTile_mem (s : State) (core : CoreId) (tile : Nat) : (s.healTile core tile).mem = s.mem := rfl

@[simp] theorem State.cmdSeen_mem (s : State) (t : Team) (c : MCmd) (n : Nat) : (s.cmdSeen t c n).mem = s.mem := by
  grind -ring -linarith -order [State.cmdSeen, State.seen_mem]

theorem State.runStep_canonical {t : Team} {c : MCmd} (h : s.Canonical) : (s.runStep t c).Canonical := by
  grind -ring -linarith -order [State.runStep, State.healTile_mem, writeTile_wf, State.cmdSeen_mem, State.poisonWords_mem]

theorem State.kStep_canonical {t : Team} (h : s.Canonical) : (s.kStep t).Canonical := by
  unfold State.kStep
  split
  · exact h
  next c rest _ =>
    have hrun : (s.runStep t c).Canonical := State.runStep_canonical h
    refine State.canonical_ite h (State.canonical_ite hrun (State.endTeam_canonical ?_))
    rw [State.Canonical, State.satisfyAll_mem]
    refine foldl_canonical _ (fun u g hu => ?_) _ hrun
    grind -ring -linarith -order [State.joinCmds_mem]

theorem execKStep_canonical (lid : BitVec 32) (team : Nat) (h : s.Canonical) : (execKStep lid team s).Canonical := by
  grind -ring -linarith -order [execKStep, State.kStep_canonical, foldl_canonical, Out.canonical_next]

theorem State.copyTile_canonical {t : Team} {c : MCmd} {src dst n : Nat} (h : s.Canonical) : (s.copyTile t c src dst n).Canonical := by
  grind -ring -linarith -order [State.copyTile, State.homeWriteBy_canonical, State.seen_mem, State.poisonWords_mem]

theorem State.takeEntry_canonical {t : Team} {c : MCmd} {rest : List MCmd} {r : Word × Word} {e : Nat} (h : s.Canonical) :
    (s.takeEntry t c rest r e).Canonical := by
  grind -ring -linarith -order [State.takeEntry, State.copyTile_canonical, State.onTeamOnly_mem, State.homeWriteBy_canonical,
    State.fillWord_canonical, State.orderAfter_mem, State.newFill_mem]

theorem State.acquire_canonical {t : Team} (h : s.Canonical) : (s.acquire t).Canonical := by
  grind -ring -linarith -order [State.acquire, State.takeEntry_canonical, State.onTeamOnly_mem, State.grantHeader_mem]

theorem execRingEntryAcquire_canonical (lid : BitVec 32) (team : Nat) (h : s.Canonical) :
    (execRingEntryAcquire lid team s).Canonical := by
  grind -ring -linarith -order [execRingEntryAcquire, State.acquire_canonical, foldl_canonical, Out.canonical_next]

theorem State.withTile_canonical {tile : Nat} {go : Team → Out} (h : s.Canonical) (hgo : ∀ t, (go t).Canonical) :
    (s.withTile tile go).Canonical := by
  grind -ring -linarith -order [State.withTile, State.trapU_canonical]

theorem execAread_canonical (f : AFmt) (vd : LReg) (sa : SReg) (_la : La) (h : s.Canonical) : (execAread f vd sa _la s).Canonical := by
  grind -ring -linarith -order [execAread, State.withTile_canonical, State.consume_canonical, State.order_mem, State.done_canonical]

theorem execAzero_canonical (sa : SReg) (_la : La) (h : s.Canonical) : (execAzero sa _la s).Canonical := by
  grind -ring -linarith -order [execAzero, State.withTile_canonical, State.order_mem, State.healTile_mem, writeTile_wf,
    State.done_canonical]

/-! `Machine/Service`. -/

@[simp] theorem State.endRun_mem (s : State) (k : Nat) (keep : List Nat) : (s.endRun k keep).mem = s.mem := rfl

@[simp] theorem State.parkRun_mem (s : State) (k : Nat) : (s.parkRun k).mem = s.mem := rfl

@[simp] theorem State.afterTrap_mem (s : State) (k : Nat) (pc : Word) : (s.afterTrap k pc).mem = s.mem := by
  grind -ring -linarith -order [State.afterTrap, State.parkRun_mem, State.packet_mem, State.endRun_mem, State.onGroup_mem,
    State.emPacket_mem]

@[simp] theorem State.trapBoth_mem (s : State) (g : Group) (cause : Nat) (info : Word) (lanes : Mask) (pc : Word) :
    (s.trapBoth g cause info lanes pc).mem = s.mem := by
  grind -ring -linarith -order [State.trapBoth, State.afterTrap_mem, State.trapGroup_mem]

@[simp] theorem State.drainFault_mem (s : State) (g : Group) (va : Nat) (h : Hit) : (s.drainFault g va h).mem = s.mem := by
  unfold State.drainFault
  grind -ring -linarith -order

@[simp] theorem State.loseDrains_mem (s : State) (k : Nat) : (s.loseDrains k).mem = s.mem := by
  grind -ring -linarith -order [State.loseDrains, State.onGroup_mem, State.trapBoth_mem]

@[simp] theorem State.drained_mem (s : State) (k : Nat) (sc : Option Nat) : (s.drained k sc).mem = s.mem := by
  unfold State.drained
  grind -ring -linarith -order [State.visible_mem]

theorem State.drainByte_canonical {k : Nat} {g : Group} {h : Held} {l : Loc} {full : Bool} {sc : Option Nat} (hs : s.Canonical) :
    (s.drainByte k g h l full sc).Canonical := by
  grind -ring -linarith -order [State.drainByte, State.drainTo_canonical, State.drained_mem]

theorem State.drainToSide_canonical {k : Nat} {g : Group} {h : Held} {va : Nat} {why : Hit} (hs : s.Canonical) :
    (s.drainToSide k g h va why).Canonical := by
  grind -ring -linarith -order [State.drainToSide, State.claimSide_canonical, State.onGroup_mem, State.drainFault_mem]

theorem State.drainOne_canonical {k : Nat} {g : Group} {n : Nat} {d : Drain} (h : s.Canonical) : (s.drainOne k g n d).Canonical := by
  unfold State.drainOne
  grind -ring -linarith -order [State.onGroup_mem, State.consumeBy_canonical, State.loseDrains_mem, State.drainByte_canonical, install_wf,
    State.drainToSide_canonical, → State.writeElem_canonical, State.drainAll_canonical, State.drained_mem, State.claimSide_canonical,
    State.drainFault_mem]

theorem execDrainComplete_canonical (grp n : Nat) (h : s.Canonical) : (execDrainComplete grp n s).Canonical := by
  grind -ring -linarith -order [execDrainComplete, State.drainOne_canonical, Out.canonical_next]

theorem execRedAck_canonical (grp : Nat) (h : s.Canonical) : (execRedAck grp s).Canonical := by
  grind -ring -linarith -order [execRedAck, State.onGroup_mem, Out.canonical_next]

theorem State.drainFirst_canonical {g : Group} {sc po : Nat} (h : s.Canonical) : (s.drainFirst g sc po).Canonical := by
  grind -ring -linarith -order [State.drainFirst, State.consumeBy_canonical, State.mapGroups_mem]

theorem State.replaySide_canonical {k : Nat} {g : Group} {d : Side} {l : Loc} (e : s.replaySide k g d l = some t) (h : s.Canonical) :
    t.Canonical := by
  grind -ring -linarith -order [State.replaySide, State.onGroup_mem, install_wf, State.consumeBy_canonical, State.uncontain_canonical,
    State.drainFirst_canonical, State.redAt_canonical]

theorem State.replayAll_canonical {k : Nat} {es : List Side} (h : s.Canonical) : (State.replayAll k es s).Canonical := by
  induction es generalizing s with
  | nil => exact h
  | cons e es ih => grind -ring -linarith -order [State.replayAll, → State.replaySide_canonical]

theorem execSideLogReplay_canonical (grp page : Nat) (h : s.Canonical) : (execSideLogReplay grp page s).Canonical := by
  grind -ring -linarith -order [execSideLogReplay, State.replayAll_canonical, Out.canonical_next]

@[simp] theorem State.heldSeen_mem (s : State) (g : Group) (h : HeldOp) (ps : List Probe) : (s.heldSeen g h ps).mem = s.mem := by
  grind -ring -linarith -order [State.heldSeen, State.seenElems_mem, State.seenAll_mem, foldl_mem]

theorem State.heldInstall_canonical {g : Group} {h : HeldOp} {ps : List Probe} (hs : s.Canonical) : (s.heldInstall g h ps).Canonical := by
  grind -ring -linarith -order [State.heldInstall, State.installElems_canonical, State.installAll_canonical]

theorem State.serveHeld_canonical {k : Nat} {h : HeldOp} (hs : s.Canonical) : (State.serveHeld k s h).Canonical := by
  grind -ring -linarith -order [State.serveHeld, State.onGroup_mem, State.trapBoth_mem, State.uncontain_canonical,
    State.consumeBy_canonical, State.drainFirst_canonical, State.rmwLanes_canonical, State.installAll_canonical,
    State.heldInstall_canonical, State.heldSeen_mem]

theorem State.loadArrives_canonical {k : Nat} (h : s.Canonical) : (s.loadArrives k).Canonical := by
  grind -ring -linarith -order [State.loadArrives, State.satisfyAll_mem, State.serveHeld_canonical, foldl_canonical]

@[simp] theorem State.releaseFetch_mem (s : State) (k : Nat) : (s.releaseFetch k).mem = s.mem := by
  grind -ring -linarith -order [State.releaseFetch, State.onGroup_mem]

theorem execFaultServiceEnd_canonical (grp : Nat) (h : s.Canonical) : (execFaultServiceEnd grp s).Canonical := by
  grind -ring -linarith -order [execFaultServiceEnd, State.satisfyAll_mem, State.serveHeld_canonical, State.releaseFetch_mem,
    foldl_canonical, Out.canonical_next]

@[simp] theorem State.strike_mem (s : State) (loc : ErrLoc) : (s.strike loc).mem = s.mem := by
  unfold State.strike
  grind -ring -linarith -order [State.onGroup_mem, State.poisonWords_mem]

theorem execSoftError_canonical (loc : ErrLoc) (uncorrectable : Bool) (h : s.Canonical) :
    (execSoftError loc uncorrectable s).Canonical := by
  grind -ring -linarith -order [execSoftError, State.strike_mem, Out.canonical_next]

/-! `Machine/Issue`. -/

theorem State.fetched_canonical {l : Loc} (h : s.Canonical) : (s.fetched l).Canonical := by
  grind -ring -linarith -order [State.fetched, install_wf]

/-! `Machine/Context`. -/

theorem State.putNumbered_canonical {r : BitVec 4} {x : Numbered} (h : s.Canonical) : (s.putNumbered r x).Canonical := by
  unfold State.putNumbered
  split
  · exact h
  · exact foldl_wf _ (fun _ _ hm => memPut_wf hm) _ (filter_wf _ h)

theorem State.restoreImages_canonical {c : Context} (h : s.Canonical) : (s.restoreImages c).Canonical :=
  foldl_canonical _ (fun _ _ hu => State.putNumbered_canonical hu) _ (foldl_wf _ (fun _ _ hm => memPut_wf hm) _ (filter_wf _ h))

@[simp] theorem State.takeIn_mem (s : State) (c : Context) : (s.takeIn c).mem = s.mem := rfl

@[simp] theorem State.takeClaims_mem (s : State) (r : BitVec 4) : (s.takeClaims r).mem = s.mem := by
  grind -ring -linarith -order [State.takeClaims, State.joinClaims_mem, foldl_mem]

theorem State.readContext_canonical {c : Context} (h : s.Canonical) : (s.readContext c).Canonical := by
  grind -ring -linarith -order [State.readContext, State.takeClaims_mem, State.takeIn_mem, State.restoreImages_canonical,
    State.rehomeAll_mem]

/-! `Machine/Schedule`. -/

theorem execPortAssignment_canonical (core : CoreId) (port : Bool) (h : s.Canonical) : (execPortAssignment core port s).Canonical := by
  grind -ring -linarith -order [execPortAssignment, State.onCore_mem, State.onGroup_mem, Out.canonical_next]

@[simp] theorem State.resetQueued_mem (s : State) : s.resetQueued.mem = s.mem := by
  grind -ring -linarith -order [State.resetQueued, State.onCore_mem, foldl_mem]

theorem State.admitTeam_canonical {lid : BitVec 32} {idx : Nat} (e : s.admitTeam lid idx = some t) (h : s.Canonical) : t.Canonical := by
  grind -ring -linarith -order [State.admitTeam, State.place_canonical, State.swapAll_canonical, Option.map_eq_some_iff]

theorem State.setAside_mem (d : LaunchDesc) (lid : BitVec 32) (n : Nat) (e : State.setAside d lid n s = some t) : t.mem = s.mem := by
  induction n generalizing s with
  | zero => cases e; rfl
  | succ n ih => grind -ring -linarith -order [State.setAside, State.onLaunch_mem]

@[simp] theorem State.enter_mem (s : State) (d : LaunchDesc) (lid : BitVec 32) (who : Submitter) (re : Replaying) :
    (s.enter d lid who re).mem = s.mem := rfl

theorem State.admitHeld_canonical {d : LaunchDesc} {lid : BitVec 32} {who : Submitter} {re : Replaying}
    (e : s.admitHeld d lid who re = some t) (h : s.Canonical) : t.Canonical := by
  obtain ⟨u, hu, e⟩ := Option.bind_eq_some_iff.mp e
  have hu := foldl_bind_canonical (fun v i w hv hw => State.admitTeam_canonical hw hv) _ (fun v hv => ?_) hu
  · grind -ring -linarith -order [State.setAside_mem]
  · cases hv
    rwa [State.Canonical, State.enter_mem]

theorem State.submit_canonical {bs : List Byte} {lid : BitVec 32} {who : Submitter} {re : Replaying} (h : s.Canonical) :
    (s.submit bs lid who re).Canonical := by
  grind -ring -linarith -order [State.submit, State.reply_mem, → State.admitHeld_canonical, State.enter_mem, Out.canonical_next]

theorem execReplayStart_canonical (bs : List Byte) (lid : BitVec 32) (who : Submitter) (rec : List (Nat × Nat × List Packet))
    (loss freeRun : Bool) (h : s.Canonical) : (execReplayStart bs lid who rec loss freeRun s).Canonical := by
  grind -ring -linarith -order [execReplayStart, State.reply_mem, State.submit_canonical, Out.canonical_next]

theorem State.returnOne_canonical {t : Team} (h : s.Canonical) : (s.returnOne t).Canonical := by
  grind -ring -linarith -order [State.returnOne, State.makeRoom_canonical, State.seat_mem, State.restoreWatch_mem, State.settle_mem,
    foldl_canonical]

theorem State.returnTeam_canonical {t : Team} (h : s.Canonical) : (s.returnTeam t).Canonical := by
  grind -ring -linarith -order [State.returnTeam, State.returnOne_canonical, foldl_canonical]

theorem State.returnWith_canonical {t : Team} (e : s.returnWith t = some u) (h : s.Canonical) : u.Canonical := by
  obtain ⟨u, hu, rfl⟩ := Option.map_eq_some_iff.mp e
  refine State.returnTeam_canonical (findSome?_canonical (fun n v hv => ?_) hu)
  grind -ring -linarith -order [State.swapAll_canonical]

theorem State.startOn_canonical {t : Team} {c : CoreId} (e : s.startOn t c = some u) (h : s.Canonical) : u.Canonical := by
  grind -ring -linarith -order [State.startOn, → State.returnWith_canonical, State.place_canonical, State.swapAll_canonical]

theorem execTeamStart_canonical (lid : BitVec 32) (team : Nat) (core : CoreId) (h : s.Canonical) :
    (execTeamStart lid team core s).Canonical := by
  grind -ring -linarith -order [execTeamStart, → State.startOn_canonical, State.serveAll_canonical, Out.canonical_next]

theorem execWaitSwap_canonical (lid : BitVec 32) (team : Nat) (h : s.Canonical) : (execWaitSwap lid team s).Canonical := by
  grind -ring -linarith -order [execWaitSwap, State.swapOut_canonical, Out.canonical_next]

theorem State.boundary_canonical (h : s.Canonical) : s.boundary.Canonical := by
  grind -ring -linarith -order [State.boundary, State.revertIdle_canonical, State.forward_mem, State.updateAcct_canonical,
    foldl_canonical]

theorem State.haltReach_canonical {r : BitVec 4} {now : Bool} (h : s.Canonical) : (s.haltReach r now).Canonical := by
  grind -ring -linarith -order [State.haltReach, State.onReach_mem, State.keepHeader_canonical]

@[simp] theorem State.stopEngines_mem (s : State) (r : BitVec 4) (cores : List CoreId) : (s.stopEngines r cores).mem = s.mem := rfl

theorem State.preempt_canonical {r : BitVec 4} {cores : List CoreId} (h : s.Canonical) : (s.preempt r cores).Canonical := by
  grind -ring -linarith -order [State.preempt, State.endRuns_mem, State.onReach_mem, State.stopEngines_mem, State.haltReach_canonical]

theorem execSliceEnd_canonical (reach : BitVec 4) (core : CoreId) (h : s.Canonical) : (execSliceEnd reach core s).Canonical := by
  grind -ring -linarith -order [execSliceEnd, State.boundary_canonical, State.onCore_mem, State.preempt_canonical, Out.canonical_next]

theorem execSliceGrant_canonical (reach : BitVec 4) (core : CoreId) (h : s.Canonical) : (execSliceGrant reach core s).Canonical := by
  grind -ring -linarith -order [execSliceGrant, State.reply_mem, State.onCore_mem, Out.canonical_next]

theorem State.bringHeld_canonical {t : Team} (h : s.Canonical) : (s.bringHeld t).Canonical :=
  getD_canonical (fun _ e => findSome?_canonical (fun _ _ e => State.startOn_canonical e h) e) h

theorem State.bringBack_canonical {r : BitVec 4} (h : s.Canonical) : (s.bringBack r).Canonical := by
  grind -ring -linarith -order [State.bringBack, State.bringHeld_canonical, → State.returnWith_canonical, getD_canonical, foldl_canonical]

@[simp] theorem State.wakeEngines_mem (s : State) (r : BitVec 4) : (s.wakeEngines r).mem = s.mem := rfl

theorem State.resumeReach_canonical {reach : BitVec 4} {given : Header} (h : s.Canonical) : (s.resumeReach reach given).Canonical := by
  grind -ring -linarith -order [State.resumeReach, State.reply_mem, State.readContext_canonical, State.onReach_mem,
    State.serveAll_canonical, State.keepHeader_canonical, State.bringBack_canonical, State.wakeEngines_mem]

theorem execReachResume_canonical (reach : BitVec 4) (revision : Nat) (timex : Bool) (root : Nat) (snapgen : Word) (h : s.Canonical) :
    (execReachResume reach revision timex root snapgen s).Canonical := by
  grind -ring -linarith -order [execReachResume, State.onReach_mem, State.resumeReach_canonical, Out.canonical_next]

theorem State.lateHalt_canonical {r : BitVec 4} {core : CoreId} {k : Nat} (h : s.Canonical) : (State.lateHalt r core s k).Canonical := by
  grind -ring -linarith -order [State.lateHalt, State.endRuns_mem, State.haltReach_canonical, State.stopEngines_mem,
    State.resumeReach_canonical, State.onReach_mem]

theorem State.lateHalts_canonical {old : State} (h : s.Canonical) : (State.lateHalts old s).Canonical := by
  grind -ring -linarith -order [State.lateHalts, State.lateHalt_canonical, foldl_canonical]

theorem execEvacuate_canonical (reach : BitVec 4) (h : s.Canonical) : (execEvacuate reach s).Canonical := by
  grind -ring -linarith -order [execEvacuate, State.reply_mem, State.spillGroup_canonical, State.keepHeader_canonical, State.onReach_mem,
    foldl_canonical, Out.canonical_next]

theorem State.divide_canonical {u : Unit3} (h : s.Canonical) : (s.divide u).Canonical := by
  refine foldl_canonical _ (fun v x hv => ?_) _ ?_
  · grind -ring -linarith -order [clearPad_wf]
  · cases u with
    | core c => exact moveBlocks_wf _ _ _ _ (moveBlocks_wf _ _ _ _ h)
    | die d => exact h
    | cluster d c => exact h

theorem State.repartition_canonical (h : s.Canonical) : s.repartition.Canonical := by
  grind -ring -linarith -order [State.repartition, State.divide_canonical, foldl_canonical]

theorem execReachRecordWrite_canonical (reach : BitVec 4) (sub : Option (BitVec 4)) (r : ReachRec) (own : ReachOwn) (h : s.Canonical) :
    (execReachRecordWrite reach sub r own s).Canonical := by
  unfold execReachRecordWrite
  grind -ring -linarith -order [State.reply_mem, State.repartition_canonical, State.onReach_mem, Out.canonical_next]

theorem execAllocatorMode_canonical (core : CoreId) (on : Bool) (h : s.Canonical) : (execAllocatorMode core on s).Canonical := by
  grind -ring -linarith -order [execAllocatorMode, State.onCore_mem, Out.canonical_next]

theorem execCompactorMove_canonical (core : CoreId) (h : s.Canonical) : (execCompactorMove core s).Canonical := by
  grind -ring -linarith -order [execCompactorMove, State.onTeamOnly_mem, copyPad_wf, Out.canonical_next]

theorem execBindRequest_canonical (reach : BitVec 4) (u : Unit3) (off len : Nat) (prod : Option Producer) (mode : BindMode)
    (h : s.Canonical) : (execBindRequest reach u off len prod mode s).Canonical := by
  grind -ring -linarith -order [execBindRequest, State.reply_mem, State.bindRange_canonical, Out.canonical_next]

@[simp] theorem State.freeze_mem (s : State) (g : Group) : (s.freeze g).mem = s.mem := rfl

theorem execWatchdog_canonical (grp : Nat) (h : s.Canonical) : (execWatchdog grp s).Canonical := by
  grind -ring -linarith -order [execWatchdog, State.box_mem, State.report_mem, State.freeze_mem, Out.canonical_next]

@[simp] theorem State.uncharge_mem (s : State) (t : Team) : (s.uncharge t).mem = s.mem := by
  grind -ring -linarith -order [State.uncharge, State.onTeamOnly_mem]

theorem State.rescue_canonical {t : Team} (h : s.Canonical) : (s.rescue t).Canonical := by
  grind -ring -linarith -order [State.rescue, State.place_canonical, State.swapAll_canonical, State.notice_mem]

@[simp] theorem State.suspectInterval_mem (s : State) (d c : Nat) : (s.suspectInterval d c).mem = s.mem := rfl

@[simp] theorem State.testPassed_mem (s : State) (d c : Nat) : (s.testPassed d c).mem = s.mem := rfl

theorem State.fence_canonical {d c : Nat} (h : s.Canonical) : (s.fence d c).Canonical := by
  grind -ring -linarith -order [State.fence, State.suspectInterval_mem, State.swapOut_canonical, State.uncharge_mem,
    State.rescue_canonical, foldl_canonical]

theorem execInfieldTest_canonical (die cluster : Nat) (pass : Bool) (h : s.Canonical) :
    (execInfieldTest die cluster pass s).Canonical := by
  grind -ring -linarith -order [execInfieldTest, State.endRuns_mem, State.testPassed_mem, State.fence_canonical, Out.canonical_next]

theorem State.removeGroup_canonical {g : Group} (h : s.Canonical) : (s.removeGroup g).Canonical := by
  grind -ring -linarith -order [State.removeGroup, State.endGroup_canonical]

theorem State.removeLaunch_canonical {lid : BitVec 32} (h : s.Canonical) : (s.removeLaunch lid).Canonical := by
  grind -ring -linarith -order [State.removeLaunch, State.endGroup_canonical, State.endLaunch_canonical, foldl_canonical]

theorem execLaunchRemoval_canonical (lid : BitVec 32) (grp : Option Nat) (h : s.Canonical) : (execLaunchRemoval lid grp s).Canonical := by
  unfold execLaunchRemoval
  grind -ring -linarith -order [State.removeLaunch_canonical, State.removeGroup_canonical, Out.canonical_next]

theorem execGroupResume_canonical (gid : Word) (h : s.Canonical) : (execGroupResume gid s).Canonical := by
  grind -ring -linarith -order [execGroupResume, State.reply_mem, State.mapGroups_mem, State.swapOut_canonical, Out.canonical_next]

theorem execFabricRecovery_canonical (dev : BitVec 8) (windowMs : Nat) (h : s.Canonical) :
    (execFabricRecovery dev windowMs s).Canonical := by
  grind -ring -linarith -order [execFabricRecovery, State.reply_mem, Out.canonical_next]

@[simp] theorem State.unsuspend_mem (s : State) (dev : BitVec 8) : (s.unsuspend dev).mem = s.mem := rfl

@[simp] theorem State.rejoin_mem (s : State) : s.rejoin.mem = s.mem := rfl

theorem execRecoveredWithinWindow_canonical (dev : BitVec 8) (h : s.Canonical) : (execRecoveredWithinWindow dev s).Canonical := by
  grind -ring -linarith -order [execRecoveredWithinWindow, State.rejoin_mem, State.unsuspend_mem, Out.canonical_next]

@[simp] theorem State.loseMessage_mem (s : State) (m : OutMsg) : (s.loseMessage m).mem = s.mem := by
  grind -ring -linarith -order [State.loseMessage, State.failOne_mem, State.borrowed_mem, State.takeStatus_mem]

@[simp] theorem State.loseBalance_mem (s : State) (dev : BitVec 8) (x : Root) : (s.loseBalance dev x).mem = s.mem := by
  grind -ring -linarith -order [State.loseBalance, State.applyReturn_mem, State.onRoot_mem]

theorem State.loseGroup_canonical {dev : BitVec 8} {g : Group} (h : s.Canonical) : (State.loseGroup dev s g).Canonical := by
  grind -ring -linarith -order [State.loseGroup, State.failOne_mem, State.loseDrains_mem, State.replayAll_canonical,
    State.serveHeld_canonical, foldl_canonical]

theorem execRecoveryWindowEnd_canonical (dev : BitVec 8) (h : s.Canonical) : (execRecoveryWindowEnd dev s).Canonical := by
  grind -ring -linarith -order [execRecoveryWindowEnd, State.unsuspend_mem, State.loseMessage_mem, State.loseBalance_mem,
    State.loseGroup_canonical, foldl_canonical, Out.canonical_next]

/-! `Machine/Debug`. -/

theorem execHalt_canonical (lid : BitVec 32) (h : s.Canonical) : (execHalt lid s).Canonical := by
  grind -ring -linarith -order [execHalt, State.reply_mem, State.endRuns_mem, Out.canonical_next]

theorem execResume_canonical (lid : BitVec 32) (h : s.Canonical) : (execResume lid s).Canonical := by
  grind -ring -linarith -order [execResume, State.reply_mem, State.mapGroups_mem, Out.canonical_next]

theorem execWritecode_canonical (reach : BitVec 4) (addr : Word) (val : BitVec 32) (h : s.Canonical) :
    (execWritecode reach addr val s).Canonical := by
  grind -ring -linarith -order [execWritecode, State.reply_mem, homeWrite_wf, Out.canonical_next]

theorem execInval_canonical (cores : List CoreId) (h : s.Canonical) : (execInval cores s).Canonical := by
  grind -ring -linarith -order [execInval, State.reply_mem, State.invalidate_mem, foldl_canonical, Out.canonical_next]

@[simp] theorem State.selSet_mem (s : State) (g : Group) (x : Word) (sel : StateSel) : (s.selSet g x sel).mem = s.mem := by
  unfold State.selSet
  grind -ring -linarith -order [State.onGroup_mem, State.csrSet_mem]

theorem execReadState_canonical (gid : Word) (sel : StateSel) (h : s.Canonical) : (execReadState gid sel s).Canonical := by
  grind -ring -linarith -order [execReadState, State.reply_mem, Out.canonical_next]

theorem State.toTwins_mem {g : Group} {f : State → Group → State} (hf : ∀ u x, (f u x).mem = u.mem) :
    (s.toTwins g f).mem = s.mem := by
  grind -ring -linarith -order [State.toTwins]

theorem execWriteState_canonical (gid : Word) (sel : StateSel) (val : Word) (h : s.Canonical) :
    (execWriteState gid sel val s).Canonical := by
  grind -ring -linarith -order [execWriteState, State.reply_mem, State.toTwins_mem, State.selSet_mem, Out.canonical_next]

theorem execReadtile_canonical (lid : BitVec 32) (team tile row : Nat) (h : s.Canonical) :
    (execReadtile lid team tile row s).Canonical := by
  grind -ring -linarith -order [execReadtile, State.reply_mem, Out.canonical_next]

theorem execReadout_canonical (gid : Word) (h : s.Canonical) : (execReadout gid s).Canonical := by
  grind -ring -linarith -order [execReadout, State.reply_mem, State.toTwins_mem, State.onGroup_mem, Out.canonical_next]

theorem execWritein_canonical (gid : Word) (vals : List Word) (h : s.Canonical) : (execWritein gid vals s).Canonical := by
  grind -ring -linarith -order [execWritein, State.reply_mem, State.toTwins_mem, State.onGroup_mem, Out.canonical_next]

/-! `Machine/FloatOps`. -/

theorem execCvt_canonical (sel : BitVec 6) (part : BitVec 2) (d a : LReg) (gd : Guard) (h : s.Canonical) :
    (execCvt sel part d a gd s).Canonical := by
  grind -ring -linarith -order [execCvt, State.done_canonical]

/-! `Machine/System`. -/

theorem execFlitReplay_canonical (link : BitVec 4) (ok : Bool) (h : s.Canonical) : (execFlitReplay link ok s).Canonical := by
  grind -ring -linarith -order [execFlitReplay, State.box_mem, Out.canonical_next]

@[simp] theorem State.setRoute_mem (s : State) (x : Nat × BitVec 8 × BitVec 4) : (s.setRoute x).mem = s.mem := rfl

@[simp] theorem State.settleRoutes_mem (s : State) : s.settleRoutes.mem = s.mem := by
  grind -ring -linarith -order [State.settleRoutes, State.setRoute_mem, foldl_mem]

theorem execRouteTableWrite_canonical (dest : BitVec 8) (link : BitVec 4) (h : s.Canonical) :
    (execRouteTableWrite dest link s).Canonical := by
  grind -ring -linarith -order [execRouteTableWrite, State.reply_mem, State.settleRoutes_mem, Out.canonical_next]

theorem State.homeRmw_canonical {r : BitVec 4} {pa key n : Nat} {f : Nat → Nat × Nat} (h : s.Canonical) :
    (s.homeRmw r pa key n f).Canonical := by
  grind -ring -linarith -order [State.homeRmw, State.reply_mem, homeWrite_wf]

theorem State.applyFab_canonical {r : BitVec 4} {op : FabOp} (h : s.Canonical) : (s.applyFab r op).Canonical := by
  unfold State.applyFab
  grind -ring -linarith -order [State.reply_mem, homeWrite_wf, State.homeRmw_canonical, State.remoteMessage_canonical]

@[simp] theorem State.dropResponse_mem (s : State) (dev : BitVec 8) (again : Bool) : (s.dropResponse dev again).mem = s.mem := by
  grind -ring -linarith -order [State.dropResponse, State.box_mem]

@[simp] theorem State.heard_mem (s : State) (src : BitVec 8) : (s.heard src).mem = s.mem := by
  grind -ring -linarith -order [State.heard]

theorem execFabricMessage_canonical (src : BitVec 8) (reach : BitVec 4) (op : FabOp) (authentic : Bool) (h : s.Canonical) :
    (execFabricMessage src reach op authentic s).Canonical := by
  grind -ring -linarith -order [execFabricMessage, State.box_mem, State.applyFab_canonical, State.heard_mem, Out.canonical_next]

theorem execPteUpdate_canonical (_root table idx : Nat) (val : Word) (h : s.Canonical) :
    (execPteUpdate _root table idx val s).Canonical :=
  Out.canonical_next.mpr ((State.rehomeAll_mem _).symm ▸ memWrite_wf h)

theorem execShootdown_canonical (reach : BitVec 4) (va len : Nat) (h : s.Canonical) : (execShootdown reach va len s).Canonical := by
  grind -ring -linarith -order [execShootdown, State.reply_mem, State.mapGroups_mem, State.rehomeAll_mem, Out.canonical_next]

theorem execRdmaWrite_canonical (reach : BitVec 4) (region off : Nat) (bytes : List Byte) (h : s.Canonical) :
    (execRdmaWrite reach region off bytes s).Canonical := by
  grind -ring -linarith -order [execRdmaWrite, State.reply_mem, State.commit_canonical, Out.canonical_next]

theorem execRdmaRead_canonical (reach : BitVec 4) (region off len : Nat) (h : s.Canonical) :
    (execRdmaRead reach region off len s).Canonical := by
  grind -ring -linarith -order [execRdmaRead, State.reply_mem, install_wf, foldl_canonical, Out.canonical_next]

theorem execRemoteCall_canonical (ver : BitVec 8) (op : BitVec 16) (len : BitVec 32) (seq pid : Word) (zeros : Bool) (h : s.Canonical) :
    (execRemoteCall ver op len seq pid zeros s).Canonical := by
  grind -ring -linarith -order [execRemoteCall, State.reply_mem, Out.canonical_next]

theorem State.writeArgs_canonical {q : QEntry} {args : List Byte} (h : s.Canonical) : (s.writeArgs q args).Canonical := by
  grind -ring -linarith -order [State.writeArgs, State.deviceWrite_canonical, foldl_canonical]

@[simp] theorem State.nextCall_mem (s : State) (r : BitVec 4) (q : BitVec 32) : (s.nextCall r q).1.mem = s.mem := by
  grind -ring -linarith -order [State.nextCall, State.wharfTake_mem]

theorem execWharfReply_canonical (reach : BitVec 4) (qnum : BitVec 32) (code : BitVec 6) (result : BitVec 32) (args : List Byte)
    (h : s.Canonical) : (execWharfReply reach qnum code result args s).Canonical := by
  grind -ring -linarith -order [execWharfReply, State.nextCall_mem, State.writeArgs_canonical, State.fillWord_canonical, homeWrite_wf,
    State.entryBack_mem, Out.canonical_next]

@[simp] theorem State.raiseMin_mem (s : State) (n svn : Nat) : (s.raiseMin n svn).mem = s.mem := rfl

theorem State.afterReset_canonical (s : State) : s.afterReset.Canonical := reset_mem_wf

@[simp] theorem State.stopSystem_mem (s : State) : s.stopSystem.mem = s.mem := rfl

@[simp] theorem State.bootFails_mem (s : State) (source stage cause : Nat) (measures : List (BitVec 512)) :
    (s.bootFails source stage cause measures).mem = s.mem := rfl

theorem execDeviceReset_canonical (stages : List StageImage) (modules : List Nat) :
    (execDeviceReset stages modules s).Canonical := by
  grind -ring -linarith -order [execDeviceReset, State.afterReset_canonical, State.bootFails_mem, Out.canonical_next]

theorem execAttestationRequest_canonical (reach : BitVec 4) (nonce : BitVec 256) (h : s.Canonical) :
    (execAttestationRequest reach nonce s).Canonical := by
  grind -ring -linarith -order [execAttestationRequest, State.reply_mem, Out.canonical_next]

@[simp] theorem State.newGen_mem (s : State) (key : BitVec 7) : (s.newGen key).mem = s.mem := rfl

theorem execKeyIdAssignment_canonical (reach : BitVec 4) (key : BitVec 7) (h : s.Canonical) :
    (execKeyIdAssignment reach key s).Canonical := by
  grind -ring -linarith -order [execKeyIdAssignment, State.reply_mem, State.newGen_mem, Out.canonical_next]

@[simp] theorem State.takeKeys_mem (s : State) (r : BitVec 4) (bs : List Byte) : (s.takeKeys r bs).mem = s.mem := rfl

theorem execMigrationKeyTransfer_canonical (reach : BitVec 4) (peer : BitVec 8) (report : List Byte) (offer : KeyOffer) (h : s.Canonical) :
    (execMigrationKeyTransfer reach peer report offer s).Canonical := by
  grind -ring -linarith -order [execMigrationKeyTransfer, State.reply_mem, State.takeKeys_mem, Out.canonical_next]

theorem execManagementRead_canonical (sel : MgmtSel) (h : s.Canonical) : (execManagementRead sel s).Canonical := by
  unfold execManagementRead
  grind -ring -linarith -order [State.reply_mem, Out.canonical_next]

theorem execPowerCapSet_canonical (watts : Nat) (h : s.Canonical) : (execPowerCapSet watts s).Canonical := by
  grind -ring -linarith -order [execPowerCapSet, State.reply_mem, Out.canonical_next]

@[simp] theorem State.slower_mem (s : State) : s.slower.mem = s.mem := by
  simp only [State.slower]

theorem execThermalLimit_canonical (celsius : Nat) (h : s.Canonical) : (execThermalLimit celsius s).Canonical := by
  grind -ring -linarith -order [execThermalLimit, State.stopSystem_mem, State.box_mem, State.slower_mem, Out.canonical_next]

@[simp] theorem State.elapse_mem (s : State) (old : State) : (State.elapse old s).mem = s.mem := by
  grind -ring -linarith -order [State.elapse]

/-! `Machine/Uniform`. -/

theorem execSli_canonical (sd : SReg) (h : HSel) (imm : BitVec 16) (hs : s.Canonical) : (execSli sd h imm s).Canonical := by
  grind -ring -linarith -order [execSli, State.done_canonical]

/-! `Machine/Fetch`. -/

@[simp] theorem State.packets_mem (s : State) (k : Nat) (ps : List Packet) (pc : Word) : (s.packets k ps pc).mem = s.mem := by
  grind -ring -linarith -order [State.packets, State.packet_mem, foldl_mem]

@[simp] theorem State.emPackets_mem (s : State) : s.emPackets.mem = s.mem := by
  grind -ring -linarith -order [State.emPackets, State.emPacket_mem, foldl_mem]

@[simp] theorem State.watchStep_mem (s : State) (k : Nat) (g : Group) : (s.watchStep k g).mem = s.mem := by
  grind -ring -linarith -order [State.watchStep, State.trapGroup_mem, State.onGroup_mem]

@[simp] theorem State.afterRetire_mem (s : State) (k : Nat) (g : Group) (i : Instr) (acts lanes : Mask) (waited : Bool) :
    (s.afterRetire k g i acts lanes waited).mem = s.mem := by
  grind -ring -linarith -order [State.afterRetire, State.onGroup_mem, State.packets_mem, State.owe_mem, State.emPacket_mem,
    State.endRun_mem, State.watchStep_mem, State.afterTrap_mem, foldl_mem]

@[simp] theorem State.joinReads_mem (s : State) (u : Use) : (s.joinReads u).mem = s.mem := by
  grind -ring -linarith -order [State.joinReads, State.joinBy_mem, State.onG_mem, foldl_mem]

@[simp] theorem State.after_mem (s : State) (old : State) (v : Group) (i : Instr) : (State.after old v i s).mem = s.mem := by
  grind -ring -linarith -order [State.after, State.onGroup_mem, State.packet_mem, State.afterRetire_mem, State.afterTrap_mem,
    State.parkRun_mem]

/-! `Machine/Dispatch`. -/

/-- What every instruction and every event leaves is canonical. -/
theorem exec_canonical (i : Instr) (h : s.Canonical) : Out.Canonical (exec i s) := by
  cases i with
  | iadd | isub | iaddi | imin | imax | umin | umax | imul | imulhi | imad | imsb | iaddsat | isubsat | uaddsat | usubsat | land | landn
  | lor | lorn | lxor | lxnor | shl | shr | sar | rol | shli | shri | sari | popc | clz | brev | ctz | bfx | bfxs | bfi | iabs | ineg | mov
  | movs | sel | icmp | plop | pmovGet | pmovSet | fadd | fsub | fmul | ffma | ffms | fmin | fmax | fabs | fneg | fcmp | fspec | dot | perm
  | lxch | lred | lscan | vote | sadd | ssub | smul | smulhi | sand | sor | sxor | sandn | sshl | sshr | ssar | smin | smax | sminu | smaxu
  | saddi | scmp | sget | runend | qread | relayout | nop | icinv =>
    exact State.done_canonical h
  | cas | atomAdd | atomSmin | atomSmax | atomUmin | atomUmax | atomAnd | atomOr | atomXchg => exact State.atom_canonical h
  | emWrite | dbgin15Read | almcauseWrite | longLatencyResult | rehome | securityAlarm | firmwareUpdate | powerCapExceeded
  | traceBufferDrain =>
    exact Out.canonical_next.mpr h
  | ld | lds => exact State.load_canonical h
  | ldfe | ldfw => exact State.feLoad_canonical h
  | brl | call => exact State.jump_canonical h
  | deq | deqNb => exact State.dequeue_canonical h
  | cpy | tmove => exact State.oneShot_canonical h
  | orelease | arelease => exact State.releaseClaims_canonical h
  | trap | bkpt => exact State.trapU_canonical h
  | movi d half imm => exact execMovi_canonical d half imm h
  | cvt sel part d a g => exact execCvt_canonical sel part d a g h
  | st w d a off la g => exact execSt_canonical w d a off la g h
  | stfe w d a off la g => exact execStfe_canonical w d a off la g h
  | red op w64 sc a b la => exact execRed_canonical op w64 sc a b la h
  | tload slot d a la g => exact execTload_canonical slot d a la g h
  | tstore slot d a la g => exact execTstore_canonical slot d a la g h
  | sli sd half imm => exact execSli_canonical sd half imm h
  | sld w sd sa off la => exact execSld_canonical w sd sa off la h
  | sst w sd sa off la => exact execSst_canonical w sd sa off la h
  | bra c p off => exact execBra_canonical c p off h
  | brd p off => exact execBrd_canonical p off h
  | jpush off => exact execJpush_canonical off h
  | join => exact execJoin_canonical h
  | brx va table => exact execBrx_canonical va table h
  | ret => exact execRet_canonical h
  | exit => exact execExit_canonical h
  | yield sd off => exact execYield_canonical sd off h
  | bar n sa => exact execBar_canonical n sa h
  | phase sc => exact execPhase_canonical sc h
  | xfence => exact execXfence_canonical h
  | waitseq sa sb => exact execWaitseq_canonical sa sb h
  | qopen => exact execQopen_canonical h
  | qret => exact execQret_canonical h
  | qwait => exact execQwait_canonical h
  | enq sd sa sb la => exact execEnq_canonical sd sa sb la h
  | deparm sd sa sb la => exact execDeparm_canonical sd sa sb la h
  | depdec sd sa la => exact execDepdec_canonical sd sa la h
  | chead sd sa sb la => exact execChead_canonical sd sa sb la h
  | ctail sd sa sb la => exact execCtail_canonical sd sa sb la h
  | coll k sd sa sb la => exact execColl_canonical k sd sa sb la h
  | tsload slot sa => exact execTsload_canonical slot sa h
  | tsevict slot sa => exact execTsevict_canonical slot sa h
  | oclaim sd sa la => exact execOclaim_canonical sd sa la h
  | aclaim sd sa la => exact execAclaim_canonical sd sa la h
  | mloop sd sa sb la => exact execMloop_canonical sd sa sb la h
  | mloopWait sa la => exact execMloopWait_canonical sa la h
  | aread f vd sa la => exact execAread_canonical f vd sa la h
  | azero sa la => exact execAzero_canonical sa la h
  | csrr dst csr => exact execCsrr_canonical dst csr h
  | csrw csr sa => exact execCsrw_canonical csr sa h
  | rft => exact execRft_canonical h
  | rgn region => exact execRgn_canonical region h
  | febind sa sb sc mode => exact execFebind_canonical sa sb sc mode h
  | fflagsAccess => exact execFflagsAccess_canonical h
  | dbgout15Write val => exact execDbgout15Write_canonical val h
  | watchWrite n val => exact execWatchWrite_canonical n val h
  | drainComplete grp n => exact execDrainComplete_canonical grp n h
  | redAck grp => exact execRedAck_canonical grp h
  | faultServiceEnd grp => exact execFaultServiceEnd_canonical grp h
  | sideLogReplay grp page => exact execSideLogReplay_canonical grp page h
  | portAssignment core port => exact execPortAssignment_canonical core port h
  | launchSubmit => exact State.submit_canonical h
  | teamStart lid team core => exact execTeamStart_canonical lid team core h
  | waitSwap lid team => exact execWaitSwap_canonical lid team h
  | schedulingBoundary => exact Out.canonical_next.mpr (State.boundary_canonical h)
  | sliceEnd reach core => exact execSliceEnd_canonical reach core h
  | sliceGrant reach core => exact execSliceGrant_canonical reach core h
  | preemptionRequest => exact Out.canonical_next.mpr (State.preempt_canonical h)
  | reachResume reach revision timex root snapgen => exact execReachResume_canonical reach revision timex root snapgen h
  | evacuate reach => exact execEvacuate_canonical reach h
  | reachRecordWrite reach sub r own => exact execReachRecordWrite_canonical reach sub r own h
  | allocatorMode core on => exact execAllocatorMode_canonical core on h
  | compactorMove core => exact execCompactorMove_canonical core h
  | bindRequest reach u off len prod mode => exact execBindRequest_canonical reach u off len prod mode h
  | queueInstantiate reach owner desc => exact execQueueInstantiate_canonical reach owner desc h
  | queueDestroy reach qnum => exact execQueueDestroy_canonical reach qnum h
  | channelAssign handle lid => exact execChannelAssign_canonical handle lid h
  | counterAssign die first last reach => exact execCounterAssign_canonical die first last reach h
  | oneShotCompletion id => exact execOneShotCompletion_canonical id h
  | recordTake handle => exact execRecordTake_canonical handle h
  | recordCompletion handle num => exact execRecordCompletion_canonical handle num h
  | collCompletion lid tag => exact execCollCompletion_canonical lid tag h
  | basinMove dir => exact execBasinMove_canonical dir h
  | unadmittedAdmit die ctr => exact execUnadmittedAdmit_canonical die ctr h
  | weirReturn => exact execWeirReturn_canonical h
  | weirBorrow grp => exact execWeirBorrow_canonical grp h
  | remoteTaskMessage => exact Out.canonical_next.mpr (State.remoteMessage_canonical h)
  | dredgerBegin id => exact execDredgerBegin_canonical id h
  | slabCommit id => exact execSlabCommit_canonical id h
  | dredgerComplete id => exact execDredgerComplete_canonical id h
  | kStep lid team => exact execKStep_canonical lid team h
  | ringEntryAcquire lid team => exact execRingEntryAcquire_canonical lid team h
  | watchdog grp => exact execWatchdog_canonical grp h
  | infieldTest die cluster pass => exact execInfieldTest_canonical die cluster pass h
  | fabricRecovery dev windowMs => exact execFabricRecovery_canonical dev windowMs h
  | recoveryWindowEnd dev => exact execRecoveryWindowEnd_canonical dev h
  | pteUpdate root table idx val => exact execPteUpdate_canonical root table idx val h
  | shootdown reach va len => exact execShootdown_canonical reach va len h
  | halt lid => exact execHalt_canonical lid h
  | resume lid => exact execResume_canonical lid h
  | writecode reach addr val => exact execWritecode_canonical reach addr val h
  | inval cores => exact execInval_canonical cores h
  | readState gid sel => exact execReadState_canonical gid sel h
  | writeState gid sel val => exact execWriteState_canonical gid sel val h
  | readtile lid team tile row => exact execReadtile_canonical lid team tile row h
  | readout gid => exact execReadout_canonical gid h
  | writein gid vals => exact execWritein_canonical gid vals h
  | replayStart desc lid who rec loss freeRun => exact execReplayStart_canonical desc lid who rec loss freeRun h
  | flitReplay link ok => exact execFlitReplay_canonical link ok h
  | routeTableWrite dest link => exact execRouteTableWrite_canonical dest link h
  | fabricMessage src reach op authentic => exact execFabricMessage_canonical src reach op authentic h
  | remoteCall ver op len seq pid zeros => exact execRemoteCall_canonical ver op len seq pid zeros h
  | rdmaWrite reach region off bytes => exact execRdmaWrite_canonical reach region off bytes h
  | rdmaRead reach region off len => exact execRdmaRead_canonical reach region off len h
  | wharfReply reach qnum code result args => exact execWharfReply_canonical reach qnum code result args h
  | deviceReset stages modules => exact execDeviceReset_canonical stages modules
  | attestationRequest reach nonce => exact execAttestationRequest_canonical reach nonce h
  | migrationKeyTransfer reach peer report offer => exact execMigrationKeyTransfer_canonical reach peer report offer h
  | managementRead sel => exact execManagementRead_canonical sel h
  | powerCapSet watts => exact execPowerCapSet_canonical watts h
  | thermalLimit celsius => exact execThermalLimit_canonical celsius h
  | softError loc uncorrectable => exact execSoftError_canonical loc uncorrectable h
  | launchRemoval lid grp => exact execLaunchRemoval_canonical lid grp h
  | groupResume gid => exact execGroupResume_canonical gid h
  | recoveredWithinWindow dev => exact execRecoveredWithinWindow_canonical dev h
  | keyIdAssignment reach key => exact execKeyIdAssignment_canonical reach key h

/-! `Machine/Fetch`. -/

theorem State.run1_canonical {i : Instr} (h : s.Canonical) : (s.run1 i).Canonical := by
  grind -ring -linarith -order [State.run1, State.onG_mem, exec_canonical, State.after_mem, Out.canonical_next]

theorem State.bring_canonical {g : Group} {i : Instr} {fk : Nat} (h : s.Canonical) : (s.bring g i fk).Canonical := by
  grind -ring -linarith -order [State.bring, State.endGroup_canonical, State.onGroup_mem, State.afterRetire_mem, State.afterTrap_mem,
    State.trapGroup_mem, State.parkRun_mem]

theorem State.mismatch_canonical {twin : Group} (h : s.Canonical) : (s.mismatch twin).Canonical := by
  grind -ring -linarith -order [State.mismatch, State.uncontain_canonical, State.onGroup_mem, State.box_mem, State.report_mem,
    State.restartAt_mem]

theorem State.meet_canonical {w : BitVec 32} {i : Instr} (h : s.Canonical) : (s.meet w i).Canonical := by
  grind -ring -linarith -order [State.meet, State.run1_canonical, State.onPair_mem, State.bring_canonical, State.mismatch_canonical,
    State.onG_mem, Out.canonical_next]

theorem State.trapNow_canonical {cause : Nat} {info : Word} {lanes : Mask} (h : s.Canonical) :
    (s.trapNow cause info lanes).Canonical := by
  grind -ring -linarith -order [State.trapNow, State.afterTrap_mem, State.trapGroup_mem, Out.canonical_next]

theorem State.carryOut_canonical {w : BitVec 32} {i : Instr} (h : s.Canonical) : (s.carryOut w i).Canonical := by
  grind -ring -linarith -order [State.carryOut, State.onG_mem, State.trapNow_canonical, State.joinReads_mem, State.meet_canonical,
    State.run1_canonical]

theorem State.issueInstr_canonical {w : BitVec 32} {i : Instr} (h : s.Canonical) : (s.issueInstr w i).Canonical := by
  grind -ring -linarith -order [State.issueInstr, State.onG_mem, State.run1_canonical, State.trapNow_canonical, State.waitOn_canonical,
    State.after_mem, State.stall_canonical, State.consume_canonical, State.carryOut_canonical, Out.canonical_next]

theorem State.issue_canonical (h : s.Canonical) : s.issue.Canonical := by
  grind -ring -linarith -order [State.issue, State.uncontain_canonical, State.trapNow_canonical, State.suspend_canonical, State.onG_mem,
    State.recordFault_mem, State.consume_canonical, State.fetched_canonical, State.issueInstr_canonical, Out.canonical_next]

@[simp] theorem State.completeWait_mem (s : State) (i : Instr) : (s.completeWait i).mem = s.mem := by
  grind -ring -linarith -order [State.completeWait, State.onG_mem, State.afterRetire_mem, State.onGroup_mem]

@[simp] theorem State.trapWait_mem (s : State) (cause : Nat) (info : Word) (lanes : Mask) (pc : Word) :
    (s.trapWait cause info lanes pc).mem = s.mem := by
  grind -ring -linarith -order [State.trapWait, State.onG_mem, State.afterTrap_mem, State.trapGroup_mem, State.onGroup_mem]

@[simp] theorem State.closeRun_mem (s : State) : s.closeRun.mem = s.mem := by
  grind -ring -linarith -order [State.closeRun, State.endRun_mem]

theorem State.resolveWait_canonical (h : s.Canonical) : s.resolveWait.Canonical := by
  grind -ring -linarith -order [State.resolveWait, State.trapWait_mem, State.onG_mem, State.joinReads_mem, State.issue_canonical,
    State.closeRun_mem, State.completeWait_mem, Out.canonical_next]

/-! `Machine/Advance`. -/

@[simp] theorem State.claimsServed_mem (s : State) : s.claimsServed.mem = s.mem := by
  grind -ring -linarith -order [State.claimsServed, State.tilesFreed_mem, foldl_mem]

theorem State.finish_canonical {old : State} (h : s.Canonical) : (State.finish old s).Canonical := by
  grind -ring -linarith -order [State.finish, State.elapse_mem, State.resetQueued_mem, State.settleRoutes_mem,
    State.repartition_canonical, State.claimsServed_mem, State.lateHalts_canonical, State.paid_mem, State.emPackets_mem]

theorem State.settled_canonical {old : State} (h : s.Canonical) : (State.settled old s).Canonical := by
  grind -ring -linarith -order [State.settled, State.finish_canonical, State.mapGroups_mem]

theorem advanced_canonical {old : State} {o : Out} (h : o.Canonical) : (advanced old o).Canonical := by
  cases o with
  | next t =>
    have ht := Out.canonical_next.mp h
    refine Out.canonical_next.mpr (State.finish_canonical ?_)
    split
    · exact ht
    · exact ht
  | fault r => exact fun _ e => by simp [advanced] at e
  | refused r => exact fun _ e => by simp [advanced] at e

theorem State.issueStep_canonical (h : s.Canonical) : s.issueStep.Canonical := by
  grind -ring -linarith -order [State.issueStep, advanced_canonical, State.issue_canonical]

theorem State.resolveStep_canonical (h : s.Canonical) : s.resolveStep.Canonical := by
  grind -ring -linarith -order [State.resolveStep, advanced_canonical, State.resolveWait_canonical]

theorem State.changedBy_canonical {i : Instr} (e : s.changedBy i = some t) (h : s.Canonical) : t.Canonical := by
  grind -ring -linarith -order [State.changedBy, exec_canonical, Out.Canonical]

theorem State.engineStep_canonical (e : s.engineStep = some t) (h : s.Canonical) : t.Canonical :=
  findSome?_canonical (fun _ _ e => State.changedBy_canonical e h) e

theorem State.portStep_canonical (e : s.portStep = some t) (h : s.Canonical) : t.Canonical :=
  findSome?_canonical (fun _ _ e => State.changedBy_canonical e h) e

theorem State.happen_canonical {i : Instr} (h : s.Canonical) : (s.happen i).Canonical := by
  grind -ring -linarith -order [State.happen, exec_canonical, State.settled_canonical, Out.canonical_next]

theorem State.takeTurn_canonical (h : s.Canonical) : s.takeTurn.Canonical := by
  grind -ring -linarith -order [State.takeTurn, State.resolveStep_canonical, State.issueStep_canonical, State.settled_canonical,
    Out.canonical_next]

@[simp] theorem State.setAway_mem (s : State) (a : Away) (live : Bool) : (s.setAway a live).mem = s.mem := by
  grind -ring -linarith -order [State.setAway, State.targetEnded_mem]

theorem State.given_canonical {x : Input} (h : s.Canonical) : (s.given x).Canonical := by
  unfold State.given
  grind -ring -linarith -order [State.happen_canonical, State.takeTurn_canonical, State.turnTo_mem, State.settled_canonical,
    State.onGroup_mem, State.loadArrives_canonical, State.oneShotGranule_canonical, State.collGranule_canonical,
    State.recordGranule_canonical, State.raiseMin_mem, State.onReach_mem, State.setFarRoot_mem, State.landed_mem, State.dropResponse_mem,
    State.setAway_mem, State.onLaunch_mem, Out.canonical_next]

theorem State.onward_canonical (h : s.Canonical) : s.onward.Canonical := by
  grind -ring -linarith -order [State.onward, State.resolveStep_canonical, State.turnTo_mem, → State.engineStep_canonical,
    State.settled_canonical, State.issueStep_canonical, → State.portStep_canonical, Out.canonical_next]

theorem State.asleep_canonical (h : s.Canonical) : s.asleep.Canonical := by
  grind -ring -linarith -order [State.asleep, State.elapse_mem, State.given_canonical, Out.canonical_next]

theorem State.awake_canonical (h : s.Canonical) : s.awake.Canonical := by
  grind -ring -linarith -order [State.awake, State.given_canonical, State.issueStep_canonical, State.onward_canonical]

/-! `Machine/Step`. -/

theorem step_canonical (h : s.Canonical) : Out.Canonical (step s) :=
  Out.canonical_ite (State.asleep_canonical h) (State.awake_canonical h)

end Keeps

/-- Settles O58, by the lemma about one step: every operation writes bytes through `memPut`, which keeps the canonical form, or drops
some (R3, R20). -/
theorem memoryStaysCanonical : Obligations.MemoryStaysCanonical := by
  intro s t h e
  exact step_canonical h t e

end Sys2Proof.Machine
end

section
/-! PROOFS. Every step keeps EM within the live lanes (R9). There is one lemma for each function that a step can reach and that answers a
state, a group, or something that carries them: `State.EmLive.f` says that `f` keeps the invariant. The lemmas stand in the order of the
model's files, and the proof of each follows the branches of its function, so that the lemma about a step is the last. A function that
only changes fields without groups needs none: `State.EmLive.set` and `Group.EmLive.set` serve for it. EM itself is written in few places:
`Group.rft`, `execBrd`, `execBrx`, `execJoin`, `execExit`, the write of EM (R114), resumption, and the start and end of a group. -/
namespace Sys2Proof.Machine

/-! The invariant. -/

/-- EM holds live lanes only (R9). -/
def Group.EmLive (g : Group) : Prop := g.em &&& ~~~g.live = 0

/-- The same of every group of a list. -/
def EmLiveAll (gs : List Group) : Prop := ∀ g ∈ gs, g.EmLive

/-- The same of every group of a context area. -/
def Context.EmLive (c : Context) : Prop := EmLiveAll c.groups

/-- The same of every group of the device, of its context areas and of those that the schedule brings. -/
def State.EmLive (s : State) : Prop :=
  s.g.EmLive ∧ EmLiveAll s.others ∧ (∀ c ∈ s.contexts, c.EmLive) ∧ ∀ c, .context c ∈ s.inputs → c.EmLive

/-- A step that goes on goes on to such a state. -/
def Out.EmLive : Out → Prop
  | .next t => t.EmLive
  | _ => True

/-! The same of the states that the answers of engines and of the Weir carry. -/
def Split.EmLive (x : Split) : Prop := x.st.EmLive
def ERead.EmLive (x : ERead) : Prop := x.st.EmLive
def Moved.EmLive (x : Moved) : Prop := x.st.EmLive
def Plan.EmLive (x : Plan) : Prop := x.st.EmLive
def Weight.EmLive (x : Weight) : Prop := x.st.EmLive
def Acted.EmLive (x : Acted) : Prop := x.st.EmLive
def CRead.EmLive (x : CRead) : Prop := x.st.EmLive
def CollAt.EmLive (x : CollAt) : Prop := x.st.EmLive
def TWrite.EmLive : TWrite → Prop
  | .ok s => s.EmLive
  | _ => True

theorem Moved.EmLive.wait {s : State} (h : s.EmLive) : (Moved.wait s).EmLive := h
theorem CollAt.EmLive.next {s : State} (h : s.EmLive) : (CollAt.next s).EmLive := h

theorem ERead.EmLive.of_eq {x y : ERead} (h : x.EmLive) (e : x = y) : y.EmLive := e ▸ h
theorem Moved.EmLive.of_eq {x y : Moved} (h : x.EmLive) (e : x = y) : y.EmLive := e ▸ h
theorem Plan.EmLive.of_eq {x y : Plan} (h : x.EmLive) (e : x = y) : y.EmLive := e ▸ h
theorem Weight.EmLive.of_eq {x y : Weight} (h : x.EmLive) (e : x = y) : y.EmLive := e ▸ h
theorem Acted.EmLive.of_eq {x y : Acted} (h : x.EmLive) (e : x = y) : y.EmLive := e ▸ h
theorem CRead.EmLive.of_eq {x y : CRead} (h : x.EmLive) (e : x = y) : y.EmLive := e ▸ h
theorem CollAt.EmLive.of_eq {x y : CollAt} (h : x.EmLive) (e : x = y) : y.EmLive := e ▸ h
theorem TWrite.EmLive.of_eq {x y : TWrite} (h : x.EmLive) (e : x = y) : y.EmLive := e ▸ h

variable {s : State}

theorem Group.EmLive.ite {c : Prop} [Decidable c] {a b : Group} (ha : a.EmLive) (hb : b.EmLive) : (if c then a else b).EmLive := by
  split <;> assumption

theorem State.EmLive.ite {c : Prop} [Decidable c] {a b : State} (ha : a.EmLive) (hb : b.EmLive) : (if c then a else b).EmLive := by
  split <;> assumption

theorem emLive_cond {α : Type} {P : α → Prop} {c : Prop} [Decidable c] {a b : α} (ha : P a) (hb : P b) : P (if c then a else b) := by
  split <;> assumption

theorem Out.EmLive.of_eq {o : Out} {t : State} (h : o.EmLive) (e : o = .next t) : t.EmLive := by
  subst e
  exact h

theorem Out.EmLive.ite {c : Prop} [Decidable c] {a b : Out} (ha : a.EmLive) (hb : b.EmLive) : Out.EmLive (if c then a else b) := by
  split <;> assumption

theorem EmLiveAll.ite {c : Prop} [Decidable c] {a b : List Group} (ha : EmLiveAll a) (hb : EmLiveAll b) :
    EmLiveAll (if c then a else b) := by
  split <;> assumption

theorem EmLiveAll.nil : EmLiveAll [] := by simp [EmLiveAll]

theorem EmLiveAll.cons {g : Group} {gs : List Group} (hg : g.EmLive) (hs : EmLiveAll gs) : EmLiveAll (g :: gs) :=
  List.forall_mem_cons.2 ⟨hg, hs⟩

theorem EmLiveAll.append {gs hs : List Group} (hg : EmLiveAll gs) (hh : EmLiveAll hs) : EmLiveAll (gs ++ hs) :=
  List.forall_mem_append.2 ⟨hg, hh⟩

theorem EmLiveAll.filter {p : Group → Bool} {gs : List Group} (h : EmLiveAll gs) : EmLiveAll (gs.filter p) :=
  fun g hg => h g (List.mem_of_mem_filter hg)

theorem EmLiveAll.map {f : Group → Group} {gs : List Group} (h : EmLiveAll gs) (hf : ∀ g, g.EmLive → (f g).EmLive) :
    EmLiveAll (gs.map f) :=
  List.forall_mem_map.2 fun g hg => hf g (h g hg)

theorem EmLiveAll.find {p : Group → Bool} {gs : List Group} (h : EmLiveAll gs) : ∀ g ∈ gs.find? p, g.EmLive :=
  fun g hg => h g (List.mem_of_find?_eq_some hg)

theorem EmLiveAll.of_eq_cons {gs hs : List Group} {g : Group} (h : EmLiveAll gs) (e : gs = g :: hs) : g.EmLive ∧ EmLiveAll hs :=
  List.forall_mem_cons.1 (e ▸ h)

theorem emLive_some {α : Type} {P : α → Prop} {a : α} (h : P a) : ∀ x ∈ some a, P x := fun _ e => Option.some.inj e ▸ h

theorem emLive_ite {α : Type} {P : α → Prop} {c : Prop} [Decidable c] {a b : Option α} (ha : ∀ x ∈ a, P x) (hb : ∀ x ∈ b, P x) :
    ∀ x ∈ (if c then a else b), P x := by
  split <;> assumption

theorem emLive_fst_of_eq {α β : Type} {P : α → Prop} {p : α × β} {a : α} {b : β} (h : P p.1) (e : p = (a, b)) : P a := by
  subst e
  exact h

theorem State.EmLive.turn (h : s.EmLive) : s.g.EmLive := h.1

theorem State.EmLive.others (h : s.EmLive) : EmLiveAll s.others := h.2.1

theorem State.EmLive.contexts (h : s.EmLive) : ∀ c ∈ s.contexts, c.EmLive := h.2.2.1

theorem State.EmLive.inputs (h : s.EmLive) : ∀ c, .context c ∈ s.inputs → c.EmLive := h.2.2.2

/-- The next of what the schedule brings, and the state without it. -/
theorem State.EmLive.takeInput {x : Input} {xs : List Input} (h : s.EmLive) (e : s.inputs = x :: xs) :
    State.EmLive { s with inputs := xs } ∧ ∀ c, x = .context c → c.EmLive :=
  ⟨⟨h.turn, h.others, h.contexts, fun c hc => h.inputs c (e ▸ List.mem_cons_of_mem _ hc)⟩,
    fun c hx => h.inputs c (e ▸ hx ▸ List.mem_cons_self)⟩

theorem State.EmLive.groups (h : s.EmLive) : EmLiveAll s.groups := .cons h.turn h.others

/-! Changes of fields. A record update is the constructor over all the fields, and the lemmas say so: each then meets its goal as the
term that it is. -/

/-- A change of fields that hold no groups. -/
theorem State.EmLive.set {s : State} (h : s.EmLive)
    {tick' fresh' device' mem' olds' keyTags' keyGens' full' bindings' poison' stalePte' icache' code' launches' away' teams' cores'
    fenced' tested' hosted' grants' gens' proms' oneShots' channels' colls' queues' entries' ranges' counters' roots' proxies' returns'
    rehomed' farRoots' convs' collsBad' reaches' outbox' sent' unheard' recovering' lost' routes' routesNew' replays' linksDown'
    faultQueue' stuck' events' replies' calls' blackBox' traces' almcause' almcount' alarmed' down' zeroised' measures' svns' staged'
    fuses' stages' sysCores' requests' apart' module' powerCap' clock' corrected' wdLimit' testEvery' flits' flitsIn' flitLog' traffic'} :
    State.EmLive (.mk
    tick' fresh' s.inputs device' s.g s.others mem' olds' keyTags' keyGens' full' bindings' poison' stalePte' icache' code'
    launches' away' s.contexts teams' cores' fenced' tested' hosted' grants' gens' proms' oneShots' channels' colls' queues'
    entries' ranges' counters' roots' proxies' returns' rehomed' farRoots' convs' collsBad' reaches' outbox' sent' unheard'
    recovering' lost' routes' routesNew' replays' linksDown' faultQueue' stuck' events' replies' calls' blackBox' traces'
    almcause' almcount' alarmed' down' zeroised' measures' svns' staged' fuses' stages' sysCores' requests' apart' module'
    powerCap' clock' corrected' wdLimit' testEvery' flits' flitsIn' flitLog' traffic') := h

/-- The same with another group in turn. -/
theorem State.EmLive.setTurn {s : State} (h : s.EmLive) {g₁ : Group} (hg : g₁.EmLive)
    {tick' fresh' device' mem' olds' keyTags' keyGens' full' bindings' poison' stalePte' icache' code' launches' away' teams' cores'
    fenced' tested' hosted' grants' gens' proms' oneShots' channels' colls' queues' entries' ranges' counters' roots' proxies' returns'
    rehomed' farRoots' convs' collsBad' reaches' outbox' sent' unheard' recovering' lost' routes' routesNew' replays' linksDown'
    faultQueue' stuck' events' replies' calls' blackBox' traces' almcause' almcount' alarmed' down' zeroised' measures' svns' staged'
    fuses' stages' sysCores' requests' apart' module' powerCap' clock' corrected' wdLimit' testEvery' flits' flitsIn' flitLog' traffic'} :
    State.EmLive (.mk
    tick' fresh' s.inputs device' g₁ s.others mem' olds' keyTags' keyGens' full' bindings' poison' stalePte' icache' code'
    launches' away' s.contexts teams' cores' fenced' tested' hosted' grants' gens' proms' oneShots' channels' colls' queues'
    entries' ranges' counters' roots' proxies' returns' rehomed' farRoots' convs' collsBad' reaches' outbox' sent' unheard'
    recovering' lost' routes' routesNew' replays' linksDown' faultQueue' stuck' events' replies' calls' blackBox' traces'
    almcause' almcount' alarmed' down' zeroised' measures' svns' staged' fuses' stages' sysCores' requests' apart' module'
    powerCap' clock' corrected' wdLimit' testEvery' flits' flitsIn' flitLog' traffic') := ⟨hg, h.2⟩

/-- The same with other groups. -/
theorem State.EmLive.setGroups {s : State} (h : s.EmLive) {g₁ : Group} {others₁ : List Group} (hg : g₁.EmLive) (ho : EmLiveAll others₁)
    {tick' fresh' device' mem' olds' keyTags' keyGens' full' bindings' poison' stalePte' icache' code' launches' away' teams' cores'
    fenced' tested' hosted' grants' gens' proms' oneShots' channels' colls' queues' entries' ranges' counters' roots' proxies' returns'
    rehomed' farRoots' convs' collsBad' reaches' outbox' sent' unheard' recovering' lost' routes' routesNew' replays' linksDown'
    faultQueue' stuck' events' replies' calls' blackBox' traces' almcause' almcount' alarmed' down' zeroised' measures' svns' staged'
    fuses' stages' sysCores' requests' apart' module' powerCap' clock' corrected' wdLimit' testEvery' flits' flitsIn' flitLog' traffic'} :
    State.EmLive (.mk
    tick' fresh' s.inputs device' g₁ others₁ mem' olds' keyTags' keyGens' full' bindings' poison' stalePte' icache' code'
    launches' away' s.contexts teams' cores' fenced' tested' hosted' grants' gens' proms' oneShots' channels' colls' queues'
    entries' ranges' counters' roots' proxies' returns' rehomed' farRoots' convs' collsBad' reaches' outbox' sent' unheard'
    recovering' lost' routes' routesNew' replays' linksDown' faultQueue' stuck' events' replies' calls' blackBox' traces'
    almcause' almcount' alarmed' down' zeroised' measures' svns' staged' fuses' stages' sysCores' requests' apart' module'
    powerCap' clock' corrected' wdLimit' testEvery' flits' flitsIn' flitLog' traffic') := ⟨hg, ho, h.2.2⟩

/-- The same with other context areas. -/
theorem State.EmLive.setContexts {s : State} (h : s.EmLive) {contexts₁ : List Context} (hc : ∀ c ∈ contexts₁, c.EmLive)
    {tick' fresh' device' mem' olds' keyTags' keyGens' full' bindings' poison' stalePte' icache' code' launches' away' teams' cores'
    fenced' tested' hosted' grants' gens' proms' oneShots' channels' colls' queues' entries' ranges' counters' roots' proxies' returns'
    rehomed' farRoots' convs' collsBad' reaches' outbox' sent' unheard' recovering' lost' routes' routesNew' replays' linksDown'
    faultQueue' stuck' events' replies' calls' blackBox' traces' almcause' almcount' alarmed' down' zeroised' measures' svns' staged'
    fuses' stages' sysCores' requests' apart' module' powerCap' clock' corrected' wdLimit' testEvery' flits' flitsIn' flitLog' traffic'} :
    State.EmLive (.mk
    tick' fresh' s.inputs device' s.g s.others mem' olds' keyTags' keyGens' full' bindings' poison' stalePte' icache' code'
    launches' away' contexts₁ teams' cores' fenced' tested' hosted' grants' gens' proms' oneShots' channels' colls' queues'
    entries' ranges' counters' roots' proxies' returns' rehomed' farRoots' convs' collsBad' reaches' outbox' sent' unheard'
    recovering' lost' routes' routesNew' replays' linksDown' faultQueue' stuck' events' replies' calls' blackBox' traces'
    almcause' almcount' alarmed' down' zeroised' measures' svns' staged' fuses' stages' sysCores' requests' apart' module'
    powerCap' clock' corrected' wdLimit' testEvery' flits' flitsIn' flitLog' traffic') := ⟨h.1, h.2.1, hc, h.2.2.2⟩

/-- A change of fields of a group other than its masks. -/
theorem Group.EmLive.set {g : Group} (h : g.EmLive)
    {key' launch' team' idx' role' core' slot' gid' tid' v' e' s' p' launched' pc' bankV' bankS' qw' domain' regpc' stack' frm' fflags'
    trapMode' trapCause' trapPc' trapLanes' trapInfo' trapEm' tasklink' retired' startTick' dbgctl' wwr' whit' spend' outv' inv' dbgout'
    dbgin' runLen' eWritten' inflight' pendS' joins' trailer' held' heldT' epoch' side' heldOps' late' drains' bound' reds' wait'
    waitEnd' holds' since' served' region' restarts' poison' sig' twin' leader' rdv' mismatches' mismatchAt' watchdog' replay' packets'
    owed' sinceBar' age' port' ended' halted' dbgHalt' preempted' haltTick' spilled' marked' suspended' fetchHeld' borrow' emTraced'
    hits' last'} :
    Group.EmLive (.mk
    key' launch' team' idx' role' core' slot' gid' tid' v' e' s' p' g.em g.live launched' pc' bankV' bankS' qw' domain' regpc'
    stack' frm' fflags' trapMode' trapCause' trapPc' trapLanes' trapInfo' trapEm' tasklink' retired' startTick' dbgctl' wwr' whit'
    spend' outv' inv' dbgout' dbgin' runLen' eWritten' inflight' pendS' joins' trailer' held' heldT' epoch' side' heldOps' late'
    drains' bound' reds' wait' waitEnd' holds' since' served' region' restarts' poison' sig' twin' leader' rdv' mismatches'
    mismatchAt' watchdog' replay' packets' owed' sinceBar' age' port' ended' halted' dbgHalt' preempted' haltTick' spilled'
    marked' suspended' fetchHeld' borrow' emTraced' hits' last') := h

theorem emLive_and (a b : Mask) : (a &&& b) &&& ~~~b = 0 := by
  simp [BitVec.and_assoc]

theorem emLive_self (a : Mask) : a &&& ~~~a = 0 := by simp

theorem emLive_zero (a : Mask) : 0 &&& ~~~a = 0 := by simp

theorem emLive_of_subset {m em live : Mask} (h : m &&& ~~~em = 0) (hl : em &&& ~~~live = 0) : m &&& ~~~live = 0 := by
  have hm : m = m &&& em := by
    ext i hi
    have hi' := congrArg (·.getLsbD i) h
    simp [hi] at hi' ⊢
    exact hi'
  rw [hm, BitVec.and_assoc, hl]
  simp

/-- Fewer lanes. -/
theorem Group.EmLive.and {g : Group} (h : g.EmLive) (m : Mask) : (g.em &&& m) &&& ~~~g.live = 0 := by
  have h : g.em &&& ~~~g.live = 0 := h
  rw [BitVec.and_assoc, BitVec.and_comm m, ← BitVec.and_assoc, h]
  simp

/-- A fold over groups. -/
theorem Group.EmLive.foldl {α : Type} {f : Group → α → Group} {l : List α} {g : Group} (h : g.EmLive)
    (hf : ∀ g x, g.EmLive → (f g x).EmLive) : (l.foldl f g).EmLive :=
  List.foldlRecOn l f (motive := Group.EmLive) h fun g hg x _ => hf g x hg

/-- The same from the last element on, with something else carried along. -/
theorem Group.EmLive.foldrFst {α β : Type} {f : α → Group × β → Group × β} {l : List α} {a : Group × β} (h : a.1.EmLive)
    (hf : ∀ x a, a.1.EmLive → (f x a).1.EmLive) : (l.foldr f a).1.EmLive := by
  induction l with
  | nil => exact h
  | cons x xs ih => exact hf x _ ih

/-- A fold over states. -/
theorem State.EmLive.foldl {α : Type} {f : State → α → State} {l : List α} (h : s.EmLive) (hf : ∀ s x, s.EmLive → (f s x).EmLive) :
    (l.foldl f s).EmLive :=
  List.foldlRecOn l f (motive := State.EmLive) h fun s hs x _ => hf s x hs

/-- A fold over states along a list of groups. -/
theorem State.EmLive.foldlGroups {f : State → Group → State} {l : List Group} (h : s.EmLive) (hl : EmLiveAll l)
    (hf : ∀ s g, s.EmLive → g.EmLive → (f s g).EmLive) : (l.foldl f s).EmLive :=
  List.foldlRecOn l f (motive := State.EmLive) h fun s hs g hg => hf s g hs (hl g hg)

/-- The same where the fold carries something else along. -/
theorem State.EmLive.foldlFst {α β : Type} {f : State × β → α → State × β} {l : List α} {a : State × β} (h : a.1.EmLive)
    (hf : ∀ a x, a.1.EmLive → (f a x).1.EmLive) : (l.foldl f a).1.EmLive :=
  List.foldlRecOn l f (motive := fun a => a.1.EmLive) h fun a ha x _ => hf a x ha

theorem Group.EmLive.getD {o : Option Group} {g : Group} (h : g.EmLive) (ho : ∀ g ∈ o, g.EmLive) : (o.getD g).EmLive := by
  cases o with
  | none => exact h
  | some x => exact ho x rfl

theorem State.EmLive.getD {o : Option State} (h : s.EmLive) (ho : ∀ t ∈ o, t.EmLive) : (o.getD s).EmLive := by
  cases o with
  | none => exact h
  | some x => exact ho x rfl

theorem emLive_cons {α : Type} {P : α → Prop} {a : α} {l : List α} (h : P a) (hl : ∀ x ∈ l, P x) : ∀ x ∈ a :: l, P x :=
  List.forall_mem_cons.2 ⟨h, hl⟩

theorem emLive_filter {α : Type} {P : α → Prop} {p : α → Bool} {l : List α} (hl : ∀ x ∈ l, P x) : ∀ x ∈ l.filter p, P x :=
  fun x hx => hl x (List.mem_of_mem_filter hx)

theorem emLive_find {α : Type} {P : α → Prop} {p : α → Bool} {l : List α} (hl : ∀ x ∈ l, P x) : ∀ x ∈ l.find? p, P x :=
  fun x hx => hl x (List.mem_of_find?_eq_some hx)

theorem emLive_bind {α β : Type} {P : β → Prop} {o : Option α} {f : α → Option β} (h : ∀ a ∈ o, ∀ x ∈ f a, P x) :
    ∀ x ∈ o.bind f, P x := by
  cases o with
  | none => intro x hx; exact nomatch hx
  | some a => exact h a rfl

theorem emLive_map {α β : Type} {P : β → Prop} {o : Option α} {f : α → β} (h : ∀ a ∈ o, P (f a)) : ∀ x ∈ o.map f, P x := by
  cases o with
  | none => intro x hx; exact nomatch hx
  | some a => exact emLive_some (h a rfl)

theorem emLive_orElse {α : Type} {P : α → Prop} {o : Option α} {f : Unit → Option α} (ho : ∀ x ∈ o, P x) (hf : ∀ x ∈ f (), P x) :
    ∀ x ∈ o.orElse f, P x := by
  cases o with
  | none => exact hf
  | some a => exact ho

theorem emLive_foldl {α β : Type} {P : β → Prop} {f : Option β → α → Option β} {l : List α} {o : Option β} (ho : ∀ x ∈ o, P x)
    (hf : ∀ o a, (∀ x ∈ o, P x) → ∀ x ∈ f o a, P x) : ∀ x ∈ l.foldl f o, P x :=
  List.foldlRecOn l f (motive := fun o => ∀ x ∈ o, P x) ho fun o h a _ => hf o a h

theorem emLive_findSome {α β : Type} {P : β → Prop} {l : List α} {f : α → Option β} (h : ∀ a, ∀ x ∈ f a, P x) :
    ∀ x ∈ l.findSome? f, P x := by
  intro x hx
  obtain ⟨a, -, e⟩ := List.exists_of_findSome?_eq_some hx
  exact h a x e

theorem EmLiveAll.ofMap {α : Type} {f : α → Group} {l : List α} (h : ∀ a, (f a).EmLive) : EmLiveAll (l.map f) :=
  List.forall_mem_map.2 fun a _ => h a

theorem EmLiveAll.insertBy {lt : Group → Group → Bool} {g : Group} {gs : List Group} (hg : g.EmLive) (h : EmLiveAll gs) :
    EmLiveAll (insertBy lt g gs) := by
  induction gs with
  | nil => exact .cons hg .nil
  | cons x xs ih =>
    obtain ⟨hx, hxs⟩ := h.of_eq_cons rfl
    exact .ite (.cons hg h) (.cons hx (ih hxs))

theorem EmLiveAll.sortBy {lt : Group → Group → Bool} {gs : List Group} (h : EmLiveAll gs) : EmLiveAll (sortBy lt gs) := by
  suffices ∀ acc, EmLiveAll acc → EmLiveAll (gs.foldl (fun acc x => Machine.insertBy lt x acc) acc) from this [] .nil
  induction gs with
  | nil => exact fun _ ha => ha
  | cons x xs ih =>
    obtain ⟨hx, hxs⟩ := h.of_eq_cons rfl
    exact fun acc ha => ih hxs _ (.insertBy hx ha)
section Lanes
-- A lemma here cites the ones before it; side by side they would each wait with a thread of its own.
set_option Elab.async false

/-! `Machine/State`. -/

theorem Group.EmLive.vacant : Group.vacant.EmLive := emLive_self _

theorem State.EmLive.reset : State.reset.EmLive :=
  ⟨emLive_zero 0, .nil, by simp [State.reset], by simp [State.reset]⟩

/-! `Machine/Operands`. -/

theorem Group.EmLive.setL {g : Group} {r x} (hg : g.EmLive) :
    (g.setL r x).EmLive := by
  unfold Group.setL
  split
  · exact hg.set
  · exact hg.set

theorem Group.EmLive.writeL {g : Group} {m r f} (hg : g.EmLive) : (g.writeL m r f).EmLive := .ite hg hg.setL

/-! `Machine/Flags`. -/

theorem Group.EmLive.writeF {g : Group} {m d f} (hg : g.EmLive) : (g.writeF m d f).EmLive := hg.writeL.set

/-! `Machine/Ops`. -/

theorem State.EmLive.group? {s : State} {k} (hs : s.EmLive) : ∀ g ∈ s.group? k, g.EmLive := hs.groups.find

theorem State.EmLive.mapGroups {s : State} {f} (hs : s.EmLive) (hf : ∀ g, g.EmLive → (f g).EmLive) :
    (s.mapGroups f).EmLive :=
  hs.setGroups (hf _ hs.turn) (hs.others.map hf)

theorem State.EmLive.onGroup {s : State} {k f} (hs : s.EmLive) (hf : ∀ g, g.EmLive → (f g).EmLive) :
    (s.onGroup k f).EmLive :=
  hs.mapGroups fun _ ha => .ite (hf _ ha) ha

theorem State.EmLive.onG {s : State} {f} (hs : s.EmLive) (hf : ∀ g, g.EmLive → (f g).EmLive) : (s.onG f).EmLive := hs.setTurn (hf _ hs.turn)

theorem State.EmLive.turnTo {s : State} {k} (hs : s.EmLive) :
    (s.turnTo k).EmLive := by
  unfold State.turnTo
  split
  · exact hs
  · split
    next hq1 => exact hs.setGroups (hs.others.find _ hq1) (hs.others.map fun _ hg1 => .ite hs.turn hg1)
    · exact hs

theorem State.EmLive.liveOf {s : State} {t} (hs : s.EmLive) : EmLiveAll (s.liveOf t) := hs.groups.filter

theorem State.EmLive.onCore {s : State} {id f} (hs : s.EmLive) : (s.onCore id f).EmLive := .ite hs.set hs.set

theorem State.EmLive.done {s : State} {g : Group} (hs : s.EmLive) (hg : g.EmLive) : Out.EmLive (s.done g) := hs.setTurn hg.set

theorem State.EmLive.stall {s : State} (hs : s.EmLive) : Out.EmLive s.stall := hs.onG fun _ ha => ha.set

theorem Group.EmLive.settle {tick idx p} {g : Group} (hg : g.EmLive) :
    (Group.settle tick idx p g).EmLive :=
  .ite (.ite hg (.ite hg.set hg)) hg.writeL

theorem Group.EmLive.settleAll {tick} {g : Group} (hg : g.EmLive) :
    (Group.settleAll tick g).EmLive :=
  .set (hg.foldrFst fun _ _ h => h.settle)

theorem Group.EmLive.trapped {g : Group} {tick cause info lanes pc} (hg : g.EmLive) :
    (g.trapped tick cause info lanes pc).EmLive :=
  .set (.set (.settleAll (.ite hg.set hg)))

theorem Group.EmLive.trapEntry {vec tick} {g : Group} {cause info lanes pc} (hg : g.EmLive) :
    (trapEntry vec tick g cause info lanes pc).1.EmLive := by
  unfold Machine.trapEntry
  split
  · exact hg.set.set
  · extract_lets g1 __src
    have hg1 : g1.EmLive := hg.trapped
    have h__src : __src.EmLive := hg1.set
    split
    · exact hg1.set
    · exact h__src.set

theorem State.EmLive.cutWait {s : State} {g : Group} (hs : s.EmLive) : (s.cutWait g).EmLive := hs.set.onCore

theorem State.EmLive.trapGroup {s : State} {g : Group} {cause info lanes pc} (hs : s.EmLive) (hg : g.EmLive) :
    (s.trapGroup g cause info lanes pc).EmLive := by
  unfold State.trapGroup
  extract_lets s1 r s2
  have hs1 : s1.EmLive := .ite hs.cutWait hs
  have hr : r.1.EmLive := hg.trapEntry
  have hs2 : s2.EmLive := hs1.onGroup fun _ _ => hr
  exact .ite (hs1.onGroup fun _ ha => ha.set) (.ite hs2.set hs2)

theorem State.EmLive.trapAt {s : State} {cause info lanes} (hs : s.EmLive) : Out.EmLive (s.trapAt cause info lanes) := hs.trapGroup hs.turn

theorem State.EmLive.trapU {s : State} {cause info} (hs : s.EmLive) : Out.EmLive (s.trapU cause info) := hs.trapAt

theorem Group.EmLive.rft {g : Group} : g.rft.EmLive := by
  unfold Group.rft Group.EmLive
  dsimp only
  rw [Group.swapBank_live]
  exact emLive_and _ _

theorem State.EmLive.beginWait {s : State} {w holds} (hs : s.EmLive) : Out.EmLive (s.beginWait w holds) := hs.setTurn hs.turn.set

theorem Group.EmLive.writeStatus {g : Group} {op x j} (hg : g.EmLive) :
    (g.writeStatus op x j).EmLive := by
  unfold Group.writeStatus
  split
  · exact hg
  · exact .ite hg.set.set hg.set.set

/-! `Machine/Access`. -/

theorem State.EmLive.homeWriteBy {s : State} {w scope atomic core l bs} (hs : s.EmLive) :
    (s.homeWriteBy w scope atomic core l bs).EmLive :=
  hs.set.set

theorem State.EmLive.drainTo {s : State} {w scope core l b} (hs : s.EmLive) :
    (s.drainTo w scope core l b).EmLive := by
  unfold State.drainTo
  extract_lets s1
  have hs1 : s1.EmLive := hs.set
  split
  · exact hs1.homeWriteBy
  · split
    · exact hs1.homeWriteBy
    · exact hs1.set

theorem State.EmLive.drainAll {s : State} {w scope core l bs} (hs : s.EmLive) :
    (s.drainAll w scope core l bs).EmLive :=
  hs.foldl fun _ _ hs1 => hs1.drainTo

theorem State.EmLive.suspend {s : State} {dev} (hs : s.EmLive) : Out.EmLive (s.suspend dev) := hs.onG fun _ ha => ha.set

theorem State.EmLive.checked {s : State} {ps kind go} (hs : s.EmLive) (hgo : Out.EmLive go) :
    Out.EmLive (s.checked ps kind go) := by
  unfold State.checked
  split
  · exact hs.trapAt
  · split
    · exact hs.trapAt
    · exact hs.suspend
    · exact hgo

theorem State.EmLive.recordFault {s : State} {acc p} (hs : s.EmLive) :
    (s.recordFault acc p).EmLive := by
  unfold State.recordFault
  split
  · exact hs.set
  · exact hs

theorem State.EmLive.installAll {s : State} {acc ps} (hs : s.EmLive) :
    (s.installAll acc ps).EmLive := by
  unfold State.installAll
  refine hs.foldl fun _ _ hs1 => ?_
  split
  · split
    · exact hs1.set
    · exact hs1
  · exact hs1.recordFault

theorem State.EmLive.rehomeAll {s : State} (hs : s.EmLive) : s.rehomeAll.EmLive := hs.mapGroups fun _ ha => .ite ha.set ha

theorem Group.EmLive.hold {g : Group} {l a} (hg : g.EmLive) : (g.hold l a).EmLive := by
  induction a generalizing g l with
  | nil => exact hg
  | cons b bs ih => exact ih (g := {g with held := _}) hg.set

theorem Group.EmLive.holdWord {g : Group} {l bs} (hg : g.EmLive) : (g.holdWord l bs).EmLive := hg.hold.set

theorem Group.EmLive.feed {g : Group} {bs} (hg : g.EmLive) : (g.feed bs).EmLive := .ite hg.set hg

theorem Group.EmLive.watchAll {s : State} {rd wr accs} {g : Group} (hg : g.EmLive) :
    (s.watchAll rd wr accs g).EmLive :=
  .ite hg (.ite hg hg.set)

/-! `Machine/Trace`. -/

theorem State.EmLive.diverge {s : State} {g : Group} {pc} (hs : s.EmLive) :
    (s.diverge g pc).EmLive := by
  unfold State.diverge
  extract_lets s1 _ _ __src
  have hs1 : s1.EmLive := hs.set
  have h__src : __src.EmLive := hs1.onGroup fun _ ha => .ite ha.set.set.set ha.settleAll.set.set.set.set.set
  exact .ite (hs1.onGroup fun _ ha => ha.set) h__src.set

theorem State.EmLive.comparePacket {s : State} {g : Group} {p pc} (hs : s.EmLive) :
    (s.comparePacket g p pc).EmLive := by
  unfold State.comparePacket
  split
  · exact hs
  · exact .ite hs (.ite (hs.onGroup fun _ ha => ha.set) hs.diverge)

theorem State.EmLive.tracePacket {s : State} {k p pc} (hs : s.EmLive) :
    (s.tracePacket k p pc).EmLive := by
  unfold State.tracePacket
  split
  · exact hs
  · exact hs.set.comparePacket

theorem State.EmLive.packet {s : State} {k p pc} (hs : s.EmLive) :
    (s.packet k p pc).EmLive := by
  unfold State.packet
  split
  · exact hs
  · exact .ite hs (.ite (hs.onGroup fun _ ha => ha.set) hs.tracePacket)

theorem State.EmLive.owe {s : State} {k o} (hs : s.EmLive) : (s.owe k o).EmLive := hs.onGroup fun _ ha => .ite ha ha.set

theorem State.EmLive.pay {n a} {a1 : State} (ha1 : a1.EmLive) : (State.pay n a a1).EmLive := by
  induction n generalizing a1 with
  | zero => exact ha1
  | succ n ih =>
    unfold State.pay
    split
    · exact ha1
    · split
      · exact ha1
      next o rest _ =>
        extract_lets s₁
        have hs₁ : s₁.EmLive := ha1.onGroup fun _ hg => hg.set
        refine .ite ha1 (ih ?_)
        split
        · exact hs₁
        · exact hs₁.tracePacket

theorem State.EmLive.paid {s : State} (hs : s.EmLive) : s.paid.EmLive := hs.foldlGroups hs.groups.filter fun _ _ hs1 _ => hs1.pay

theorem State.EmLive.emPacket {s : State} {k pc} (hs : s.EmLive) :
    (s.emPacket k pc).EmLive := by
  unfold State.emPacket
  split
  · exact .ite hs (.packet (hs.onGroup fun _ ha => ha.set))
  · exact hs

/-! `Machine/Place`. -/

theorem State.EmLive.copyPad {s : State} {src dst n} (hs : s.EmLive) :
    (s.copyPad src dst n).EmLive :=
  .ite hs (.set (hs.mapGroups fun _ ha => ha.set))

theorem State.EmLive.saveWatch {s : State} {t} (hs : s.EmLive) : (s.saveWatch t).EmLive := .ite hs.set.onCore hs

theorem State.EmLive.restoreWatch {s : State} {t} (hs : s.EmLive) :
    (s.restoreWatch t).EmLive := by
  unfold State.restoreWatch
  split
  · exact hs
  · extract_lets
    split
    · exact hs.set.onCore
    · exact .ite hs hs.set

theorem State.EmLive.applyWatches {s : State} {c} (hs : s.EmLive) :
    (s.applyWatches c).EmLive := by
  unfold State.applyWatches
  split
  · exact .ite hs.restoreWatch hs
  · exact hs

theorem Group.EmLive.halt {tick age} {g : Group} (hg : g.EmLive) : (Group.halt tick age g).EmLive := hg.settleAll.set.set

theorem State.EmLive.endRuns {s : State} {p f} (hs : s.EmLive) (hf : ∀ age, ∀ g, g.EmLive → (f age g).EmLive) :
    (s.endRuns p f).EmLive :=
  .set (.set (hs.mapGroups fun _ ha => .ite (hf _ _ ha) ha))

theorem Group.EmLive.discard {g : Group} (hg : g.EmLive) : g.discard.EmLive := hg.set.set.set

theorem Group.EmLive.restart {age} {g : Group} (hg : g.EmLive) : (Group.restart age g).EmLive := hg.set.discard.set

theorem State.EmLive.keepHeader {s : State} {r} (hs : s.EmLive) :
    (s.keepHeader r).EmLive := by
  unfold State.keepHeader
  extract_lets _ _ s1
  have hs1 : s1.EmLive := hs.set
  split
  · exact hs1
  · split
    · exact hs1
    · exact hs1.set

theorem State.EmLive.dropClaims {s : State} {t} (hs : s.EmLive) : (s.dropClaims t).EmLive := hs.onCore

theorem State.EmLive.joinClaims {s : State} {t} (hs : s.EmLive) : (s.joinClaims t).EmLive := hs.onCore

theorem State.EmLive.swapOne {s : State} {t} (hs : s.EmLive) :
    (s.swapOne t).EmLive :=
  .keepHeader (.applyWatches (.set (hs.saveWatch.copyPad.endRuns fun _ _ ha => ha.halt.set)))

theorem State.EmLive.spillOne {s : State} {k} (hs : s.EmLive) :
    (s.spillOne k).EmLive := by
  unfold State.spillOne
  split
  · exact hs
  · split
    · exact hs
    · extract_lets s1
      have hs1 : s1.EmLive := hs.endRuns fun _ _ ha => ha.halt.set.set
      split
      · exact hs1
      · exact .ite hs1.keepHeader (.ite hs1.saveWatch.applyWatches.keepHeader hs1.swapOne)

theorem State.EmLive.spillGroup {s : State} {k} (hs : s.EmLive) :
    (s.spillGroup k).EmLive := by
  unfold State.spillGroup
  split
  · exact hs.spillOne.spillOne
  · exact hs.spillOne

theorem State.EmLive.lenders {s : State} {r c} (hs : s.EmLive) : EmLiveAll (s.lenders r c) := hs.groups.filter.sortBy

theorem State.EmLive.makeRoom {s : State} {r c room} (hs : s.EmLive) :
    (s.makeRoom r c room).EmLive :=
  hs.foldlGroups hs.lenders fun _ _ hs1 _ => .ite hs1 hs1.spillGroup

theorem State.EmLive.claimSide {s : State} {r c} (hs : s.EmLive) :
    (s.claimSide r c).EmLive :=
  hs.foldlGroups hs.lenders fun _ _ hs1 _ => .ite hs1.spillGroup hs1

theorem State.EmLive.seat {s : State} {c k} (hs : s.EmLive) :
    (s.seat c k).EmLive := by
  unfold State.seat
  split
  · exact hs
  · split
    · exact hs
    · extract_lets _ _ _ _ _ _ s1 s2
      have hs1 : s1.EmLive := .onGroup (.ite hs.cutWait hs) fun _ ha => .set (.ite ha.restart.set ha)
      have hs2 : s2.EmLive := hs1.set
      exact .ite hs2.packet hs2

theorem State.EmLive.swapOut {s : State} {lid idx} (hs : s.EmLive) : (s.swapOut lid idx).EmLive := hs.foldl fun _ _ hs1 => hs1.swapOne

theorem Group.EmLive.startGroup {l t tick key idx twin} : (startGroup l t tick key idx twin).EmLive := emLive_self _

theorem State.EmLive.moveClaims {s : State} {t c} (hs : s.EmLive) :
    (s.moveClaims t c).EmLive :=
  .ite hs (.foldl (hs.foldl fun _ _ hs1 => hs1.copyPad) fun _ _ hs1 => hs1.copyPad)

theorem State.EmLive.settle {s : State} {t} (hs : s.EmLive) :
    (s.settle t).EmLive :=
  .ite (.set (hs.mapGroups fun _ ha => .ite ha.set ha)) (hs.mapGroups fun _ ha => .ite ha.set ha)

theorem State.EmLive.placeOne {s : State} {t c key twinKey need} (hs : s.EmLive) :
    (s.placeOne t c key twinKey need).EmLive := by
  unfold State.placeOne
  split
  · exact hs
  · extract_lets s1 _ s2 _ s3 s4 gs s5 s6 s7 s8
    have hs1 : s1.EmLive := hs.makeRoom
    have hs2 : s2.EmLive := hs1.moveClaims
    have hs3 : s3.EmLive := hs2.set
    have hs4 : s4.EmLive := hs3.set
    have hgs : EmLiveAll gs := .ofMap fun _ => Group.EmLive.startGroup
    have hs5 : s5.EmLive := hs3.set
    have hs6 : s6.EmLive := .ite hs5 hs5.dropClaims
    have hs7 : s7.EmLive := hs6.copyPad
    have hs8 : s8.EmLive := hs7.foldlGroups hs7.liveOf fun _ _ hs9 _ => hs9.seat
    split
    · exact .settle (hs4.foldlGroups hgs fun _ _ hs9 hg => (hs9.setGroups hs9.turn (hs9.others.append (.cons hg .nil))).seat)
    · exact hs8.joinClaims.settle.restoreWatch

theorem State.EmLive.place {s : State} {lid idx c} (hs : s.EmLive) :
    (s.place lid idx c).EmLive := by
  unfold State.place
  extract_lets
  split
  · exact hs.set.placeOne
  · split
    · exact hs
    · exact hs.set.placeOne.placeOne
  · exact hs

/-! `Machine/Progress`. -/

theorem State.EmLive.swapAll {s : State} {ts} (hs : s.EmLive) : (s.swapAll ts).EmLive := hs.foldl fun _ _ hs1 => hs1.swapOut

theorem State.EmLive.charge {s : State} {sponsor c id t} (hs : s.EmLive) : (s.charge sponsor c id t).EmLive := hs.set.set.set

theorem State.EmLive.placeReserved {s : State} {p t c key twin} (hs : s.EmLive) :
    (s.placeReserved p t c key twin).EmLive :=
  hs.charge.placeOne

theorem State.EmLive.placeInReserve {s : State} {p t} (hs : s.EmLive) :
    ∀ t_1 ∈ s.placeInReserve p t, t_1.EmLive := by
  unfold State.placeInReserve
  extract_lets
  split
  · exact emLive_map fun _ _ => hs.set.placeReserved
  · exact emLive_map fun _ _ => hs.set.placeReserved.placeReserved
  · exact by simp

theorem State.EmLive.placeHeld {s : State} {tenant p t} (hs : s.EmLive) :
    ∀ t_1 ∈ s.placeHeld tenant p t, t_1.EmLive :=
  emLive_orElse hs.placeInReserve (emLive_map fun _ _ => hs.swapAll.place)

theorem State.EmLive.placeTarget {s : State} {tenant p} (hs : s.EmLive) :
    ∀ t ∈ s.placeTarget tenant p, t.EmLive :=
  emLive_foldl (emLive_some hs) fun _ _ h _ hm => (emLive_bind fun _ hm1 _ hm2 => ((h _ hm1).placeHeld) _ hm2) _ hm

theorem State.EmLive.promote {s : State} {g : Group} {sponsor depth lid} (hs : s.EmLive) :
    ∀ x ∈ s.promote g sponsor depth lid, x.1.EmLive := by
  unfold State.promote
  extract_lets _ _ _ s1
  have hs1 : s1.EmLive := hs.set
  split
  · exact emLive_some hs
  · split
    · exact by simp
    · exact emLive_ite (emLive_map fun _ hm => hs1.placeTarget _ hm) (emLive_some hs1)

theorem State.EmLive.checkWait {s : State} {g : Group} {kind ts} (hs : s.EmLive) :
    (s.checkWait g kind ts).st.EmLive := by
  unfold State.checkWait
  extract_lets _ _ _ _ r
  have hr : r.1.EmLive := by
    refine hs.foldlFst fun _ _ h => ?_
    split
    next hq => exact h.promote _ hq
    · exact h
  split
  · exact hs
  · split
    · exact hr.set
    · exact hs

theorem State.EmLive.waitOn {s : State} {w} (hs : s.EmLive) :
    Out.EmLive (s.waitOn w) := by
  unfold State.waitOn
  extract_lets c
  have hc : c.st.EmLive := hs.checkWait
  split
  · exact hs.trapAt
  · exact hc.beginWait

theorem State.EmLive.satisfyOne {s : State} {k} (hs : s.EmLive) :
    (s.satisfyOne k).EmLive := by
  unfold State.satisfyOne
  split
  · exact hs
  · exact .ite hs (hs.set.set.onGroup fun _ ha => ha.set)

theorem State.EmLive.failOne {s : State} {k cause info lanes} (hs : s.EmLive) :
    (s.failOne k cause info lanes).EmLive := by
  unfold State.failOne
  split
  · exact hs
  · exact .ite hs (hs.set.set.onGroup fun _ ha => ha.set)

theorem State.EmLive.waiters {s : State} {p} (hs : s.EmLive) : EmLiveAll (s.waiters p) := hs.groups.filter.sortBy

theorem State.EmLive.satisfyAll {s : State} {p} (hs : s.EmLive) :
    (s.satisfyAll p).EmLive :=
  hs.foldlGroups hs.waiters fun _ _ hs1 _ => hs1.satisfyOne

theorem State.EmLive.writeStatus {s : State} {op x j} (hs : s.EmLive) :
    (s.writeStatus op x j).EmLive :=
  .satisfyAll (hs.mapGroups fun _ ha => ha.writeStatus)

theorem State.EmLive.failAll {s : State} {p cause info} (hs : s.EmLive) :
    (s.failAll p cause info).EmLive :=
  hs.foldlGroups hs.waiters fun _ _ hs1 _ => hs1.failOne

theorem State.EmLive.recheck {s : State} {g : Group} {w ts} (hs : s.EmLive) :
    (s.recheck g w ts).EmLive := by
  unfold State.recheck
  extract_lets c _ _ _ s1
  have hc : c.st.EmLive := hs.checkWait
  have hs1 : s1.EmLive := hc.set
  split
  · exact hs.failOne
  · exact hs1.onGroup fun _ ha => ha.set

theorem State.EmLive.recheckGranules {s : State} {grans} (hs : s.EmLive) :
    (s.recheckGranules grans).EmLive := by
  unfold State.recheckGranules
  extract_lets
  refine hs.foldlGroups hs.waiters fun _ _ hs1 _ => ?_
  split
  · exact hs1.recheck
  · exact hs1

theorem State.EmLive.recheckJoin {s : State} {lid p} (hs : s.EmLive) :
    (s.recheckJoin lid p).EmLive := by
  unfold State.recheckJoin
  refine hs.foldlGroups hs.waiters fun _ _ hs1 _ => ?_
  split
  · exact hs1.recheck
  · exact hs1

theorem State.EmLive.forget {s : State} {id} (hs : s.EmLive) : (s.forget id).EmLive := hs.set.set.mapGroups fun _ ha => ha.set

theorem State.EmLive.leaveSlot {s : State} {t} (hs : s.EmLive) :
    (s.leaveSlot t).EmLive := by
  unfold State.leaveSlot
  extract_lets _ s1
  have hs1 : s1.EmLive := hs.set
  split
  · exact hs1.charge
  · exact .ite hs1 (.ite hs1 hs1.swapOut)

theorem State.EmLive.rehold {s : State} {a b} (hs : s.EmLive) : (s.rehold a b).EmLive := hs.mapGroups fun _ ha1 => .ite ha1.set ha1

theorem State.EmLive.lowerRecord {s : State} {p e} (hs : s.EmLive) :
    (s.lowerRecord p e).EmLive := by
  unfold State.lowerRecord
  extract_lets _ s1 s2
  have hs1 : s1.EmLive := hs.set
  have hs2 : s2.EmLive := by
    unfold s2
    split
    · exact hs1.rehold.set
    · exact hs1.set
  exact hs2.foldl fun _ _ hs3 => hs3.leaveSlot

theorem State.EmLive.lowerHold {s : State} {e k p} (hs : s.EmLive) :
    (s.lowerHold e k p).EmLive := by
  unfold State.lowerHold
  split
  · exact hs.set.onGroup fun _ ha => ha.set
  · split
    · exact hs.lowerRecord
    · extract_lets
      split
      · exact hs.set.set.onGroup fun _ ha => ha.set
      · exact .ite hs (hs.set.set.set.onGroup fun _ ha => ha.set)

theorem State.EmLive.lowerWaits {n lid} {a : State} (ha : a.EmLive) : (State.lowerWaits n lid a).EmLive := by
  induction n generalizing lid a with
  | zero => exact ha
  | succ n ih =>
    refine ha.foldl fun t x ht => ?_
    split
    · exact ht
    · exact .ite ht (ih ht.lowerHold)

theorem State.EmLive.revert {s : State} {p} (hs : s.EmLive) :
    (s.revert p).EmLive :=
  .lowerWaits (hs.forget.foldl fun _ _ hs1 => hs1.leaveSlot)

theorem State.EmLive.revertIdle {n} {a : State} (ha : a.EmLive) : (State.revertIdle n a).EmLive := by
  induction n generalizing a with
  | zero => exact ha
  | succ n ih =>
    unfold State.revertIdle
    split
    · exact ih ha.revert
    · exact ha

/-! `Machine/Exchange`. -/

theorem State.EmLive.execPerm {w d a b gd} {s : State} (hs : s.EmLive) : Out.EmLive (execPerm w d a b gd s) := hs.done hs.turn.writeL

theorem State.EmLive.execLxch {x d a gd} {s : State} (hs : s.EmLive) : Out.EmLive (execLxch x d a gd s) := hs.done hs.turn.writeL

theorem State.EmLive.execLred {r d a gd} {s : State} (hs : s.EmLive) :
    Out.EmLive (execLred r d a gd s) :=
  hs.done (.ite hs.turn.writeL hs.turn.writeL.set)

theorem State.EmLive.execLscan {r exc d a gd} {s : State} (hs : s.EmLive) :
    Out.EmLive (execLscan r exc d a gd s) :=
  hs.done (.ite hs.turn.writeL hs.turn.writeL.set)

theorem State.EmLive.execVote {sd p mode} {s : State} (hs : s.EmLive) : Out.EmLive (execVote sd p mode s) := hs.done hs.turn.set

theorem State.EmLive.breakBar {s : State} {t b other reason grp} (hs : s.EmLive) :
    (s.breakBar t b other reason grp).EmLive :=
  .set (hs.foldlGroups hs.waiters fun _ _ hs1 _ => hs1.failOne)

theorem State.EmLive.releaseBar {s : State} {t n} (hs : s.EmLive) :
    (s.releaseBar t n).EmLive :=
  .set (hs.satisfyAll.mapGroups fun _ ha => .ite ha.set ha)

theorem State.EmLive.execBar {n sa} {s : State} (hs : s.EmLive) :
    Out.EmLive (execBar n sa s) := by
  unfold Machine.execBar
  extract_lets
  split
  · exact hs.trapU
  · split
    · exact hs.trapU
    · split
      · exact hs.trapU
      · exact .ite hs.breakBar.trapU (.ite (hs.releaseBar.done hs.releaseBar.turn) hs.set.beginWait)

theorem State.EmLive.memberEnded {s : State} {t idx} (hs : s.EmLive) : (s.memberEnded t idx).EmLive := hs.foldl fun _ _ hs1 => hs1.breakBar

/-! `Machine/Weir`. -/

theorem State.EmLive.answer {s : State} {dev m} (hs : s.EmLive) : (s.answer dev m).EmLive := hs.set.set

theorem State.EmLive.landed {s : State} {tag} (hs : s.EmLive) :
    (s.landed tag).EmLive := by
  unfold State.landed
  split
  · exact hs
  · exact hs.set

theorem State.EmLive.answered {s : State} {tag} (hs : s.EmLive) :
    ∀ x ∈ s.answered tag, x.1.EmLive := by
  unfold State.answered
  split
  · exact by simp
  · exact emLive_ite (by simp) (emLive_some hs.set)

theorem State.EmLive.onBalance {s : State} {r d dev f} (hs : s.EmLive) :
    (s.onBalance r d dev f).EmLive := by
  unfold State.onBalance
  split
  · exact hs
  · exact .ite hs (.ite hs.set.answer hs.set)

theorem State.EmLive.giveBack {s : State} {r d units lost} (hs : s.EmLive) : (s.giveBack r d units lost).EmLive := .ite hs hs.set

theorem State.EmLive.endQuiet {s : State} {x} (hs : s.EmLive) :
    (s.endQuiet x).EmLive :=
  .set (.set (.ite (.satisfyAll (hs.foldl fun _ _ hs1 => hs1.answer)) (.failAll (hs.foldl fun _ _ hs1 => hs1.answer))))

theorem State.EmLive.quiesce {s : State} {r d} (hs : s.EmLive) :
    (s.quiesce r d).EmLive := by
  unfold State.quiesce
  split
  · exact hs
  · exact .ite hs hs.endQuiet

theorem State.EmLive.applyReturn {s : State} {r d units lost} (hs : s.EmLive) : (s.applyReturn r d units lost).EmLive := hs.set.quiesce

theorem State.EmLive.forward {s : State} {p} (hs : s.EmLive) : (s.forward p).EmLive := .ite hs hs.answer.set

theorem State.EmLive.sendOn {s : State} {m} (hs : s.EmLive) :
    (s.sendOn m).EmLive := by
  unfold State.sendOn
  split
  · exact hs.answer
  · exact .ite hs.set hs

theorem State.EmLive.deliver {s : State} {m} (hs : s.EmLive) :
    (s.deliver m).EmLive := by
  unfold State.deliver
  split
  · extract_lets s1
    have hs1 : s1.EmLive := by
      unfold s1
      split
      · exact hs.onBalance
      · exact hs
    exact hs1.applyReturn
  · split
    · exact hs.sendOn
    · exact .ite hs.set.forward hs.set

theorem State.EmLive.tellMembers {s : State} {r d} (hs : s.EmLive) :
    (s.tellMembers r d).EmLive := by
  unfold State.tellMembers
  split
  · exact hs
  · exact hs.foldl fun _ _ hs1 => hs1.answer

theorem State.EmLive.joinDomain {s : State} {r d lid} (hs : s.EmLive) :
    (s.joinDomain r d lid).EmLive := by
  unfold State.joinDomain
  split
  · exact .ite hs hs.set.tellMembers.recheckJoin
  · exact .ite hs hs.answer.set
  · exact hs

theorem State.EmLive.asGroup {s : State} {k f} (hs : s.EmLive) (hf : ∀ t, t.EmLive → (f t).EmLive) :
    (s.asGroup k f).EmLive :=
  (hf _ hs.turnTo).turnTo

theorem State.EmLive.give {s : State} {d} (hs : s.EmLive) :
    (s.give d).EmLive :=
  .ite (hs.giveBack.onG fun _ ha => ha.set) (hs.onG fun _ ha => ha.set)

theorem State.EmLive.take {s : State} {u} (hs : s.EmLive) :
    (s.take u).EmLive :=
  .ite (hs.giveBack.onG fun _ ha => ha.set) (hs.onG fun _ ha => ha.set)

theorem State.EmLive.retQw {s : State} {lost} (hs : s.EmLive) : (s.retQw lost).EmLive := hs.giveBack.onG fun _ ha => ha.set

theorem State.EmLive.askBorrow {s : State} {units} (hs : s.EmLive) :
    (s.askBorrow units).EmLive := by
  unfold State.askBorrow
  extract_lets _ _ s1
  have hs1 : s1.EmLive := hs.onG fun _ ha => ha.set
  split
  · exact hs1.set.set
  · exact hs1

theorem State.EmLive.split {s : State} (hs : s.EmLive) :
    s.split.EmLive := by
  unfold State.split
  split
  · exact hs.onG fun _ ha => ha.set
  · split
    · exact hs.onG fun _ ha => ha.set
    · exact hs.onG fun _ ha => ha.set
    · exact hs.askBorrow

theorem State.EmLive.lend {s : State} {k r d units} (hs : s.EmLive) :
    (s.lend k r d units).EmLive := by
  unfold State.lend
  split
  · exact hs.giveBack
  · exact .ite (.onGroup (.ite hs.giveBack hs) fun _ ha => ha.set) hs.giveBack

theorem Split.EmLive.elim {x : Split} {done nodomain} (hx : x.EmLive) (hdone : ∀ t e, t.EmLive → Out.EmLive (done t e))
    (hnodomain : ∀ t, t.EmLive → Out.EmLive (nodomain t)) : Out.EmLive (x.elim done nodomain) :=
  match x with
  | .done _ _ => hdone _ _ hx
  | .wait _ => hx
  | .nodomain _ => hnodomain _ hx

theorem State.EmLive.openHere {s : State} (hs : s.EmLive) :
    Out.EmLive s.openHere :=
  .ite hs.stall (hs.set.take.joinDomain.done hs.set.take.joinDomain.turn)

theorem State.EmLive.execQopen {s : State} (hs : s.EmLive) :
    Out.EmLive (execQopen s) := by
  unfold Machine.execQopen
  extract_lets _ _ s1 s2 s'
  have hs1 : s1.EmLive := hs.set
  have hs2 : s2.EmLive := hs1.take.joinDomain
  have hs' : s'.EmLive := hs.onG fun _ ha => ha.set
  split
  · exact hs2.done hs2.turn
  · exact hs.openHere
  · split
    · exact hs.askBorrow
    · exact hs.stall
    · exact hs'.done hs'.turn
    · exact hs'.openHere

theorem State.EmLive.execQret {s : State} (hs : s.EmLive) : Out.EmLive (execQret s) := hs.retQw.done hs.retQw.turn

theorem State.EmLive.execQread {sd} {s : State} (hs : s.EmLive) : Out.EmLive (execQread sd s) := hs.done hs.turn.set

theorem State.EmLive.execQwait {s : State} (hs : s.EmLive) :
    Out.EmLive (execQwait s) := by
  unfold Machine.execQwait
  extract_lets s1
  have hs1 : s1.EmLive := hs.retQw
  split
  · split
    · exact hs1.done hs1.turn
    · exact hs1.set.set.waitOn
  · exact .ite hs1.waitOn (.ite (hs1.endQuiet.done hs1.endQuiet.turn) hs1.endQuiet.trapU)

theorem State.EmLive.execWeirReturn {s : State} (hs : s.EmLive) :
    Out.EmLive (execWeirReturn s) := by
  unfold Machine.execWeirReturn
  split
  · exact hs.set.deliver
  · exact hs

theorem State.EmLive.execWeirBorrow {grp} {s : State} (hs : s.EmLive) :
    Out.EmLive (execWeirBorrow grp s) := by
  unfold Machine.execWeirBorrow
  split
  · exact hs
  · extract_lets
    split
    · exact hs
    · split
      · exact hs.set.lend
      · exact hs.onGroup fun _ ha => ha.set

theorem State.EmLive.returnCqw {s : State} {c lost} (hs : s.EmLive) : (s.returnCqw c lost).EmLive := hs.giveBack.set

/-! `Machine/Life`. -/

theorem State.EmLive.serveClaims {r c n} {a : State} (ha : a.EmLive) : (State.serveClaims r c n a).EmLive := by
  induction n generalizing a with
  | zero => exact ha
  | succ n ih =>
    unfold State.serveClaims
    split
    · exact ha
    · extract_lets _ _ s₁
      have hs₁ : s₁.EmLive := ha.onCore
      refine .ite ha ?_
      split
      · exact ih hs₁
      · refine ih (State.EmLive.satisfyOne (State.EmLive.onGroup hs₁.set fun g hg => ?_))
        split
        · exact hg.set
        · exact hg

theorem State.EmLive.tilesFreed {s : State} {r c} (hs : s.EmLive) : (s.tilesFreed r c).EmLive := hs.serveClaims

theorem State.EmLive.deviceWrite {s : State} {r va bs} (hs : s.EmLive) :
    (s.deviceWrite r va bs).EmLive := by
  unfold State.deviceWrite
  split
  · extract_lets s1
    have hs1 : s1.EmLive := by
      unfold s1
      split
      · exact hs.set
      · exact hs
    exact hs1.set
  · exact hs

theorem State.EmLive.updateAcct {s : State} {lid final} (hs : s.EmLive) :
    (s.updateAcct lid final).EmLive := by
  unfold State.updateAcct
  split
  · exact hs
  · exact hs.set.deviceWrite

theorem State.EmLive.entryBack {s : State} {q lost} (hs : s.EmLive) : (s.entryBack q lost).EmLive := hs.giveBack

theorem State.EmLive.destroyQueue {s : State} {r q} (hs : s.EmLive) :
    (s.destroyQueue r q).EmLive :=
  .set (hs.foldl fun _ _ hs1 => hs1.entryBack)

theorem State.EmLive.targetEnded {s : State} {lid} (hs : s.EmLive) :
    (s.targetEnded lid).EmLive :=
  .set (.foldl (hs.foldlGroups hs.waiters fun _ _ hs1 _ => hs1.failOne) fun _ _ hs1 => hs1.set.forget)

theorem State.EmLive.endLaunch {s : State} {lid} (hs : s.EmLive) :
    (s.endLaunch lid).EmLive := by
  unfold State.endLaunch
  split
  · exact hs
  · extract_lets s1 s2 s3 s4 s5 s6
    have hs1 : s1.EmLive := hs.updateAcct
    have hs2 : s2.EmLive := hs1.targetEnded
    have hs3 : s3.EmLive := hs2.set
    have hs4 : s4.EmLive := hs3.foldl fun _ _ hs7 => hs7.returnCqw
    have hs5 : s5.EmLive := hs4.set
    have hs6 : s6.EmLive := hs5.foldl fun _ _ hs7 => hs7.destroyQueue
    exact hs6.foldl fun _ _ hs7 => hs7.onCore.applyWatches

theorem State.EmLive.endTeam {s : State} {t} (hs : s.EmLive) :
    (s.endTeam t).EmLive := by
  unfold State.endTeam
  split
  · exact hs
  · extract_lets _ s1 s2 s3 s4
    have hs1 : s1.EmLive := by
      unfold s1
      split
      · exact hs
      · exact hs.set
    have hs2 : s2.EmLive := hs1.set
    have hs3 : s3.EmLive := hs2.setGroups hs2.turn hs2.others.filter
    have hs4 : s4.EmLive := hs3.tilesFreed
    exact .ite hs4.endLaunch hs4

theorem State.EmLive.endGroup {s : State} {k lost} (hs : s.EmLive) :
    (s.endGroup k lost).EmLive := by
  unfold State.endGroup
  split
  · exact hs
  · split
    · exact hs
    · extract_lets _ s1 s2 s3 s4 s5
      have hs1 : s1.EmLive := hs.set
      have hs2 : s2.EmLive := .ite hs1 hs1.giveBack
      have hs3 : s3.EmLive := hs2.onGroup fun _ _ => emLive_self _
      have hs4 : s4.EmLive := hs3.onCore
      have hs5 : s5.EmLive := hs4.tilesFreed
      split
      · exact hs5
      · extract_lets s6 s7
        have hs6 : s6.EmLive := hs5.set
        have hs7 : s7.EmLive := hs6.memberEnded
        split
        · exact hs7.endTeam
        · exact hs7

theorem State.EmLive.uncontain {s : State} {k detail} (hs : s.EmLive) :
    (s.uncontain k detail).EmLive := by
  unfold State.uncontain
  split
  · exact hs
  · extract_lets s1 s2
    have hs1 : s1.EmLive := hs.set.set
    have hs2 : s2.EmLive := hs1.endGroup
    split
    · exact hs2.endGroup
    · exact hs2

theorem State.EmLive.restartAt {s : State} {k} (hs : s.EmLive) :
    (s.restartAt k).EmLive := by
  unfold State.restartAt
  split
  · exact hs
  · exact hs.cutWait.endRuns fun _ _ ha => ha.restart

theorem State.EmLive.consumeBy {s : State} {k} (hs : s.EmLive) :
    (s.consumeBy k).EmLive := by
  unfold State.consumeBy
  split
  · exact hs
  · exact .ite hs.restartAt hs.uncontain

theorem State.EmLive.consume {s : State} (hs : s.EmLive) : Out.EmLive s.consume := hs.consumeBy

theorem State.EmLive.consumeOutside {s : State} (hs : s.EmLive) : Out.EmLive s.consumeOutside := hs.uncontain

/-! `Machine/Boundary`. -/

theorem State.EmLive.onPair {s : State} {f} (hs : s.EmLive) (hf : ∀ g, g.EmLive → (f g).EmLive) :
    (s.onPair f).EmLive := by
  unfold State.onPair
  extract_lets t
  have ht : t.EmLive := hs.onG hf
  split
  · exact ht.onGroup hf
  · exact ht

theorem State.EmLive.closeBound {b} {s : State} (hs : s.EmLive) :
    (State.closeBound b s).EmLive := by
  unfold State.closeBound
  extract_lets s1
  have hs1 : s1.EmLive := by
    unfold s1
    split
    · exact hs.set
    · exact hs
  exact hs1.onPair fun _ ha => ha.set

theorem State.EmLive.atBound {s : State} {b drains finish} (hs : s.EmLive) (hfinish : ∀ t, t.EmLive → Out.EmLive (finish t)) :
    Out.EmLive (s.atBound b drains finish) := by
  unfold State.atBound
  extract_lets _ t s1
  have ht : t.EmLive := hs.onPair fun _ ha => ha.set
  have hs1 : s1.EmLive := hs.onPair fun _ ha => .ite ha.set ha
  split
  · exact .ite hs.stall (hfinish _ hs.closeBound)
  · split
    · split
      · exact ht.trapU
      · exact hs.stall
    · split
      · exact hs.consumeBy
      · exact .ite (hs1.onPair fun _ ha => ha.set) (hfinish _ hs1.closeBound)

theorem State.EmLive.afterImplicit {s : State} {sc overlap go} (hs : s.EmLive) (hgo : ∀ t, t.EmLive → Out.EmLive (go t)) :
    Out.EmLive (s.afterImplicit sc overlap go) := by
  unfold State.afterImplicit
  split
  · exact hs.atBound hgo
  · exact .ite (hs.atBound hgo) (hgo _ hs)

theorem Group.EmLive.closeRegion {g : Group} (hg : g.EmLive) : g.closeRegion.EmLive := .ite hg.set hg

theorem State.EmLive.execPhase {sc} {s : State} (hs : s.EmLive) :
    Out.EmLive (execPhase sc s) :=
  hs.atBound fun _ ha => ha.done ha.turn.closeRegion

theorem State.EmLive.execXfence {s : State} (hs : s.EmLive) :
    Out.EmLive (execXfence s) :=
  hs.atBound fun _ ha => ha.done ha.turn.closeRegion

theorem State.EmLive.setFull {s : State} {w} (hs : s.EmLive) : (s.setFull w).EmLive := .ite hs hs.set

theorem State.EmLive.serveLane {s : State} {k l} (hs : s.EmLive) :
    (s.serveLane k l).EmLive := by
  unfold State.serveLane
  split
  · exact hs
  · split
    · split
      · exact .ite hs.uncontain hs.consumeBy
      · exact .ite (.satisfyOne (hs.set.onGroup fun _ ha => ha.writeL.set)) (hs.set.onGroup fun _ ha => ha.writeL.set)
    · exact hs

theorem State.EmLive.grantHeader {s : State} {t c w} (hs : s.EmLive) : (s.grantHeader t c w).EmLive := hs.set.set.set

theorem State.EmLive.serveWord {s : State} {w} (hs : s.EmLive) :
    (s.serveWord w).EmLive := by
  unfold State.serveWord
  extract_lets _ s1
  have hs1 : s1.EmLive := hs.foldl fun _ _ hs2 => hs2.serveLane
  split
  · exact hs1.foldl fun _ _ hs2 => hs2.serveLane
  · split
    · exact hs1
    · exact hs1.grantHeader
    · exact hs1.serveLane.set
    · exact .ite hs1.serveLane.set hs1.grantHeader

theorem State.EmLive.fillWord {s : State} {w} (hs : s.EmLive) : (s.fillWord w).EmLive := hs.setFull.serveWord

theorem State.EmLive.modeWord8 {s : State} {m w} (hs : s.EmLive) :
    (s.modeWord8 m w).EmLive := by
  unfold State.modeWord8
  split
  · exact hs
  · exact hs.set
  · exact hs.set.fillWord

theorem State.EmLive.bindRange {s : State} {key len b m} (hs : s.EmLive) :
    (s.bindRange key len b m).EmLive :=
  hs.set.recheckGranules.foldl fun _ _ hs1 => hs1.modeWord8

theorem State.EmLive.execFebind {sa sb sc mode} {s : State} (hs : s.EmLive) :
    Out.EmLive (execFebind sa sb sc mode s) := by
  unfold Machine.execFebind
  extract_lets
  split
  · exact hs.trapU
  · split
    · exact hs.done hs.turn
    · split
      · exact hs.trapU
      · split
        · exact hs.bindRange.done hs.bindRange.turn
        · split
          · exact hs.bindRange.done hs.bindRange.turn
          · exact .ite (hs.bindRange.done hs.bindRange.turn) hs.trapU

/-! `Machine/MemInstr`. -/

theorem Group.EmLive.holdLanes {g : Group} {i m tick la a b d} (hg : g.EmLive) : (g.holdLanes i m tick la a b d).EmLive := .ite hg hg.set

theorem State.EmLive.seenAll {s : State} {r n ps} (hs : s.EmLive) :
    (s.seenAll r n ps).EmLive := by
  unfold State.seenAll
  refine hs.foldl fun _ _ hs1 => ?_
  split
  · exact hs1.set
  · exact hs1

theorem State.EmLive.load {s : State} {signed i w d a off la gd} (hs : s.EmLive) :
    Out.EmLive (s.load signed i w d a off la gd) := by
  unfold State.load
  extract_lets _ _ g g1 g2
  have hg : g.EmLive := hs.turn.writeL
  have hg1 : g1.EmLive := hg.holdLanes
  have hg2 : g2.EmLive := hg1.watchAll
  exact hs.checked (.ite (hs.done hs.turn.set.watchAll) (.ite hs.consume (hs.seenAll.installAll.done hg2)))

theorem State.EmLive.execLd {w d a off la g} {s : State} (hs : s.EmLive) : Out.EmLive (execLd w d a off la g s) := hs.load

theorem State.EmLive.execLds {w d a off la g} {s : State} (hs : s.EmLive) : Out.EmLive (execLds w d a off la g s) := hs.load

theorem State.EmLive.doneSide {s : State} {g : Group} (hs : s.EmLive) (hg : g.EmLive) :
    Out.EmLive (s.doneSide g) :=
  (hs.setTurn hg.set).claimSide

theorem Group.EmLive.storeLane {g : Group} {p bs} (hg : g.EmLive) :
    (g.storeLane p bs).EmLive := by
  unfold Group.storeLane
  split
  · exact hg.holdWord
  · exact hg.set
  · exact hg

theorem Group.EmLive.storeAll {g : Group} {ps data} (hg : g.EmLive) :
    (g.storeAll ps data).EmLive :=
  hg.foldl fun _ _ hg1 => hg1.storeLane.feed

theorem State.EmLive.store {s : State} {n ps data watched} (hs : s.EmLive) :
    Out.EmLive (s.store n ps data watched) :=
  .ite hs.stall (hs.installAll.doneSide hs.turn.storeAll.watchAll)

theorem State.EmLive.execSt {w d a off _la g} {s : State} (hs : s.EmLive) : Out.EmLive (execSt w d a off _la g s) := hs.checked hs.store

theorem State.EmLive.execSld {w sd sa off la} {s : State} (hs : s.EmLive) :
    Out.EmLive (execSld w sd sa off la s) := by
  unfold Machine.execSld
  extract_lets
  split
  · exact hs.trapU
  · exact .ite hs.trapU hs.suspend
  · exact hs.installAll.done hs.turn.holdLanes
  · split
    · exact hs.done hs.turn.set.watchAll
    · exact .ite hs.consume (hs.seenAll.installAll.done hs.turn.set.watchAll)

theorem State.EmLive.execSst {w sd sa off _la} {s : State} (hs : s.EmLive) :
    Out.EmLive (execSst w sd sa off _la s) := by
  unfold Machine.execSst
  extract_lets
  split
  · exact hs.trapU
  · exact hs.store

theorem State.EmLive.feCheck {s : State} {empties w waits} (hs : s.EmLive) :
    (s.feCheck empties w waits).st.EmLive := by
  unfold State.feCheck
  split
  · exact hs
  · exact hs.checkWait

theorem State.EmLive.feLoad {s : State} {empties w d a off gd} (hs : s.EmLive) : Out.EmLive (s.feLoad empties w d a off gd) := by
  unfold State.feLoad
  extract_lets n ps splitOf waitOf first
  refine hs.checked ?_
  clear_value first
  split
  · exact hs.trapAt
  · refine hs.afterImplicit fun t ht => ?_
    extract_lets sp wt c s₁ m g₁ g₂ s₂
    refine .ite (.ite ht.consumeOutside ht.consume) ?_
    have hc : c.st.EmLive := ht.feCheck
    split
    · exact ht.trapAt
    · have hs₁ : s₁.EmLive := hc.foldl fun _ _ h => h.set
      have hg₁ : g₁.EmLive := hs₁.turn.writeL
      have hg₂ : g₂.EmLive := hg₁.watchAll
      have hs₂ : s₂.EmLive := hs₁.setTurn hg₂
      have hs₃ : (s₂.onG fun g => { g with served := m }).EmLive := hs₂.setTurn hs₂.turn.set
      exact .ite (hs₂.done hs₂.turn) hs₃.beginWait

theorem State.EmLive.execLdfe {w d a off _la g} {s : State} (hs : s.EmLive) : Out.EmLive (execLdfe w d a off _la g s) := hs.feLoad

theorem State.EmLive.execLdfw {w d a off _la g} {s : State} (hs : s.EmLive) : Out.EmLive (execLdfw w d a off _la g s) := hs.feLoad

theorem State.EmLive.fillBy {s : State} {g : Group} {key bs} (hs : s.EmLive) :
    (s.fillBy g key bs).EmLive :=
  hs.homeWriteBy.set.set.set.fillWord

theorem State.EmLive.execStfe {w d a off _la gd} {s : State} (hs : s.EmLive) :
    Out.EmLive (execStfe w d a off _la gd s) := by
  unfold Machine.execStfe
  extract_lets
  refine hs.checked ?_
  split
  · exact hs.trapAt
  · exact hs.afterImplicit fun _ ha1 => .ite ha1.consumeOutside (State.EmLive.done (ha1.foldl fun _ _ hs1 => hs1.fillBy) (.watchAll
      ((ha1.foldl fun _ _ hs1 => hs1.fillBy).turn)))

theorem State.EmLive.rmwOrder {s : State} {g : Group} {scope l n} (hs : s.EmLive) : (s.rmwOrder g scope l n).EmLive := hs.set.set

theorem State.EmLive.rmwWrite {s : State} {g : Group} {scope l bs} (hs : s.EmLive) :
    (s.rmwWrite g scope l bs).EmLive :=
  hs.set.homeWriteBy.rmwOrder

theorem State.EmLive.rmw {s : State} {g : Group} {scope l n f} (hs : s.EmLive) : (s.rmw g scope l n f).1.EmLive := hs.rmwWrite

theorem State.EmLive.rmwLanes {s : State} {g : Group} {scope n ps f} (hs : s.EmLive) :
    (s.rmwLanes g scope n ps f).1.EmLive := by
  unfold State.rmwLanes
  refine hs.foldlFst fun _ _ h => ?_
  split
  · exact h.rmw
  · exact h

theorem State.EmLive.atomic {s : State} {i w64 d a b la f} (hs : s.EmLive) :
    Out.EmLive (s.atomic i w64 d a b la f) := by
  unfold State.atomic
  extract_lets
  exact hs.checked (hs.afterImplicit fun _ ha1 => .ite ha1.consumeOutside (ha1.installAll.rmwLanes.done ha1.turn.writeL.holdLanes.watchAll))

theorem State.EmLive.atom {s : State} {i w64 d a b la} (hs : s.EmLive) : Out.EmLive (s.atom i w64 d a b la) := hs.atomic

theorem State.EmLive.execCas {w64 sc d a b la} {s : State} (hs : s.EmLive) : Out.EmLive (execCas w64 sc d a b la s) := hs.atom

theorem State.EmLive.execAtomAdd {w64 sc d a b la} {s : State} (hs : s.EmLive) : Out.EmLive (execAtomAdd w64 sc d a b la s) := hs.atom

theorem State.EmLive.execAtomSmin {w64 sc d a b la} {s : State} (hs : s.EmLive) : Out.EmLive (execAtomSmin w64 sc d a b la s) := hs.atom

theorem State.EmLive.execAtomSmax {w64 sc d a b la} {s : State} (hs : s.EmLive) : Out.EmLive (execAtomSmax w64 sc d a b la s) := hs.atom

theorem State.EmLive.execAtomUmin {w64 sc d a b la} {s : State} (hs : s.EmLive) : Out.EmLive (execAtomUmin w64 sc d a b la s) := hs.atom

theorem State.EmLive.execAtomUmax {w64 sc d a b la} {s : State} (hs : s.EmLive) : Out.EmLive (execAtomUmax w64 sc d a b la s) := hs.atom

theorem State.EmLive.execAtomAnd {w64 sc d a b la} {s : State} (hs : s.EmLive) : Out.EmLive (execAtomAnd w64 sc d a b la s) := hs.atom

theorem State.EmLive.execAtomOr {w64 sc d a b la} {s : State} (hs : s.EmLive) : Out.EmLive (execAtomOr w64 sc d a b la s) := hs.atom

theorem State.EmLive.execAtomXchg {w64 sc d a b la} {s : State} (hs : s.EmLive) : Out.EmLive (execAtomXchg w64 sc d a b la s) := hs.atom

theorem State.EmLive.redAt {s : State} {g : Group} {scope l op rm n b} (hs : s.EmLive) :
    (s.redAt g scope l op rm n b).1.EmLive :=
  hs.rmwWrite

theorem State.EmLive.execRed {op w64 sc a b _la} {s : State} (hs : s.EmLive) :
    Out.EmLive (execRed op w64 sc a b _la s) := by
  unfold Machine.execRed
  extract_lets
  refine hs.checked (hs.afterImplicit fun _ ha1 => .ite ha1.consumeOutside (.ite ha1.stall (State.EmLive.doneSide
    (ha1.installAll.foldlFst fun _ _ h => ?_) ha1.turn.set.watchAll)))
  split
  · exact h.redAt
  · exact h

/-! `Machine/Control`. -/

theorem State.EmLive.jump {s : State} {g : Group} {pc} (hs : s.EmLive) (hg : g.EmLive) : Out.EmLive (s.jump g pc) := hs.setTurn hg.set

theorem State.EmLive.jumpWait {s : State} {g : Group} {pc w} (hs : s.EmLive) (hg : g.EmLive) :
    Out.EmLive (s.jumpWait g pc w) :=
  hs.setTurn hg.set.set

theorem State.EmLive.execBra {c p off} {s : State} (hs : s.EmLive) :
    Out.EmLive (execBra c p off s) :=
  .ite (hs.jump hs.turn) (hs.done hs.turn)

theorem State.EmLive.execBrl {off} {s : State} (hs : s.EmLive) : Out.EmLive (execBrl off s) := hs.jump hs.turn

theorem State.EmLive.execCall {off} {s : State} (hs : s.EmLive) : Out.EmLive (execCall off s) := hs.jump hs.turn.set

theorem State.EmLive.execRet {s : State} (hs : s.EmLive) : Out.EmLive (execRet s) := .ite hs.trapU (hs.jump hs.turn)

theorem State.EmLive.stackFull {s : State} (hs : s.EmLive) : Out.EmLive s.stackFull := hs.trapU

theorem State.EmLive.execBrd {p off} {s : State} (hs : s.EmLive) :
    Out.EmLive (execBrd p off s) :=
  .ite (hs.done hs.turn) (.ite (hs.jump hs.turn) (.ite hs.stackFull (hs.jump (hs.turn.and _))))

theorem State.EmLive.execJpush {off} {s : State} (hs : s.EmLive) : Out.EmLive (execJpush off s) := .ite hs.stackFull (hs.done hs.turn.set)

theorem State.EmLive.execJoin {s : State} (hs : s.EmLive) :
    Out.EmLive (execJoin s) := by
  unfold Machine.execJoin
  split
  · exact hs.jump (emLive_and _ _)
  · exact State.EmLive.trapU (hs.onG fun _ ha => ha.set)

theorem State.EmLive.readAt {s : State} {once n a k} (hs : s.EmLive) (hk : ∀ t, t.EmLive → ∀ x1, Out.EmLive (k t x1)) :
    Out.EmLive (s.readAt once n a k) := by
  unfold State.readAt
  extract_lets
  split
  · exact hs.trapU
  · exact .ite hs.trapU hs.suspend
  · exact hs.installAll.onG fun _ ha3 => ha3.set
  · exact .ite hs.consume (hk _ hs.seenAll.installAll _)

theorem State.EmLive.readEach {n as} {a : State} {a1} (ha : a.EmLive) (ha1 : ∀ t x, t.EmLive → Out.EmLive (a1 t x)) :
    Out.EmLive (State.readEach n as a a1) := by
  induction as generalizing a a1 with
  | nil => exact ha1 _ _ ha
  | cons x xs ih => exact ha.readAt fun _ ht _ => ih ht fun _ _ ht₁ => ha1 _ _ ht₁

/-- The lanes of each group of BRX are lanes of EM (R111). -/
theorem brxGroups_subset {entries em idx} {m : Mask × Nat} (h : m ∈ brxGroups entries em idx) : m.1 &&& ~~~em = 0 := by
  obtain ⟨t, -, rfl⟩ := List.mem_map.1 (List.mem_filter.1 h).1
  refine Mask.ext_has fun l _ => ?_
  cases h : em.has l <;> simp [h]

theorem State.EmLive.execBrx {va table} {s : State} (hs : s.EmLive) : Out.EmLive (execBrx va table s) := by
  unfold Machine.execBrx
  refine hs.readAt fun t₁ ht₁ _ => ht₁.readAt fun t₂ ht₂ _ => ?_
  extract_lets
  refine .ite (ht₂.jump ht₂.turn) (.ite ht₂.trapAt (ht₂.readEach fun t₃ x ht₃ => ?_))
  split
  · exact ht₃.jump ht₃.turn
  next m rest hq =>
    refine .ite ht₃.stackFull (ht₃.jump (g := {t₃.g with stack := _, em := _}) ?_)
    have hm : m.1 &&& ~~~t₃.g.em = 0 := brxGroups_subset (hq ▸ List.mem_cons_self)
    exact emLive_of_subset hm ht₃.turn

theorem State.EmLive.execExit {s : State} (hs : s.EmLive) :
    Out.EmLive (execExit s) := by
  unfold Machine.execExit
  extract_lets _ __src
  have h__src : __src.EmLive := hs.turn.closeRegion
  split
  · exact hs.jump (emLive_and _ _)
  · split
    · exact hs.stall
    · exact hs.atBound fun _ ha => State.EmLive.endGroup (ha.onG fun _ ha1 => ha1.settleAll.set)

theorem State.EmLive.execRunend {wa ma wb mb} {s : State} (hs : s.EmLive) : Out.EmLive (execRunend wa ma wb mb s) := hs.done hs.turn.set

theorem State.EmLive.execTrap {imm} {s : State} (hs : s.EmLive) : Out.EmLive (execTrap imm s) := hs.trapU

theorem State.EmLive.execBkpt {imm} {s : State} (hs : s.EmLive) : Out.EmLive (execBkpt imm s) := hs.trapU

theorem State.EmLive.execRft {s : State} (hs : s.EmLive) :
    Out.EmLive (execRft s) :=
  .ite hs.trapU (.ite hs.stall (hs.jump Group.EmLive.rft))

theorem State.EmLive.execRgn {region} {s : State} (hs : s.EmLive) :
    Out.EmLive (execRgn region s) := by
  unfold Machine.execRgn
  exact hs.readAt fun _ ha _ => ha.readAt fun _ ha2 _ => ha2.done ha2.turn.set

theorem State.EmLive.execIcinv {lv} {s : State} (hs : s.EmLive) : Out.EmLive (execIcinv lv s) := hs.set.done hs.turn

theorem State.EmLive.execNop {s : State} (hs : s.EmLive) : Out.EmLive (execNop s) := hs.done hs.turn

theorem State.EmLive.execEmWrite {val} {s : State} (hs : s.EmLive) : Out.EmLive (execEmWrite val s) := hs.onG fun _ _ => emLive_and _ _

/-! `Machine/Csr`. -/

theorem State.EmLive.watchSet {s : State} {g : Group} {n x} (hs : s.EmLive) : (s.watchSet g n x).EmLive := .ite hs hs.onCore

theorem State.EmLive.mailOut {s : State} {k n x} (hs : s.EmLive) :
    (s.mailOut k n x).EmLive := by
  unfold State.mailOut
  extract_lets s1
  have hs1 : s1.EmLive := hs.onGroup fun _ ha => ha.set
  split
  · exact .ite hs1.set hs1
  · exact hs1

theorem State.EmLive.csrSet {s : State} {k n x} (hs : s.EmLive) :
    (s.csrSet k n x).EmLive := by
  unfold State.csrSet
  extract_lets
  split
  · exact hs.onGroup fun _ _ => emLive_and _ _
  · exact hs.onGroup fun _ ha => ha.set
  · exact hs.onGroup fun _ ha => ha.set
  · exact hs.onGroup fun _ ha => ha.set
  · exact hs.onGroup fun _ ha => ha.set
  · exact hs.onGroup fun _ ha => ha.set
  · exact hs.onGroup fun _ ha => ha.set
  · split
    · exact hs.mailOut
    · split
      · split
        · exact hs.watchSet
        · exact hs
      · exact hs

theorem Group.EmLive.afterRead {g : Group} {n} (hg : g.EmLive) : (g.afterRead n).EmLive := .ite hg.set hg

theorem State.EmLive.flagWait {s : State} {n go} (hs : s.EmLive) (hgo : Out.EmLive go) : Out.EmLive (s.flagWait n go) := .ite hs.stall hgo

theorem State.EmLive.execCsrr {dst csr} {s : State} (hs : s.EmLive) :
    Out.EmLive (execCsrr dst csr s) := by
  unfold Machine.execCsrr
  extract_lets
  split
  · exact hs.trapU
  · refine hs.flagWait ?_
    split
    · exact hs.done hs.turn.set.afterRead
    · exact hs.done hs.turn.writeL.afterRead

theorem State.EmLive.execCsrw {csr sa} {s : State} (hs : s.EmLive) :
    Out.EmLive (execCsrw csr sa s) :=
  .ite hs.trapU (hs.flagWait (hs.csrSet.done hs.csrSet.turn))

theorem State.EmLive.execFflagsAccess {s : State} (hs : s.EmLive) : Out.EmLive (execFflagsAccess s) := hs.flagWait hs

theorem State.EmLive.execDbgout15Write {val} {s : State} (hs : s.EmLive) : Out.EmLive (execDbgout15Write val s) := hs.mailOut

theorem State.EmLive.execDbgin15Read {sd} {s : State} (hs : s.EmLive) :
    Out.EmLive (execDbgin15Read sd s) :=
  hs.onG fun _ ha => ha.set.afterRead

theorem State.EmLive.execWatchWrite {n val} {s : State} (hs : s.EmLive) : Out.EmLive (execWatchWrite n val s) := hs.watchSet

/-! `Machine/Integer`. -/

theorem Group.EmLive.int3 {g : Group} {w d a b gd f} (hg : g.EmLive) : (g.int3 w d a b gd f).EmLive := hg.writeL

theorem Group.EmLive.int2 {g : Group} {w d a b gd f} (hg : g.EmLive) : (g.int2 w d a b gd f).EmLive := hg.int3

theorem Group.EmLive.int1 {g : Group} {w d a gd f} (hg : g.EmLive) : (g.int1 w d a gd f).EmLive := hg.int3

theorem Group.EmLive.intI {g : Group} {w d a imm gd f} (hg : g.EmLive) : (g.intI w d a imm gd f).EmLive := hg.int3

theorem Group.EmLive.lanes2 {g : Group} {d a b gd f} (hg : g.EmLive) : (g.lanes2 d a b gd f).EmLive := hg.writeL

theorem State.EmLive.execIadd {w d a b gd} {s : State} (hs : s.EmLive) : Out.EmLive (execIadd w d a b gd s) := hs.done hs.turn.int2

theorem State.EmLive.execIsub {w d a b gd} {s : State} (hs : s.EmLive) : Out.EmLive (execIsub w d a b gd s) := hs.done hs.turn.int2

theorem State.EmLive.execIaddi {w d a imm gd} {s : State} (hs : s.EmLive) : Out.EmLive (execIaddi w d a imm gd s) := hs.done hs.turn.intI

theorem State.EmLive.execImin {w d a b gd} {s : State} (hs : s.EmLive) : Out.EmLive (execImin w d a b gd s) := hs.done hs.turn.int2

theorem State.EmLive.execImax {w d a b gd} {s : State} (hs : s.EmLive) : Out.EmLive (execImax w d a b gd s) := hs.done hs.turn.int2

theorem State.EmLive.execUmin {w d a b gd} {s : State} (hs : s.EmLive) : Out.EmLive (execUmin w d a b gd s) := hs.done hs.turn.int2

theorem State.EmLive.execUmax {w d a b gd} {s : State} (hs : s.EmLive) : Out.EmLive (execUmax w d a b gd s) := hs.done hs.turn.int2

theorem State.EmLive.execImul {w d a b gd} {s : State} (hs : s.EmLive) : Out.EmLive (execImul w d a b gd s) := hs.done hs.turn.int2

theorem State.EmLive.execImulhi {w d a b gd} {s : State} (hs : s.EmLive) : Out.EmLive (execImulhi w d a b gd s) := hs.done hs.turn.int2

theorem State.EmLive.execImad {w d a b gd} {s : State} (hs : s.EmLive) : Out.EmLive (execImad w d a b gd s) := hs.done hs.turn.int3

theorem State.EmLive.execImsb {w d a b gd} {s : State} (hs : s.EmLive) : Out.EmLive (execImsb w d a b gd s) := hs.done hs.turn.int3

theorem State.EmLive.execIaddsat {w d a b gd} {s : State} (hs : s.EmLive) : Out.EmLive (execIaddsat w d a b gd s) := hs.done hs.turn.int2

theorem State.EmLive.execIsubsat {w d a b gd} {s : State} (hs : s.EmLive) : Out.EmLive (execIsubsat w d a b gd s) := hs.done hs.turn.int2

theorem State.EmLive.execUaddsat {w d a b gd} {s : State} (hs : s.EmLive) : Out.EmLive (execUaddsat w d a b gd s) := hs.done hs.turn.int2

theorem State.EmLive.execUsubsat {w d a b gd} {s : State} (hs : s.EmLive) : Out.EmLive (execUsubsat w d a b gd s) := hs.done hs.turn.int2

theorem State.EmLive.execLand {_w d a b gd} {s : State} (hs : s.EmLive) : Out.EmLive (execLand _w d a b gd s) := hs.done hs.turn.lanes2

theorem State.EmLive.execLandn {_w d a b gd} {s : State} (hs : s.EmLive) : Out.EmLive (execLandn _w d a b gd s) := hs.done hs.turn.lanes2

theorem State.EmLive.execLor {_w d a b gd} {s : State} (hs : s.EmLive) : Out.EmLive (execLor _w d a b gd s) := hs.done hs.turn.lanes2

theorem State.EmLive.execLorn {_w d a b gd} {s : State} (hs : s.EmLive) : Out.EmLive (execLorn _w d a b gd s) := hs.done hs.turn.lanes2

theorem State.EmLive.execLxor {_w d a b gd} {s : State} (hs : s.EmLive) : Out.EmLive (execLxor _w d a b gd s) := hs.done hs.turn.lanes2

theorem State.EmLive.execLxnor {_w d a b gd} {s : State} (hs : s.EmLive) : Out.EmLive (execLxnor _w d a b gd s) := hs.done hs.turn.lanes2

theorem State.EmLive.execShl {w d a b gd} {s : State} (hs : s.EmLive) : Out.EmLive (execShl w d a b gd s) := hs.done hs.turn.int2

theorem State.EmLive.execShr {w d a b gd} {s : State} (hs : s.EmLive) : Out.EmLive (execShr w d a b gd s) := hs.done hs.turn.int2

theorem State.EmLive.execSar {w d a b gd} {s : State} (hs : s.EmLive) : Out.EmLive (execSar w d a b gd s) := hs.done hs.turn.int2

theorem State.EmLive.execRol {w d a b gd} {s : State} (hs : s.EmLive) : Out.EmLive (execRol w d a b gd s) := hs.done hs.turn.int2

theorem State.EmLive.execShli {w d a imm gd} {s : State} (hs : s.EmLive) : Out.EmLive (execShli w d a imm gd s) := hs.done hs.turn.intI

theorem State.EmLive.execShri {w d a imm gd} {s : State} (hs : s.EmLive) : Out.EmLive (execShri w d a imm gd s) := hs.done hs.turn.intI

theorem State.EmLive.execSari {w d a imm gd} {s : State} (hs : s.EmLive) : Out.EmLive (execSari w d a imm gd s) := hs.done hs.turn.intI

theorem State.EmLive.execPopc {w d a gd} {s : State} (hs : s.EmLive) : Out.EmLive (execPopc w d a gd s) := hs.done hs.turn.int1

theorem State.EmLive.execClz {w d a gd} {s : State} (hs : s.EmLive) : Out.EmLive (execClz w d a gd s) := hs.done hs.turn.int1

theorem State.EmLive.execBrev {w d a gd} {s : State} (hs : s.EmLive) : Out.EmLive (execBrev w d a gd s) := hs.done hs.turn.int1

theorem State.EmLive.execCtz {w d a gd} {s : State} (hs : s.EmLive) : Out.EmLive (execCtz w d a gd s) := hs.done hs.turn.int1

theorem State.EmLive.execBfx {w d a b gd} {s : State} (hs : s.EmLive) : Out.EmLive (execBfx w d a b gd s) := hs.done hs.turn.int2

theorem State.EmLive.execBfxs {w d a b gd} {s : State} (hs : s.EmLive) : Out.EmLive (execBfxs w d a b gd s) := hs.done hs.turn.int2

theorem State.EmLive.execBfi {w d a b gd} {s : State} (hs : s.EmLive) : Out.EmLive (execBfi w d a b gd s) := hs.done hs.turn.int3

theorem State.EmLive.execIabs {w d a gd} {s : State} (hs : s.EmLive) : Out.EmLive (execIabs w d a gd s) := hs.done hs.turn.int1

theorem State.EmLive.execIneg {w d a gd} {s : State} (hs : s.EmLive) : Out.EmLive (execIneg w d a gd s) := hs.done hs.turn.int1

theorem State.EmLive.execMov {d a gd} {s : State} (hs : s.EmLive) : Out.EmLive (execMov d a gd s) := hs.done hs.turn.writeL

theorem State.EmLive.execMovs {d sa gd} {s : State} (hs : s.EmLive) : Out.EmLive (execMovs d sa gd s) := hs.done hs.turn.writeL

theorem State.EmLive.execMovi {d h₁ imm} {s : State} (hs : s.EmLive) : Out.EmLive (execMovi d h₁ imm s) := hs.done hs.turn.writeL

theorem State.EmLive.execSel {d a b p} {s : State} (hs : s.EmLive) : Out.EmLive (execSel d a b p s) := hs.done hs.turn.writeL

theorem State.EmLive.execIcmp {pd a b c w64 m} {s : State} (hs : s.EmLive) : Out.EmLive (execIcmp pd a b c w64 m s) := hs.done hs.turn.set

theorem State.EmLive.execPlop {pd pa pb f} {s : State} (hs : s.EmLive) : Out.EmLive (execPlop pd pa pb f s) := hs.done hs.turn.set

theorem State.EmLive.execPmovGet {d hi gd} {s : State} (hs : s.EmLive) : Out.EmLive (execPmovGet d hi gd s) := hs.done hs.turn.writeL

theorem Group.EmLive.setBank {g : Group} {m hi a n} (hg : g.EmLive) : (setBank g m hi a n).EmLive := by
  induction n with
  | zero => exact hg
  | succ n ih => exact ih.set

theorem State.EmLive.execPmovSet {a hi gd} {s : State} (hs : s.EmLive) : Out.EmLive (execPmovSet a hi gd s) := hs.done hs.turn.setBank

/-! `Machine/Tasks`. -/

theorem State.EmLive.toOverflow {s : State} {e} (hs : s.EmLive) :
    ∀ t ∈ s.toOverflow e, t.EmLive := by
  unfold State.toOverflow
  split
  · exact by simp
  · extract_lets
    split
    · exact by simp
    · exact emLive_ite (by simp) (emLive_some hs.set.deviceWrite)

theorem State.EmLive.moveEach {s : State} {es f} (hs : s.EmLive) (hf : ∀ t e, t.EmLive → ∀ x ∈ f t e, x.EmLive) :
    (s.moveEach es f).EmLive :=
  hs.foldl fun _ _ hs₁ => hs₁.getD (hf _ _ hs₁.set)

theorem State.EmLive.spillLevel {s : State} {p} (hs : s.EmLive) :
    (s.spillLevel p).EmLive := by
  unfold State.spillLevel
  split
  · exact hs
  · exact hs.moveEach fun _ _ ht _ hm => ht.toOverflow _ hm

theorem State.EmLive.placeAt {s : State} {e p} (hs : s.EmLive) :
    ∀ t ∈ s.placeAt e p, t.EmLive :=
  emLive_orElse (emLive_ite (emLive_some hs.set) (by simp)) (emLive_ite (emLive_some hs.spillLevel.set) (by simp))

theorem State.EmLive.placeEntry {s : State} {home e} (hs : s.EmLive) :
    ∀ t ∈ s.placeEntry home e, t.EmLive :=
  emLive_orElse (emLive_findSome fun _ _ hm => hs.placeAt _ hm) hs.toOverflow

theorem State.EmLive.joinEntry {s : State} {g : Group} {x} (hs : s.EmLive) :
    (s.joinEntry g x).EmLive := by
  unfold State.joinEntry
  extract_lets s1
  have hs1 : s1.EmLive := hs.set.set
  split
  · exact .ite hs1.set hs1
  · exact hs1

theorem State.EmLive.popTo {s : State} {k sd x} (hs : s.EmLive) :
    (s.popTo k sd x).EmLive := by
  unfold State.popTo
  exact hs.set.asGroup fun _ ha => .ite (ha.joinEntry.onG fun _ ha1 => ha1.set.set.set.set.set) (.joinDomain (.take (.give
    (ha.joinEntry.onG fun _ ha1 => ha1.set.set.set.set.set))))

theorem State.EmLive.popBad {s : State} {k sd x} (hs : s.EmLive) : (s.popBad k sd x).EmLive := hs.popTo.uncontain

theorem State.EmLive.serveDeq {r q c n} {a : State} (ha : a.EmLive) : (State.serveDeq r q c n a).EmLive := by
  induction n generalizing a with
  | zero => exact ha
  | succ n ih =>
    unfold State.serveDeq
    split
    · split
      · exact ih (.ite ha.popBad ha.popTo.satisfyOne)
      · exact ha
    · exact ha

theorem State.EmLive.serveQueue {s : State} {r q} (hs : s.EmLive) : (s.serveQueue r q).EmLive := hs.foldl fun _ _ hs1 => hs1.serveDeq

theorem State.EmLive.serveAll {s : State} (hs : s.EmLive) : s.serveAll.EmLive := hs.foldl fun _ _ hs1 => hs1.serveQueue

theorem State.EmLive.wharfTake {s : State} {r q} (hs : s.EmLive) :
    (s.wharfTake r q).EmLive := by
  unfold State.wharfTake
  split
  · exact hs
  · exact hs.set

theorem State.EmLive.arrive {s : State} {q e} (hs : s.EmLive) :
    ∀ t ∈ s.arrive q e, t.EmLive := by
  unfold State.arrive
  exact emLive_map fun _ hm => .ite (.ite ((hs.placeEntry _ hm).wharfTake) (hs.placeEntry _ hm)) ((hs.placeEntry _ hm).serveQueue)

theorem State.EmLive.produce {s : State} {q lid} (hs : s.EmLive) : (s.produce q lid).EmLive := .ite hs hs.set.recheckJoin

theorem State.EmLive.enqueue {s : State} {e} (hs : s.EmLive) :
    (s.enqueue e).1.EmLive := by
  unfold State.enqueue
  split
  · exact hs
  · extract_lets s1
    have hs1 : s1.EmLive := hs.produce
    split
    · exact hs1
    · split
      · exact hs1
      next hq2 => exact hs1.arrive _ hq2

theorem State.EmLive.quotaTrap {s : State} {e} (hs : s.EmLive) : (s.quotaTrap e).EmLive := hs.failAll

theorem State.EmLive.admitEntry {s : State} {q e} (hs : s.EmLive) : ∀ t ∈ s.admitEntry q e, t.EmLive := emLive_ite hs.arrive (by simp)

theorem State.EmLive.release {s : State} {c} (hs : s.EmLive) :
    (s.release c).EmLive := by
  unfold State.release
  split
  · exact hs
  · extract_lets
    split
    · exact hs
    · split
      next hq2 => exact hs.set.admitEntry _ hq2
      · exact hs.set.quotaTrap

theorem State.EmLive.decrement {s : State} {die ctr} (hs : s.EmLive) :
    ∀ x ∈ s.decrement die ctr, x.1.EmLive :=
  emLive_ite (by simp) (emLive_some (.ite hs.release hs.set))

theorem State.EmLive.park {s : State} {e die ctr count} (hs : s.EmLive) :
    (s.park e die ctr count).1.EmLive := by
  unfold State.park
  split
  · exact hs
  · extract_lets s1
    have hs1 : s1.EmLive := hs.produce
    split
    · exact hs1
    · split
      · exact hs1
      · split
        · split
          · exact hs1
          next hq4 => exact hs1.arrive _ hq4
        · split
          · exact hs1
          · exact hs1.set

theorem State.EmLive.made {s : State} {x} (hs : s.EmLive) : (s.made x).EmLive := hs.set.set

theorem State.EmLive.statusDone {s : State} {sd code count} (hs : s.EmLive) : Out.EmLive (s.statusDone sd code count) := hs.done hs.turn.set

theorem State.EmLive.weigh {s : State} {sd e go} (hs : s.EmLive) (hgo : ∀ t, t.EmLive → ∀ x1, Out.EmLive (go t x1)) :
    Out.EmLive (s.weigh sd e go) := by
  unfold State.weigh
  split
  · exact hs.statusDone
  · split
    · exact hgo _ hs _
    · split
      · exact hs.statusDone
      · exact hs.give.split.elim (fun _ _ ht => hgo _ ht.joinDomain _) fun _ ht => ht.statusDone

theorem State.EmLive.weighedDone {s : State} {sd e code} (hs : s.EmLive) :
    Out.EmLive (s.weighedDone sd e code) :=
  .ite hs.statusDone hs.entryBack.statusDone

theorem State.EmLive.sendUnits {s : State} {r d dev units} (hs : s.EmLive) :
    (s.sendUnits r d dev units).EmLive := by
  unfold State.sendUnits
  split
  · exact hs
  · split
    · exact hs.onBalance
    · exact .ite hs.set hs.set.answer
    · exact hs

theorem State.EmLive.unsendUnits {s : State} {r d dev units} (hs : s.EmLive) :
    (s.unsendUnits r d dev units).EmLive := by
  unfold State.unsendUnits
  split
  · exact hs
  · split
    · exact hs.onBalance
    · exact .ite hs.set hs.set.answer
    · exact hs

theorem State.EmLive.sendEntry {s : State} {dev e sent lost op m} (hs : s.EmLive) (hsent : ∀ t, t.EmLive → ∀ x1, Out.EmLive (sent t x1))
    (hlost : ∀ t, t.EmLive → Out.EmLive (lost t)) :
    Out.EmLive (s.sendEntry dev e sent lost op m) :=
  .ite (hlost _ hs) (hsent _ hs.sendUnits.set.set _)

theorem State.EmLive.execEnq {sd sa sb la} {s : State} (hs : s.EmLive) :
    Out.EmLive (execEnq sd sa sb la s) := by
  unfold Machine.execEnq
  extract_lets
  exact hs.weigh fun _ ha _ => .ite ha.weighedDone (.ite ha.made.enqueue.weighedDone (ha.sendEntry
    (fun _ ha2 _ => ha2.done ha2.turn.set) fun _ ha2 => ha2.weighedDone))

theorem State.EmLive.dequeue {s : State} {sd sa blocking} (hs : s.EmLive) :
    Out.EmLive (s.dequeue sd sa blocking) := by
  unfold State.dequeue
  extract_lets
  split
  · exact hs.trapU
  · split
    · exact hs.trapU
    · split
      · exact hs.trapU
      · split
        · exact .ite hs.popBad (hs.popTo.done hs.popTo.turn)
        · exact .ite (hs.done hs.turn.set) (.ite hs.trapU hs.waitOn)

theorem State.EmLive.execDeq {sd sa _la} {s : State} (hs : s.EmLive) : Out.EmLive (execDeq sd sa _la s) := hs.dequeue

theorem State.EmLive.execDeqNb {sd sa _la} {s : State} (hs : s.EmLive) : Out.EmLive (execDeqNb sd sa _la s) := hs.dequeue

theorem State.EmLive.execDeparm {sd sa sb la} {s : State} (hs : s.EmLive) :
    Out.EmLive (execDeparm sd sa sb la s) := by
  unfold Machine.execDeparm
  extract_lets
  split
  · exact hs.trapU
  · exact hs.weigh fun _ ha _ => .ite ha.weighedDone (.ite ha.made.park.weighedDone (ha.sendEntry (fun _ ha2 _ => ha2.waitOn)
      fun _ ha2 => ha2.weighedDone))

theorem State.EmLive.decrements {s : State} {die ctr} (hs : s.EmLive) :
    (s.decrements die ctr).EmLive := by
  unfold State.decrements
  split
  · exact hs.set
  · exact hs

theorem State.EmLive.execDepdec {sd sa _la} {s : State} (hs : s.EmLive) :
    Out.EmLive (execDepdec sd sa _la s) := by
  unfold Machine.execDepdec
  extract_lets _ _ _ _ _ __src s1
  have h__src : __src.EmLive := hs.set
  have hs1 : s1.EmLive := h__src.set
  split
  · exact hs.trapU
  · split
    · exact hs.trapU
    · split
      · exact hs1.waitOn
      · split
        · exact hs.trapU
        · split
          · exact hs.trapU
          next hq4 => exact (hs.decrements.decrement _ hq4).done (((hs.decrements.decrement _ hq4).turn).set)

theorem State.EmLive.execQueueInstantiate {reach owner bs} {s : State} (hs : s.EmLive) :
    Out.EmLive (execQueueInstantiate reach owner bs s) :=
  State.EmLive.ite hs.set.set hs.set

theorem State.EmLive.execQueueDestroy {reach qnum} {s : State} (hs : s.EmLive) :
    Out.EmLive (execQueueDestroy reach qnum s) :=
  hs.destroyQueue.set

theorem State.EmLive.execCounterAssign {die first last reach} {s : State} (hs : s.EmLive) :
    Out.EmLive (execCounterAssign die first last reach s) :=
  .ite hs.set hs.set.set

theorem State.EmLive.moveUp {s : State} {p} (hs : s.EmLive) : (s.moveUp p).EmLive := by
  refine .ite hs (hs.moveEach fun t e ht => ?_)
  extract_lets home
  split
  · exact ht.placeAt
  · exact ht.toOverflow

theorem State.EmLive.lower {s : State} {p es r q} (hs : s.EmLive) :
    (s.lower p es r q).EmLive :=
  .serveQueue (hs.moveEach fun _ _ ht _ hm => ht.placeAt _ hm)

theorem State.EmLive.moveDown {s : State} {c r q} (hs : s.EmLive) : (s.moveDown c r q).EmLive := .ite hs.lower hs

theorem State.EmLive.moveToCluster {s : State} {d c r q} (hs : s.EmLive) : (s.moveToCluster d c r q).EmLive := .ite hs.lower hs

theorem State.EmLive.ovfDown {s : State} {d} (hs : s.EmLive) : (s.ovfDown d).EmLive := hs.moveEach fun _ _ ht _ hm => ht.placeAt _ hm

theorem State.EmLive.execBasinMove {dir} {s : State} (hs : s.EmLive) :
    Out.EmLive (execBasinMove dir s) := by
  unfold Machine.execBasinMove
  split
  · exact hs.moveUp
  · exact hs.moveUp
  · exact hs.moveUp
  · exact hs.foldl fun _ _ hs1 => hs1.moveDown
  · exact hs.foldl fun _ _ hs1 => hs1.moveToCluster
  · exact hs.ovfDown
  · exact State.EmLive.ite hs.spillLevel hs

theorem State.EmLive.execUnadmittedAdmit {die ctr} {s : State} (hs : s.EmLive) :
    Out.EmLive (execUnadmittedAdmit die ctr s) :=
  .ite hs hs.release

theorem State.EmLive.addProxy {s : State} {r d root units} (hs : s.EmLive) : (s.addProxy r d root units).EmLive := .ite hs.set hs.set

theorem State.EmLive.bringUnits {s : State} {src r e root} (hs : s.EmLive) :
    (s.bringUnits src r e root).EmLive :=
  .ite hs (.ite hs.onBalance hs.addProxy)

theorem State.EmLive.replyEntry {s : State} {src tag code wexp} (hs : s.EmLive) : (s.replyEntry src tag code wexp).EmLive := hs.answer

theorem State.EmLive.remoteEntry {s : State} {src x root tag f} (hs : s.EmLive) (hf : ∀ t, t.EmLive → (f t).1.EmLive) :
    (s.remoteEntry src x root tag f).EmLive :=
  .ite hs.replyEntry (.ite (hf _ hs.bringUnits).replyEntry (hf _ hs).replyEntry)

theorem State.EmLive.takeStatus {s : State} {m status} (hs : s.EmLive) :
    (s.takeStatus m status).EmLive := by
  unfold State.takeStatus
  extract_lets _ _ s1
  have hs1 : s1.EmLive := hs.onGroup fun _ ha => ha.set
  split
  · exact .writeStatus (.ite hs hs.unsendUnits.giveBack)
  · extract_lets s2
    have hs2 : s2.EmLive := .ite hs hs.unsendUnits.giveBack
    exact .ite hs2.failOne (.satisfyOne (hs2.onGroup fun _ ha => ha.set.writeStatus))
  · exact .ite hs1.satisfyOne hs.failOne
  · exact hs

theorem State.EmLive.borrowed {s : State} {m r d units granted} (hs : s.EmLive) :
    (s.borrowed m r d units granted).EmLive := by
  unfold State.borrowed
  extract_lets s1
  have hs1 : s1.EmLive := .ite hs.addProxy hs
  split
  · exact .ite hs1.set (.ite hs1.giveBack hs1)
  · exact .ite hs1.lend (hs1.onGroup fun _ ha => .ite ha.set ha)

theorem State.EmLive.membersIn {s : State} {r d dev ms} (hs : s.EmLive) :
    (s.membersIn r d dev ms).EmLive :=
  hs.set.set.foldl fun _ _ hs1 => hs1.recheckJoin

theorem State.EmLive.remoteMessage {s : State} {m} (hs : s.EmLive) :
    (s.remoteMessage m).EmLive := by
  unfold State.remoteMessage
  split
  · exact .ite hs (hs.remoteEntry fun _ ht => ht.enqueue)
  · exact .ite hs (.ite hs.replyEntry (hs.remoteEntry fun _ ht => ht.park))
  · split
    · exact hs
    · split
      · exact hs.answer
      · split
        · exact hs.answer
        next hq2 => exact (hs.decrement _ hq2).answer
  · split
    · exact hs
    · split
      · exact hs.onBalance.applyReturn
      · exact hs.sendOn.sendOn
  · split
    · exact hs
    · split
      · exact hs.set.onBalance.joinDomain.answer
      · exact hs.answer
      · exact hs.answer
  · split
    · exact hs
    · split
      · exact hs.answer
      · exact hs.joinDomain
  · split
    · exact hs.answer
    · exact hs.onBalance.onBalance
  · exact hs.set
  · split
    · exact hs
    next hq =>
      split
      · exact (hs.answered _ hq).borrowed
      · exact hs.answered _ hq
  · split
    · exact hs
    next hq => exact (hs.answered _ hq).takeStatus
  · split
    · exact hs
    · split
      · exact hs.set.quiesce.tellMembers
      · exact hs.answer
      · exact hs.answer
  · split
    · exact hs
    · split
      · exact hs.membersIn
      · exact hs
  · split
    · exact hs
    next hq =>
      extract_lets s1
      have hs1 : s1.EmLive := by
        unfold s1
        split
        · exact (hs.answered _ hq).set
        · exact hs.answered _ hq
      split
      · exact .ite hs1.satisfyOne hs1.failOne
      · exact hs1

theorem State.EmLive.execRemoteTaskMessage {m} {s : State} (hs : s.EmLive) : Out.EmLive (execRemoteTaskMessage m s) := hs.remoteMessage

/-! `Machine/Engine`. -/

theorem State.EmLive.sendFlits {s : State} {die lid cls dev} (hs : s.EmLive) :
    (s.sendFlits die lid cls dev).EmLive := by
  unfold State.sendFlits
  split
  · exact hs
  · exact hs.set

theorem State.EmLive.engineFlits {s : State} {v ls} (hs : s.EmLive) :
    (s.engineFlits v ls).EmLive :=
  .ite hs (hs.foldl fun _ _ hs1 => hs1.sendFlits)

theorem State.EmLive.opSeen {s : State} {v ls} (hs : s.EmLive) :
    (s.opSeen v ls).EmLive := by
  unfold State.opSeen
  split
  · exact hs.engineFlits.foldl fun _ _ hs1 => hs1.set
  · exact hs

theorem State.EmLive.opWrite {s : State} {v l bs} (hs : s.EmLive) :
    (s.opWrite v l bs).EmLive := by
  unfold State.opWrite
  split
  · exact hs.set.homeWriteBy
  · exact hs.set

theorem State.EmLive.engineFault {s : State} {v lid acc h₁} (hs : s.EmLive) :
    (s.engineFault v lid acc h₁).EmLive := by
  unfold State.engineFault
  split
  · extract_lets
    split
    · exact hs.set
    · exact .ite hs hs.set
  · exact hs

theorem State.EmLive.engineRead {s : State} {v lid n a} (hs : s.EmLive) :
    (s.engineRead v lid n a).EmLive := by
  unfold State.engineRead
  extract_lets _ _ t
  have ht : t.EmLive := hs.opSeen.foldl fun _ _ hs11 => hs11.set
  split
  · exact hs.engineFault
  · exact hs
  · exact hs
  · exact emLive_cond ht ht

theorem State.EmLive.commit {s : State} {v fs} (hs : s.EmLive) :
    (s.commit v fs).EmLive := by
  unfold State.commit
  extract_lets s1 s2
  have hs1 : s1.EmLive := hs.engineFlits.foldl fun _ _ hs3 => hs3.set
  have hs2 : s2.EmLive := hs1.foldl fun _ _ hs3 => hs3.opWrite
  exact .ite hs2 hs2.set

theorem State.EmLive.readSources {s : State} {v ms} (hs : s.EmLive) :
    (s.readSources v ms).EmLive :=
  .opSeen (hs.foldl fun _ _ hs1 => hs1.set)

theorem State.EmLive.moves {s : State} {v lid ms skip} (hs : s.EmLive) :
    (s.moves v lid ms skip).EmLive := by
  unfold State.moves
  extract_lets _ _ _ _ _ t _ s1
  have ht : t.EmLive := hs.readSources
  have hs1 : s1.EmLive := hs.readSources
  split
  · split
    · exact hs.engineFault
    · exact ht.commit.set
  · exact emLive_cond hs1.commit.set hs1.commit.set

theorem State.EmLive.moveGranule {s : State} {v ms skip g} (hs : s.EmLive) :
    ∀ t ∈ s.moveGranule v ms skip g, t.EmLive :=
  emLive_ite (by simp) (emLive_some hs.readSources.commit)

/-! `Machine/Tug`. -/

theorem State.EmLive.oneShot {s : State} {sd la src dst sstride dstride rowBytes rows} (hs : s.EmLive) :
    Out.EmLive (s.oneShot sd la src dst sstride dstride rowBytes rows) :=
  .ite hs.stall (hs.set.set.done hs.turn.set)

theorem State.EmLive.execCpy {sd sa sb _sched la} {s : State} (hs : s.EmLive) : Out.EmLive (execCpy sd sa sb _sched la s) := hs.oneShot

theorem State.EmLive.execTmove {sd sa sb _sched la} {s : State} (hs : s.EmLive) : Out.EmLive (execTmove sd sa sb _sched la s) := hs.oneShot

theorem State.EmLive.oneShotGranule {s : State} {id g} (hs : s.EmLive) :
    (s.oneShotGranule id g).EmLive := by
  unfold State.oneShotGranule
  split
  · exact hs
  · split
    · exact hs
    · split
      · exact hs
      next hq2 => exact (hs.moveGranule _ hq2).set

theorem State.EmLive.execOneShotCompletion {id} {s : State} (hs : s.EmLive) :
    Out.EmLive (execOneShotCompletion id s) := by
  unfold Machine.execOneShotCompletion
  split
  · exact hs
  · split
    · exact hs
    · extract_lets
      split
      · exact hs.set.writeStatus
      · split
        next t hq3 =>
          have ht : t.EmLive := hs.moves.of_eq hq3
          exact ht
        next t _ _ hq3 =>
          have ht : t.EmLive := hs.moves.of_eq hq3
          exact ht.set.writeStatus

theorem State.EmLive.joinBy {s : State} {g : Group} {a} (hs : s.EmLive) :
    (s.joinBy g a).EmLive := by
  unfold State.joinBy
  split
  · exact hs.set
  · exact hs.set

theorem State.EmLive.settleChannel {s : State} {h₁} (hs : s.EmLive) :
    (s.settleChannel h₁).EmLive := by
  unfold State.settleChannel
  split
  · exact hs
  · extract_lets _ s1 s2 s3 s4 s5
    have hs1 : s1.EmLive := hs.set
    have hs2 : s2.EmLive := hs1.foldl fun _ _ hs6 => hs6.writeStatus
    have hs3 : s3.EmLive := by
      refine hs2.foldlGroups hs2.waiters fun _ _ hs6 _ => ?_
      split
      · exact hs6.set
      · exact hs6
    have hs4 : s4.EmLive := hs3.satisfyAll
    have hs5 : s5.EmLive := .ite hs4.failAll hs4
    exact .ite hs5.returnCqw hs5

theorem State.EmLive.withChannel {s : State} {x go} (hs : s.EmLive) (hgo : ∀ x0, ∀ x1, Out.EmLive (go x0 x1)) :
    Out.EmLive (s.withChannel x go) :=
  .ite hs.trapU (hgo _ _)

theorem State.EmLive.withOwn {s : State} {x go} (hs : s.EmLive) (hgo : ∀ x0, Out.EmLive (go x0)) :
    Out.EmLive (s.withOwn x go) := by
  unfold State.withOwn
  refine hs.withChannel fun _ _ => ?_
  split
  · exact .ite (hgo _) hs.trapU
  · exact hs.trapU

theorem State.EmLive.execChead {sd sa sb _la} {s : State} (hs : s.EmLive) :
    Out.EmLive (execChead sd sa sb _la s) := by
  unfold Machine.execChead
  exact hs.withOwn fun _ => .ite hs.set.waitOn (State.EmLive.done (.settleChannel (.set (hs.set.foldl fun _ _ hs1 => hs1.writeStatus)))
    (.set (State.EmLive.turn (.settleChannel (.set (hs.set.foldl fun _ _ hs1 => hs1.writeStatus))))))

theorem State.EmLive.fill {s : State} {c go refused} (hs : s.EmLive) (hgo : ∀ t, t.EmLive → Out.EmLive (go t)) (hrefused :
    ∀ t, t.EmLive → Out.EmLive (refused t)) :
    Out.EmLive (s.fill c go refused) := by
  unfold State.fill
  split
  · exact hgo _ hs
  · extract_lets _ _ s1 s2
    have hs1 : s1.EmLive := .ite hs.returnCqw hs
    have hs2 : s2.EmLive := hs1.set
    refine hs2.split.elim (fun _ _ ht => hgo _ (.joinDomain (.set (.ite ?_ ht)))) hrefused
    split
    · exact ht.returnCqw
    · exact ht

theorem State.EmLive.sendCtail {s : State} {c sd tail la refused upd} (hs : s.EmLive) :
    Out.EmLive (s.sendCtail c sd tail la refused upd) :=
  (((hs.set.setTurn hs.turn.set).set).settleChannel).done ((((hs.set.setTurn hs.turn.set).set).settleChannel).turn)

theorem State.EmLive.execCtail {sd sa sb la} {s : State} (hs : s.EmLive) :
    Out.EmLive (execCtail sd sa sb la s) :=
  hs.withOwn fun _ => hs.fill (fun _ ha1 => ha1.sendCtail) fun _ ha1 => ha1.sendCtail

theorem State.EmLive.execRecordTake {handle} {s : State} (hs : s.EmLive) :
    Out.EmLive (execRecordTake handle s) := by
  unfold Machine.execRecordTake
  split
  · exact hs
  · split
    · exact hs
    · split
      · exact hs
      · extract_lets
        split
        · exact hs.set.settleChannel
        · split
          · exact hs.set.settleChannel
          · split
            next t1 hq5 =>
              have ht1 : t1.EmLive := hs.engineRead.of_eq hq5
              exact ht1
            next t1 _ hq5 =>
              have ht1 : t1.EmLive := hs.engineRead.of_eq hq5
              exact ht1.set.settleChannel
            next t1 _ hq5 =>
              have ht1 : t1.EmLive := hs.engineRead.of_eq hq5
              exact .ite ht1.set.settleChannel ht1.set.set.set.settleChannel

theorem State.EmLive.readList {s : State} {v lid a n} (hs : s.EmLive) : (s.readList v lid a n).EmLive := by
  induction n generalizing s with
  | zero => exact hs
  | succ n ih =>
    unfold State.readList
    split
    next t _ hq =>
      have ht : t.EmLive := (ih hs).of_eq hq
      split
      next u _ hq₁ =>
        have hu : u.EmLive := ht.engineRead.of_eq hq₁
        exact hu
      · exact ht.engineRead
    · exact ih hs

theorem State.EmLive.plan {s : State} {v lid bs} (hs : s.EmLive) : (s.plan v lid bs).EmLive := by
  unfold State.plan
  extract_lets op
  clear_value op
  refine emLive_cond hs (emLive_cond hs ?_)
  split
  · exact hs
  · exact hs
  · exact emLive_cond hs hs
  · exact emLive_cond hs (emLive_cond hs hs)
  · split
    next t hq =>
      have ht : t.EmLive := hs.readList.of_eq hq
      exact ht
    next t _ hq =>
      have ht : t.EmLive := hs.readList.of_eq hq
      exact ht
    next t _ hq =>
      have ht : t.EmLive := hs.readList.of_eq hq
      exact emLive_cond ht ht

theorem State.EmLive.fillOrder {s : State} {v k} (hs : s.EmLive) :
    (s.fillOrder v k).EmLive := by
  unfold State.fillOrder
  extract_lets
  split
  · exact hs.set.set
  · exact hs.set

theorem State.EmLive.fillAction {s : State} {v arg status} (hs : s.EmLive) :
    (s.fillAction v arg status).1.EmLive := by
  unfold State.fillAction
  split
  · split
    · exact hs
    · split
      · exact hs
      · exact hs.opWrite.fillOrder.fillWord
  · exact hs

theorem State.EmLive.channelBorrow {s : State} {c} (hs : s.EmLive) :
    (s.channelBorrow c).EmLive := by
  unfold State.channelBorrow
  extract_lets
  split
  · exact hs.set.set
  · exact hs.set.set.set
  · exact hs

theorem State.EmLive.channelWeight {s : State} {c e} (hs : s.EmLive) :
    (s.channelWeight c e).EmLive := by
  unfold State.channelWeight
  split
  · exact hs
  · split
    · exact hs
    · split
      · exact hs.set
      · split
        · exact hs
        · exact hs.set
        · exact hs.channelBorrow

theorem State.EmLive.enqueueAction {s : State} {c e r} (hs : s.EmLive) :
    (s.enqueueAction c e r).EmLive := by
  unfold State.enqueueAction
  extract_lets
  split
  · exact hs
  · split
    · exact hs
    · split
      next t hq2 =>
        have ht : t.EmLive := hs.channelWeight.of_eq hq2
        exact ht
      next t _ hq2 =>
        have ht : t.EmLive := hs.channelWeight.of_eq hq2
        exact ht
      next t _ hq2 =>
        have ht : t.EmLive := hs.channelWeight.of_eq hq2
        exact emLive_cond ht.set.enqueue ht.set.enqueue.entryBack

theorem State.EmLive.action {s : State} {c v r bs status} (hs : s.EmLive) :
    (s.action c v r bs status).EmLive := by
  unfold State.action
  extract_lets _ x
  have hx : x.1.EmLive := hs.fillAction
  split
  · exact hx
  · split
    · exact hs
    · split
      next t hq2 =>
        have ht : t.EmLive := hs.engineRead.of_eq hq2
        exact ht
      next t _ hq2 =>
        have ht : t.EmLive := hs.engineRead.of_eq hq2
        exact ht
      next t _ hq2 =>
        have ht : t.EmLive := hs.engineRead.of_eq hq2
        exact ht.enqueueAction
  · exact hs

theorem State.EmLive.recordEnd {s : State} {h₁ num code} (hs : s.EmLive) : (s.recordEnd h₁ num code).EmLive := hs.set.settleChannel

theorem State.EmLive.recordRewrite {s : State} {c v r code} (hs : s.EmLive) :
    (s.recordRewrite c v r code).EmLive := by
  unfold State.recordRewrite
  split
  next t hq =>
    have ht : t.EmLive := hs.moves.of_eq hq
    exact ht.set
  next t _ _ hq =>
    have ht : t.EmLive := hs.moves.of_eq hq
    exact ht.recordEnd

theorem State.EmLive.recordAct {s : State} {c v r bs code} (hs : s.EmLive) :
    (s.recordAct c v r bs code).EmLive := by
  unfold State.recordAct
  split
  next t hq =>
    have ht : t.EmLive := hs.action.of_eq hq
    exact ht.set
  next t _ hq =>
    have ht : t.EmLive := hs.action.of_eq hq
    exact .ite ht.set.recordEnd ht.set.recordRewrite

theorem State.EmLive.recordFinish {s : State} {c v r bs code} (hs : s.EmLive) :
    (s.recordFinish c v r bs code).EmLive := by
  unfold State.recordFinish
  extract_lets
  split
  next t hq =>
    have ht : t.EmLive := hs.moves.of_eq hq
    exact ht.set
  next t _ _ hq =>
    have ht : t.EmLive := hs.moves.of_eq hq
    exact ht.recordAct

theorem State.EmLive.recordGranule {s : State} {h₁ num g} (hs : s.EmLive) :
    (s.recordGranule h₁ num g).EmLive := by
  unfold State.recordGranule
  split
  · exact hs
  · extract_lets
    split
    · exact hs
    · split
      next t _ hq2 =>
        have ht : t.EmLive := hs.plan.of_eq hq2
        split
        · exact ht
        next hq3 => exact (ht.moveGranule _ hq3).set
      · exact hs

theorem State.EmLive.execRecordCompletion {handle num} {s : State} (hs : s.EmLive) :
    Out.EmLive (execRecordCompletion handle num s) := by
  unfold Machine.execRecordCompletion
  split
  · exact hs
  · split
    · exact hs
    · split
      · exact hs
      · extract_lets
        split
        · exact hs.recordFinish
        · exact hs.recordAct
        · exact hs.recordRewrite
        · split
          next t hq4 =>
            have ht : t.EmLive := hs.plan.of_eq hq4
            exact ht
          next t _ hq4 =>
            have ht : t.EmLive := hs.plan.of_eq hq4
            exact ht.recordFinish
          next t _ hq4 =>
            have ht : t.EmLive := hs.plan.of_eq hq4
            split
            next t1 hq5 =>
              have ht1 : t1.EmLive := ht.moves.of_eq hq5
              exact ht1
            next t1 _ _ hq5 =>
              have ht1 : t1.EmLive := ht.moves.of_eq hq5
              exact ht1.recordFinish

theorem State.EmLive.execChannelAssign {handle lid} {s : State} (hs : s.EmLive) :
    Out.EmLive (execChannelAssign handle lid s) :=
  .ite hs.set hs.set.set

theorem State.EmLive.execWaitseq {sa sb} {s : State} (hs : s.EmLive) :
    Out.EmLive (execWaitseq sa sb s) := by
  unfold Machine.execWaitseq
  refine hs.withChannel fun _ _ => ?_
  split
  · exact hs.trapU
  · exact .ite (hs.set.done hs.turn) (.ite hs.waitOn (.ite hs.trapU hs.waitOn))

theorem State.EmLive.execYield {sd off} {s : State} (hs : s.EmLive) :
    Out.EmLive (execYield sd off s) :=
  .ite (hs.jumpWait hs.turn) (hs.jump hs.turn)

theorem State.EmLive.execColl {k sd sa sb la} {s : State} (hs : s.EmLive) :
    Out.EmLive (execColl k sd sa sb la s) :=
  .ite (hs.done hs.turn.set) (.ite (hs.set.done hs.turn.set) (hs.set.set.done hs.turn.set))

theorem State.EmLive.readColl {s : State} {c} (hs : s.EmLive) :
    (s.readColl c).EmLive := by
  unfold State.readColl
  extract_lets
  split
  · exact hs
  · split
    next t hq1 =>
      have ht : t.EmLive := hs.engineRead.of_eq hq1
      exact ht
    next t _ hq1 =>
      have ht : t.EmLive := hs.engineRead.of_eq hq1
      exact ht
    next t _ hq1 =>
      have ht : t.EmLive := hs.engineRead.of_eq hq1
      split
      · exact ht
      · split
        · exact ht
        · split
          next t1 hq4 =>
            have ht1 : t1.EmLive := ht.readList.of_eq hq4
            exact ht1
          next t1 _ hq4 =>
            have ht1 : t1.EmLive := ht.readList.of_eq hq4
            exact ht1
          next t1 _ hq4 =>
            have ht1 : t1.EmLive := ht.readList.of_eq hq4
            exact emLive_cond ht1 (emLive_cond ht1 (emLive_cond ht1 ht1))

theorem State.EmLive.endColls {s : State} {cs} (hs : s.EmLive) : (s.endColls cs).EmLive := hs.foldl fun _ _ hs1 => hs1.set.writeStatus

theorem State.EmLive.endBad {s : State} {lid tag cs ds} (hs : s.EmLive) :
    (s.endBad lid tag cs ds).EmLive :=
  .ite hs.endColls hs.endColls.set

theorem State.EmLive.deliverColl {s : State} {c d xs code} (hs : s.EmLive) : (s.deliverColl c d xs code).EmLive := hs.readSources.commit

theorem State.EmLive.finishColl {s : State} {good d0 k} (hs : s.EmLive) :
    (s.finishColl good d0 k).EmLive := by
  unfold State.finishColl
  extract_lets _ _ _ _ t t1 _ t2
  have ht : t.EmLive := hs.foldl fun _ _ hs1 => hs1.deliverColl
  have ht1 : t1.EmLive := ht.foldl fun _ _ hs1 => hs1.set
  have ht2 : t2.EmLive := ht1.foldl fun _ _ hs1 => hs1.foldl fun _ _ hs2 => hs2.sendFlits
  exact ht2.endColls

theorem State.EmLive.collAt {s : State} {lid tag} (hs : s.EmLive) : (s.collAt lid tag).EmLive := by
  unfold State.collAt
  extract_lets mine step
  have hstep : (∀ t ∈ step.1, t.EmLive) ∧ step.2.2.2.EmLive := by
    refine List.foldlRecOn mine _ (motive := fun a : Option State × List (Coll × Nat × Nat) × List (Coll × CDesc) × State =>
      (∀ t ∈ a.1, t.EmLive) ∧ a.2.2.2.EmLive) ⟨by simp, hs⟩ fun a ha c _ => ?_
    obtain ⟨hwait, hlast⟩ := ha
    split
    next t hq =>
      have ht : t.EmLive := hlast.readColl.of_eq hq
      exact ⟨emLive_orElse hwait (emLive_some ht), hlast⟩
    next t _ hq =>
      have ht : t.EmLive := hlast.readColl.of_eq hq
      exact ⟨hwait, ht⟩
    next t _ hq =>
      have ht : t.EmLive := hlast.readColl.of_eq hq
      exact ⟨hwait, ht⟩
  clear_value step
  split
  next t _ => exact hstep.1 t rfl
  next errs good t =>
    have ht : t.EmLive := hstep.2
    extract_lets ds
    refine emLive_cond ht.endBad ?_
    split
    · exact ht
    · extract_lets
      refine emLive_cond ht (emLive_cond ht.endBad (emLive_cond ht.endColls (emLive_cond ht ?_)))
      split
      · exact .next ht.engineFault
      · exact ht

theorem State.EmLive.execCollCompletion {lid tag} {s : State} (hs : s.EmLive) :
    Out.EmLive (execCollCompletion lid tag s) := by
  unfold Machine.execCollCompletion
  split
  next t hq =>
    have ht : t.EmLive := hs.collAt.of_eq hq
    exact ht
  next t _ _ _ hq =>
    have ht : t.EmLive := hs.collAt.of_eq hq
    exact ht.finishColl

theorem State.EmLive.collGranule {s : State} {op g} (hs : s.EmLive) :
    (s.collGranule op g).EmLive := by
  unfold State.collGranule
  split
  · exact hs
  · split
    · exact hs
    next t _ _ _ hq1 =>
      have ht : t.EmLive := hs.collAt.of_eq hq1
      split
      · exact hs
      · exact .ite hs ht.readSources.commit.set

/-! `Machine/Tensor`. -/

theorem State.EmLive.installDir {s : State} {v d c} (hs : s.EmLive) :
    (s.installDir v d c).EmLive := by
  unfold State.installDir
  split
  · exact hs.set
  · exact hs

theorem State.EmLive.tensorAccess {s : State} {acc slot m a go} (hs : s.EmLive) (hgo : ∀ sh es ps, Out.EmLive (go sh es ps)) :
    Out.EmLive (s.tensorAccess acc slot m a go) := by
  refine .ite (hs.done hs.turn) ?_
  split
  · exact hs.trapAt
  · refine .ite hs.consume ?_
    extract_lets oob odd
    clear_value oob odd
    split
    · exact hs.trapAt
    · exact hs.trapAt
    · exact hs.checked (hgo _ _ _)

theorem State.EmLive.installElems {s : State} {g : Group} {acc d es} (hs : s.EmLive) :
    (s.installElems g acc d es).EmLive :=
  hs.foldl fun _ _ hs1 => hs1.installAll.installDir

theorem State.EmLive.seenElems {s : State} {r sh lane es} (hs : s.EmLive) :
    (s.seenElems r sh lane es).EmLive := by
  unfold State.seenElems
  refine hs.foldl fun _ _ hs1 => ?_
  split
  · exact hs1.set
  · exact hs1

theorem State.EmLive.execTload {slot d a la gd} {s : State} (hs : s.EmLive) :
    Out.EmLive (execTload slot d a la gd s) := by
  unfold Machine.execTload
  exact hs.tensorAccess fun _ _ _ => .ite (hs.done hs.turn.set.watchAll) (.ite hs.consume (State.EmLive.done (.installElems (hs.foldl
    fun _ _ hs1 => hs1.seenElems)) hs.turn.writeL.holdLanes.watchAll))

theorem Group.EmLive.storeElems {g : Group} {sh lane es x} (hg : g.EmLive) :
    (g.storeElems sh lane es x).EmLive := by
  unfold Group.storeElems
  extract_lets
  refine hg.foldl fun _ _ hg1 => ?_
  split
  · exact hg1
  · split
    · exact hg1.set
    · exact hg1.set
    · exact hg1

theorem State.EmLive.execTstore {slot d a _la gd} {s : State} (hs : s.EmLive) :
    Out.EmLive (execTstore slot d a _la gd s) := by
  unfold Machine.execTstore
  exact hs.tensorAccess fun _ _ _ => .ite hs.consume (.ite hs.stall (hs.installElems.doneSide (.watchAll (hs.turn.foldl
    fun _ _ hg => hg.storeElems.feed))))

theorem State.EmLive.execTsload {slot sa} {s : State} (hs : s.EmLive) :
    Out.EmLive (execTsload slot sa s) := by
  unfold Machine.execTsload
  extract_lets
  split
  · exact hs.stall
  · refine hs.readAt fun _ ha1 _ => ?_
    extract_lets _ s1
    have hs1 : s1.EmLive := ha1.set
    split
    · exact ha1.trapU
    · exact hs1.done hs1.turn

theorem State.EmLive.execTsevict {slot sa} {s : State} (hs : s.EmLive) :
    Out.EmLive (execTsevict slot sa s) := by
  unfold Machine.execTsevict
  extract_lets _ s1
  have hs1 : s1.EmLive := hs.set
  split
  · exact hs.done hs.turn
  · split
    · exact hs.stall
    · split
      · exact hs.consume
      · split
        · exact hs1.done hs1.turn
        · split
          · exact hs.trapU
          · exact .ite hs.stall hs1.store

theorem State.EmLive.execRelayout {tag sd sa sb la} {s : State} (hs : s.EmLive) :
    Out.EmLive (execRelayout tag sd sa sb la s) :=
  hs.set.done hs.turn.set

theorem State.EmLive.endConv {s : State} {id code count} (hs : s.EmLive) : (s.endConv id code count).EmLive := hs.set.writeStatus

theorem State.EmLive.renew {s : State} {r attach d} (hs : s.EmLive) :
    (s.renew r attach d).EmLive :=
  .set (hs.mapGroups fun _ ha => .ite ha ha.set)

theorem State.EmLive.execDredgerBegin {id} {s : State} (hs : s.EmLive) :
    Out.EmLive (execDredgerBegin id s) := by
  unfold Machine.execDredgerBegin
  split
  · exact hs
  · extract_lets
    split
    · exact hs
    · split
      · exact hs.endConv
      · split
        · exact hs.endConv
        · split
          next t hq4 =>
            have ht : t.EmLive := hs.engineRead.of_eq hq4
            exact ht
          next t _ hq4 =>
            have ht : t.EmLive := hs.engineRead.of_eq hq4
            exact ht.endConv
          next t _ hq4 =>
            have ht : t.EmLive := hs.engineRead.of_eq hq4
            split
            · exact ht.endConv
            · extract_lets
              split
              next t1 hq6 =>
                have ht1 : t1.EmLive := ht.moves.of_eq hq6
                exact ht1
              next t1 _ _ hq6 =>
                have ht1 : t1.EmLive := ht.moves.of_eq hq6
                split
                · exact ht.endConv
                · split
                  · exact ht.set
                  next t2 _ _ hq8 =>
                    have ht2 : t2.EmLive := ht1.moves.of_eq hq8
                    exact .ite ht2.renew.endConv ht2.renew.set

theorem State.EmLive.putElem {s : State} {put d l bit x} (hs : s.EmLive) (hput : ∀ t, t.EmLive → ∀ x1, ∀ x2, (put t x1 x2).EmLive) :
    (s.putElem put d l bit x).EmLive :=
  hput _ hs _ _

theorem State.EmLive.copySlab {s : State} {c} (hs : s.EmLive) :
    (s.copySlab c).EmLive := by
  unfold State.copySlab
  extract_lets _ _ _ _ _ _ _ s1 s2 s3 _ _ s4
  have hs1 : s1.EmLive := hs.set.foldl fun _ _ hs5 => hs5.set
  have hs2 : s2.EmLive := hs1.foldl fun _ _ hs5 => hs5.set
  have hs3 : s3.EmLive := hs2.foldl fun _ _ hs5 => hs5.putElem fun _ ha _ _ => ha.set
  have hs4 : s4.EmLive := hs3.set
  split
  · split
    · exact .wait hs.engineFault
    · exact hs
    · exact hs
    · exact hs
    · exact hs
    · exact .wait hs.engineFault
    · exact hs
  · exact emLive_cond hs4.set (emLive_cond hs4 hs4.moves)

theorem State.EmLive.execSlabCommit {id} {s : State} (hs : s.EmLive) :
    Out.EmLive (execSlabCommit id s) := by
  unfold Machine.execSlabCommit
  split
  · exact hs
  · split
    · exact hs
    · split
      · split
        next t hq3 =>
          have ht : t.EmLive := hs.set.copySlab.of_eq hq3
          exact ht
        next t _ _ hq3 =>
          have ht : t.EmLive := hs.set.copySlab.of_eq hq3
          exact .ite ht.endConv ht.set
      · split
        · exact hs.set
        · extract_lets
          split
          next t hq4 =>
            have ht : t.EmLive := hs.engineRead.of_eq hq4
            exact ht
          next t _ hq4 =>
            have ht : t.EmLive := hs.engineRead.of_eq hq4
            exact ht.endConv
          next t _ hq4 =>
            have ht : t.EmLive := hs.engineRead.of_eq hq4
            split
            next t1 hq5 =>
              have ht1 : t1.EmLive := ht.moves.of_eq hq5
              exact ht1
            next t1 _ _ hq5 =>
              have ht1 : t1.EmLive := ht.moves.of_eq hq5
              exact .ite ht1.endConv ht1.set

theorem State.EmLive.execDredgerComplete {id} {s : State} (hs : s.EmLive) :
    Out.EmLive (execDredgerComplete id s) := by
  unfold Machine.execDredgerComplete
  split
  · exact hs
  · split
    · exact hs
    · extract_lets
      split
      next t hq2 =>
        have ht : t.EmLive := hs.moves.of_eq hq2
        exact ht
      next t _ _ hq2 =>
        have ht : t.EmLive := hs.moves.of_eq hq2
        exact .ite ht.endConv ht.renew.endConv

theorem State.EmLive.writeElem {s : State} {g : Group} {put t} (hs : s.EmLive) (hput : ∀ t1, t1.EmLive → ∀ x1, ∀ x2,
    (put t1 x1 x2).EmLive) :
    (s.writeElem g put t).EmLive := by
  unfold State.writeElem
  extract_lets _ s1
  have hs1 : s1.EmLive := hs.installDir
  split
  · exact trivial
  · split
    · exact trivial
    · split
      · exact trivial
      · split
        · split
          · exact trivial
          · split
            · exact hs1
            · extract_lets s2 _ s3
              have hs2 : s2.EmLive := by
                unfold s2
                split
                · exact hs1.set
                · exact hs1
              have hs3 : s3.EmLive := .ite hs2.set hs2
              exact hs3.putElem hput
        · exact trivial
        · exact trivial

/-! `Machine/Matrix`. -/

theorem State.EmLive.execOclaim {sd sa _la} {s : State} (hs : s.EmLive) :
    Out.EmLive (execOclaim sd sa _la s) :=
  .ite hs.trapU (.ite (hs.done hs.turn.set) (hs.set.done hs.turn.set))

theorem State.EmLive.execAclaim {sd sa _la} {s : State} (hs : s.EmLive) :
    Out.EmLive (execAclaim sd sa _la s) := by
  unfold Machine.execAclaim
  extract_lets _ _ _ _ s1 _ c
  have hs1 : s1.EmLive := hs.set
  have hc : c.st.EmLive := hs.checkWait
  split
  · exact hs.trapU
  · split
    · exact hs.done hs.turn.set
    · split
      · exact hs1.done hs1.turn.set
      · split
        · exact hs.done hs.turn.set
        · split
          · exact hs.trapAt
          · exact hc.onCore.beginWait

theorem State.EmLive.releaseClaims {s : State} {tile sd sa} (hs : s.EmLive) :
    Out.EmLive (s.releaseClaims tile sd sa) := by
  unfold State.releaseClaims
  extract_lets
  split
  · exact hs.done hs.turn
  · extract_lets _ _ s1 s2 s3
    have hs1 : s1.EmLive := hs.set
    have hs2 : s2.EmLive := hs1.setTurn hs1.turn.set
    have hs3 : s3.EmLive := .ite hs2.tilesFreed hs2
    split
    · exact hs.trapU
    · exact hs.trapU
    · exact .ite hs.stall (hs3.done hs3.turn)

theorem State.EmLive.execOrelease {sd sa _la} {s : State} (hs : s.EmLive) : Out.EmLive (execOrelease sd sa _la s) := hs.releaseClaims

theorem State.EmLive.execArelease {sd sa _la} {s : State} (hs : s.EmLive) : Out.EmLive (execArelease sd sa _la s) := hs.releaseClaims

theorem State.EmLive.forkCmd {s : State} {t c} (hs : s.EmLive) : (s.forkCmd t c).EmLive := hs.foldl fun _ _ hs1 => hs1.set

theorem State.EmLive.queueCmd {s : State} {sd word fmt ring} (hs : s.EmLive) :
    Out.EmLive (s.queueCmd sd word fmt ring) := by
  unfold State.queueCmd
  split
  · exact hs.trapU
  · extract_lets _ _ s1
    have hs1 : s1.EmLive := hs.forkCmd.set
    split
    · exact hs.trapU
    · exact .ite hs.waitOn (hs1.done hs1.turn.set)

theorem State.EmLive.execMloop {sd sa sb _la} {s : State} (hs : s.EmLive) :
    Out.EmLive (execMloop sd sa sb _la s) := by
  unfold Machine.execMloop
  exact hs.readAt fun _ ha _ => .ite (ha.readAt fun _ ha2 _ => ha2.queueCmd) ha.queueCmd

theorem State.EmLive.execMloopWait {sa _la} {s : State} (hs : s.EmLive) :
    Out.EmLive (execMloopWait sa _la s) := by
  unfold Machine.execMloopWait
  extract_lets
  split
  · exact hs.done hs.turn
  · exact .ite (hs.set.done hs.turn) hs.waitOn

theorem State.EmLive.cmdSeen {s : State} {t c n} (hs : s.EmLive) :
    (s.cmdSeen t c n).EmLive :=
  .ite (.ite hs.set.set hs.set.set.set) (.set (.ite hs.set.set hs.set.set.set))

theorem State.EmLive.runStep {s : State} {t c} (hs : s.EmLive) :
    (s.runStep t c).EmLive :=
  .ite (.set (.cmdSeen (.ite hs.set.set hs))) (.set (.set (.cmdSeen (.ite hs.set.set hs))))

theorem State.EmLive.kStep {s : State} {t} (hs : s.EmLive) :
    (s.kStep t).EmLive := by
  unfold State.kStep
  split
  · exact hs
  · split
    · exact hs
    · extract_lets s1 _ s2 s3 s4
      have hs1 : s1.EmLive := hs.runStep
      have hs2 : s2.EmLive := hs1.set
      have hs3 : s3.EmLive := by
        refine hs2.foldlGroups hs2.waiters fun _ _ hs5 _ => ?_
        split
        · exact .ite hs5.set hs5
        · exact hs5
      have hs4 : s4.EmLive := hs3.satisfyAll
      exact .ite hs1.set hs4.endTeam

theorem State.EmLive.execKStep {lid team} {s : State} (hs : s.EmLive) :
    Out.EmLive (execKStep lid team s) :=
  hs.foldl fun _ _ hs1 => hs1.kStep

theorem State.EmLive.copyTile {s : State} {t c src dst n} (hs : s.EmLive) :
    (s.copyTile t c src dst n).EmLive :=
  .ite hs.set.homeWriteBy hs.set.homeWriteBy.set

theorem State.EmLive.takeEntry {s : State} {t c rest r e} (hs : s.EmLive) :
    (s.takeEntry t c rest r e).EmLive := by
  unfold State.takeEntry
  extract_lets _ _ s1 s2 s3 _ s4
  have hs1 : s1.EmLive := .ite hs.copyTile hs
  have hs2 : s2.EmLive := .ite hs1.copyTile hs1
  have hs3 : s3.EmLive := hs2.set
  have hs4 : s4.EmLive := hs3.homeWriteBy
  exact .ite hs3 hs4.set.set.fillWord

theorem State.EmLive.acquire {s : State} {t} (hs : s.EmLive) :
    (s.acquire t).EmLive := by
  unfold State.acquire
  split
  · exact hs
  · split
    · exact hs
    · exact .ite hs (.ite (.ite hs hs.takeEntry) (.ite (.ite hs hs.set.set) (.ite hs hs.grantHeader.takeEntry)))

theorem State.EmLive.execRingEntryAcquire {lid team} {s : State} (hs : s.EmLive) :
    Out.EmLive (execRingEntryAcquire lid team s) :=
  hs.foldl fun _ _ hs1 => hs1.acquire

theorem State.EmLive.withTile {s : State} {tile go} (hs : s.EmLive) (hgo : ∀ x0, Out.EmLive (go x0)) :
    Out.EmLive (s.withTile tile go) := by
  unfold State.withTile
  split
  · exact hs.trapU
  · split
    · exact hs.trapU
    · split
      · exact hs.trapU
      · exact hgo _

theorem State.EmLive.execAread {f vd sa _la} {s : State} (hs : s.EmLive) :
    Out.EmLive (execAread f vd sa _la s) :=
  hs.withTile fun _ => .ite hs.consume (hs.set.done hs.turn.writeF)

theorem State.EmLive.execAzero {sa _la} {s : State} (hs : s.EmLive) : Out.EmLive (execAzero sa _la s) := by
  unfold Machine.execAzero
  refine hs.withTile fun t => ?_
  extract_lets s₁ s₂
  have hs₁ : s₁.EmLive := hs.set
  have hs₂ : s₂.EmLive := hs₁.set.set
  exact hs₂.done hs₂.turn

/-! `Machine/Service`. -/

theorem Group.EmLive.endRun {tick age keep} {g : Group} (hg : g.EmLive) : (Group.endRun tick age keep g).EmLive := hg.settleAll.set.set

theorem State.EmLive.endRun {s : State} {k keep} (hs : s.EmLive) :
    (s.endRun k keep).EmLive :=
  .set (.set (hs.onGroup fun _ ha => ha.endRun))

theorem State.EmLive.parkRun {s : State} {k} (hs : s.EmLive) : (s.parkRun k).EmLive := .set (.set (hs.onGroup fun _ ha => ha.set))

theorem State.EmLive.afterTrap {s : State} {k pc} (hs : s.EmLive) :
    (s.afterTrap k pc).EmLive := by
  unfold State.afterTrap
  split
  · exact hs
  · exact .ite hs.parkRun (.endRun (.onGroup (.emPacket (.ite hs.packet hs)) fun _ ha => ha.set))

theorem State.EmLive.trapBoth {s : State} {g : Group} {cause info lanes pc} (hs : s.EmLive) (hg : g.EmLive) :
    (s.trapBoth g cause info lanes pc).EmLive := by
  unfold State.trapBoth
  extract_lets s1
  have hs1 : s1.EmLive := (hs.trapGroup hg).afterTrap
  split
  next hq => exact .afterTrap (hs1.trapGroup ((emLive_bind fun _ _ _ hm1 => hs1.group? _ hm1) _ hq))
  · exact hs1

theorem Group.EmLive.arrive {tick idx} {g : Group} (hg : g.EmLive) :
    (Group.arrive tick idx g).EmLive := by
  unfold Group.arrive
  split
  · exact hg.settle.set
  · exact hg

theorem State.EmLive.execLongLatencyResult {grp idx} {s : State} (hs : s.EmLive) :
    Out.EmLive (execLongLatencyResult grp idx s) :=
  hs.onGroup fun _ ha => ha.arrive

theorem State.EmLive.drainFault {s : State} {g : Group} {va h₁} (hs : s.EmLive) :
    (s.drainFault g va h₁).EmLive := by
  unfold State.drainFault
  extract_lets
  split
  · exact hs.set
  · exact hs
  · exact hs.set

theorem State.EmLive.loseDrains {s : State} {k} (hs : s.EmLive) :
    (s.loseDrains k).EmLive := by
  unfold State.loseDrains
  split
  · exact hs
  next hq =>
    extract_lets _ _ s1
    have hs1 : s1.EmLive := hs.onGroup fun _ ha => ha.set.set
    split
    · exact hs
    · exact .ite (hs1.trapBoth (.getD (hs.group? _ hq) hs1.group?)) hs1

theorem State.EmLive.drained {s : State} {k sc} (hs : s.EmLive) :
    (s.drained k sc).EmLive := by
  unfold State.drained
  split
  · exact .ite hs.set hs
  · exact hs

theorem State.EmLive.drainByte {s : State} {k} {g : Group} {h₁ l full sc} (hs : s.EmLive) :
    (s.drainByte k g h₁ l full sc).EmLive :=
  .drained (.ite hs.drainTo.set hs.drainTo)

theorem State.EmLive.drainToSide {s : State} {k} {g : Group} {h₁ va why} (hs : s.EmLive) :
    (s.drainToSide k g h₁ va why).EmLive :=
  .ite hs (.claimSide (hs.drainFault.onGroup fun _ ha => ha.set))

theorem State.EmLive.drainOne {s : State} {k} {g : Group} {n d} (hs : s.EmLive) :
    (s.drainOne k g n d).EmLive := by
  unfold State.drainOne
  extract_lets _ popped
  have hpopped : popped.EmLive := hs.onGroup fun _ ha => ha.set
  split
  · exact hs
  · split
    · exact hs.consumeBy
    · split
      · exact hs.loseDrains
      · exact hs
      next hq2 =>
        split
        · split
          · refine .drainByte ?_
            split
            · exact hpopped.set
            · exact hpopped
          · exact hs.drainToSide
        · split
          · exact hs.consumeBy
          next t hq2 =>
            have ht : t.EmLive := (hpopped.writeElem fun _ ha2 _ _ => ha2.drainAll).of_eq hq2
            exact ht.drained
          · exact hs
          · exact .ite (.claimSide (hpopped.drainFault.onGroup fun _ ha2 => ha2.set)) hs

theorem State.EmLive.execDrainComplete {grp n} {s : State} (hs : s.EmLive) :
    Out.EmLive (execDrainComplete grp n s) := by
  unfold Machine.execDrainComplete
  split
  · exact hs
  · split
    · exact hs
    · exact hs.drainOne

theorem State.EmLive.execRedAck {grp} {s : State} (hs : s.EmLive) : Out.EmLive (execRedAck grp s) := by
  unfold Machine.execRedAck
  split
  · exact hs
  · split
    · exact hs
    · extract_lets pop s₁
      have hpop : ∀ g : Group, g.EmLive → (pop g).EmLive := by
        intro g hg
        simp only [pop]
        split
        · exact hg.set
        · exact hg
      have hs₁ : s₁.EmLive := hs.onGroup hpop
      show State.EmLive _
      split
      · exact hs₁.onGroup hpop
      · exact hs₁

theorem Group.EmLive.replayStore {g : Group} {e l bs} (hg : g.EmLive) :
    (g.replayStore e l bs).EmLive := by
  unfold Group.replayStore
  extract_lets
  split
  · exact hg.set
  · exact hg.set.set

theorem Group.EmLive.replayElem {g : Group} {t} (hg : g.EmLive) :
    (g.replayElem t).EmLive := by
  unfold Group.replayElem
  split
  · exact hg.set
  · exact hg.set

theorem State.EmLive.drainFirst {s : State} {g : Group} {sc po} (hs : s.EmLive) :
    (s.drainFirst g sc po).EmLive :=
  .ite hs.consumeBy (hs.mapGroups fun _ ha => .ite ha.set ha)

theorem State.EmLive.replaySide {s : State} {k} {g : Group} {e l} (hs : s.EmLive) :
    ∀ t ∈ s.replaySide k g e l, t.EmLive := by
  unfold State.replaySide
  extract_lets popped popped1
  have hpopped : popped.EmLive := hs.onGroup fun _ ha => ha.set
  have hpopped1 : popped1.EmLive := by
    unfold popped1
    split
    · exact hpopped.set
    · exact hpopped
  split
  · exact emLive_some (.ite hpopped1.consumeBy (hpopped1.onGroup fun _ ha => ha.replayStore))
  · exact emLive_some (.ite hpopped1.consumeBy (hpopped1.onGroup fun _ ha => ha.replayElem))
  · extract_lets _ r _ t
    have hr : r.1.EmLive := hpopped1.redAt
    have ht : t.EmLive := hr.onGroup fun _ ha => ha.set
    split
    · exact emLive_some hpopped1.uncontain
    · split
      · exact by simp
      · split
        · exact emLive_ite (emLive_some hs.drainFirst) (by simp)
        · refine emLive_some ?_
          split
          · exact ht.onGroup fun _ ha => ha.set
          · exact ht

theorem State.EmLive.replayAll {k a} {a1 : State} (ha1 : a1.EmLive) : (State.replayAll k a a1).EmLive := by
  induction a generalizing a1 with
  | nil => exact ha1
  | cons e es ih =>
    unfold State.replayAll
    split
    · exact ha1
    · split
      · split
        next t hq =>
          have ht : t.EmLive := ha1.replaySide _ hq
          exact .ite ht (ih ht)
        · exact ha1
      · exact ha1

theorem State.EmLive.execSideLogReplay {grp page} {s : State} (hs : s.EmLive) :
    Out.EmLive (execSideLogReplay grp page s) := by
  unfold Machine.execSideLogReplay
  split
  · exact hs
  · exact hs.replayAll

theorem Group.EmLive.heldResult {g : Group} {h₁ m f} (hg : g.EmLive) :
    (g.heldResult h₁ m f).EmLive := by
  unfold Group.heldResult
  split
  · exact hg
  · extract_lets
    split
    · exact .ite hg.writeL hg.set
    · exact .ite hg.set hg.set
    · exact hg

theorem State.EmLive.heldSeen {s : State} {g : Group} {h₁ ps} (hs : s.EmLive) :
    (s.heldSeen g h₁ ps).EmLive := by
  unfold State.heldSeen
  split
  · split
    · exact hs.foldl fun _ _ hs1 => hs1.seenElems
    · exact hs
  · exact hs.seenAll

theorem State.EmLive.heldInstall {s : State} {g : Group} {h₁ ps} (hs : s.EmLive) :
    (s.heldInstall g h₁ ps).EmLive := by
  unfold State.heldInstall
  split
  · split
    · exact hs.installElems
    · exact hs
  · exact hs.installAll

theorem State.EmLive.serveHeld {k} {s : State} {h₁} (hs : s.EmLive) :
    (State.serveHeld k s h₁).EmLive := by
  unfold State.serveHeld
  split
  · exact hs
  next hq =>
    split
    · exact hs
    · extract_lets _ drop r _ t
      have hdrop : drop.EmLive := hs.onGroup fun _ ha => ha.set
      have hr : r.1.EmLive := hs.installAll.rmwLanes
      have ht : t.EmLive := hr.onGroup fun _ ha => ha.heldResult.set.set
      split
      · exact hdrop.trapBoth (.getD (hs.group? _ hq) hdrop.group?)
      · exact hdrop.trapBoth (.getD (hs.group? _ hq) hdrop.group?)
      · exact hs
      · split
        · exact hs
        · split
          · exact .ite hs.uncontain hs.consumeBy
          · split
            · split
              · exact .ite hs.drainFirst hs
              · split
                · exact ht.onGroup fun _ ha => ha.heldResult.set.set
                · exact ht
            · exact hs.heldSeen.heldInstall.onGroup fun _ ha => ha.heldResult.set

theorem State.EmLive.loadArrives {s : State} {k} (hs : s.EmLive) :
    (s.loadArrives k).EmLive := by
  unfold State.loadArrives
  split
  · exact hs
  · exact .satisfyAll (hs.foldl fun _ _ hs1 => hs1.serveHeld)

theorem State.EmLive.releaseFetch {s : State} {k} (hs : s.EmLive) :
    (s.releaseFetch k).EmLive := by
  unfold State.releaseFetch
  split
  · exact hs
  · split
    · exact hs
    · split
      · exact hs
      · exact hs.onGroup fun _ ha => ha.set

theorem State.EmLive.execFaultServiceEnd {grp} {s : State} (hs : s.EmLive) :
    Out.EmLive (execFaultServiceEnd grp s) := by
  unfold Machine.execFaultServiceEnd
  split
  · exact hs
  · exact State.EmLive.satisfyAll (hs.releaseFetch.foldl fun _ _ hs1 => hs1.serveHeld)

theorem State.EmLive.strike {s : State} {loc} (hs : s.EmLive) :
    (s.strike loc).EmLive := by
  unfold State.strike
  extract_lets
  split
  · exact hs.onGroup fun _ ha2 => ha2.set
  · exact hs.onGroup fun _ ha2 => ha2.set
  · exact hs.onGroup fun _ ha2 => ha2.set
  · exact hs.onGroup fun _ ha2 => ha2.set
  · exact hs.onGroup fun _ ha2 => ha2.set
  · exact hs.set
  · refine hs.onGroup fun _ ha2 => ?_
    split
    · exact ha2.set
    · exact ha2
  · refine hs.onGroup fun _ ha2 => ?_
    split
    · exact ha2.set
    · exact ha2
  · refine hs.onGroup fun _ ha2 => ?_
    split
    · exact ha2.set
    · exact ha2
  · refine hs.onGroup fun _ ha2 => ?_
    split
    · exact ha2.set
    · exact ha2
  · exact hs.set
  · exact hs.set

theorem State.EmLive.execSoftError {loc uncorrectable} {s : State} (hs : s.EmLive) :
    Out.EmLive (execSoftError loc uncorrectable s) :=
  State.EmLive.ite hs.strike hs.set

/-! `Machine/Issue`. -/

theorem State.EmLive.fetched {s : State} {l} (hs : s.EmLive) :
    (s.fetched l).EmLive := by
  unfold State.fetched
  extract_lets s1
  have hs1 : s1.EmLive := by
    unfold s1
    split
    · exact hs.set
    · exact hs
  exact hs1.set

theorem Group.EmLive.settleTouched {tick u} {g : Group} (hg : g.EmLive) :
    (Group.settleTouched tick u g).EmLive :=
  .set (hg.foldrFst fun _ _ h => h.settle)

/-! `Machine/Context`. -/

theorem State.EmLive.contextOf {s : State} {x} (hs : s.EmLive) : (s.contextOf x).EmLive :=
  EmLiveAll.filter hs.groups

theorem State.EmLive.putNumbered {s : State} {r x} (hs : s.EmLive) :
    (s.putNumbered r x).EmLive := by
  unfold State.putNumbered
  split
  · exact hs
  · exact hs.set

theorem State.EmLive.restoreImages {s : State} {c : Context} (hs : s.EmLive) :
    (s.restoreImages c).EmLive :=
  hs.set.foldl fun _ _ hs1 => hs1.putNumbered

theorem Group.EmLive.shift {n} {g : Group} (hg : g.EmLive) : (Group.shift n g).EmLive := hg.set.set

theorem State.EmLive.dropReach {s : State} {r} (hs : s.EmLive) :
    (s.dropReach r).EmLive :=
  hs.setGroups (.ite Group.EmLive.vacant hs.turn) hs.others.filter

theorem State.EmLive.takeIn {s : State} {c : Context} (hs : s.EmLive) (hc : c.EmLive) :
    (s.takeIn c).EmLive :=
  hs.dropReach.set.setGroups hs.dropReach.turn (hs.dropReach.others.append (hc.map fun _ hg => hg.shift))

theorem State.EmLive.takeClaims {s : State} {r} (hs : s.EmLive) : (s.takeClaims r).EmLive := hs.foldl fun _ _ hs1 => hs1.joinClaims

theorem State.EmLive.readContext {s : State} {c : Context} (hs : s.EmLive) (hc : c.EmLive) :
    (s.readContext c).EmLive := by
  unfold State.readContext
  extract_lets s1 __src
  have hs1 : s1.EmLive := .ite hs ((hs.takeIn hc).takeClaims)
  have h__src : __src.EmLive := hs1.rehomeAll
  exact .restoreImages (.setContexts h__src (emLive_filter hs1.contexts))

/-! `Machine/Schedule`. -/

theorem State.EmLive.execPortAssignment {core port} {s : State} (hs : s.EmLive) :
    Out.EmLive (execPortAssignment core port s) := by
  unfold Machine.execPortAssignment
  split
  · exact hs
  · split
    · exact hs
    · exact hs.onCore.onGroup fun _ ha => ha.set

theorem State.EmLive.resetQueued {s : State} (hs : s.EmLive) : s.resetQueued.EmLive := hs.foldl fun _ _ hs1 => hs1.onCore

theorem State.EmLive.admitTeam {s : State} {lid idx} (hs : s.EmLive) :
    ∀ t ∈ s.admitTeam lid idx, t.EmLive := by
  unfold State.admitTeam
  split
  · exact emLive_some hs.place
  · exact emLive_map fun _ _ => hs.swapAll.place

theorem State.EmLive.setAside {d lid n} {a : State} (ha : a.EmLive) : ∀ t ∈ State.setAside d lid n a, t.EmLive := by
  induction n generalizing a with
  | zero => exact emLive_some ha
  | succ n ih =>
    unfold State.setAside
    split
    · simp
    · exact ih ha.set

theorem State.EmLive.admitHeld {s : State} {d lid who re} (hs : s.EmLive) :
    ∀ t ∈ s.admitHeld d lid who re, t.EmLive := by
  unfold State.admitHeld
  exact emLive_bind fun _ hm _ hm1 => (State.EmLive.setAside ((emLive_foldl (emLive_some hs.set) fun _ _ h _ hm1 => (emLive_bind
    fun _ hm2 _ hm3 => ((h _ hm2).admitTeam) _ hm3) _ hm1) _ hm)) _ hm1

theorem State.EmLive.submit {s : State} {bs lid who re} (hs : s.EmLive) :
    Out.EmLive (s.submit bs lid who re) := by
  unfold State.submit
  extract_lets
  split
  · exact hs
  · split
    · exact hs.set
    · split
      · exact hs.set
      · split
        · split
          next hq4 => exact (hs.admitHeld _ hq4).set
          · exact hs.set
        · exact hs.set.set

theorem State.EmLive.execLaunchSubmit {bs lid who} {s : State} (hs : s.EmLive) : Out.EmLive (execLaunchSubmit bs lid who s) := hs.submit

theorem State.EmLive.execReplayStart {bs lid who rec loss freeRun} {s : State} (hs : s.EmLive) :
    Out.EmLive (execReplayStart bs lid who rec loss freeRun s) :=
  .ite hs.set hs.submit

theorem State.EmLive.returnOne {s : State} {t} (hs : s.EmLive) :
    (s.returnOne t).EmLive :=
  .ite hs (.restoreWatch (.settle (hs.makeRoom.foldlGroups hs.makeRoom.liveOf.filter fun _ _ hs1 _ => hs1.seat)))

theorem State.EmLive.returnTeam {s : State} {t} (hs : s.EmLive) : (s.returnTeam t).EmLive := hs.foldl fun _ _ hs1 => hs1.returnOne

theorem State.EmLive.returnWith {s : State} {t} (hs : s.EmLive) :
    ∀ t_1 ∈ s.returnWith t, t_1.EmLive := by
  unfold State.returnWith
  extract_lets
  exact emLive_map fun _ hm => .returnTeam ((emLive_findSome fun _ _ hm1 => (emLive_ite (emLive_some hs.swapAll) (by simp)) _ hm1) _ hm)

theorem State.EmLive.startOn {s : State} {t c} (hs : s.EmLive) :
    ∀ t_1 ∈ s.startOn t c, t_1.EmLive := by
  unfold State.startOn
  split
  · exact emLive_ite hs.returnWith (by simp)
  · split
    · exact by simp
    · split
      · exact emLive_some hs.swapAll.place
      · exact by simp

theorem State.EmLive.execTeamStart {lid team core} {s : State} (hs : s.EmLive) :
    Out.EmLive (execTeamStart lid team core s) := by
  unfold Machine.execTeamStart
  split
  · exact hs
  · split
    · exact hs
    · split
      next hq2 => exact (hs.startOn _ hq2).serveAll
      · exact hs

theorem State.EmLive.execWaitSwap {lid team} {s : State} (hs : s.EmLive) : Out.EmLive (execWaitSwap lid team s) := .ite hs hs.swapOut.set

theorem State.EmLive.boundary {s : State} (hs : s.EmLive) :
    s.boundary.EmLive :=
  .foldl (hs.revertIdle.foldl fun _ _ hs1 => hs1.forward) fun _ _ hs1 => hs1.updateAcct

theorem State.EmLive.execSchedulingBoundary {s : State} (hs : s.EmLive) : Out.EmLive (execSchedulingBoundary s) := hs.boundary

theorem Group.EmLive.preempt {tick age} {g : Group} (hg : g.EmLive) : (Group.preempt tick age g).EmLive := hg.halt.set

theorem State.EmLive.haltReach {s : State} {r now} (hs : s.EmLive) :
    (s.haltReach r now).EmLive := by
  unfold State.haltReach
  split
  · exact hs
  · exact .ite hs hs.set.keepHeader

theorem State.EmLive.preempt {s : State} {r cores} (hs : s.EmLive) :
    (s.preempt r cores).EmLive :=
  .haltReach (.set (.set (hs.endRuns fun _ _ ha => ha.preempt)))

theorem State.EmLive.execPreemptionRequest {reach cores} {s : State} (hs : s.EmLive) :
    Out.EmLive (execPreemptionRequest reach cores s) :=
  hs.preempt

theorem State.EmLive.execSliceEnd {reach core} {s : State} (hs : s.EmLive) :
    Out.EmLive (execSliceEnd reach core s) := by
  unfold Machine.execSliceEnd
  split
  · exact hs
  · extract_lets s1
    have hs1 : s1.EmLive := hs.boundary
    split
    · exact hs1
    · exact State.EmLive.ite hs1.onCore hs1.onCore.preempt

theorem State.EmLive.execSliceGrant {reach core} {s : State} (hs : s.EmLive) :
    Out.EmLive (execSliceGrant reach core s) := by
  unfold Machine.execSliceGrant
  split
  · exact hs.set
  · exact .ite hs.set hs.set.onCore.set

theorem State.EmLive.bringHeld {s : State} {t} (hs : s.EmLive) :
    (s.bringHeld t).EmLive :=
  hs.getD (emLive_findSome fun _ _ hm => hs.startOn _ hm)

theorem State.EmLive.bringBack {s : State} {r} (hs : s.EmLive) :
    (s.bringBack r).EmLive := by
  unfold State.bringBack
  extract_lets _ _ _ s1
  have hs1 : s1.EmLive := hs.foldl fun _ _ hs2 => .ite hs2.bringHeld hs2
  exact .ite hs1 (hs1.foldl fun _ _ hs2 => .ite (hs2.getD hs2.returnWith) hs2)

theorem State.EmLive.resumeReach {s : State} {reach given} (hs : s.EmLive) : (s.resumeReach reach given).EmLive := by
  unfold State.resumeReach
  split
  · exact hs.set
  · extract_lets h ctx s₁ s₂
    have hctx : ∀ c ∈ ctx, c.EmLive := emLive_find hs.contexts
    have hs₁ : s₁.EmLive := by
      unfold s₁
      clear_value ctx
      split
      next c => exact hs.readContext (hctx c rfl)
      · exact hs
    have hs₂ : s₂.EmLive := hs₁.set
    have hw : (s₂.wakeEngines reach).EmLive := hs₂.set
    exact .ite hs.set (State.EmLive.set (State.EmLive.serveAll hw.bringBack.keepHeader))

theorem State.EmLive.execReachResume {reach revision timex root snapgen} {s : State} (hs : s.EmLive) :
    Out.EmLive (execReachResume reach revision timex root snapgen s) :=
  .ite hs.set hs.resumeReach

theorem State.EmLive.lateHalt {r core} {s : State} {k} (hs : s.EmLive) :
    (State.lateHalt r core s k).EmLive := by
  unfold State.lateHalt
  extract_lets _ s1 s2
  have hs1 : s1.EmLive := .ite (hs.endRuns fun _ _ ha => ha.preempt) hs
  have hs2 : s2.EmLive := .haltReach (.ite hs1.set hs1)
  split
  · exact .ite hs2 hs2.set.resumeReach
  · exact hs2

theorem State.EmLive.lateHalts {old : State} {s : State} (hold : old.EmLive) (hs : s.EmLive) :
    (old.lateHalts s).EmLive :=
  hs.foldlGroups hold.groups.filter fun _ _ hs1 _ => .ite hs1 hs1.lateHalt

theorem State.EmLive.execEvacuate {reach} {s : State} (hs : s.EmLive) :
    Out.EmLive (execEvacuate reach s) := by
  unfold Machine.execEvacuate
  split
  · exact hs.set
  · split
    · exact hs.set
    · split
      · exact hs
      · extract_lets s1 s2 s3
        have hs1 : s1.EmLive := hs.foldlGroups hs.groups.filter fun _ _ hs4 _ => hs4.spillGroup
        have hs2 : s2.EmLive := hs1.set.keepHeader
        have hs3 : s3.EmLive := by
          unfold s3
          split
          · exact hs2
          · exact .setContexts hs2 (emLive_cons hs2.contextOf (emLive_filter hs2.contexts))
        exact hs3.set

theorem State.EmLive.divide {s : State} {u} (hs : s.EmLive) : (s.divide u).EmLive := by
  unfold State.divide
  extract_lets was t₀ t
  have ht₀ : t₀.EmLive := hs.set
  have ht : t.EmLive := by
    unfold t
    split
    · exact ht₀.set.set
    · exact ht₀
  exact ht.foldl fun _ _ hs₁ => .ite hs₁ hs₁.set

theorem State.EmLive.repartition {s : State} (hs : s.EmLive) : s.repartition.EmLive := hs.foldl fun _ _ hs1 => .ite hs1.divide hs1

theorem State.EmLive.execReachRecordWrite {reach sub r own} {s : State} (hs : s.EmLive) :
    Out.EmLive (execReachRecordWrite reach sub r own s) := by
  unfold Machine.execReachRecordWrite
  split
  · exact .ite hs.set (State.EmLive.set (.repartition (.set (.ite hs hs.set))))
  · split
    · exact hs.set
    · exact .ite hs.set hs.set.set

theorem State.EmLive.execAllocatorMode {core on} {s : State} (hs : s.EmLive) : Out.EmLive (execAllocatorMode core on s) := hs.onCore

theorem State.EmLive.execCompactorMove {core} {s : State} (hs : s.EmLive) :
    Out.EmLive (execCompactorMove core s) := by
  unfold Machine.execCompactorMove
  split
  · exact hs
  · split
    · exact hs
    · exact hs.copyPad.set

theorem State.EmLive.execBindRequest {reach u off len prod mode} {s : State} (hs : s.EmLive) :
    Out.EmLive (execBindRequest reach u off len prod mode s) :=
  .ite hs.set (.ite hs.set hs.bindRange.set)

theorem State.EmLive.freeze {s : State} {g : Group} (hs : s.EmLive) : (s.freeze g).EmLive := hs.mapGroups fun _ ha => .ite ha.set ha

theorem State.EmLive.execWatchdog {grp} {s : State} (hs : s.EmLive) :
    Out.EmLive (execWatchdog grp s) := by
  unfold Machine.execWatchdog
  split
  · exact hs
  · exact .ite hs hs.freeze.set.set

theorem State.EmLive.uncharge {s : State} {t} (hs : s.EmLive) :
    (s.uncharge t).EmLive := by
  unfold State.uncharge
  split
  · exact hs
  · exact hs.set.set

theorem State.EmLive.rescue {s : State} {t} (hs : s.EmLive) :
    (s.rescue t).EmLive := by
  unfold State.rescue
  split
  · exact hs.swapAll.place
  · exact hs.set

theorem State.EmLive.suspectInterval {s : State} {d c} (hs : s.EmLive) : (s.suspectInterval d c).EmLive := hs.set.set

theorem State.EmLive.fence {s : State} {d c} (hs : s.EmLive) :
    (s.fence d c).EmLive :=
  .foldl (hs.suspectInterval.set.foldl fun _ _ hs1 => hs1.uncharge.swapOut) fun _ _ hs1 => hs1.rescue

theorem State.EmLive.execInfieldTest {die cluster pass} {s : State} (hs : s.EmLive) :
    Out.EmLive (execInfieldTest die cluster pass s) :=
  .ite hs (State.EmLive.ite (.set (hs.endRuns fun _ _ ha => ha.halt)) (.fence (hs.endRuns fun _ _ ha => ha.halt)))

theorem State.EmLive.removeGroup {s : State} {g : Group} (hs : s.EmLive) :
    (s.removeGroup g).EmLive := by
  unfold State.removeGroup
  extract_lets s1
  have hs1 : s1.EmLive := hs.endGroup
  split
  · exact hs1.endGroup
  · exact hs1

theorem State.EmLive.removeLaunch {s : State} {lid} (hs : s.EmLive) :
    (s.removeLaunch lid).EmLive :=
  .endLaunch (.set (hs.set.foldlGroups hs.set.groups.filter fun _ _ hs1 _ => hs1.endGroup))

theorem State.EmLive.execLaunchRemoval {lid grp} {s : State} (hs : s.EmLive) :
    Out.EmLive (execLaunchRemoval lid grp s) := by
  unfold Machine.execLaunchRemoval
  split
  · exact hs.removeLaunch
  · split
    · exact hs
    · exact State.EmLive.ite hs.removeGroup hs

theorem Group.EmLive.resumeTrap {g : Group} : g.resumeTrap.EmLive := emLive_and _ _

theorem State.EmLive.execGroupResume {gid} {s : State} (hs : s.EmLive) :
    Out.EmLive (execGroupResume gid s) := by
  unfold Machine.execGroupResume
  split
  · exact hs.set
  · extract_lets
    split
    · exact State.EmLive.set (hs.mapGroups fun _ ha => .ite Group.EmLive.resumeTrap ha)
    · exact State.EmLive.set (.swapOut (hs.mapGroups fun _ ha => .ite ha.set ha))
    · exact hs.set

theorem State.EmLive.execFabricRecovery {dev windowMs} {s : State} (hs : s.EmLive) :
    Out.EmLive (execFabricRecovery dev windowMs s) :=
  .ite hs.set (.ite hs.set.set (.ite hs.set hs.set.set))

theorem State.EmLive.unsuspend {s : State} {dev} (hs : s.EmLive) : (s.unsuspend dev).EmLive := hs.set.mapGroups fun _ ha => .ite ha.set ha

theorem State.EmLive.rejoin {s : State} (hs : s.EmLive) : s.rejoin.EmLive := .rehomeAll (.set (hs.mapGroups fun _ ha => ha.set))

theorem State.EmLive.execRecoveredWithinWindow {dev} {s : State} (hs : s.EmLive) :
    Out.EmLive (execRecoveredWithinWindow dev s) :=
  State.EmLive.ite hs.rejoin hs.unsuspend

theorem State.EmLive.loseMessage {s : State} {m} (hs : s.EmLive) :
    (s.loseMessage m).EmLive := by
  unfold State.loseMessage
  split
  · exact hs.failOne
  · exact hs.borrowed
  · exact hs.failOne
  · exact hs.takeStatus

theorem State.EmLive.loseBalance {s : State} {dev x} (hs : s.EmLive) : (s.loseBalance dev x).EmLive := hs.set.applyReturn

theorem State.EmLive.loseGroup {dev} {s : State} {g : Group} (hs : s.EmLive) :
    (State.loseGroup dev s g).EmLive :=
  .foldl (.replayAll (.loseDrains (.ite hs hs.failOne))) fun _ _ hs1 => hs1.serveHeld

theorem State.EmLive.execRecoveryWindowEnd {dev} {s : State} (hs : s.EmLive) :
    Out.EmLive (execRecoveryWindowEnd dev s) := by
  unfold Machine.execRecoveryWindowEnd
  split
  · exact hs
  · extract_lets s1 _ s2 s3 s4
    have hs1 : s1.EmLive := hs.unsuspend
    have hs2 : s2.EmLive := hs1.set
    have hs3 : s3.EmLive := hs2.foldl fun _ _ hs5 => hs5.loseMessage
    have hs4 : s4.EmLive := hs3.foldl fun _ _ hs5 => hs5.loseBalance
    exact hs4.foldlGroups hs4.groups.filter fun _ _ hs5 _ => hs5.loseGroup

/-! `Machine/Debug`. -/

theorem State.EmLive.byGid {s : State} {gid} (hs : s.EmLive) : ∀ g ∈ s.byGid gid, g.EmLive := hs.groups.find

theorem State.EmLive.execHalt {lid} {s : State} (hs : s.EmLive) :
    Out.EmLive (execHalt lid s) :=
  .ite hs.set (State.EmLive.set (hs.endRuns fun _ _ ha => .set (.ite ha ha.halt)))

theorem State.EmLive.execResume {lid} {s : State} (hs : s.EmLive) :
    Out.EmLive (execResume lid s) :=
  .ite hs.set (State.EmLive.set (hs.mapGroups fun _ ha => .ite ha.set ha))

theorem State.EmLive.execWritecode {reach addr val} {s : State} (hs : s.EmLive) :
    Out.EmLive (execWritecode reach addr val s) := by
  unfold Machine.execWritecode
  split
  · exact hs.set
  · split
    · exact hs.set.set
    · exact hs.set

theorem State.EmLive.execInval {cores} {s : State} (hs : s.EmLive) :
    Out.EmLive (execInval cores s) :=
  State.EmLive.set (hs.foldl fun _ _ hs1 => hs1.set)

theorem State.EmLive.selSet {s : State} {g : Group} {x a} (hs : s.EmLive) :
    (s.selSet g x a).EmLive := by
  unfold State.selSet
  split
  · exact .ite (hs.onGroup fun _ ha2 => ha2.writeL) hs
  · exact hs.onGroup fun _ ha2 => ha2.writeL
  · exact hs.onGroup fun _ ha1 => ha1.set
  · exact hs.onGroup fun _ ha1 => ha1.set
  · exact .ite (hs.onGroup fun _ ha1 => ha1.set) hs.csrSet
  · exact hs.onGroup fun _ ha => ha.set
  · exact hs.onGroup fun _ ha2 => ha2.set
  · exact hs.onGroup fun _ ha1 => ha1.set

theorem State.EmLive.execReadState {gid sel} {s : State} (hs : s.EmLive) :
    Out.EmLive (execReadState gid sel s) := by
  unfold Machine.execReadState
  split
  · exact hs.set
  · exact State.EmLive.ite hs.set hs.set

theorem State.EmLive.toTwins {s : State} {g : Group} {f} (hs : s.EmLive) (hg : g.EmLive) (hf : ∀ t, t.EmLive → ∀ g1, g1.EmLive →
    (f t g1).EmLive) :
    (s.toTwins g f).EmLive := by
  unfold State.toTwins
  split
  next hq => exact hf _ (hf _ hs _ hg) _ ((emLive_bind fun _ _ _ hm1 => hs.group? _ hm1) _ hq)
  · exact hf _ hs _ hg

theorem State.EmLive.execWriteState {gid sel val} {s : State} (hs : s.EmLive) :
    Out.EmLive (execWriteState gid sel val s) := by
  unfold Machine.execWriteState
  split
  · exact hs.set
  next hq => exact State.EmLive.ite (.set (hs.toTwins (hs.byGid _ hq) fun _ ha _ _ => ha.selSet)) hs.set

theorem State.EmLive.execReadtile {lid team tile row} {s : State} (hs : s.EmLive) :
    Out.EmLive (execReadtile lid team tile row s) := by
  unfold Machine.execReadtile
  split
  · exact hs.set
  · exact .ite hs.set (.ite hs.set (.ite hs.set hs.set))

theorem State.EmLive.execReadout {gid} {s : State} (hs : s.EmLive) :
    Out.EmLive (execReadout gid s) := by
  unfold Machine.execReadout
  split
  · exact hs.set
  next hq => exact State.EmLive.set (hs.toTwins (hs.byGid _ hq) fun _ ha _ _ => ha.onGroup fun _ ha2 => ha2.set)

theorem State.EmLive.execWritein {gid vals} {s : State} (hs : s.EmLive) :
    Out.EmLive (execWritein gid vals s) := by
  unfold Machine.execWritein
  split
  · exact hs.set
  next hq => exact State.EmLive.set (hs.toTwins (hs.byGid _ hq) fun _ ha _ _ => ha.onGroup fun _ ha2 => ha2.set)

theorem State.EmLive.execTraceBufferDrain {die cluster bytes} {s : State} (hs : s.EmLive) :
    Out.EmLive (execTraceBufferDrain die cluster bytes s) :=
  hs.set.set

/-! `Machine/FloatOps`. -/

theorem Group.EmLive.flt3 {g : Group} {f d a b gd op} (hg : g.EmLive) : (g.flt3 f d a b gd op).EmLive := hg.writeF

theorem State.EmLive.execFadd {f d a b gd} {s : State} (hs : s.EmLive) : Out.EmLive (execFadd f d a b gd s) := hs.done hs.turn.flt3

theorem State.EmLive.execFsub {f d a b gd} {s : State} (hs : s.EmLive) : Out.EmLive (execFsub f d a b gd s) := hs.done hs.turn.flt3

theorem State.EmLive.execFmul {f d a b gd} {s : State} (hs : s.EmLive) : Out.EmLive (execFmul f d a b gd s) := hs.done hs.turn.flt3

theorem State.EmLive.execFfma {f d a b gd} {s : State} (hs : s.EmLive) : Out.EmLive (execFfma f d a b gd s) := hs.done hs.turn.flt3

theorem State.EmLive.execFfms {f d a b gd} {s : State} (hs : s.EmLive) : Out.EmLive (execFfms f d a b gd s) := hs.done hs.turn.flt3

theorem State.EmLive.execFmin {f d a b gd} {s : State} (hs : s.EmLive) : Out.EmLive (execFmin f d a b gd s) := hs.done hs.turn.flt3

theorem State.EmLive.execFmax {f d a b gd} {s : State} (hs : s.EmLive) : Out.EmLive (execFmax f d a b gd s) := hs.done hs.turn.flt3

theorem State.EmLive.execFabs {f d a gd} {s : State} (hs : s.EmLive) : Out.EmLive (execFabs f d a gd s) := hs.done hs.turn.writeL

theorem State.EmLive.execFneg {f d a gd} {s : State} (hs : s.EmLive) : Out.EmLive (execFneg f d a gd s) := hs.done hs.turn.writeL

theorem State.EmLive.execFcmp {pd a b c m} {s : State} (hs : s.EmLive) : Out.EmLive (execFcmp pd a b c m s) := hs.done hs.turn.set.set

theorem State.EmLive.execFspec {fn f d a gd} {s : State} (hs : s.EmLive) : Out.EmLive (execFspec fn f d a gd s) := hs.done hs.turn.flt3

theorem State.EmLive.execCvt {sel part d a gd} {s : State} (hs : s.EmLive) :
    Out.EmLive (execCvt sel part d a gd s) := by
  unfold Machine.execCvt
  split
  · exact hs.done hs.turn.writeF
  · exact hs.done hs.turn

theorem State.EmLive.execDot {pair hi d a b gd} {s : State} (hs : s.EmLive) :
    Out.EmLive (execDot pair hi d a b gd s) :=
  hs.done hs.turn.writeF

/-! `Machine/System`. -/

theorem State.EmLive.execFlitReplay {link ok} {s : State} (hs : s.EmLive) :
    Out.EmLive (execFlitReplay link ok s) :=
  .ite hs (.ite hs.set (.ite hs.set hs.set.set))

theorem State.EmLive.settleRoutes {s : State} (hs : s.EmLive) : s.settleRoutes.EmLive := hs.set.foldl fun _ _ hs1 => hs1.set

theorem State.EmLive.execRouteTableWrite {dest link} {s : State} (hs : s.EmLive) :
    Out.EmLive (execRouteTableWrite dest link s) :=
  .ite hs.set hs.set.settleRoutes.set

theorem State.EmLive.homeRmw {s : State} {r pa key n f} (hs : s.EmLive) : (s.homeRmw r pa key n f).EmLive := .ite hs.set hs.set.set

theorem State.EmLive.applyFab {s : State} {r a} (hs : s.EmLive) :
    (s.applyFab r a).EmLive := by
  unfold State.applyFab
  split
  · exact hs.set.set
  · exact .ite hs.set hs.set
  · exact hs.homeRmw
  · exact hs.homeRmw
  · exact hs.homeRmw
  · exact hs.homeRmw
  · exact hs.remoteMessage
  · exact hs

theorem State.EmLive.dropResponse {s : State} {dev again} (hs : s.EmLive) : (s.dropResponse dev again).EmLive := .ite hs.set.set.set hs.set

theorem State.EmLive.heard {s : State} {src} (hs : s.EmLive) :
    (s.heard src).EmLive := by
  unfold State.heard
  split
  · exact hs
  · exact hs.set

theorem State.EmLive.execFabricMessage {src reach op authentic} {s : State} (hs : s.EmLive) :
    Out.EmLive (execFabricMessage src reach op authentic s) :=
  .ite hs (.ite hs.set hs.heard.applyFab)

theorem State.EmLive.execPteUpdate {_root table idx val} {s : State} (hs : s.EmLive) :
    Out.EmLive (execPteUpdate _root table idx val s) :=
  hs.set.rehomeAll

theorem State.EmLive.execShootdown {reach va len} {s : State} (hs : s.EmLive) :
    Out.EmLive (execShootdown reach va len s) := by
  unfold Machine.execShootdown
  split
  · exact hs.set
  · exact State.EmLive.set (.rehomeAll (.set (hs.mapGroups fun _ ha => .ite ha.set ha)))

theorem State.EmLive.execRdmaWrite {reach region off bytes} {s : State} (hs : s.EmLive) :
    Out.EmLive (execRdmaWrite reach region off bytes s) := by
  unfold Machine.execRdmaWrite
  split
  · exact hs.set
  · exact hs.commit.set

theorem State.EmLive.execRdmaRead {reach region off len} {s : State} (hs : s.EmLive) :
    Out.EmLive (execRdmaRead reach region off len s) := by
  unfold Machine.execRdmaRead
  split
  · exact hs.set
  · exact .ite hs.set (State.EmLive.set (hs.foldl fun _ _ hs1 => hs1.set))

theorem State.EmLive.execRemoteCall {ver op len seq pid zeros} {s : State} (hs : s.EmLive) :
    Out.EmLive (execRemoteCall ver op len seq pid zeros s) :=
  .ite hs.set hs.set.set

theorem State.EmLive.writeArgs {s : State} {q args} (hs : s.EmLive) : (s.writeArgs q args).EmLive := hs.foldl fun _ _ hs1 => hs1.deviceWrite

theorem State.EmLive.nextCall {s : State} {r q} (hs : s.EmLive) :
    (s.nextCall r q).1.EmLive := by
  unfold State.nextCall
  extract_lets _ s1
  have hs1 : s1.EmLive := .ite hs hs.wharfTake
  split
  · exact hs1
  · exact hs1.set

theorem State.EmLive.execWharfReply {reach qnum code result args} {s : State} (hs : s.EmLive) :
    Out.EmLive (execWharfReply reach qnum code result args s) := by
  unfold Machine.execWharfReply
  split
  · exact hs
  · split
    next t hq1 =>
      have ht : t.EmLive := emLive_fst_of_eq hs.nextCall hq1
      exact ht
    next t _ hq1 =>
      have ht : t.EmLive := emLive_fst_of_eq hs.nextCall hq1
      extract_lets _ _ _ _ _ s1
      have hs1 : s1.EmLive := .ite ht ht.writeArgs
      split
      · exact ht.set
      · exact hs1.set.fillWord.entryBack

theorem State.EmLive.afterReset {s : State} (hs : s.EmLive) : s.afterReset.EmLive :=
  ⟨State.EmLive.reset.turn, State.EmLive.reset.others, State.EmLive.reset.contexts, hs.inputs⟩

theorem State.EmLive.bootFails {s : State} {source stage cause measures} (hs : s.EmLive) :
    (s.bootFails source stage cause measures).EmLive :=
  hs.set.set.set

theorem State.EmLive.execDeviceReset {stages modules} {s : State} (hs : s.EmLive) :
    Out.EmLive (execDeviceReset stages modules s) := by
  unfold Machine.execDeviceReset
  extract_lets t
  have ht : t.EmLive := hs.afterReset
  split
  · exact .ite ht.bootFails ht.bootFails
  · exact .ite ht.bootFails ht.set

theorem State.EmLive.execAttestationRequest {reach nonce} {s : State} (hs : s.EmLive) :
    Out.EmLive (execAttestationRequest reach nonce s) := by
  unfold Machine.execAttestationRequest
  split
  · exact hs.set
  · exact hs.set

theorem State.EmLive.execKeyIdAssignment {reach key} {s : State} (hs : s.EmLive) :
    Out.EmLive (execKeyIdAssignment reach key s) :=
  .ite hs.set hs.set.set.set

theorem State.EmLive.takeKeys {s : State} {r bs} (hs : s.EmLive) : (s.takeKeys r bs).EmLive := hs.set.set

theorem State.EmLive.execMigrationKeyTransfer {reach peer report offer} {s : State} (hs : s.EmLive) :
    Out.EmLive (execMigrationKeyTransfer reach peer report offer s) := by
  unfold Machine.execMigrationKeyTransfer
  split
  · exact hs.set
  · extract_lets
    split
    · exact hs.takeKeys.set
    · exact .ite hs.set hs.set.set

theorem State.EmLive.execSecurityAlarm {cause} {s : State} (hs : s.EmLive) : Out.EmLive (execSecurityAlarm cause s) := hs.set.set.set

theorem State.EmLive.execManagementRead {sel} {s : State} (hs : s.EmLive) :
    Out.EmLive (execManagementRead sel s) := by
  unfold Machine.execManagementRead
  split
  · exact hs.set
  · exact hs.set
  · exact hs.set
  · split
    · exact hs.set
    · exact hs.set
  · exact hs.set
  · exact hs.set

theorem State.EmLive.execFirmwareUpdate {stage} {s : State} (hs : s.EmLive) : Out.EmLive (execFirmwareUpdate stage s) := hs.set.set

theorem State.EmLive.execPowerCapSet {watts} {s : State} (hs : s.EmLive) : Out.EmLive (execPowerCapSet watts s) := .ite hs.set.set hs.set

theorem State.EmLive.execThermalLimit {celsius} {s : State} (hs : s.EmLive) :
    Out.EmLive (execThermalLimit celsius s) :=
  .ite hs.set.set.set (.ite hs.set hs)

theorem Group.EmLive.watched {old : State} {s : State} {ns} {g : Group} (hg : g.EmLive) : (old.watched s ns g).EmLive := .ite hg hg.set

theorem State.EmLive.elapse {old : State} {s : State} (hs : s.EmLive) :
    (old.elapse s).EmLive :=
  hs.setGroups hs.turn.watched (hs.others.map fun _ hg => hg.watched)

/-! `Machine/Uniform`. -/

theorem State.EmLive.salu {s : State} {sd sa sb f} (hs : s.EmLive) : Out.EmLive (s.salu sd sa sb f) := hs.done hs.turn.set

theorem State.EmLive.execSadd {sd sa sb} {s : State} (hs : s.EmLive) : Out.EmLive (execSadd sd sa sb s) := hs.salu

theorem State.EmLive.execSsub {sd sa sb} {s : State} (hs : s.EmLive) : Out.EmLive (execSsub sd sa sb s) := hs.salu

theorem State.EmLive.execSmul {sd sa sb} {s : State} (hs : s.EmLive) : Out.EmLive (execSmul sd sa sb s) := hs.salu

theorem State.EmLive.execSmulhi {sd sa sb} {s : State} (hs : s.EmLive) : Out.EmLive (execSmulhi sd sa sb s) := hs.salu

theorem State.EmLive.execSand {sd sa sb} {s : State} (hs : s.EmLive) : Out.EmLive (execSand sd sa sb s) := hs.salu

theorem State.EmLive.execSor {sd sa sb} {s : State} (hs : s.EmLive) : Out.EmLive (execSor sd sa sb s) := hs.salu

theorem State.EmLive.execSxor {sd sa sb} {s : State} (hs : s.EmLive) : Out.EmLive (execSxor sd sa sb s) := hs.salu

theorem State.EmLive.execSandn {sd sa sb} {s : State} (hs : s.EmLive) : Out.EmLive (execSandn sd sa sb s) := hs.salu

theorem State.EmLive.execSshl {sd sa sb} {s : State} (hs : s.EmLive) : Out.EmLive (execSshl sd sa sb s) := hs.salu

theorem State.EmLive.execSshr {sd sa sb} {s : State} (hs : s.EmLive) : Out.EmLive (execSshr sd sa sb s) := hs.salu

theorem State.EmLive.execSsar {sd sa sb} {s : State} (hs : s.EmLive) : Out.EmLive (execSsar sd sa sb s) := hs.salu

theorem State.EmLive.execSmin {sd sa sb} {s : State} (hs : s.EmLive) : Out.EmLive (execSmin sd sa sb s) := hs.salu

theorem State.EmLive.execSmax {sd sa sb} {s : State} (hs : s.EmLive) : Out.EmLive (execSmax sd sa sb s) := hs.salu

theorem State.EmLive.execSminu {sd sa sb} {s : State} (hs : s.EmLive) : Out.EmLive (execSminu sd sa sb s) := hs.salu

theorem State.EmLive.execSmaxu {sd sa sb} {s : State} (hs : s.EmLive) : Out.EmLive (execSmaxu sd sa sb s) := hs.salu

theorem State.EmLive.execSaddi {sd sa imm} {s : State} (hs : s.EmLive) : Out.EmLive (execSaddi sd sa imm s) := hs.done hs.turn.set

theorem State.EmLive.execSli {sd h₁ imm} {s : State} (hs : s.EmLive) : Out.EmLive (execSli sd h₁ imm s) := hs.done hs.turn.set

theorem State.EmLive.execScmp {pd sa sb c w64 m} {s : State} (hs : s.EmLive) :
    Out.EmLive (execScmp pd sa sb c w64 m s) :=
  hs.done hs.turn.set

theorem State.EmLive.execSget {sd va lane} {s : State} (hs : s.EmLive) : Out.EmLive (execSget sd va lane s) := hs.done hs.turn.set

/-! `Machine/Dispatch`. -/

theorem State.EmLive.exec {i} {s : State} (hs : s.EmLive) :
    Out.EmLive (exec i s) := by
  unfold Machine.exec
  split
  · exact hs.execIadd
  · exact hs.execIsub
  · exact hs.execIaddi
  · exact hs.execImin
  · exact hs.execImax
  · exact hs.execUmin
  · exact hs.execUmax
  · exact hs.execImul
  · exact hs.execImulhi
  · exact hs.execImad
  · exact hs.execImsb
  · exact hs.execIaddsat
  · exact hs.execIsubsat
  · exact hs.execUaddsat
  · exact hs.execUsubsat
  · exact hs.execLand
  · exact hs.execLandn
  · exact hs.execLor
  · exact hs.execLorn
  · exact hs.execLxor
  · exact hs.execLxnor
  · exact hs.execShl
  · exact hs.execShr
  · exact hs.execSar
  · exact hs.execRol
  · exact hs.execShli
  · exact hs.execShri
  · exact hs.execSari
  · exact hs.execPopc
  · exact hs.execClz
  · exact hs.execBrev
  · exact hs.execCtz
  · exact hs.execBfx
  · exact hs.execBfxs
  · exact hs.execBfi
  · exact hs.execIabs
  · exact hs.execIneg
  · exact hs.execMov
  · exact hs.execMovs
  · exact hs.execMovi
  · exact hs.execSel
  · exact hs.execIcmp
  · exact hs.execPlop
  · exact hs.execPmovGet
  · exact hs.execPmovSet
  · exact hs.execFadd
  · exact hs.execFsub
  · exact hs.execFmul
  · exact hs.execFfma
  · exact hs.execFfms
  · exact hs.execFmin
  · exact hs.execFmax
  · exact hs.execFabs
  · exact hs.execFneg
  · exact hs.execFcmp
  · exact hs.execFspec
  · exact hs.execCvt
  · exact hs.execDot
  · exact hs.execPerm
  · exact hs.execLxch
  · exact hs.execLred
  · exact hs.execLscan
  · exact hs.execVote
  · exact hs.execLd
  · exact hs.execLds
  · exact hs.execSt
  · exact hs.execLdfe
  · exact hs.execLdfw
  · exact hs.execStfe
  · exact hs.execCas
  · exact hs.execRed
  · exact hs.execAtomAdd
  · exact hs.execAtomSmin
  · exact hs.execAtomSmax
  · exact hs.execAtomUmin
  · exact hs.execAtomUmax
  · exact hs.execAtomAnd
  · exact hs.execAtomOr
  · exact hs.execAtomXchg
  · exact hs.execTload
  · exact hs.execTstore
  · exact hs.execSadd
  · exact hs.execSsub
  · exact hs.execSmul
  · exact hs.execSmulhi
  · exact hs.execSand
  · exact hs.execSor
  · exact hs.execSxor
  · exact hs.execSandn
  · exact hs.execSshl
  · exact hs.execSshr
  · exact hs.execSsar
  · exact hs.execSmin
  · exact hs.execSmax
  · exact hs.execSminu
  · exact hs.execSmaxu
  · exact hs.execSaddi
  · exact hs.execSli
  · exact hs.execScmp
  · exact hs.execSget
  · exact hs.execSld
  · exact hs.execSst
  · exact hs.execBra
  · exact hs.execBrl
  · exact hs.execBrd
  · exact hs.execJpush
  · exact hs.execJoin
  · exact hs.execBrx
  · exact hs.execCall
  · exact hs.execRet
  · exact hs.execExit
  · exact hs.execYield
  · exact hs.execRunend
  · exact hs.execBar
  · exact hs.execPhase
  · exact hs.execXfence
  · exact hs.execWaitseq
  · exact hs.execQopen
  · exact hs.execQret
  · exact hs.execQwait
  · exact hs.execQread
  · exact hs.execEnq
  · exact hs.execDeq
  · exact hs.execDeqNb
  · exact hs.execDeparm
  · exact hs.execDepdec
  · exact hs.execCpy
  · exact hs.execChead
  · exact hs.execCtail
  · exact hs.execTmove
  · exact hs.execColl
  · exact hs.execTsload
  · exact hs.execTsevict
  · exact hs.execRelayout
  · exact hs.execOclaim
  · exact hs.execOrelease
  · exact hs.execAclaim
  · exact hs.execArelease
  · exact hs.execMloop
  · exact hs.execMloopWait
  · exact hs.execAread
  · exact hs.execAzero
  · exact hs.execCsrr
  · exact hs.execCsrw
  · exact hs.execTrap
  · exact hs.execRft
  · exact hs.execBkpt
  · exact hs.execRgn
  · exact hs.execFebind
  · exact hs.execNop
  · exact hs.execIcinv
  · exact hs.execEmWrite
  · exact hs.execFflagsAccess
  · exact hs.execDbgout15Write
  · exact hs.execDbgin15Read
  · exact hs.execWatchWrite
  · exact hs.set
  · exact hs.execLongLatencyResult
  · exact hs.execDrainComplete
  · exact hs.execRedAck
  · exact hs.execFaultServiceEnd
  · exact hs.execSideLogReplay
  · exact hs.execPortAssignment
  · exact hs.execLaunchSubmit
  · exact hs.execTeamStart
  · exact hs.execWaitSwap
  · exact hs.execSchedulingBoundary
  · exact hs.execSliceEnd
  · exact hs.execSliceGrant
  · exact hs.execPreemptionRequest
  · exact hs.execReachResume
  · exact hs.execEvacuate
  · exact hs.execReachRecordWrite
  · exact hs.execAllocatorMode
  · exact hs.execCompactorMove
  · exact hs.execBindRequest
  · exact hs.execQueueInstantiate
  · exact hs.execQueueDestroy
  · exact hs.execChannelAssign
  · exact hs.execCounterAssign
  · exact hs.execOneShotCompletion
  · exact hs.execRecordTake
  · exact hs.execRecordCompletion
  · exact hs.execCollCompletion
  · exact hs.execBasinMove
  · exact hs.execUnadmittedAdmit
  · exact hs.execWeirReturn
  · exact hs.execWeirBorrow
  · exact hs.execRemoteTaskMessage
  · exact hs.set
  · exact hs.execDredgerBegin
  · exact hs.execSlabCommit
  · exact hs.execDredgerComplete
  · exact hs.execKStep
  · exact hs.execRingEntryAcquire
  · exact hs.execWatchdog
  · exact hs.execInfieldTest
  · exact hs.execFabricRecovery
  · exact hs.execRecoveryWindowEnd
  · exact hs.execPteUpdate
  · exact hs.execShootdown
  · exact hs.execHalt
  · exact hs.execResume
  · exact hs.execWritecode
  · exact hs.execInval
  · exact hs.execReadState
  · exact hs.execWriteState
  · exact hs.execReadtile
  · exact hs.execReadout
  · exact hs.execWritein
  · exact hs.execReplayStart
  · exact hs.execFlitReplay
  · exact hs.execRouteTableWrite
  · exact hs.execFabricMessage
  · exact hs.execRemoteCall
  · exact hs.execRdmaWrite
  · exact hs.execRdmaRead
  · exact hs.execWharfReply
  · exact hs.execDeviceReset
  · exact hs.execAttestationRequest
  · exact hs.execMigrationKeyTransfer
  · exact hs.execSecurityAlarm
  · exact hs.execManagementRead
  · exact hs.execFirmwareUpdate
  · exact hs.execPowerCapSet
  · exact hs.set
  · exact hs.execThermalLimit
  · exact hs.execSoftError
  · exact hs.execLaunchRemoval
  · exact hs.execGroupResume
  · exact hs.execRecoveredWithinWindow
  · exact hs.execKeyIdAssignment
  · exact hs.execTraceBufferDrain

/-! `Machine/Fetch`. -/

theorem Group.EmLive.blankE {tick u} {g : Group} (hg : g.EmLive) : (Group.blankE tick u g).EmLive := .set (hg.foldl fun _ _ hg1 => hg1.setL)

theorem Group.EmLive.view {tick u} {g : Group} (hg : g.EmLive) :
    (Group.view tick u g).EmLive :=
  .set (.foldl (hg.foldl fun _ _ hg1 => hg1.setL) fun _ _ hg1 => hg1.set)

theorem Group.EmLive.unviewL {g : Group} {v : Group} {x : Group} {wrote r} (hx : x.EmLive) :
    (g.unviewL v x wrote r).EmLive :=
  .ite hx.set hx.setL

theorem Group.EmLive.unviewS {g : Group} {v : Group} {x : Group} {wrote r} (hx : x.EmLive) :
    (g.unviewS v x wrote r).EmLive :=
  .ite hx.set hx.set

theorem Group.EmLive.unview {tick} {g : Group} {v : Group} {x : Group} {u acts} (hx : x.EmLive) :
    (Group.unview tick g v x u acts).EmLive :=
  .set (.foldl (hx.foldl fun _ _ hg1 => hg1.unviewL) fun _ _ hg1 => hg1.unviewS)

theorem Group.EmLive.promised {g : Group} {i acts} {x : Group} (hx : x.EmLive) :
    (g.promised i acts x).EmLive := by
  unfold Group.promised
  split
  · exact hx
  · exact .ite hx hx.writeL.set
  · exact .ite hx hx.set.set
  · exact hx

theorem Group.EmLive.retired1 {tick} {g : Group} {i acts} {x : Group} (hx : x.EmLive) :
    (Group.retired1 tick g i acts x).EmLive :=
  hx.promised.set.set.set

theorem State.EmLive.packets {s : State} {k ps pc} (hs : s.EmLive) : (s.packets k ps pc).EmLive := hs.foldl fun _ _ hs1 => hs1.packet

theorem State.EmLive.emPackets {s : State} (hs : s.EmLive) :
    s.emPackets.EmLive :=
  hs.foldlGroups hs.groups.filter fun _ _ hs1 _ => hs1.emPacket

theorem State.EmLive.watchStep {s : State} {k} {g : Group} (hs : s.EmLive) :
    (s.watchStep k g).EmLive := by
  unfold State.watchStep
  split
  · exact hs
  next hq =>
    split
    · exact hs
    · split
      · exact .trapGroup (hs.onGroup fun _ _ => (hs.group? _ hq).set) ((hs.group? _ hq).set)
      · exact .ite (hs.trapGroup (hs.group? _ hq)) hs

theorem State.EmLive.afterRetire {s : State} {k} {g : Group} {i acts lanes waited} (hs : s.EmLive) (hg : g.EmLive) :
    (s.afterRetire k g i acts lanes waited).EmLive := by
  unfold State.afterRetire
  extract_lets x s1 _ _ s2 s3 s4 t
  have hx : x.EmLive := hg.getD hs.group?
  have hs1 : s1.EmLive := hs.onGroup fun _ ha => ha.retired1
  have hs2 : s2.EmLive := .ite hs1.packets (hs1.foldl fun _ _ hs5 => hs5.owe)
  have hs3 : s3.EmLive := hs2.emPacket
  have hs4 : s4.EmLive := .ite hs3.endRun hs3
  have ht : t.EmLive := hs4.watchStep
  split
  · exact .ite ht.afterTrap ht
  · exact ht

theorem Group.EmLive.enterAt {i} {g : Group} (hg : g.EmLive) :
    (Group.enterAt i g).EmLive := by
  unfold Group.enterAt
  split
  · exact hg
  · exact .ite hg (.ite hg.set hg)

theorem State.EmLive.joinReads {s : State} {u} (hs : s.EmLive) :
    (s.joinReads u).EmLive :=
  .onG (hs.foldl fun _ _ hs1 => hs1.joinBy) fun _ ha => ha.set

theorem State.EmLive.after {old : State} {v : Group} {i} {s : State} (hold : old.EmLive) (hs : s.EmLive) :
    (old.after v i s).EmLive := by
  unfold State.after
  extract_lets g _ s1
  have hg : g.EmLive := hold.turn
  have hs1 : s1.EmLive := hs.onGroup fun _ ha => .ite ha ha.unview
  split
  · exact hs1
  · split
    · exact hs1.packet
    · split
      · exact hs1.afterRetire hg
      · exact hs1.afterTrap
      · exact .ite hs1.parkRun hs1

theorem State.EmLive.run1 {s : State} {i} (hs : s.EmLive) :
    Out.EmLive (s.run1 i) := by
  unfold State.run1
  extract_lets s1 v
  have hs1 : s1.EmLive := hs.onG fun _ ha => ha.blankE
  have hv : v.EmLive := hs1.turn.view
  split
  next hq => exact hs1.after ((State.EmLive.exec (hs1.onG fun _ _ => hv)).of_eq hq)
  · exact State.EmLive.exec (hs1.onG fun _ _ => hv)

theorem Group.EmLive.mirror {g : Group} {i acts} {l : Group} {f : Group} (hl : l.EmLive) (hf : f.EmLive) :
    (g.mirror i acts l f).EmLive :=
  .set (.set (.ite hl.set (.foldl (hf.foldl fun _ _ hg1 => hg1.writeL) fun _ _ hg1 => hg1.set)))

theorem State.EmLive.bring {s : State} {g : Group} {i fk} (hs : s.EmLive) :
    (s.bring g i fk).EmLive := by
  unfold State.bring
  split
  next hq hq1 =>
    extract_lets _ s1 s2 s3 s4
    have hs1 : s1.EmLive := hs.onGroup fun _ ha => .mirror (hs.group? _ hq) ha
    have hs2 : s2.EmLive := hs1.onGroup fun _ ha => ha.set
    have hs3 : s3.EmLive := hs.onGroup fun _ ha => ha.set
    have hs4 : s4.EmLive := hs3.onGroup fun _ ha => ha.set
    split
    · exact .ite hs hs.endGroup
    · split
      · exact hs2.afterRetire (hs.group? _ hq1)
      · exact .afterTrap (hs3.trapGroup ((hs.group? _ hq1).set))
      · exact .afterTrap (hs4.trapGroup ((hs.group? _ hq1).set))
      · exact hs.parkRun
      · exact hs
  · exact hs

theorem State.EmLive.mismatch {s : State} {twin : Group} (hs : s.EmLive) :
    (s.mismatch twin).EmLive := by
  unfold State.mismatch
  extract_lets g _ _ _ s1
  have hg : g.EmLive := hs.turn
  have hs1 : s1.EmLive := .onGroup (hs.onGroup fun _ ha => ha.set.set) fun _ ha => ha.set.set
  split
  · exact hs.uncontain
  · split
    · exact hs1.set.set
    · split
      · exact hs.uncontain
      · exact .restartAt (.restartAt (.onGroup (hs.onGroup fun _ ha => ha.set) fun _ ha => ha.set))

theorem State.EmLive.meet {s : State} {w i} (hs : s.EmLive) :
    Out.EmLive (s.meet w i) := by
  unfold State.meet
  split
  · exact hs.run1
  · split
    · split
      · extract_lets s1
        have hs1 : s1.EmLive := hs.onPair fun _ ha1 => ha1.set
        split
        next hq4 => exact (hs1.run1.of_eq hq4).bring
        · exact hs1.run1
      · exact hs.mismatch
    · exact hs.onG fun _ ha => ha.set

theorem State.EmLive.trapNow {s : State} {cause info lanes} (hs : s.EmLive) :
    Out.EmLive (s.trapNow cause info lanes) :=
  (hs.trapGroup hs.turn).afterTrap

theorem State.EmLive.carryOut {s : State} {w i} (hs : s.EmLive) :
    Out.EmLive (s.carryOut w i) := by
  unfold State.carryOut
  extract_lets s1 s2
  have hs1 : s1.EmLive := hs.onG fun _ ha => ha.settleTouched
  have hs2 : s2.EmLive := hs1.joinReads
  split
  · exact hs1.trapNow
  · exact .ite hs2.meet hs2.run1

theorem State.EmLive.issueInstr {s : State} {w i} (hs : s.EmLive) :
    Out.EmLive (s.issueInstr w i) := by
  unfold State.issueInstr
  extract_lets s1
  have hs1 : s1.EmLive := hs.onG fun _ ha => ha.enterAt
  split
  · exact hs1.run1
  · split
    · exact hs1.trapNow
    · split
      · split
        next hq3 => exact hs1.after (hs1.waitOn.of_eq hq3)
        · exact hs1.waitOn
      · exact .ite hs1.stall (.ite hs1.consume hs1.carryOut)

theorem State.EmLive.issue {s : State} (hs : s.EmLive) :
    Out.EmLive s.issue := by
  unfold State.issue
  split
  · exact hs.uncontain
  · split
    · exact hs.trapNow
    · exact .ite hs.trapNow hs.suspend
    · exact hs.recordFault.onG fun _ ha => ha.set
    · exact hs.consume
    · extract_lets s1
      have hs1 : s1.EmLive := hs.fetched
      split
      · exact hs1.issueInstr
      · exact hs1.trapNow

theorem State.EmLive.completeWait {s : State} {i} (hs : s.EmLive) : (s.completeWait i).EmLive := by
  unfold State.completeWait
  extract_lets g lanes s₁ f t
  have hs₁ : s₁.EmLive := hs.setTurn hs.turn.set
  have ht : t.EmLive := hs₁.afterRetire hs.turn
  clear_value f
  split
  next k =>
    split
    next f₁ hq =>
      have hf₁ : f₁.EmLive := ht.group? f₁ hq
      have ht₁ : (t.onGroup k (Group.mirror g i (g.acts (guardOf i)) s₁.g)).EmLive := ht.onGroup fun _ hx => hs₁.turn.mirror hx
      exact State.EmLive.afterRetire (ht₁.onGroup fun _ hx => hx.set) hf₁
    · exact ht
  · exact ht

theorem State.EmLive.trapWait {s : State} {cause info lanes pc} (hs : s.EmLive) : (s.trapWait cause info lanes pc).EmLive := by
  unfold State.trapWait
  extract_lets g f s₁ s₂
  have hs₁ : s₁.EmLive := hs.setTurn hs.turn.set
  have hs₂ : s₂.EmLive := (hs₁.trapGroup hs₁.turn).afterTrap
  have hf : ∀ x ∈ f, x.EmLive := emLive_bind fun _ _ => hs.group?
  clear_value f
  split
  next f₁ =>
    have hf₁ : f₁.EmLive := hf f₁ rfl
    refine .ite ?_ hs₂
    exact State.EmLive.afterTrap (State.EmLive.trapGroup (hs₂.onGroup fun _ hg => hg.set) hf₁.set)
  · exact hs₂

theorem State.EmLive.closeRun {s : State} (hs : s.EmLive) : s.closeRun.EmLive := .ite hs hs.endRun

theorem State.EmLive.resolveWait {s : State} (hs : s.EmLive) :
    Out.EmLive s.resolveWait := by
  unfold State.resolveWait
  split
  · exact hs.trapWait
  · exact hs.trapWait
  · exact hs.joinReads.onG fun _ ha => ha.set
  · split
    · split
      next hq5 => exact State.EmLive.closeRun ((State.EmLive.issue (hs.onG fun _ ha => ha.set)).of_eq hq5)
      · exact State.EmLive.issue (hs.onG fun _ ha => ha.set)
    · split
      · exact hs.completeWait
      · exact hs.completeWait
  · exact hs

/-! `Machine/Advance`. -/

theorem Group.EmLive.retry {g : Group} (hg : g.EmLive) : g.retry.EmLive := .ite hg.set hg

theorem State.EmLive.retryOthers {s : State} (hs : s.EmLive) :
    s.retryOthers.EmLive :=
  hs.setGroups hs.turn (hs.others.map fun _ hg => hg.retry)

theorem State.EmLive.claimsServed {s : State} (hs : s.EmLive) :
    s.claimsServed.EmLive :=
  hs.foldl fun _ _ hs1 => hs1.foldl fun _ _ hs2 => hs2.tilesFreed

theorem State.EmLive.finish {old : State} {s : State} (hold : old.EmLive) (hs : s.EmLive) :
    (old.finish s).EmLive :=
  (((((hold.lateHalts hs.emPackets.paid).claimsServed).repartition).settleRoutes).resetQueued).elapse

theorem State.EmLive.settled {old : State} {s : State} (hold : old.EmLive) (hs : s.EmLive) :
    (old.settled s).EmLive :=
  hold.finish (hs.mapGroups fun _ ha => ha.retry)

theorem State.EmLive.advanced {old : State} {a} (hold : old.EmLive) (ha : Out.EmLive a) : Out.EmLive (advanced old a) :=
  match a with
  | .next _ => State.EmLive.finish hold (.ite ha (State.EmLive.retryOthers ha))
  | .fault _ | .refused _ => trivial

theorem State.EmLive.issueStep {s : State} (hs : s.EmLive) : Out.EmLive s.issueStep := hs.advanced hs.issue

theorem State.EmLive.resolveStep {s : State} (hs : s.EmLive) : Out.EmLive s.resolveStep := hs.advanced hs.resolveWait

theorem State.EmLive.changedBy {s : State} {i} (hs : s.EmLive) :
    ∀ t ∈ s.changedBy i, t.EmLive := by
  unfold State.changedBy
  split
  next hq => exact emLive_ite (by simp) (emLive_some (hs.exec.of_eq hq))
  · exact by simp

theorem State.EmLive.engineStep {s : State} (hs : s.EmLive) :
    ∀ t ∈ s.engineStep, t.EmLive :=
  emLive_findSome fun _ _ hm => hs.changedBy _ hm

theorem State.EmLive.portStep {s : State} (hs : s.EmLive) : ∀ t ∈ s.portStep, t.EmLive := emLive_findSome fun _ _ hm => hs.changedBy _ hm

theorem State.EmLive.happen {s : State} {i} (hs : s.EmLive) :
    Out.EmLive (s.happen i) := by
  unfold State.happen
  split
  next hq => exact hs.settled (hs.exec.of_eq hq)
  · exact hs.exec

theorem State.EmLive.takeTurn {s : State} (hs : s.EmLive) : Out.EmLive s.takeTurn := .ite hs.resolveStep (.ite hs.issueStep (hs.settled hs))

theorem State.EmLive.setAway {s : State} {a live} (hs : s.EmLive) : (s.setAway a live).EmLive := .ite hs.set hs.set.targetEnded

theorem State.EmLive.given {s : State} {a : Input} (hs : s.EmLive) (ha : ∀ c, a = .context c → c.EmLive) : Out.EmLive (s.given a) :=
  match a with
  | .event _ => hs.happen
  | .turn _ => hs.turnTo.takeTurn
  | .lateLoad _ => hs.settled (hs.onGroup fun _ hg => hg.set)
  | .loadArrives _ => hs.settled hs.loadArrives
  | .granule none _ _ => hs.settled hs.oneShotGranule
  | .collGranule _ _ => hs.settled hs.collGranule
  | .granule (some _) _ _ => hs.settled hs.recordGranule
  | .raiseMin _ _ => hs.settled hs.set
  | .watchdogLimit _ => hs.settled hs.set
  | .testInterval _ => hs.settled hs.set
  | .contextArea _ _ => hs.settled hs.set
  | .context c => hs.settled (hs.setContexts (emLive_cons (ha c rfl) (emLive_filter hs.contexts)))
  | .farRoot _ _ _ _ => hs.settled hs.set
  | .landed _ => hs.settled hs.landed
  | .dropped _ _ => hs.settled hs.dropResponse
  | .away _ _ => hs.settled hs.setAway
  | .threadNumber _ _ _ _ => hs.settled hs.set

theorem State.EmLive.onward {s : State} (hs : s.EmLive) :
    Out.EmLive s.onward := by
  unfold State.onward
  split
  · exact hs.turnTo.resolveStep
  · split
    next hq1 => exact hs.settled (hs.engineStep _ hq1)
    · split
      · exact hs.turnTo.issueStep
      · split
        next hq3 => exact hs.settled (hs.portStep _ hq3)
        · exact .ite hs.issueStep (hs.settled hs)

theorem State.EmLive.asleep {s : State} (hs : s.EmLive) : Out.EmLive s.asleep := by
  unfold State.asleep
  split
  · exact hs.elapse
  next x xs hq =>
    obtain ⟨ht, hx⟩ := hs.takeInput hq
    exact .ite (ht.given hx) ht.elapse

theorem State.EmLive.awake {s : State} (hs : s.EmLive) : Out.EmLive s.awake := by
  unfold State.awake
  split
  next x xs hq =>
    obtain ⟨ht, hx⟩ := hs.takeInput hq
    exact ht.given hx
  · exact .ite hs.issueStep hs.onward

/-! `Machine/Step`. -/

theorem State.EmLive.step {s : State} (hs : s.EmLive) : Out.EmLive (step s) := .ite hs.asleep hs.awake

end Lanes

theorem State.emLive_iff {s : State} : s.EmLive ↔ EmLiveAll s.groups ∧ (∀ c ∈ s.contexts, EmLiveAll c.groups) ∧
    ∀ c, .context c ∈ s.inputs → EmLiveAll c.groups :=
  ⟨fun h => ⟨h.groups, h.contexts, h.inputs⟩, fun ⟨hg, hc, hi⟩ => ⟨hg s.g List.mem_cons_self, (List.forall_mem_cons.1 hg).2, hc, hi⟩⟩

/-- Settles O59, by the lemma about one step: an operation leaves EM, narrows it, or sets it to live lanes (R9). -/
theorem activeLanesStayLive : Obligations.ActiveLanesStayLive := by
  intro s t hs e
  have ht : t.EmLive := (State.EmLive.step (State.emLive_iff.2 hs)).of_eq e
  exact State.emLive_iff.1 ht

end Sys2Proof.Machine
end

section
/-! PROOFS. Trap entry and return, with the results in flight that they bring in (R17, R21, R115, R116; log 23, 27, 28). -/
namespace Sys2Proof.Machine
open Sys2Proof.Safety

/-! Results in flight write registers, and nothing else of a group. -/

/-- `x` with the registers of `g` put back. -/
def Group.withRegisters (x g : Group) : Group := { x with v := g.v, e := g.e, eWritten := g.eWritten, s := g.s }

theorem Group.writeL_withRegisters (g : Group) (m : Mask) (r : LReg) (f : Nat → Word) : (g.writeL m r f).withRegisters g = g :=
  congrArg (fun z => z.withRegisters g) (g.writeL_rest m r f)

theorem Group.settle_withRegisters (tick idx : Nat) (p : Pend) (g : Group) : (g.settle tick idx p).withRegisters g = g := by
  unfold Group.settle
  split
  · split
    · rfl
    · split
      · rfl
      · rfl
  · exact g.writeL_withRegisters _ _ _

theorem Group.settleAll_withRegisters (tick : Nat) (g : Group) :
    { (g.settleAll tick).withRegisters g with inflight := g.inflight } = g := by
  have h : (g.inflight.foldr (fun p (r : Group × Nat) => (r.1.settle tick r.2 p, r.2 + 1)) (g, 0)).1.withRegisters g = g := by
    refine List.foldrRecOn (motive := fun r : Group × Nat => r.1.withRegisters g = g) g.inflight _ rfl fun r hr p _ => ?_
    exact (congrArg (fun z => z.withRegisters g) (r.1.settle_withRegisters tick r.2 p)).trans hr
  exact congrArg (fun z : Group => { z with inflight := g.inflight }) h

@[simp] theorem Group.settleAll_key (tick : Nat) (g : Group) : (g.settleAll tick).key = g.key := (congrArg Group.key (g.settleAll_withRegisters tick) :)
@[simp] theorem Group.settleAll_gid (tick : Nat) (g : Group) : (g.settleAll tick).gid = g.gid :=
  (congrArg Group.gid (g.settleAll_withRegisters tick) :)
@[simp] theorem Group.settleAll_pendS (tick : Nat) (g : Group) : (g.settleAll tick).pendS = g.pendS :=
  (congrArg Group.pendS (g.settleAll_withRegisters tick) :)
@[simp] theorem Group.settleAll_heldOps (tick : Nat) (g : Group) : (g.settleAll tick).heldOps = g.heldOps :=
  (congrArg Group.heldOps (g.settleAll_withRegisters tick) :)
@[simp] theorem Group.settleAll_em (tick : Nat) (g : Group) : (g.settleAll tick).em = g.em := (congrArg Group.em (g.settleAll_withRegisters tick) :)
@[simp] theorem Group.settleAll_live (tick : Nat) (g : Group) : (g.settleAll tick).live = g.live :=
  (congrArg Group.live (g.settleAll_withRegisters tick) :)
@[simp] theorem Group.settleAll_trapMode (tick : Nat) (g : Group) : (g.settleAll tick).trapMode = g.trapMode :=
  (congrArg Group.trapMode (g.settleAll_withRegisters tick) :)
@[simp] theorem Group.settleAll_trapEm (tick : Nat) (g : Group) : (g.settleAll tick).trapEm = g.trapEm :=
  (congrArg Group.trapEm (g.settleAll_withRegisters tick) :)
@[simp] theorem Group.settleAll_retired (tick : Nat) (g : Group) : (g.settleAll tick).retired = g.retired :=
  (congrArg Group.retired (g.settleAll_withRegisters tick) :)

/-- With nothing in flight nothing comes in. -/
theorem Group.settleAll_of_idle (tick : Nat) {g : Group} (h : g.inflight = []) : g.settleAll tick = g := by
  unfold Group.settleAll
  rw [h, List.foldr_nil, ← h]

/-! The trap bank. -/

theorem Group.swapBank_v (x : Group) (i : Nat) (h : i < 56) :
    x.swapBank.v[i] = if 48 ≤ i then (x.bankV[i - 48]?).getD x.v[i] else x.v[i] := Vector.getElem_ofFn h

theorem Group.swapBank_s (x : Group) (i : Nat) (h : i < 64) :
    x.swapBank.s[i] = if 56 ≤ i then (x.bankS[i - 56]?).getD x.s[i] else x.s[i] := Vector.getElem_ofFn h

theorem Group.swapBank_bankV (x : Group) (i : Nat) (h : i < 8) : x.swapBank.bankV[i] = (x.v[48 + i]?).getD x.bankV[i] :=
  Vector.getElem_ofFn h

theorem Group.swapBank_bankS (x : Group) (i : Nat) (h : i < 8) : x.swapBank.bankS[i] = (x.s[56 + i]?).getD x.bankS[i] :=
  Vector.getElem_ofFn h

theorem Group.lreg_bank (x : Group) (i : Nat) (h : i < 8) : x.lreg (BitVec.ofNat 6 (48 + i)) = x.v[48 + i] := by
  have hm : (BitVec.ofNat 6 (48 + i)).toNat = 48 + i := by simp; omega
  have h56 : (BitVec.ofNat 6 (48 + i)).toNat < 56 := by omega
  unfold Group.lreg
  rw [dif_pos h56]
  simp only [hm]

theorem Group.sreg_bank (x : Group) (i : Nat) (h : i < 8) : x.sreg (BitVec.ofNat 6 (56 + i)) = x.s[56 + i] := by
  have hm : (BitVec.ofNat 6 (56 + i)).toNat = 56 + i := by simp; omega
  unfold Group.sreg
  simp only [hm]

theorem Group.lreg_swapBank_low (x : Group) {r : LReg} (h : r.toNat < 48 ∨ 56 ≤ r.toNat) : x.swapBank.lreg r = x.lreg r := by
  unfold Group.lreg
  split
  next hr =>
    rw [x.swapBank_v _ hr]
    exact if_neg (by omega)
  · simp only [Group.swapBank_e]

theorem Group.lreg_swapBank_bank (x : Group) (i : Nat) (h : i < 8) : x.swapBank.lreg (BitVec.ofNat 6 (48 + i)) = x.bankV[i] := by
  rw [Group.lreg_bank _ _ h, x.swapBank_v]
  simp [h]

theorem Group.bankV_swapBank (x : Group) (i : Nat) (h : i < 8) : x.swapBank.bankV[i] = x.lreg (BitVec.ofNat 6 (48 + i)) := by
  have h56 : 48 + i < 56 := by omega
  rw [x.swapBank_bankV _ h, x.lreg_bank _ h]
  simp [h56]

theorem Group.sreg_swapBank_low (x : Group) {r : SReg} (h : r.toNat < 56) : x.swapBank.sreg r = x.sreg r := by
  unfold Group.sreg
  rw [x.swapBank_s]
  exact if_neg (by omega)

theorem Group.sreg_swapBank_bank (x : Group) (i : Nat) (h : i < 8) : x.swapBank.sreg (BitVec.ofNat 6 (56 + i)) = x.bankS[i] := by
  rw [Group.sreg_bank _ _ h, x.swapBank_s]
  simp [h]

theorem Group.bankS_swapBank (x : Group) (i : Nat) (h : i < 8) : x.swapBank.bankS[i] = x.sreg (BitVec.ofNat 6 (56 + i)) := by
  have h64 : 56 + i < 64 := by omega
  rw [x.swapBank_bankS _ h, x.sreg_bank _ h]
  simp [h64]

/-- The trap bank comes in, and what it stands in for goes there (R21 step 4). -/
theorem Group.seenAs_swapBank (x : Group) : SeenAs x true x.swapBank where
  low _ h := x.lreg_swapBank_low h
  high := x.lreg_swapBank_bank
  bank := x.bankV_swapBank
  slow _ h := x.sreg_swapBank_low h
  shigh := x.sreg_swapBank_bank
  sbank := x.bankS_swapBank
  rest := by simp

/-- A group with the registers and the flags of another is seen as that one. -/
theorem seenAs_congr {x y z : Group} {swapped : Bool} (h : SeenAs x swapped y)
    (registers : z.v = y.v ∧ z.e = y.e ∧ z.s = y.s ∧ z.bankV = y.bankV ∧ z.bankS = y.bankS)
    (rest : z.p = y.p ∧ z.live = y.live ∧ z.frm = y.frm ∧ z.fflags = y.fflags ∧ z.qw = y.qw ∧ z.domain = y.domain ∧ z.regpc = y.regpc
      ∧ z.stack = y.stack ∧ z.dbgctl = y.dbgctl ∧ z.dbgout = y.dbgout ∧ z.dbgin = y.dbgin ∧ z.tasklink = y.tasklink ∧ z.held = y.held) :
    SeenAs x swapped z := by
  obtain ⟨hv, he, hs, hbv, hbs⟩ := registers
  have hl : ∀ r, z.lreg r = y.lreg r := fun r => by
    unfold Group.lreg
    rw [hv, he]
  have hu : ∀ r, z.sreg r = y.sreg r := fun r => by
    unfold Group.sreg
    rw [hs]
  obtain ⟨low, high, bank, slow, shigh, sbank, hrest⟩ := h
  refine ⟨?_, ?_, ?_, ?_, ?_, ?_, ?_⟩
  · exact fun r hr => (hl r).trans (low r hr)
  · exact fun i hi => (hl _).trans (high i hi)
  · simpa only [hbv] using bank
  · exact fun r hr => (hu r).trans (slow r hr)
  · exact fun i hi => (hu _).trans (shigh i hi)
  · simpa only [hbs] using sbank
  · simpa only [rest] using hrest

theorem seenAs_refl (x : Group) : SeenAs x false x where
  low _ _ := rfl
  high _ _ := rfl
  bank _ _ := rfl
  slow _ _ := rfl
  shigh _ _ := rfl
  sbank _ _ := rfl
  rest := ⟨rfl, rfl, rfl, rfl, rfl, rfl, rfl, rfl, rfl, rfl, rfl, rfl, rfl⟩

/-! Trap entry. -/

/-- The group in turn becomes `x`. -/
theorem State.onGroup_turn (s : State) (x : Group) : (s.onGroup s.g.key fun _ => x)
    = { s with g := x, others := s.others.map fun y => if y.key = s.g.key then x else y } := by
  simp [State.onGroup, State.mapGroups]

theorem State.onGroup_turn_sameOthers (s : State) {x : Group} (h : x.key = s.g.key) :
    (s.others.map fun y => if y.key = s.g.key then x else y).filter (fun y => y.key != s.g.key)
      = s.others.filter fun y => y.key != s.g.key := by
  induction s.others with
  | nil => rfl
  | cons y ys ih =>
    by_cases hy : y.key = s.g.key
    · simpa [hy, h] using ih
    · simpa [hy] using ih

/-- TRAP and BKPT take their trap with the lanes of EM (R115). -/
theorem exec_trapU {imm : BitVec 16} {i : Instr} {cause : Nat} (hi : (i, cause) ∈ [(Instr.trap imm, 0x18), (Instr.bkpt imm, 0x15)])
    (s : State) : exec i s = .next (s.trapGroup s.g cause (BitVec.ofNat 64 imm.toNat) s.g.em s.g.pc) := by
  rw [BitVec.ofNat_toNat]
  obtain h | h : (i, cause) = (.trap imm, 0x18) ∨ (i, cause) = (.bkpt imm, 0x15) := by simpa using hi
  · obtain ⟨rfl, rfl⟩ := Prod.mk.inj h
    rfl
  · obtain ⟨rfl, rfl⟩ := Prod.mk.inj h
    rfl

theorem Group.entryWaits_of_idle {g : Group} (hp : g.pendS = []) (hh : g.heldOps = []) : g.entryWaits = false := by
  simp [Group.entryWaits, hp, hh]

/-- The group that a trap in a handler leaves (R21). -/
def Group.frozenInHandler (g : Group) (tick : Nat) : Group := { g.unwait with halted := some .frozen, haltTick := tick, last := .trapped }

theorem State.trapGroup_inHandler {s : State} (h : s.g.trapMode = true) (hw : s.g.wait = none) (cause : Nat) (info : Word) (m : Mask)
    (pc : Word) : s.trapGroup s.g cause info m pc
      = (s.onGroup s.g.key fun _ => s.g.frozenInHandler s.tick).report .halted (s.g.frozenInHandler s.tick) [cause, s.g.pc.toNat] := by
  rw [State.trapGroup_enters _ _ _ _ (.inl h) hw]
  obtain ⟨-, e⟩ | ⟨e, -⟩ | ⟨e, -⟩ := trapEntry_cases (s.desc s.g.launch).trapVec s.tick s.g cause info m pc
  · rw [e]
    rfl
  · simp [h] at e
  · simp [h] at e

/-- The group that a trap without a handler leaves (R21). -/
def Group.haltedByTrap (g : Group) (tick cause : Nat) (info : Word) (m : Mask) (pc : Word) : Group :=
  { (g.settleAll tick).unwait.recordTrap cause info m pc with pc := pc, halted := some .trap, haltTick := tick }

theorem State.trapGroup_noHandler {s : State} (h : s.g.trapMode = false) (hv : s.gdesc.trapVec = 0) (hp : s.g.pendS = [])
    (hh : s.g.heldOps = []) (hf : Free s) (cause : Nat) (info : Word) (m : Mask) (pc : Word) : s.trapGroup s.g cause info m pc
      = (s.onGroup s.g.key fun _ => s.g.haltedByTrap s.tick cause info m pc).report .halted (s.g.haltedByTrap s.tick cause info m pc)
        [cause, pc.toNat] := by
  obtain ⟨hb, hw⟩ := hf
  rw [State.trapGroup_enters _ _ _ _ (.inr (Group.entryWaits_of_idle hp hh)) hw]
  obtain ⟨e, -⟩ | ⟨-, -, e⟩ | ⟨-, e, -⟩ := trapEntry_cases (s.desc s.g.launch).trapVec s.tick s.g cause info m pc
  · simp [h] at e
  · rw [e]
    simp [Group.trapped, hb, Group.haltedByTrap]
  · exact absurd hv e

theorem Group.seenAs_haltedByTrap (g : Group) (tick cause : Nat) (info : Word) (m : Mask) (pc : Word) :
    SeenAs (g.settleAll tick) false (g.haltedByTrap tick cause info m pc) :=
  seenAs_congr (seenAs_refl _) (by simp [Group.haltedByTrap]) (by simp [Group.haltedByTrap])

/-- The wharf cores hear of the group in turn, and only it changes. -/
theorem State.reportHalt_onlyTurn (s : State) {x : Group} (hk : x.key = s.g.key) (hgid : x.gid = s.g.gid) (d : List Nat) :
    let t := (s.onGroup s.g.key fun _ => x).report .halted x d
    t.g = x ∧ SameOthers s t ∧ t = { s with g := t.g, others := t.others, events := t.events }
      ∧ ∃ e, t.events = s.events ++ [e] ∧ e.kind = .halted ∧ e.gid = s.g.gid := by
  rw [s.onGroup_turn]
  exact ⟨rfl, s.onGroup_turn_sameOthers hk, rfl, _, rfl, rfl, hgid⟩

/-- The group that a trap leaves at the handler. -/
def Group.atHandler (g : Group) (tick cause : Nat) (info : Word) (m : Mask) (pc vec : Word) : Group :=
  { ((g.settleAll tick).unwait.recordTrap cause info m pc).swapBank with trapMode := true, pc := vec &&& ~~~3#64 }

theorem Group.seenAs_atHandler (g : Group) (tick cause : Nat) (info : Word) (m : Mask) (pc vec : Word) :
    SeenAs (g.settleAll tick) true (g.atHandler tick cause info m pc vec) := by
  have swapped : SeenAs (g.settleAll tick) true (g.settleAll tick).swapBank := Group.seenAs_swapBank _
  refine seenAs_congr swapped ⟨?_, ?_, ?_, ?_, ?_⟩ (by simp [Group.atHandler])
  · simp [Group.atHandler, Group.swapBank]
  · simp [Group.atHandler]
  · simp [Group.atHandler, Group.swapBank]
  · simp [Group.atHandler, Group.swapBank]
  · simp [Group.atHandler, Group.swapBank]

theorem State.trapGroup_mayEnter {s : State} (h : MayEnter s) (cause : Nat) (info : Word) (m : Mask) (pc : Word) :
    s.trapGroup s.g cause info m pc = s.onGroup s.g.key fun _ => s.g.atHandler s.tick cause info m pc s.gdesc.trapVec := by
  obtain ⟨outside, handler, hp, hh, hb, hw⟩ := h
  rw [State.trapGroup_enters _ _ _ _ (.inr (Group.entryWaits_of_idle hp hh)) hw]
  obtain ⟨e, -⟩ | ⟨-, e, -⟩ | ⟨-, -, e⟩ := trapEntry_cases (s.desc s.g.launch).trapVec s.tick s.g cause info m pc
  · simp [outside] at e
  · exact absurd e handler
  · rw [e]
    simp [Group.trapped, hb, State.gdesc, Group.atHandler]

/-- Settles O20: the three ways of trap entry, each as the group that it leaves. -/
theorem trapEntry_settled : Obligations.TrapEntry := by
  refine ⟨?enters, ?halts⟩
  case enters =>
    intro imm s i cause hi h
    refine ⟨_, (exec_trapU hi s).trans (congrArg _ ((State.trapGroup_mayEnter h _ _ _ _).trans (s.onGroup_turn _))), ?_⟩
    rw [← and_not_three]
    have key : (s.g.atHandler s.tick cause (BitVec.ofNat 64 imm.toNat) s.g.em s.g.pc s.gdesc.trapVec).key = s.g.key := by
      simp [Group.atHandler]
    refine ⟨⟨?_, ?_, ?_, ?_, ?_⟩, rfl, rfl, ?_, s.g.seenAs_atHandler s.tick _ _ _ _ _, ?_, ?_, rfl, s.onGroup_turn_sameOthers key, fun _ => rfl⟩
    all_goals simp [Group.atHandler]
  case halts =>
    intro imm s i cause hi hf
    refine ⟨fun h => ?frozen, fun h hv hp hh => ?trap⟩
    case frozen =>
      refine ⟨_, (exec_trapU hi s).trans (congrArg _ (State.trapGroup_inHandler h hf.2 _ _ _ _)), ?_⟩
      exact s.reportHalt_onlyTurn (x := s.g.frozenInHandler s.tick) rfl rfl _
    case trap =>
      have key : (s.g.haltedByTrap s.tick cause (BitVec.ofNat 64 imm.toNat) s.g.em s.g.pc).key = s.g.key := by simp [Group.haltedByTrap]
      have gid : (s.g.haltedByTrap s.tick cause (BitVec.ofNat 64 imm.toNat) s.g.em s.g.pc).gid = s.g.gid := by simp [Group.haltedByTrap]
      obtain ⟨hg, same, outside, told⟩ := s.reportHalt_onlyTurn key gid [cause, s.g.pc.toNat]
      refine ⟨_, (exec_trapU hi s).trans (congrArg _ (State.trapGroup_noHandler h hv hp hh hf _ _ _ _)), ?_⟩
      refine ⟨?_, ?_, ?_, ?_, ?_, ?_, same, outside, told⟩
      · unfold Traps
        rw [hg]
        simp [Group.haltedByTrap]
      · rw [hg]
        simpa [Group.haltedByTrap] using h
      · rw [hg]
        rfl
      · rw [hg]
        simp [Group.haltedByTrap]
      · rw [hg]
        rfl
      · rw [hg]
        exact s.g.seenAs_haltedByTrap _ _ _ _ _
end Sys2Proof.Machine
end

section
/-! PROOFS. Return from a handler (R21, R116; log 28). -/
namespace Sys2Proof.Machine
open Sys2Proof.Safety

theorem Group.bankBusy_of_low {g : Group} (hh : g.heldOps = []) (hp : ∀ p ∈ g.pendS, p.reg.toNat < 56) : g.bankBusy = false := by
  simpa [Group.bankBusy, hh] using hp

/-- RFT in a handler that no result in the bank is outstanding for (log 28). -/
theorem exec_rft {s : State} (inside : s.g.trapMode = true) (idle : s.g.bankBusy = false) :
    exec .rft s = .next { s with g := (s.g.settleAll s.tick).rft.retireTo s.g.trapPc } := by
  have e : exec .rft s = execRft s := rfl
  rw [e]
  unfold execRft
  simp only [inside, idle, State.jump_eq, Bool.not_true, Bool.false_eq_true, if_false]

theorem Group.seenAs_rft (x : Group) (pc : Word) : SeenAs x true (x.rft.retireTo pc) :=
  seenAs_congr x.seenAs_swapBank (by simp [Group.rft]) (by simp [Group.rft])

theorem Group.swapBank_withTrapMode (x : Group) (b : Bool) (pc : Word) :
    { x with trapMode := b, pc := pc }.swapBank = { x.swapBank with trapMode := b, pc := pc } := by
  unfold Group.swapBank
  rfl

/-- RFT right after trap entry leaves the group that took the trap, with EM cut to the live lanes (R21). -/
theorem Group.rft_atHandler {g : Group} (h : g.inflight = []) (tick cause : Nat) (info : Word) (m : Mask) (pc vec : Word) :
    (g.atHandler tick cause info m pc vec).rft
      = { g.unwait.recordTrap cause info m pc with trapMode := false, pc := vec &&& ~~~3#64, em := g.em &&& g.live } := by
  unfold Group.atHandler
  rw [Group.settleAll_of_idle tick h]
  unfold Group.rft
  rw [Group.swapBank_withTrapMode, Group.swapBank_swapBank]
  simp

/-- Settles O21: RFT as the group that it leaves, and the two swaps of the trap bank, which undo each other. -/
theorem trapReturn : Obligations.TrapReturn := by
  refine ⟨?returns, ?unseen⟩
  case returns =>
    intro s inside hh hp
    refine ⟨_, exec_rft inside (Group.bankBusy_of_low hh hp), ⟨rfl, ?_, rfl⟩, rfl, ?_, (s.g.settleAll s.tick).seenAs_rft _, rfl, fun _ => rfl⟩
    · simp [Group.rft]
    · simp [Group.rft]
  case unseen =>
    intro imm s h hin
    have hp : s.g.pendS = [] := h.2.2.1
    have hh : s.g.heldOps = [] := h.2.2.2.1
    let info := BitVec.ofNat 64 imm.toNat
    let x := s.g.atHandler s.tick 0x18 info s.g.em s.g.pc s.gdesc.trapVec
    let t := s.onGroup s.g.key fun _ => x
    have ht : t.g = x := by simp [t]
    have enters : exec (.trap imm) s = .next t :=
      (exec_trapU List.mem_cons_self s).trans (congrArg _ (State.trapGroup_mayEnter h _ _ _ _))
    have idle : t.g.bankBusy = false := by
      rw [ht]
      exact Group.bankBusy_of_low (by simp [x, Group.atHandler, hh]) (by simp [x, Group.atHandler, hp])
    have returns := exec_rft (s := t) (by rw [ht]; rfl) idle
    have same : (t.g.settleAll t.tick).rft = x.rft := by
      rw [ht, Group.settleAll_of_idle]
      simp [x, Group.atHandler, Group.settleAll]
    rw [same, Group.rft_atHandler hin] at returns
    refine ⟨t, _, enters, returns, rfl, rfl, rfl, rfl, rfl, ?_, rfl, rfl⟩
    rw [ht]
    simp [x, Group.atHandler]
end Sys2Proof.Machine
end

section
/-! PROOFS. Reading control registers (R11, R114, R116; log 4, 21). -/
namespace Sys2Proof.Machine
open Sys2Proof.Safety

/-! What an instruction leaves that writes one register. -/

theorem unretired_self (g : Group) : unretired g g = g := rfl

theorem unretired_retireTo (g x : Group) (pc : Word) : unretired g (x.retireTo pc) = unretired g x := rfl

theorem unretired_setS (g : Group) (d : SReg) (x pc : Word) : { unretired g ((g.setS d x).retireTo pc) with s := g.s } = g := rfl

theorem unretired_writeL (g : Group) (m : Mask) (d : LReg) (f : Nat → Word) (pc : Word) :
    { unretired g ((g.writeL m d f).retireTo pc) with v := g.v, e := g.e, eWritten := g.eWritten } = g :=
  (congrArg (unretired g) (g.writeL_rest m d f) :)

theorem scalarResult_of_setS {i : Instr} {d : SReg} {x : Word} {s : State} (h : exec i s = s.done (s.g.setS d x)) :
    ScalarResult i d x s :=
  ⟨_, h.trans (s.done_eq _), ⟨rfl, rfl, rfl⟩, by simp,
    { outside := rfl
      group := unretired_setS s.g d x _
      registers := fun r hr => by simp [hr]
      bytes := fun _ => rfl }⟩

theorem laneResult_of_writeL {i : Instr} {d : LReg} {m : Mask} {f : Nat → Word} {s : State} (h : exec i s = s.done (s.g.writeL m d f)) :
    LaneResult i d m f s :=
  ⟨_, h.trans (s.done_eq _), ⟨by simp, by simp, rfl⟩, fun l hl => by simp [hl],
    { outside := rfl
      group := unretired_writeL s.g m d f _
      registers := fun r hr => by simp [hr]
      lanes := fun l hl => by simp [hl]
      bytes := fun _ => rfl }⟩

/-! CSRR. -/

theorem csrListed_not_privileged {n : Nat} (h : csrListed n = true) : csrPrivileged n = false := by
  simp only [csrListed, csrPrivileged, Bool.or_eq_true, Bool.and_eq_true, decide_eq_true_eq, beq_iff_eq, decide_eq_false_iff_not] at h ⊢
  omega

/-- CSRR of a register that reading leaves as it is. -/
theorem exec_csrr {n : BitVec 12} {s : State} (listed : csrListed n.toNat = true) (quiet : n ≠ 0x12F) (free : n = 5 → s.g.redsOut = false)
    (dst : CsrDst) : exec (.csrr dst n) s = match dst with
      | .s r => s.done (s.g.setS r (s.csrGet s.g n.toNat 0))
      | .v r => s.done (s.g.writeL s.g.em r fun l => s.csrGet s.g n.toNat l) := by
  have known := csrListed_not_privileged listed
  have flags : (n.toNat == 5 && s.g.redsOut) = false := by
    by_cases h : n = 5
    · simp [free h]
    · have : n.toNat ≠ 5 := fun e => h (BitVec.eq_of_toNat_eq e)
      simp [this]
  have last : n.toNat ≠ 0x12F := fun e => quiet (BitVec.eq_of_toNat_eq e)
  have e : exec (.csrr dst n) s = execCsrr dst n s := rfl
  rw [e]
  cases dst <;> simp [execCsrr, State.flagWait, known, flags, Group.afterRead, last]

/-- The privileged numbers (R11, R116). -/
theorem execCsrr_privileged {n : BitVec 12} (h : 0x200 ≤ n.toNat) (dst : CsrDst) (s : State) :
    exec (.csrr dst n) s = s.trapAt 3 (BitVec.ofNat 64 n.toNat) s.g.em :=
  if_pos (decide_eq_true h)

theorem execCsrw_privileged {n : BitVec 12} (h : 0x200 ≤ n.toNat) (sa : SReg) (s : State) :
    exec (.csrw n sa) s = s.trapAt 3 (BitVec.ofNat 64 n.toNat) s.g.em :=
  if_pos (decide_eq_true h)

/-- RFT outside a handler (R116). -/
theorem execRft_outside {s : State} (h : s.g.trapMode = false) : exec .rft s = s.trapAt 3 0 s.g.em :=
  if_pos (by simp [h])

/-- Settles O22: CSRR as the write of one register, and the value of each listed CSR. -/
theorem readCsr : Obligations.ReadCsr := by
  refine ⟨?reads, ?traps⟩
  case reads =>
    intro r v n s listed quiet free
    refine ⟨scalarResult_of_setS (exec_csrr listed quiet free (.s r)), laneResult_of_writeL (exec_csrr listed quiet free (.v v)), ?values⟩
    refine ⟨?em, ?regpc, ?fflags, ?trapPc, ?trapInfo, ?trapVec, ?laneIdx, ?retired⟩
    case em => exact fun h l => by subst h; exact (BitVec.ofNat_toNat 64 s.g.em).symm
    case fflags => exact fun h l => by subst h; exact (BitVec.ofNat_toNat 64 s.g.fflags).symm
    all_goals exact fun h l => by subst h; rfl
  case traps =>
    exact fun dst n sa s => ⟨fun h => ⟨execCsrr_privileged h dst s, execCsrw_privileged h sa s⟩, execRft_outside⟩
end Sys2Proof.Machine
end

section
/-! PROOFS. Accesses of control registers that are events, and the watchpoints (R9, R114, R349, R351, R353; log 48, 49). -/
namespace Sys2Proof.Machine
open Sys2Proof.Safety

/-! Lookups. -/

theorem State.group?_turn {s : State} {k : Nat} (h : s.g.key = k) : s.group? k = some s.g := by
  simp [State.group?, State.groups, h]

theorem find?_updAll {α : Type} {p q : α → Bool} {f : α → α} (hf : ∀ x, q (f x) = q x) (l : List α) :
    (updAll p f l).find? q = (l.find? q).map fun x => if p x then f x else x := by
  have h : q ∘ (fun x => if p x then f x else x) = q := by
    funext x
    simp only [Function.comp_apply]
    split
    · exact hf x
    · rfl
  rw [updAll, List.find?_map, h]

theorem CoreSt.init_id (id : CoreId) : (CoreSt.init id).id = id := rfl

/-- A change of one core's state is seen there, and nowhere else. -/
theorem State.core_onCore (s : State) (id : CoreId) {f : CoreSt → CoreSt} (hf : ∀ c, (f c).id = c.id) (c : CoreId) :
    (s.onCore id f).core c = if c = id then f (s.core id) else s.core c := by
  unfold State.onCore State.core
  split
  next known =>
    rw [find?_updAll (fun x => by rw [hf])]
    obtain ⟨y, hy, hid⟩ := List.any_eq_true.mp known
    cases found : s.cores.find? fun x => x.id == c with
    | none =>
      have : c ≠ id := fun e => by
        subst e
        exact absurd hid (by simpa using List.find?_eq_none.mp found y hy)
      simp [this]
    | some x =>
      have hx : x.id = c := by simpa using List.find?_some found
      subst hx
      by_cases e : x.id = id
      · subst e
        simp [found]
      · simp [e]
  next unknown =>
    have fresh : s.cores.find? (fun x => x.id == id) = none := by simpa using unknown
    by_cases e : c = id
    · subst e
      simp [fresh, hf, CoreSt.init_id]
    · have : (f (CoreSt.init id)).id ≠ c := by
        rw [hf]
        exact fun h => e h.symm
      simp [this, e]

theorem State.onCore_onlyCores (s : State) (id : CoreId) (f : CoreSt → CoreSt) :
    s.onCore id f = { s with cores := (s.onCore id f).cores } := by
  unfold State.onCore
  split
  · rfl
  · rfl

/-! Events. -/

/-- What a write of a DBGOUT register does to its group (R349). -/
def Group.mailed (n : Nat) (x : Word) (g : Group) : Group := { g with dbgout := g.dbgout.setIfInBounds n x, outv := g.outv || n == 15 }

theorem State.mailOut_turn (s : State) (x : Word) :
    s.mailOut s.g.key 15 x = (s.onGroup s.g.key (Group.mailed 15 x)).report .mailbox (s.g.mailed 15 x) [] := by
  have hg : (s.onGroup s.g.key (Group.mailed 15 x)).g = s.g.mailed 15 x := by simp
  have found : (s.onGroup s.g.key (Group.mailed 15 x)).group? s.g.key = some (s.g.mailed 15 x) := by
    rw [State.group?_turn (by rw [hg]; rfl), hg]
  show (match (s.onGroup s.g.key (Group.mailed 15 x)).group? s.g.key with
    | some g => if (15 : Nat) == 15 then (s.onGroup s.g.key (Group.mailed 15 x)).report .mailbox g [] else s.onGroup s.g.key (Group.mailed 15 x)
    | none => s.onGroup s.g.key (Group.mailed 15 x)) = _
  rw [found]
  rfl

/-- What a write of a watchpoint register does to its core (R351). -/
def CoreSt.watched (g : Group) (n : Nat) (x : Word) (c : CoreSt) : CoreSt :=
  { c with
    watch := if n < 4 then c.watch.set n x else c.watch
    watchctl := if n == 4 then x &&& watchctlMask else c.watchctl
    owner := some g.launch
    holder := some g.team }

theorem State.watchSet_free {s : State} {g : Group} (h : s.watchBarred g = false) (n : Nat) (x : Word) :
    s.watchSet g n x = s.onCore g.core (CoreSt.watched g n x) :=
  if_neg (by simp [h])

theorem CoreSt.watched_watch (g : Group) (n : Nat) (x : Word) {c : CoreSt} (four : c.watch.length = 4) {k : Nat} (hk : k < 4) :
    (c.watched g n x).watch[k]? = if n = k then some x else c.watch[k]? := by
  unfold CoreSt.watched
  by_cases hn : n < 4
  · simp [hn, List.getElem?_set, four]
  · have : n ≠ k := by omega
    simp [hn, this]

/-- Settles O24: the group after each event, and the core's state after a watchpoint is written. -/
theorem csrEvents : Obligations.CsrEvents := by
  refine ⟨?events, ?watch⟩
  case events =>
    intro val sd s
    refine ⟨?em, ?fflags, ?dbgout, ?dbgin⟩
    case em =>
      rw [BitVec.ofNat_toNat]
      rfl
    case fflags =>
      show s.flagWait 5 (.next s) = _
      cases h : s.g.redsOut
      · simp [State.flagWait, h]
      · simp [State.flagWait, h, State.stall_eq]
    case dbgout =>
      have e : exec (.dbgout15Write val) s = .next (s.mailOut s.g.key 15 val) := rfl
      refine ⟨_, e.trans (congrArg _ (s.mailOut_turn val)), ?_, ?_, rfl, _, rfl, rfl, rfl⟩
      · have last : s.g.dbgout.setIfInBounds 15 val = s.g.dbgout.set 15 val := by
          ext i hi
          simp [Vector.getElem_setIfInBounds, Vector.getElem_set]
        simp [Group.mailed, last]
      · exact s.onGroup_same_others s.g.key (Group.mailed 15 val) fun _ => rfl
    case dbgin =>
      refine ⟨{ s with g := { s.g.setS sd s.g.dbgin[15] with inv := false } }, rfl, rfl, rfl, ?_, fun r hr => ?_⟩
      · show (s.g.setS sd s.g.dbgin[15]).sreg sd = _
        simp
      · show (s.g.setS sd s.g.dbgin[15]).sreg r = _
        simp [hr]
  case watch =>
    intro n val s free four
    have e : exec (.watchWrite n val) s = .next (s.watchSet s.g n.toNat val) := rfl
    have core := s.core_onCore s.g.core (f := CoreSt.watched s.g n.toNat val) fun _ => rfl
    refine ⟨_, e.trans (congrArg _ (State.watchSet_free free _ _)), s.onCore_onlyCores _ _, ?_, ?_⟩
    · intro c hc
      rw [core, if_neg hc]
    · rw [core, if_pos rfl]
      exact ⟨rfl, rfl, fun k hk => CoreSt.watched_watch s.g n.toNat val four hk, by simp [CoreSt.watched, watchctlMask]⟩
end Sys2Proof.Machine
end

section
/-! PROOFS. Loads (R22, R168, R174, R176; log 2, 38, 40). -/
namespace Sys2Proof.Machine
open Sys2Proof.Safety

/-! Probes of a mask of lanes. -/

theorem State.mem_probes {s : State} {g : Group} {acc : Acc} {fe : Bool} {n : Nat} {m : Mask} {addr : Nat → Word} {p : Probe} :
    p ∈ s.probes g acc fe n m addr ↔ ∃ l, m.has l = true ∧ p = { lane := l, addr := addr l, hit := s.probe g (some l) acc fe n (addr l) } := by
  simp only [State.probes, List.mem_map, Mask.mem_lanes, eq_comm]

theorem State.probeOf_probes {s : State} {g : Group} {acc : Acc} {fe : Bool} {n : Nat} {m : Mask} {addr : Nat → Word} {l : Nat}
    (h : m.has l = true) : probeOf (s.probes g acc fe n m addr) l
      = some { lane := l, addr := addr l, hit := s.probe g (some l) acc fe n (addr l) } := by
  have found : m.lanes.find? (fun k => k == l) = some l := by
    cases e : m.lanes.find? fun k => k == l with
    | none => exact absurd (List.find?_eq_none.mp e l (Mask.mem_lanes.mpr h)) (by simp)
    | some k =>
      have hk : k = l := by simpa using List.find?_some e
      rw [hk]
  simp only [probeOf, State.probes, List.find?_map, Function.comp_def, found, Option.map_some]

theorem State.has_lanesWhere_probes (s : State) (g : Group) (acc : Acc) (fe : Bool) (n : Nat) (m : Mask) (addr : Nat → Word) (f : Probe → Bool)
    (l : Nat) : (lanesWhere (s.probes g acc fe n m addr) f).has l
      = (m.has l && f { lane := l, addr := addr l, hit := s.probe g (some l) acc fe n (addr l) }) := by
  rw [Bool.eq_iff_iff]
  simp only [lanesWhere, Mask.has_ofFn, Bool.and_eq_true, decide_eq_true_eq, List.any_eq_true, State.mem_probes, beq_iff_eq]
  constructor
  · rintro ⟨-, p, ⟨k, hk, rfl⟩, rfl, hf⟩
    exact ⟨hk, hf⟩
  · rintro ⟨hl, hf⟩
    exact ⟨Mask.lt_of_has hl, _, ⟨l, hl, rfl⟩, rfl, hf⟩

theorem passes_hit {s : State} {acc : Acc} {fe : Bool} {n : Nat} {m : Mask} {addr : Nat → Word} (h : Passes s acc fe n m addr) {l : Nat}
    (hl : m.has l = true) : (∃ q loc, s.probe s.g (some l) acc fe n (addr l) = .ok q loc)
      ∨ ∃ w va, s.probe s.g (some l) acc fe n (addr l) = .held w va := by
  have hl := h l hl
  split at hl
  next q loc e => exact .inl ⟨q, loc, e⟩
  next w va e => exact .inr ⟨w, va, e⟩
  · exact hl.elim

theorem trapOf_of_passes {s : State} {acc : Acc} {fe : Bool} {n : Nat} {m : Mask} {addr : Nat → Word} (h : Passes s acc fe n m addr) :
    trapOf (s.probes s.g acc fe n m addr) = none := by
  have none : ∀ c, ((s.probes s.g acc fe n m addr).any fun p => p.traps c) = false := by
    intro c
    rw [List.any_eq_false]
    intro p hp
    obtain ⟨l, hl, rfl⟩ := State.mem_probes.mp hp
    obtain ⟨q, loc, e⟩ | ⟨w, va, e⟩ := passes_hit h hl
    · simp [Probe.traps, e]
    · simp [Probe.traps, e]
  simp [trapOf, none]

theorem lostOf_of_passes {s : State} {acc : Acc} {fe : Bool} {n : Nat} {m : Mask} {addr : Nat → Word} (h : Passes s acc fe n m addr) :
    lostOf (s.probes s.g acc fe n m addr) = none := by
  unfold lostOf
  rw [List.findSome?_eq_none_iff]
  intro gone _
  dsimp only
  split
  next p found =>
    obtain ⟨l, hl, rfl⟩ := State.mem_probes.mp (List.mem_of_find?_eq_some found)
    obtain ⟨q, loc, e⟩ | ⟨w, va, e⟩ := passes_hit h hl
    · simp [e]
    · simp [e]
  · rfl

/-- Lanes that trap nothing and reach no lost device pass the checks (R175, R323). -/
theorem checked_of_passes {s : State} {acc : Acc} {fe : Bool} {n : Nat} {m : Mask} {addr : Nat → Word} (h : Passes s acc fe n m addr)
    (kind : Nat) (go : Out) : s.checked (s.probes s.g acc fe n m addr) kind go = go := by
  unfold State.checked
  rw [trapOf_of_passes h, lostOf_of_passes h]

/-! Frames of what a load does. -/

theorem memGet_memPut_of_ne {m : List Host.Cell} {a b : Nat} (h : a ≠ b) (x : Byte) : memGet a (memPut b x m) = memGet a m := by
  induction m with
  | nil =>
    unfold memPut
    split
    · rfl
    · simp [memGet, h.symm]
  | cons c r ih =>
    obtain ⟨k, d⟩ := c
    unfold memPut
    split
    · split
      · rfl
      · simp [memGet, h.symm]
    · split
      next hk =>
        subst hk
        split
        · simp [memGet, h.symm]
        · simp [memGet, h.symm]
      · simp only [memGet, ih]

/-- Watch hits change nothing else of a group (R351). -/
theorem State.watchAll_eq (s : State) (rd wr : Bool) (accs : List (Nat × Nat × Nat)) (g : Group) :
    ∃ hits, s.watchAll rd wr accs g = { g with hits := hits } := by
  unfold State.watchAll
  dsimp only
  split
  · exact ⟨_, rfl⟩
  · split
    · exact ⟨_, rfl⟩
    · exact ⟨_, rfl⟩

/-- A read orders what it sees, and nothing else (R173). -/
theorem State.seenAll_rest (s : State) (r : Reader) (n : Nat) (ps : List Probe) :
    ∃ olds traffic, s.seenAll r n ps = { s with olds := olds, traffic := traffic } := by
  unfold State.seenAll
  refine List.foldlRecOn (motive := fun t : State => ∃ olds traffic, t = { s with olds := olds, traffic := traffic }) ps _ ⟨_, _, rfl⟩
    fun t ht p _ => ?_
  obtain ⟨olds, traffic, rfl⟩ := ht
  split
  · exact ⟨_, _, rfl⟩
  · exact ⟨_, _, rfl⟩

/-- A page walk sets ACC and DIRTY in the page-table entries of the probes that pass, and puts the other lanes before fault service
(R305, R309). -/
theorem State.installAll_rest (s : State) (acc : Acc) (ps : List Probe) :
    ∃ mem faults, s.installAll acc ps = { s with mem := mem, faultQueue := faults }
      ∧ (∀ k, k ∉ pteBytes s ps → memGet k mem = memGet k s.mem) ∧ ((∀ p ∈ ps, p.place ≠ none) → faults = s.faultQueue) := by
  unfold State.installAll
  refine List.foldlRecOn (motive := fun t : State => ∃ mem faults, t = { s with mem := mem, faultQueue := faults }
    ∧ (∀ k, k ∉ pteBytes s ps → memGet k mem = memGet k s.mem) ∧ ((∀ p ∈ ps, p.place ≠ none) → faults = s.faultQueue)) ps _
    ⟨_, _, rfl, fun _ _ => rfl, fun _ => rfl⟩ fun t ht p hp => ?_
  obtain ⟨mem, faults, rfl, same, quiet⟩ := ht
  split
  next q l hplace =>
    split
    next e hpte =>
      refine ⟨_, _, rfl, fun k hk => (memGet_memPut_of_ne (fun h => hk ?_) _).trans (same k hk), quiet⟩
      exact List.mem_filterMap.mpr ⟨p, hp, by simp [hplace, hpte, h]⟩
    · exact ⟨_, _, rfl, same, quiet⟩
  next hplace =>
    unfold State.recordFault
    split
    · exact ⟨_, _, rfl, same, fun h => absurd hplace (h p hp)⟩
    · exact ⟨_, _, rfl, same, quiet⟩

theorem State.seenAll_installAll_rest (s : State) (r : Reader) (n : Nat) (acc : Acc) (ps : List Probe) :
    ∃ mem olds faults traffic, (s.seenAll r n ps).installAll acc ps
        = { s with mem := mem, olds := olds, faultQueue := faults, traffic := traffic }
      ∧ (∀ k, k ∉ pteBytes s ps → memGet k mem = memGet k s.mem) ∧ ((∀ p ∈ ps, p.place ≠ none) → faults = s.faultQueue) := by
  obtain ⟨olds, traffic, seen⟩ := s.seenAll_rest r n ps
  rw [seen]
  obtain ⟨mem, faults, e, same, quiet⟩ := State.installAll_rest { s with olds := olds, traffic := traffic } acc ps
  exact ⟨mem, olds, faults, traffic, e, same, quiet⟩

/-! The group that a load leaves. -/

/-- The entry of the lanes of a load that fault service holds. -/
def Group.heldLanes (g : Group) (i : Instr) (m : Mask) (tick : Nat) (la : La) (a d : Lanes) : HeldOp :=
  { i := i, lanes := m, a := a, b := d, d := d, left := la.toNat, at_ := g.pc, kept := false, po := g.retired.toNat, issued := tick, late := false }

/-- The same for a load that reads later. -/
def Group.lateLanes (g : Group) (i : Instr) (m : Mask) (tick : Nat) (la : La) (a d : Lanes) : HeldOp :=
  { g.heldLanes i m tick la a d with late := true }

theorem Group.holdLanes_eq (g : Group) (i : Instr) (m : Mask) (tick : Nat) (la : La) (a d : Lanes) : g.holdLanes i m tick la a d d
    = { g with heldOps := g.heldOps ++ if m = 0 then [] else [g.heldLanes i m tick la a d] } := by
  unfold Group.holdLanes
  split
  · simp
  · rfl

theorem Group.holdLate_eq (g : Group) (i : Instr) (m : Mask) (tick : Nat) (la : La) (a d : Lanes) : g.holdLate i m tick la a d
    = { g with late := false, heldOps := g.heldOps ++ if m = 0 then [] else [g.lateLanes i m tick la a d] } := by
  unfold Group.holdLate
  split
  · simp
  · rfl

/-- Entries put behind a list are found behind it. -/
theorem append_held {hs : List HeldOp} {m : Mask} {x : HeldOp} (P : HeldOp → Prop) (hx : P x) :
    (hs ++ if m = 0 then [] else [x]).length = hs.length + (if m = 0 then 0 else 1)
      ∧ ∀ h, (hs ++ if m = 0 then [] else [x])[hs.length]? = some h → P h := by
  by_cases hm : m = 0
  · simp [hm]
  · simp only [hm, if_false, List.length_append, List.length_singleton, true_and]
    intro h e
    have : x = h := by simpa using e
    exact this ▸ hx

theorem sval_eq_signed {w : Nat} (hw : 0 < w) (x : Nat) : sval w x = Safety.signed w x := by
  obtain ⟨w, rfl⟩ : ∃ k, w = k + 1 := ⟨w - 1, by omega⟩
  have : 2 ^ (w + 1) = 2 * 2 ^ w := by rw [Nat.pow_succ, Nat.mul_comm]
  unfold sval Safety.signed
  simp only [Nat.add_sub_cancel, this]
  by_cases h : x < 2 ^ w
  · rw [if_pos h, if_pos (by omega)]
  · rw [if_neg h, if_neg (by omega), ← this]
    simp

theorem extend_eq (signed : Bool) (w : Width) (x : Nat) : extend signed (widthBytes w) x
    = if signed then BitVec.ofInt 64 (Safety.signed (8 * widthBytes w) x) else BitVec.ofNat 64 x := by
  have h : 0 < 8 * widthBytes w := by cases w <;> decide
  unfold extend wordOf
  rw [sval_eq_signed h]

/-- The group after a load that reads at once. -/
def State.loadedGroup (s : State) (signed : Bool) (i : Instr) (d a : LReg) (la : La) (n : Nat) (ps : List Probe) : Group :=
  s.watchAll true false (padAccesses n ps)
    ((s.g.writeL (passed ps) d fun l => extend signed n (s.loaded s.g s.g.reader n ps l)).holdLanes i (faulted ps) s.tick la (s.g.lreg a)
      (s.g.lreg d) (s.g.lreg d))

/-- The group after a load that reads later. -/
def State.lateGroup (s : State) (i : Instr) (m : Mask) (d a : LReg) (la : La) (n : Nat) (ps : List Probe) : Group :=
  s.watchAll true false (padAccesses n ps) (s.g.holdLate i m s.tick la (s.g.lreg a) (s.g.lreg d))

theorem exec_load (signed : Bool) (w : Width) (d a : LReg) (off : BitVec 3) (la : La) (g : Guard) (s : State) :
    let i : Instr := if signed then .lds w d a off la g else .ld w d a off la g
    exec i s = s.load signed i w d a off la g := by
  cases signed
  · rfl
  · rfl

theorem unretired_with (g : Group) (hits : Option (Mask × BitVec 4 × Bool)) (held : List HeldOp) (late : Bool) (pc : Word) :
    { unretired g ({ g with late := late, heldOps := held, hits := hits }.retireTo pc) with hits := g.hits, heldOps := g.heldOps, late := g.late } = g :=
  rfl

theorem unretired_loaded (g x : Group) (h : { x with v := g.v, e := g.e, eWritten := g.eWritten } = g)
    (hits : Option (Mask × BitVec 4 × Bool)) (held : List HeldOp) (pc : Word) :
    { unretired g ({ x with heldOps := held, hits := hits }.retireTo pc) with
      v := g.v, e := g.e, eWritten := g.eWritten, hits := g.hits, heldOps := g.heldOps } = g :=
  (congrArg (fun y : Group => { unretired g y with hits := g.hits, heldOps := g.heldOps }) h :)

/-- The lanes that a load completes, and those that it leaves held. -/
theorem passed_probes {s : State} {n : Nat} {m : Mask} {addr : Nat → Word} : passed (s.probes s.g .read false n m addr)
    = Mask.ofFn fun l => m.has l && match s.probe s.g (some l) .read false n (addr l) with | .ok _ _ => true | _ => false := by
  refine Mask.ext_has fun l hl => ?_
  rw [passed, State.has_lanesWhere_probes, Mask.has_ofFn]
  cases e : s.probe s.g (some l) .read false n (addr l) <;> simp [Probe.place, hl]

theorem faulted_probes {s : State} {n : Nat} {m : Mask} {addr : Nat → Word} (h : Passes s .read false n m addr) :
    faulted (s.probes s.g .read false n m addr) = m &&& ~~~passed (s.probes s.g .read false n m addr) := by
  refine Mask.ext_has fun l hl => ?_
  rw [Mask.has_and, Mask.has_not, passed, faulted, State.has_lanesWhere_probes, State.has_lanesWhere_probes]
  cases hm : m.has l
  · rfl
  · obtain ⟨q, loc, e⟩ | ⟨w, va, e⟩ := passes_hit h hm
    · simp [Probe.place, Probe.faults, e]
    · simp [Probe.place, Probe.faults, e, hl]

/-- Settles O25: what the probes of the lanes say, and the group that the load leaves. -/
theorem load : Obligations.Load := by
  intro signed w d a off la gd s i n m addr hit ps good hpass
  have checks : ∀ go, s.checked ps 8 go = go := checked_of_passes hpass 8
  have hgood : passed ps = good := passed_probes
  refine ⟨fun now sound => ?reads, fun late => ?later⟩
  case reads =>
    have sane : s.consumes s.g s.g.reader n ps = false := by
      refine List.any_eq_false.mpr fun p hp => ?_
      obtain ⟨l, hl, rfl⟩ := State.mem_probes.mp hp
      obtain ⟨q, loc, e⟩ | ⟨w, va, e⟩ := passes_hit hpass hl
      · simpa [Probe.place, e] using sound l q loc hl e
      · simp [Probe.place, e]
    have runs : exec i s = ((s.seenAll s.g.reader n ps).installAll .read ps).done (s.loadedGroup signed i d a la n ps) :=
      (exec_load signed w d a off la gd s).trans ((checks _).trans ((if_neg (ne_true_of_eq_false now)).trans (if_neg (ne_true_of_eq_false sane))))
    obtain ⟨mem, olds, faults, traffic, e, same, -⟩ := s.seenAll_installAll_rest s.g.reader n .read ps
    obtain ⟨hits, hg⟩ := s.watchAll_eq true false (padAccesses n ps)
      ((s.g.writeL good d fun l => extend signed n (s.loaded s.g s.g.reader n ps l)).holdLanes i (m &&& ~~~good) s.tick la (s.g.lreg a)
        (s.g.lreg d) (s.g.lreg d))
    rw [e, State.done_eq, State.loadedGroup, faulted_probes hpass, hgood, hg, Group.holdLanes_eq] at runs
    obtain ⟨len, entry⟩ := append_held (hs := s.g.heldOps) (m := m &&& ~~~good)
      (x := (s.g.writeL good d fun l => extend signed n (s.loaded s.g s.g.reader n ps l)).heldLanes i (m &&& ~~~good) s.tick la (s.g.lreg a)
        (s.g.lreg d))
      (fun h => h.i = i ∧ h.lanes = m &&& ~~~good ∧ h.a = s.g.lreg a ∧ h.late = false) ⟨rfl, rfl, rfl, rfl⟩
    refine ⟨_, runs, ⟨by simp, by simp, rfl⟩, ⟨rfl, unretired_loaded _ _ (s.g.writeL_rest _ _ _) _ _ _, ?_, ?_, same⟩, ?_, ?_, ?_⟩
    · exact fun r hr => s.g.lreg_writeL good d r _ hr
    · intro l hl
      have at_ := s.g.lane_writeL good d d (fun l => extend signed n (s.loaded s.g s.g.reader n ps l)) l
      exact at_.trans (if_neg (by simp [hl]))
    · intro l q loc hl e
      have at_ := s.g.lane_writeL good d d (fun l => extend signed n (s.loaded s.g s.g.reader n ps l)) l
      have acts : good.has l = true := by
        have e' : s.probe s.g (some l) .read false n (addr l) = .ok q loc := e
        simp [good, hit, hl, e', Mask.lt_of_has hl]
      have value : s.loaded s.g s.g.reader n ps l = s.viewRead s.g s.g.reader l loc n := by
        have e' : s.probe s.g (some l) .read false n (addr l) = .ok q loc := e
        simp [State.loaded, ps, State.probeOf_probes hl, Probe.place, e']
      refine at_.trans ((if_pos ⟨rfl, acts⟩).trans ?_)
      rw [value]
      exact extend_eq signed w _
    · simpa using len
    · simpa using entry
  case later =>
    have runs : exec i s = s.done (s.lateGroup i m d a la n ps) :=
      (exec_load signed w d a off la gd s).trans ((checks _).trans (if_pos late))
    obtain ⟨hits, hg⟩ := s.watchAll_eq true false (padAccesses n ps) (s.g.holdLate i m s.tick la (s.g.lreg a) (s.g.lreg d))
    rw [State.done_eq, State.lateGroup, hg, Group.holdLate_eq] at runs
    obtain ⟨len, entry⟩ := append_held (hs := s.g.heldOps) (m := m) (x := s.g.lateLanes i m s.tick la (s.g.lreg a) (s.g.lreg d))
      (fun h => h.i = i ∧ h.lanes = m ∧ h.a = s.g.lreg a ∧ h.late = true) ⟨rfl, rfl, rfl, rfl⟩
    exact ⟨_, runs, ⟨rfl, rfl, rfl⟩, rfl, unretired_with _ _ _ _ _, rfl, len, entry⟩
end Sys2Proof.Machine
end

section
/-! PROOFS. What a group's memory path brings (R17, R169, R171, R180, R192, R309, R311; log 2, 19, 33, 39, 40, 41, 48). -/
namespace Sys2Proof.Machine
open Sys2Proof.Safety

/-- A change of the group in turn by its key: the group changes, and those with another key stand as they did. -/
theorem State.onGroup_own (s : State) {f : Group → Group} (hf : ∀ g, (f g).key = g.key) :
    (s.onGroup s.g.key f).g = f s.g ∧ SameOthers s (s.onGroup s.g.key f)
      ∧ s.onGroup s.g.key f = { s with g := (s.onGroup s.g.key f).g, others := (s.onGroup s.g.key f).others } :=
  ⟨by simp, s.onGroup_same_others s.g.key f hf, rfl⟩

/-! Results in flight and acknowledgements. -/

theorem Group.settle_key (tick idx : Nat) (p : Pend) (g : Group) : (g.settle tick idx p).key = g.key :=
  (congrArg Group.key (g.settle_withRegisters tick idx p) :)

theorem Group.arrive_key (tick idx : Nat) (g : Group) : (g.arrive tick idx).key = g.key := by
  unfold Group.arrive
  split
  · exact g.settle_key _ _ _
  · rfl

theorem Group.arrive_due {tick idx : Nat} {g : Group} {p : Pend} (h : g.inflight[idx]? = some p) (due : p.left = 0) :
    g.arrive tick idx = { g.settle tick idx p with inflight := g.inflight.eraseIdx idx } := by
  simp [Group.arrive, h, due]

/-- A vector result whose lanes nothing has written since it was issued (R17). -/
theorem Group.settle_lanes {tick idx : Nat} {g : Group} {p : Pend} (file : p.file = 0) (clean : p.clash = 0) :
    g.settle tick idx p = g.writeL p.lanes (BitVec.ofNat 6 p.reg) fun l => p.vals.at l := by
  have all : p.lanes &&& (~~~p.clash ||| clashLanes tick idx) = p.lanes := by
    refine Mask.ext_has fun l hl => ?_
    rw [Mask.has_and, Mask.has_or, Mask.has_not, clean]
    simp [hl]
  simp [Group.settle, file, all]

theorem Group.settle_scalar {tick idx : Nat} {g : Group} {p : Pend} (file : p.file = 2) (some_ : p.lanes ≠ 0) (clean : p.clash = 0) :
    g.settle tick idx p = g.setS (BitVec.ofNat 6 p.reg) (p.vals.at 0) := by
  have h : p.lanes ≠ 0#32 := some_
  simp [Group.settle, file, h, clean]

theorem longLatencyResult_lanes {s : State} {idx : Nat} {p : Pend} (h : s.g.inflight[idx]? = some p) (due : p.left = 0) (clean : p.clash = 0)
    (file : p.file = 0) (named : p.reg < 64) :
    Completes (.longLatencyResult s.g.key idx) s fun t => (SameOthers s t ∧ t = { s with g := t.g, others := t.others })
      ∧ t.g.inflight = s.g.inflight.eraseIdx idx ∧ (∀ r : LReg, r.toNat ≠ p.reg → t.g.lreg r = s.g.lreg r)
      ∧ (∀ l, t.g.lane (BitVec.ofNat 6 p.reg) l = if p.lanes.has l then p.vals.at l else s.g.lane (BitVec.ofNat 6 p.reg) l)
      ∧ { t.g with v := s.g.v, e := s.g.e, eWritten := s.g.eWritten, inflight := s.g.inflight } = s.g := by
  obtain ⟨hg, own⟩ := s.onGroup_own (f := Group.arrive s.tick idx) (Group.arrive_key s.tick idx)
  have e : exec (.longLatencyResult s.g.key idx) s = .next (s.onGroup s.g.key (Group.arrive s.tick idx)) := rfl
  refine ⟨_, e, own, ?_⟩
  rw [hg, Group.arrive_due h due, Group.settle_lanes file clean]
  refine ⟨rfl, fun r hr => ?_, fun l => ?_, ?_⟩
  · refine s.g.lreg_writeL _ _ _ _ fun e => hr ?_
    rw [e, BitVec.toNat_ofNat, Nat.mod_eq_of_lt named]
  · refine (s.g.lane_writeL p.lanes (BitVec.ofNat 6 p.reg) (BitVec.ofNat 6 p.reg) (fun l => p.vals.at l) l).trans ?_
    simp only [true_and]
  · exact (congrArg (fun x : Group => { x with inflight := s.g.inflight }) (s.g.writeL_rest p.lanes (BitVec.ofNat 6 p.reg) fun l => p.vals.at l) :)

theorem longLatencyResult_scalar {s : State} {idx : Nat} {p : Pend} (h : s.g.inflight[idx]? = some p) (due : p.left = 0) (clean : p.clash = 0)
    (file : p.file = 2) (some_ : p.lanes ≠ 0) :
    Completes (.longLatencyResult s.g.key idx) s fun t => (SameOthers s t ∧ t = { s with g := t.g, others := t.others })
      ∧ t.g = { s.g.setS (BitVec.ofNat 6 p.reg) (p.vals.at 0) with inflight := s.g.inflight.eraseIdx idx } := by
  obtain ⟨hg, own⟩ := s.onGroup_own (f := Group.arrive s.tick idx) (Group.arrive_key s.tick idx)
  have e : exec (.longLatencyResult s.g.key idx) s = .next (s.onGroup s.g.key (Group.arrive s.tick idx)) := rfl
  refine ⟨_, e, own, ?_⟩
  rw [hg, Group.arrive_due h due, Group.settle_scalar file some_ clean]

/-- The oldest acknowledgement of a group (R180). -/
def Group.acked (g : Group) : Group :=
  match g.reds with
  | f :: rest => { g.raise f with reds := rest }
  | [] => g

theorem Group.acked_key (g : Group) : g.acked.key = g.key := by
  unfold Group.acked
  split
  · rfl
  · rfl

theorem exec_redAck {s : State} {f : BitVec 5} {rest : List (BitVec 5)} (h : s.g.reds = f :: rest) (single : s.g.twin = none) :
    exec (.redAck s.g.key) s = .next (s.onGroup s.g.key Group.acked) := by
  have e : exec (.redAck s.g.key) s = execRedAck s.g.key s := rfl
  rw [e]
  unfold execRedAck
  rw [State.group?_turn rfl]
  dsimp only
  rw [h]
  dsimp only
  rw [single]
  rfl

theorem redAck_pops {s : State} {f : BitVec 5} {rest : List (BitVec 5)} (h : s.g.reds = f :: rest) (single : s.g.twin = none) :
    Completes (.redAck s.g.key) s fun t => (SameOthers s t ∧ t = { s with g := t.g, others := t.others })
      ∧ t.g = { s.g with reds := rest, fflags := s.g.fflags ||| f } := by
  obtain ⟨hg, own⟩ := s.onGroup_own (f := Group.acked) Group.acked_key
  refine ⟨_, exec_redAck h single, own, ?_⟩
  rw [hg, Group.acked, h]
  rfl

/-! Soft errors. -/

theorem Group.spoil_poison (m : Mark) (g : Group) (p : Mark) : p ∈ (g.spoil m).poison ↔ p = m ∨ p ∈ g.poison := by
  unfold Group.spoil
  by_cases h : p = m
  · simp [h]
  · simp [h]

/-- An uncorrectable error in a register marks it, and nothing else (R192). -/
theorem softError_marks {s : State} {loc : ErrLoc} {m : Mark} (h : s.strike loc = s.onGroup s.g.key (Group.spoil m)) :
    Completes (.softError loc true) s fun t => (SameOthers s t ∧ t = { s with g := t.g, others := t.others })
      ∧ { t.g with poison := s.g.poison } = s.g ∧ ∀ p, p ∈ t.g.poison ↔ p = m ∨ p ∈ s.g.poison := by
  obtain ⟨hg, own⟩ := s.onGroup_own (f := Group.spoil m) fun _ => rfl
  have e : exec (.softError loc true) s = .next (s.strike loc) := rfl
  refine ⟨_, e.trans (congrArg _ h), own, ?_⟩
  rw [hg]
  exact ⟨rfl, s.g.spoil_poison m⟩

theorem softError_entry (s : State) (n : Nat) : Completes (.softError (.entry n) true) s fun t => t = { s with entries := t.entries }
    ∧ ∀ i, t.entries[i]? = (s.entries[i]?).map fun x => if i = n then { x with bad := true } else x := by
  have e : exec (.softError (.entry n) true) s = .next { s with entries := s.entries.modify n fun x => { x with bad := true } } := rfl
  refine ⟨_, e, rfl, fun i => ?_⟩
  rw [List.getElem?_modify]
  by_cases h : n = i
  · simp [h]
  · simp [h, Ne.symm h]
end Sys2Proof.Machine
end

section
/-! PROOFS. A drained scratchpad byte (R169, R171; log 19, 40). -/
namespace Sys2Proof.Machine
open Sys2Proof.Safety

/-- The write of a byte of a scratchpad leaves what belongs to main memory only: caches, key tags and poison of whole words. -/
theorem State.homeWrite_pad (s : State) {l : Loc} (hl : l.cipher = none) (b : Byte) : s.homeWrite l [b]
    = { s with mem := memPut l.key b s.mem, olds := s.olds.filter fun o => !(l.key ≤ o.key && o.key < l.key + 1) } := by
  have caches : s.staled l [b] = [] := by simp [State.staled, hl]
  have tags : s.retag l 1 = s.keyTags := by simp [State.retag, hl]
  have words : healed s.poison l.key 1 = s.poison := by
    refine List.filter_eq_self.mpr fun w _ => ?_
    simp only [Bool.not_eq_true', Bool.and_eq_false_iff, decide_eq_false_iff_not]
    omega
  unfold State.homeWrite
  simp only [caches, List.length_singleton, tags, words]
  rfl

theorem State.carried_pad (s : State) (a : Agent) {l : Loc} (hl : l.cipher = none) (rd wr : Nat) : s.carried a l rd wr = [] := by
  simp [State.carried, hl]

theorem State.homeWriteBy_pad (s : State) (w : Agent) (scope : Option Nat) (atomic : Bool) (core : CoreId) {l : Loc} (hl : l.cipher = none)
    (b : Byte) : ∃ olds, s.homeWriteBy w scope atomic core l [b] = { s with mem := memPut l.key b s.mem, olds := olds } := by
  unfold State.homeWriteBy
  rw [s.homeWrite_pad hl, s.carried_pad w hl]
  exact ⟨_, rfl⟩

/-- A byte drained to a scratchpad: it is written, or comes under writes that nothing orders before it (R173; log 19). -/
theorem State.drainTo_pad (s : State) (w : Agent) (scope : Option Nat) (core : CoreId) {l : Loc} (hl : l.cipher = none) (b : Byte) :
    ∃ mem olds, s.drainTo w scope core l b = { s with mem := mem, olds := olds }
      ∧ (mem = memPut l.key b s.mem ∨ mem = s.mem ∧ (s.unlearn (Agent.broken l.key 1)).coRoom w l ≠ 0) := by
  unfold State.drainTo
  dsimp only
  obtain ⟨olds, e⟩ := (s.unlearn (Agent.broken l.key 1)).homeWriteBy_pad w scope false core hl b
  split
  · exact ⟨_, olds, e, .inl rfl⟩
  next n room =>
    split
    · exact ⟨_, olds, e, .inl rfl⟩
    · rw [State.carried_pad _ w hl]
      exact ⟨_, _, rfl, .inr ⟨rfl, by omega⟩⟩

/-- Nothing stands before a byte whose writes there are single-copy atomic, the group's own, or ordered before it (R173). -/
theorem State.coRoom_ordered {s : State} {k : Nat} {l : Loc} (h : ∀ o ∈ s.olds, o.key = l.key → o.atomic = true ∨ o.writer = .group k ∨ .group k ∈ o.known) :
    (s.unlearn (Agent.broken l.key 1)).coRoom (.group k) l = 0 := by
  unfold State.coRoom
  split
  · rfl
  · rw [List.length_eq_zero_iff]
    have none : ∀ o ∈ (s.unlearn (Agent.broken l.key 1)).olds.filter fun o => o.key == l.key,
        (!o.atomic && o.writer != .group k && !o.known.contains (.group k) && o.cipher == l.cipher) = false := by
      intro o ho
      obtain ⟨learnt, hkey⟩ := List.mem_filter.mp ho
      obtain ⟨x, hx, rfl⟩ := List.mem_map.mp learnt
      obtain hp | hp | hp := h x hx (by simpa using hkey)
      · simp [hp]
      · simp [hp]
      · simp [hp, Agent.broken]
    cases e : (s.unlearn (Agent.broken l.key 1)).olds.filter fun o => o.key == l.key with
    | nil => rfl
    | cons o os =>
      rw [List.takeWhile_cons, none o (e ▸ List.mem_cons_self)]
      rfl

theorem State.drained_olds (s : State) (k : Nat) (sc : Option Nat) : ∃ olds, s.drained k sc = { s with olds := olds } := by
  unfold State.drained
  split
  · split
    · exact ⟨_, rfl⟩
    · exact ⟨_, rfl⟩
  · exact ⟨_, rfl⟩

/-- A byte of a scratchpad that may drain (R169). -/
theorem State.drainOne_pad {s : State} {k n : Nat} {g : Group} {h : Held} {sc : Option Nat} (free : g.drainBlocked n (.byte h false sc) = false)
    (sound : .drain (wordKey h.key) ∉ g.poison) (fixed : h.again = false) (pad : h.loc = padLoc h.key) :
    s.drainOne k g n (.byte h false sc) = ((s.onGroup k fun g => { g with drains := g.drains.eraseIdx n }).drainTo (.group k) sc g.core
      h.loc h.val).drained k sc := by
  have va : h.va = none := congrArg Loc.va pad
  have hit : ∀ s : State, ∀ r, s.drainHit g r h = .ok (.main 0) h.loc := fun s r => by
    unfold State.drainHit
    rw [fixed, va]
  have home : ∀ v, s.drainHome g v (.byte h false sc) = none := fun v => by
    simp [State.drainHome, hit, Hit.loc?, State.lostLoc, pad, padLoc]
  have poison : g.drainPoison (.byte h false sc) = false := by simpa [Group.drainPoison] using sound
  have pte : h.loc.pte = none := congrArg Loc.pte pad
  unfold State.drainOne
  simp only [free, poison, home, hit, pte, Bool.false_eq_true, if_false]
  rfl

theorem drainComplete_pad {s : State} {n : Nat} {h : Held} {sc : Option Nat} (stands : s.g.drains[n]? = some (.byte h false sc))
    (fixed : h.again = false) (pad : h.loc = padLoc h.key) (wf : Memory.wf s.mem = true) (free : s.g.drainBlocked n (.byte h false sc) = false)
    (sound : .drain (wordKey h.key) ∉ s.g.poison) :
    Completes (.drainComplete s.g.key n) s fun t => SameOthers s t ∧ t.g = { s.g with drains := s.g.drains.eraseIdx n }
      ∧ OnlyBytes h.key 1 s t ∧ t = { s with g := t.g, others := t.others, mem := t.mem, olds := t.olds }
      ∧ (memGet h.key t.mem = h.val ∨ memGet h.key t.mem = memGet h.key s.mem)
      ∧ ((∀ o ∈ s.olds, o.key = h.key → o.atomic = true ∨ o.writer = .group s.g.key ∨ .group s.g.key ∈ o.known) → memGet h.key t.mem = h.val) := by
  have runs : exec (.drainComplete s.g.key n) s = .next (s.drainOne s.g.key s.g n (.byte h false sc)) := by
    have e : exec (.drainComplete s.g.key n) s = execDrainComplete s.g.key n s := rfl
    rw [e, execDrainComplete, State.group?_turn rfl]
    dsimp only
    rw [stands]
  have cipher : h.loc.cipher = none := congrArg Loc.cipher pad
  obtain ⟨hg, same, -⟩ := s.onGroup_own (f := fun g => { g with drains := g.drains.eraseIdx n }) fun _ => rfl
  obtain ⟨mem, olds, e, written⟩ := (s.onGroup s.g.key fun g => { g with drains := g.drains.eraseIdx n }).drainTo_pad (.group s.g.key) sc
    s.g.core cipher h.val
  rw [State.drainOne_pad free sound fixed pad, e] at runs
  obtain ⟨olds', e'⟩ := State.drained_olds { s.onGroup s.g.key fun g => { g with drains := g.drains.eraseIdx n } with mem := mem, olds := olds } s.g.key sc
  rw [e'] at runs
  have put := fun a => memGet_memPut wf a h.key h.val
  refine ⟨_, runs, same, hg, ?bytes, rfl, ?value, ?ordered⟩
  case bytes =>
    intro a ha
    have other : a ≠ h.key := by omega
    obtain rfl | ⟨rfl, -⟩ := written
    · exact (put a).trans (if_neg other)
    · rfl
  case value =>
    obtain rfl | ⟨rfl, -⟩ := written
    · exact .inl ((put h.key).trans (if_pos rfl))
    · exact .inr rfl
  case ordered =>
    intro before
    obtain rfl | ⟨-, room⟩ := written
    · exact (put h.key).trans (if_pos rfl)
    · exact absurd (State.coRoom_ordered (s := s.onGroup s.g.key fun g => { g with drains := g.drains.eraseIdx n }) before) room
end Sys2Proof.Machine
end

section
/-! PROOFS. The replay of a store from the side log (R169; log 33, 40, 41). -/
namespace Sys2Proof.Machine
open Sys2Proof.Safety

/-! Held bytes by their keys. -/

theorem find?_filter_of_found {α : Type} {p q : α → Bool} {xs : List α} {y : α} (h : xs.find? q = some y) (hy : p y = true) :
    (xs.filter p).find? q = some y := by
  induction xs with
  | nil => exact h
  | cons x xs ih =>
    by_cases hq : q x = true
    · have : x = y := by simpa [hq] using h
      subst this
      simp [hy, hq]
    · have hq : q x = false := by simpa using hq
      have hx : xs.find? q = some y := by simpa [hq] using h
      cases hp : p x
      · simpa [hp] using ih hx
      · simpa [hp, hq] using ih hx

theorem find?_filter_of_kept {α : Type} {p q : α → Bool} {xs : List α} (h : ∀ x ∈ xs, q x = true → p x = true) :
    (xs.filter p).find? q = xs.find? q := by
  rw [List.find?_filter]
  refine List.find?_congr fun x hx => ?_
  cases hq : q x with
  | false => simp
  | true => simp [h x hx hq]

theorem Group.heldByte_eq (g : Group) (k : Nat) : g.heldByte k
    = ((g.held.find? fun h => h.key == k).or ((g.drains.filterMap Drain.held?).find? fun h => h.key == k)).map Held.val := by
  rw [Group.heldByte, Group.ownBytes, List.find?_append]

/-- An entry no older than what is held comes to the front. -/
theorem rehold_front {h : Held} {xs : List Held} (old : ∀ x ∈ xs, x.po ≤ h.po) :
    rehold h xs = h :: xs.filter fun x => !x.replacedBy h.loc h.epoch := by
  have newest : (xs.any fun x => x.replacedBy h.loc h.epoch && h.po < x.po) = false := by
    refine List.any_eq_false.mpr fun x hx => ?_
    have := old x hx
    simp only [Bool.and_eq_true, decide_eq_true_eq, not_and]
    omega
  have none : ∀ ys : List Held, (∀ y ∈ ys, y.po ≤ h.po) → ys.takeWhile (fun x => h.po < x.po) = [] ∧ ys.dropWhile (fun x => h.po < x.po) = ys := by
    intro ys hys
    cases ys with
    | nil => exact ⟨rfl, rfl⟩
    | cons y ys =>
      have : ¬h.po < y.po := by
        have := hys y List.mem_cons_self
        omega
      simp [this]
  obtain ⟨taken, dropped⟩ := none (xs.filter fun x => !x.replacedBy h.loc h.epoch) fun y hy => old y (List.mem_of_mem_filter hy)
  unfold rehold
  simp only [newest, Bool.false_eq_true, if_false, taken, dropped, List.nil_append]

/-- The byte `i` of a replayed store. -/
def replayed (e : Side) (l : Loc) (bs : List Byte) (i : Nat) : Held :=
  { loc := l.plus i, val := bs.getD i 0, epoch := e.epoch, po := e.po, again := false }

/-- Two bytes of one store stand for different bytes of storage. -/
theorem replayed_kept (e : Side) (l : Loc) (bs : List Byte) {i j : Nat} (h : i ≠ j) :
    (replayed e l bs i).replacedBy (replayed e l bs j).loc e.epoch = false := by
  have key : l.key + i ≠ l.key + j := by omega
  have va : ∀ v : Nat, v + i ≠ v + j := fun v => by omega
  cases hv : l.va with
  | none => simp [Held.replacedBy, replayed, Loc.plus, Held.key, Held.va, hv, h]
  | some v => simp [Held.replacedBy, replayed, Loc.plus, Held.key, Held.va, hv, h]

/-- A byte that another replaces stands where that one does, or where no page was present (R308). -/
theorem replacedBy_key {h : Held} {l : Loc} {epoch : Nat} (r : h.replacedBy l epoch = true) : h.key = l.key ∨ 2 ^ 128 ≤ h.key := by
  simp only [Held.replacedBy, Bool.and_eq_true, Bool.or_eq_true, beq_iff_eq] at r
  obtain ⟨-, r | ⟨-, r⟩⟩ := r
  · exact .inl r
  · cases hv : h.va with
    | none => simp [hv] at r
    | some v =>
      have : absentKey v = h.key := by simpa [hv] using r
      exact .inr (this ▸ Nat.le_add_right _ _)

/-- What is held after the first `n` bytes of a replayed store. -/
structure Reheld (e : Side) (l : Loc) (bs : List Byte) (old : List Held) (n : Nat) (xs : List Held) : Prop where
  order : ∀ x ∈ xs, x.po ≤ e.po
  stored : ∀ j, j < n → xs.find? (fun h => h.key == l.key + j) = some (replayed e l bs j)
  others : ∀ x, x < 2 ^ 128 → x < l.key ∨ l.key + n ≤ x → xs.find? (fun h => h.key == x) = old.find? fun h => h.key == x

theorem reheld_all (e : Side) (l : Loc) (bs : List Byte) {old : List Held} (h : ∀ x ∈ old, x.po ≤ e.po) (n : Nat) :
    Reheld e l bs old n (((List.range n).map (replayed e l bs)).foldl (fun xs h => rehold h xs) old) := by
  induction n with
  | zero => exact ⟨h, fun j hj => absurd hj (Nat.not_lt_zero j), fun _ _ _ => rfl⟩
  | succ n ih =>
    obtain ⟨order, stored, others⟩ := ih
    rw [List.range_succ, List.map_append, List.foldl_append, List.map_singleton, List.foldl_cons, List.foldl_nil,
      rehold_front (h := replayed e l bs n) order]
    refine ⟨?_, fun j hj => ?_, fun x small out => ?_⟩
    · intro x hx
      obtain rfl | hx := List.mem_cons.mp hx
      · exact Nat.le_refl _
      · exact order x (List.mem_of_mem_filter hx)
    · by_cases hjn : j = n
      · subst hjn
        simp [replayed, Held.key, Loc.plus]
      · have key : ((replayed e l bs n).key == l.key + j) = false := by
          simp [replayed, Held.key, Loc.plus, Ne.symm hjn]
        rw [List.find?_cons, key]
        exact find?_filter_of_found (stored j (by omega)) (by simp [replayed_kept e l bs hjn, show (replayed e l bs n).epoch = e.epoch from rfl])
    · have key : ((replayed e l bs n).key == x) = false := by
        simp only [replayed, Held.key, Loc.plus, beq_eq_false_iff_ne]
        omega
      rw [List.find?_cons, key]
      refine (find?_filter_of_kept fun y _ hy => ?_).trans (others x small (by omega))
      have hy : y.key = x := by simpa using hy
      cases r : y.replacedBy (replayed e l bs n).loc (replayed e l bs n).epoch with
      | false => rfl
      | true =>
        have at_ := replacedBy_key r
        have : (replayed e l bs n).loc.key = l.key + n := rfl
        omega

/-! The replay. -/

theorem Group.replayStore_eq {g : Group} {e : Side} {l : Loc} {bs : List Byte} (h : g.bound = none) : ∃ poison, g.replayStore e l bs
    = { g with held := ((List.range bs.length).map (replayed e l bs)).foldl (fun xs h => rehold h xs) g.held, poison := poison } := by
  unfold Group.replayStore
  dsimp only
  rw [h]
  exact ⟨_, rfl⟩

theorem Group.replayStore_key (g : Group) (e : Side) (l : Loc) (bs : List Byte) : (g.replayStore e l bs).key = g.key := by
  unfold Group.replayStore
  dsimp only
  split
  · rfl
  · rfl

/-- The entry of a store is taken out of the side log (R169). -/
def Group.popSide (e : Side) (g : Group) : Group := { g with side := g.side.erase e, poison := g.poison.filter (· != .side e.va) }

theorem State.replaySide_store {s : State} {k : Nat} {g : Group} {e : Side} {bs : List Byte} (l : Loc) (op : e.op = .store bs)
    (sound : .side e.va ∉ g.poison) : ∃ mem, s.replaySide k g e l
      = some (({ s.onGroup k (Group.popSide e) with mem := mem }).onGroup k fun g => g.replayStore e l bs) := by
  have poison : g.poison.contains (.side e.va) = false := by simpa using sound
  unfold State.replaySide
  rw [op]
  dsimp only
  rw [poison]
  cases l.pte with
  | none => exact ⟨_, rfl⟩
  | some p => exact ⟨_, rfl⟩

theorem sideLogReplay_store {s : State} {e : Side} {bs : List Byte} {q : Spot} {l : Loc} (only : s.g.side = [e]) (op : e.op = .store bs)
    (hit : s.sideHit s.greach e = .ok q l) (sound : .side e.va ∉ s.g.poison) :
    ∃ mem, exec (.sideLogReplay s.g.key (e.va / 2 ^ 18)) s
      = .next (({ s.onGroup s.g.key (Group.popSide e) with mem := mem }).onGroup s.g.key fun g => g.replayStore e l bs) := by
  obtain ⟨mem, replays⟩ := State.replaySide_store (s := s) (k := s.g.key) l op sound
  refine ⟨mem, ?_⟩
  have page : s.g.side.filter (fun x => x.va / 2 ^ 18 == e.va / 2 ^ 18) = [e] := by simp [only]
  have runs : exec (.sideLogReplay s.g.key (e.va / 2 ^ 18)) s
      = .next (State.replayAll s.g.key (s.g.side.filter fun x => x.va / 2 ^ 18 == e.va / 2 ^ 18) s) := by
    have e' : exec (.sideLogReplay s.g.key (e.va / 2 ^ 18)) s = execSideLogReplay s.g.key (e.va / 2 ^ 18) s := rfl
    rw [e', execSideLogReplay, State.group?_turn rfl]
  have hit : s.sideHit (s.reachOf s.g.launch) e = .ok q l := hit
  rw [runs, page, State.replayAll, State.group?_turn rfl]
  dsimp only
  rw [hit]
  dsimp only
  rw [replays]
  dsimp only
  rw [State.replayAll, ite_self]

theorem sideLogReplay_holds {s : State} {e : Side} {bs : List Byte} {q : Spot} {l : Loc} (only : s.g.side = [e]) (op : e.op = .store bs)
    (hit : s.sideHit s.greach e = .ok q l) (open_ : s.g.bound = none) (sound : .side e.va ∉ s.g.poison) (order : ∀ h ∈ s.g.held, h.po ≤ e.po) :
    Completes (.sideLogReplay s.g.key (e.va / 2 ^ 18)) s fun t => SameOthers s t ∧ t = { s with g := t.g, others := t.others, mem := t.mem }
      ∧ t.g.side = [] ∧ (∀ j, j < bs.length → t.g.heldByte (l.key + j) = some (bs.getD j 0))
      ∧ (∀ x, x < 2 ^ 128 → x < l.key ∨ l.key + bs.length ≤ x → t.g.heldByte x = s.g.heldByte x)
      ∧ { t.g with side := s.g.side, held := s.g.held, poison := s.g.poison } = s.g := by
  obtain ⟨mem, runs⟩ := sideLogReplay_store only op hit sound
  obtain ⟨hpop, samePop, -⟩ := s.onGroup_own (f := Group.popSide e) fun _ => rfl
  obtain ⟨poison, stored⟩ := Group.replayStore_eq (g := s.g.popSide e) (e := e) (l := l) (bs := bs) open_
  obtain ⟨-, held, others⟩ := reheld_all e l bs (old := (s.g.popSide e).held) order bs.length
  have key : (s.onGroup s.g.key (Group.popSide e)).g.key = s.g.key := by rw [hpop]; rfl
  have hg : (({ s.onGroup s.g.key (Group.popSide e) with mem := mem }).onGroup s.g.key fun g => g.replayStore e l bs).g
      = (s.g.popSide e).replayStore e l bs := by
    rw [State.onGroup_g, if_pos key]
    exact congrArg (fun g : Group => g.replayStore e l bs) hpop
  have same : SameOthers s (({ s.onGroup s.g.key (Group.popSide e) with mem := mem }).onGroup s.g.key fun g => g.replayStore e l bs) :=
    (State.onGroup_same_others _ s.g.key _ fun g => g.replayStore_key e l bs).trans samePop
  refine ⟨_, runs, same, rfl, ?_⟩
  rw [hg, stored]
  refine ⟨by simp [Group.popSide, only], fun j hj => ?_, fun x small out => ?_, rfl⟩
  · rw [Group.heldByte_eq]
    dsimp only
    rw [held j hj]
    rfl
  · rw [Group.heldByte_eq, Group.heldByte_eq]
    dsimp only
    rw [others x small out]
    rfl
end Sys2Proof.Machine
end

section
/-! PROOFS. The end of fault service for a load (R22, R309; log 2, 39). -/
namespace Sys2Proof.Machine
open Sys2Proof.Safety

/-- A held load whose lanes all pass now (R309). -/
structure Served (s : State) (h : HeldOp) (w : Width) (d a : LReg) (off : BitVec 3) (la : La) (gd : Guard) (q : Nat → Spot) (loc : Nat → Loc) :
    Prop where
  load : h.i = .ld w d a off la gd
  only : s.g.heldOps = [h]
  due : h.left = 0
  lanes : h.lanes ≠ 0
  hits : ∀ l, h.lanes.has l = true →
    s.probe s.g (some l) .read false (widthBytes w) (h.a.at l + BitVec.ofNat 64 (off.toNat * widthBytes w)) = .ok (q l) (loc l)
  sound : ∀ l, h.lanes.has l = true → s.viewPoisoned s.g (h.reader s.g) (loc l) (widthBytes w) = false

namespace Served
variable {s : State} {h : HeldOp} {w : Width} {d a : LReg} {off : BitVec 3} {la : La} {gd : Guard} {q : Nat → Spot} {loc : Nat → Loc}

/-- The lanes' probes. -/
def probes (s : State) (h : HeldOp) (w : Width) (off : BitVec 3) : List Probe :=
  s.probes s.g .read false (widthBytes w) h.lanes fun l => h.a.at l + BitVec.ofNat 64 (off.toNat * widthBytes w)

theorem passes (v : Served s h w d a off la gd q loc) :
    Passes s .read false (widthBytes w) h.lanes fun l => h.a.at l + BitVec.ofNat 64 (off.toNat * widthBytes w) := by
  intro l hl
  rw [v.hits l hl]
  trivial

theorem passed_all (v : Served s h w d a off la gd q loc) : passed (probes s h w off) = h.lanes := by
  refine Mask.ext_has fun l _ => ?_
  rw [passed, probes, State.has_lanesWhere_probes]
  cases hl : h.lanes.has l with
  | false => rfl
  | true => simp [Probe.place, v.hits l hl]

theorem faulted_none (v : Served s h w d a off la gd q loc) : faulted (probes s h w off) = 0 := by
  rw [probes, faulted_probes v.passes]
  have all : passed (s.probes s.g .read false (widthBytes w) h.lanes fun l => h.a.at l + BitVec.ofNat 64 (off.toNat * widthBytes w)) = h.lanes :=
    v.passed_all
  rw [all]
  exact emLive_self _

theorem place_some (v : Served s h w d a off la gd q loc) : ∀ p ∈ probes s h w off, p.place ≠ none := by
  intro p hp
  obtain ⟨l, hl, rfl⟩ := State.mem_probes.mp hp
  simp [Probe.place, v.hits l hl]

theorem poison_none (v : Served s h w d a off la gd q loc) : s.heldPoison s.g h (probes s h w off) = false := by
  unfold State.heldPoison
  rw [v.load]
  refine List.any_eq_false.mpr fun p hp => ?_
  obtain ⟨l, hl, rfl⟩ := State.mem_probes.mp hp
  simpa [Probe.place, v.hits l hl, heldBytes] using v.sound l hl

/-- What each lane loads. -/
theorem heldLoad (v : Served s h w d a off la gd q loc) {l : Nat} (hl : h.lanes.has l = true) :
    s.heldLoad s.g h (probes s h w off) l = BitVec.ofNat 64 (s.viewRead s.g (h.reader s.g) l (loc l) (widthBytes w)) := by
  unfold State.heldLoad
  rw [v.load]
  simp [heldBytes, State.loaded, probes, State.probeOf_probes hl, Probe.place, v.hits l hl]

/-- The group that the end of fault service leaves. -/
def group (s : State) (h : HeldOp) (w : Width) (off : BitVec 3) (g : Group) : Group :=
  (g.heldResult h (passed (probes s h w off)) (s.heldLoad g h (probes s h w off))).heldLeft h (faulted (probes s h w off))

theorem heldResult_eq (v : Served s h w d a off la gd q loc) (g : Group) (f : Nat → Word) : g.heldResult h h.lanes f = g.writeL h.lanes d f := by
  unfold Group.heldResult
  rw [if_neg v.lanes, v.load]
  simp only [v.due]
  rfl

theorem group_eq (v : Served s h w d a off la gd q loc) (g : Group) :
    group s h w off g = (g.writeL h.lanes d (s.heldLoad g h (probes s h w off))).heldLeft h 0 := by
  rw [group, v.passed_all, v.faulted_none, v.heldResult_eq]

/-- The lanes are served at once. -/
theorem serveHeld_eq (v : Served s h w d a off la gd q loc) (here : s.g.offCore = false) : ∃ mem olds traffic,
    s.serveHeld s.g.key h = ({ s with mem := mem, olds := olds, traffic := traffic }).onGroup s.g.key (group s h w off) := by
  obtain ⟨mem, olds, faults, traffic, e, -, quiet⟩ := s.seenAll_installAll_rest (h.reader s.g) (widthBytes w) .read (probes s h w off)
  obtain rfl := quiet v.place_some
  refine ⟨mem, olds, traffic, ?_⟩
  have ps : s.heldProbes s.g h = probes s h w off := by
    unfold State.heldProbes
    rw [v.load]
    rfl
  have seen : (s.heldSeen s.g h (probes s h w off)).heldInstall s.g h (probes s h w off)
      = { s with mem := mem, olds := olds, traffic := traffic } := by
    refine Eq.trans ?_ e
    unfold State.heldSeen State.heldInstall
    rw [v.load]
    rfl
  have plain : isAtomic h.i = false := by rw [v.load]; rfl
  have traps : trapOf (probes s h w off) = none := trapOf_of_passes v.passes
  have lost : lostOf (probes s h w off) = none := lostOf_of_passes v.passes
  unfold State.serveHeld
  rw [State.group?_turn rfl]
  dsimp only
  rw [ps, traps, lost, v.passed_all, if_neg (by simp [v.only, plain, here])]
  dsimp only
  rw [if_neg v.lanes, v.poison_none, plain, seen]
  simp only [Bool.false_eq_true, if_false]
  unfold group
  rw [v.passed_all]

theorem group_key (v : Served s h w d a off la gd q loc) (g : Group) : (group s h w off g).key = g.key := by
  rw [v.group_eq]
  exact g.writeL_key _ _ _

theorem group_wait (v : Served s h w d a off la gd q loc) (g : Group) : (group s h w off g).wait = g.wait := by
  rw [v.group_eq]
  exact g.writeL_wait _ _ _

end Served

/-- With nobody in a wait, nobody's wait ends (R239). -/
theorem State.satisfyAll_of_idle {s : State} (p : Group → Wait → Bool) (idle : ∀ g ∈ s.groups, g.wait = none) : s.satisfyAll p = s := by
  have none : s.waiters p = [] := by
    refine (congrArg (sortBy _) (List.filter_eq_nil_iff.mpr fun g hg => ?_)).trans rfl
    simp [Group.waiting, idle g hg]
  rw [State.satisfyAll, none]
  rfl

theorem State.onGroup_idle {s : State} {k : Nat} {f : Group → Group} (hf : ∀ g, (f g).wait = g.wait) (idle : ∀ g ∈ s.groups, g.wait = none) :
    ∀ g ∈ (s.onGroup k f).groups, g.wait = none := by
  have e : (s.onGroup k f).groups = s.groups.map fun g => if g.key = k then f g else g := rfl
  rw [e]
  intro g hg
  obtain ⟨x, hx, rfl⟩ := List.mem_map.mp hg
  split
  · rw [hf, idle x hx]
  · exact idle x hx

theorem State.releaseFetch_none {s : State} (h : s.g.fetchHeld = none) : s.releaseFetch s.g.key = s := by
  unfold State.releaseFetch
  rw [State.group?_turn rfl]
  dsimp only
  rw [h]

theorem faultServiceEnd_load {s : State} {h : HeldOp} {w : Width} {d a : LReg} {off : BitVec 3} {la : La} {gd : Guard} {q : Nat → Spot}
    {loc : Nat → Loc} (v : Served s h w d a off la gd q loc) (fetched : s.g.fetchHeld = none) (here : s.g.offCore = false)
    (idle : ∀ g ∈ s.groups, g.wait = none) :
    Completes (.faultServiceEnd s.g.key) s fun t => SameOthers s t
      ∧ t = { s with g := t.g, others := t.others, mem := t.mem, olds := t.olds, traffic := t.traffic }
      ∧ t.g.heldOps = [] ∧ (∀ r, r ≠ d → t.g.lreg r = s.g.lreg r)
      ∧ ∀ l, t.g.lane d l = if h.lanes.has l then BitVec.ofNat 64 (s.viewRead s.g (h.reader s.g) l (loc l) (widthBytes w)) else s.g.lane d l := by
  obtain ⟨mem, olds, traffic, served⟩ := v.serveHeld_eq here
  have runs : exec (.faultServiceEnd s.g.key) s
      = .next (({ s with mem := mem, olds := olds, traffic := traffic }).onGroup s.g.key (Served.group s h w off)) := by
    have e : exec (.faultServiceEnd s.g.key) s = execFaultServiceEnd s.g.key s := rfl
    rw [e, execFaultServiceEnd, State.group?_turn rfl]
    dsimp only
    rw [State.releaseFetch_none fetched, v.only, List.foldl_cons, List.foldl_nil, served,
      State.satisfyAll_of_idle _ (State.onGroup_idle (s := { s with mem := mem, olds := olds, traffic := traffic }) v.group_wait idle)]
  obtain ⟨hg, same, -⟩ := State.onGroup_own { s with mem := mem, olds := olds, traffic := traffic } v.group_key
  refine ⟨_, runs, same, rfl, ?_⟩
  rw [hg, v.group_eq]
  refine ⟨?_, fun r hr => s.g.lreg_writeL _ _ _ _ hr, fun l => ?_⟩
  · simp [Group.heldLeft, v.only]
  · refine (s.g.lane_writeL h.lanes d d _ l).trans ?_
    simp only [true_and]
    split
    next hl => exact v.heldLoad hl
    · rfl
end Sys2Proof.Machine
end

section
/-! PROOFS. The events of a group's memory path together. -/
namespace Sys2Proof.Machine
open Sys2Proof.Safety

/-- Settles O43: each event by the change of the group that it brings. -/
theorem groupEvents : Obligations.GroupEvents := by
  intro s idx n page f rest loc k own
  refine ⟨?results, ?ack, ?drain, ?replay, ?served, rfl, ?sreg, ?preg, softError_entry s n, ?vreg⟩
  case results =>
    intro p stands due clean
    exact ⟨fun file named => longLatencyResult_lanes stands due clean file named,
      fun file lanes => longLatencyResult_scalar stands due clean file lanes⟩
  case ack => exact fun reds single => redAck_pops reds single
  case drain => exact fun h sc stands fixed pad wf free sound => drainComplete_pad stands fixed pad wf free sound
  case replay =>
    intro e bs q l only op at_ hit open_ sound order
    subst at_
    exact sideLogReplay_holds only op hit open_ sound order
  case served =>
    intro h w d a off la g q lc only load due lanes fetched here idle hits
    exact faultServiceEnd_load
      { load := load, only := only, due := due, lanes := lanes, hits := fun l hl => (hits l hl).1, sound := fun l hl => (hits l hl).2 }
      fetched here idle.1
  case sreg => exact fun r => softError_marks rfl
  case preg => exact fun r => softError_marks rfl
  case vreg =>
    intro r
    by_cases h : r.toNat < 56
    · rw [if_pos h]
      exact softError_marks (congrArg (fun m => s.onGroup s.g.key (Group.spoil m)) (if_pos (by simpa [isV] using h)))
    · rw [if_neg h]
      exact softError_marks (congrArg (fun m => s.onGroup s.g.key (Group.spoil m)) (if_neg (by simpa [isV] using h)))
end Sys2Proof.Machine
end

section
/-! PROOFS. The watchdog, the resume of a halted group, and its removal (R21, R239, R320). -/
namespace Sys2Proof.Machine
open Sys2Proof.Safety

theorem State.mapGroups_pair (s : State) {g : Group} (single : g.twin = none) (f : Group → Group) :
    (s.mapGroups fun x => if x.key == g.key || some x.key == g.twin then f x else x) = s.onGroup g.key f := by
  simp [State.onGroup, single]

def Group.timedOut (tick : Nat) (g : Group) : Group :=
  { g with halted := some .frozen, haltTick := tick, port := none, runLen := 0, last := .stalled }

theorem State.freeze_single (s : State) (single : s.g.twin = none) : s.freeze s.g = s.onGroup s.g.key (Group.timedOut s.tick) :=
  s.mapGroups_pair single (Group.timedOut s.tick)

theorem watchdog_freezes {s : State} (live : s.g.ended = false) (runs : s.g.halted = none) (out : s.wdLimit ≤ s.g.watchdog)
    (single : s.g.twin = none) : exec (.watchdog s.g.key) s
      = .next (((s.onGroup s.g.key (Group.timedOut s.tick)).report .watchdog s.g [s.g.pc.toNat]).box 6 s.g.core.die s.g.gid) := by
  show execWatchdog s.g.key s = _
  simp [execWatchdog, State.group?_turn rfl, live, runs, Nat.not_lt.mpr out, s.freeze_single single]

/-- The group that a request names by its GID. -/
def Group.goesBy (gid : Word) (g : Group) : Bool := g.gid == gid && !g.ended && g.key != 0

theorem groupResume_nobody {s : State} {gid : Word} (none_ : ∀ g ∈ s.groups, g.gid = gid → g.ended = true) :
    Answers (.groupResume gid) 1 s := by
  have missing : s.groups.find? (Group.goesBy gid) = none := List.find?_eq_none.mpr fun g hg => by
    intro is
    simp only [Group.goesBy, Bool.and_eq_true, beq_iff_eq, Bool.not_eq_true'] at is
    exact absurd (none_ g hg is.1.1) (by simp [is.1.2])
  show execGroupResume gid s = _
  rw [execGroupResume, show (s.groups.find? fun g => g.gid == gid && !g.ended && g.key != 0) = none from missing]

theorem find_turn {s : State} (live : s.g.ended = false) (key : s.g.key ≠ 0) :
    (s.groups.find? fun g => g.gid == s.g.gid && !g.ended && g.key != 0) = some s.g := by
  simp [State.groups, live, key]

theorem groupResume_frozen {s : State} (live : s.g.ended = false) (key : s.g.key ≠ 0) (frozen : s.g.halted = some .frozen) :
    Answers (.groupResume s.g.gid) 1 s := by
  show execGroupResume s.g.gid s = _
  rw [execGroupResume, find_turn live key]
  simp only [frozen]

theorem groupResume_trap {s : State} (live : s.g.ended = false) (key : s.g.key ≠ 0) (trap : s.g.halted = some .trap)
    (single : s.g.twin = none) :
    exec (.groupResume s.g.gid) s = .next ((s.onGroup s.g.key Group.resumeTrap).reply 0) := by
  show execGroupResume s.g.gid s = _
  rw [execGroupResume, find_turn live key]
  simp only [trap]
  rw [s.mapGroups_pair single]

/-! Removal. -/

/-- What the end of a group leaves of it (R239). -/
def Group.removed (g : Group) : Group :=
  { g.unwait with
    qw := 0, em := 0, live := 0, ended := true, borrow := .idle, port := none, held := [], heldT := [], side := [], heldOps := []
    drains := [], bound := none, reds := [], pendS := [], joins := [], inflight := [], runLen := 0 }

/-- The state in which the team of a removed group hears of its end. -/
def State.bereft (s : State) : State :=
  ((((s.dropWaits s.g.holds).giveBack s.greach s.g.domain s.g.qw.toNat true).onGroup s.g.key Group.removed).onCore s.g.core
    fun c => { c with claims := c.claims.filter fun x => x.2.1 != s.g.key }).tilesFreed s.greach s.g.core

theorem State.giveBack_eq (s : State) (r : BitVec 4) (d : BitVec 10) (units : Nat) (lost : Bool) : s.giveBack r d units lost = { s with
    returns := s.returns ++ if units = 0 then [] else [{ reach := r, domain := d, units := units, lost := lost, src := none }] } := by
  unfold State.giveBack
  by_cases h : units = 0 <;> simp [h]

def State.lostWeight (s : State) : List Return := if s.g.qw = 0 then [] else
  [{ reach := s.greach, domain := s.g.domain, units := s.g.qw.toNat, lost := true, src := none }]

theorem map_apart {k : Nat} {gs : List Group} (apart : ∀ y ∈ gs, y.key ≠ k) (f : Group → Group) :
    gs.map (fun y => if y.key = k then f y else y) = gs := by
  conv_rhs => rw [← gs.map_id]
  exact List.map_congr_left fun y hy => if_neg (apart y hy)

theorem State.bereft_eq {s : State} (free : (s.core s.g.core).claims = []) (apart : ∀ y ∈ s.others, y.key ≠ s.g.key) :
    ∃ cores proms, s.bereft = { s with g := s.g.removed, returns := s.returns ++ s.lostWeight, cores := cores, proms := proms } := by
  have weight : (if s.g.qw.toNat = 0 then []
      else [{ reach := s.greach, domain := s.g.domain, units := s.g.qw.toNat, lost := true, src := none }]) = s.lostWeight := by
    simp [State.lostWeight, BitVec.toNat_eq]
  have out : ∀ u : State, (u.core s.g.core).claims = [] → u.tilesFreed s.greach s.g.core = u := fun u h => by
    simp [State.tilesFreed, h, State.serveClaims]
  rw [State.bereft, State.giveBack_eq, weight]
  generalize hu : State.onGroup _ _ _ = u
  have core : u.core = s.core := by subst hu; rfl
  have gone : u = { s with g := s.g.removed, returns := s.returns ++ s.lostWeight, proms := u.proms } := by
    subst hu
    simp [State.onGroup, State.mapGroups, State.dropWaits, map_apart apart]
  rw [out, State.onCore_onlyCores, gone]
  · exact ⟨_, _, rfl⟩
  · rw [State.core_onCore u s.g.core (f := fun c => { c with claims := c.claims.filter fun x => x.2.1 != s.g.key }) fun _ => rfl,
      if_pos rfl]
    simp [core, free]

/-- A team that notes the end of one of its groups (R156). -/
def Team.without (idx : Nat) (t : Team) : Team := { t with gone := t.gone ||| oneLane idx }

/-- A group without a twin that ends while another group of its team lives: its team keeps its room (R156, R239). -/
theorem State.endGroup_member {s : State} {t0 : Team} {x : Group} (live : s.g.ended = false) (single : s.g.twin = none)
    (free : (s.core s.g.core).claims = []) (team : s.teamOf? s.g = some t0) (bars : t0.bars = []) (other : x ∈ s.others)
    (lives : x.ended = false) (member : t0.holds x = true) (apart : ∀ y ∈ s.others, y.key ≠ s.g.key) :
    s.endGroup s.g.key true = s.bereft.onTeamOnly t0 (Team.without s.g.idx) := by
  obtain ⟨cores, proms, eq⟩ := State.bereft_eq free apart
  have follower : s.g.follower = false := by simp [Group.follower, single]
  have found : s.bereft.teamOf? s.g = some t0 := by rw [eq]; exact team
  have again : (s.bereft.onTeamOnly t0 (Team.without s.g.idx)).teamOf? s.g = some (t0.without s.g.idx) := by
    have updated := find?_updAll (p := fun y : Team => y.same t0) (q := fun t : Team => t.holds s.g) (f := Team.without s.g.idx)
      (fun _ => rfl) s.bereft.teams
    rw [show s.bereft.teams.find? (fun t => t.holds s.g) = some t0 from found] at updated
    simpa [State.teamOf?, State.onTeamOnly, Team.same] using updated
  have occupied : ((s.bereft.onTeamOnly t0 (Team.without s.g.idx)).liveOf (t0.without s.g.idx)).isEmpty = false := by
    refine List.isEmpty_eq_false_iff.mpr (List.ne_nil_of_mem (a := x) (List.mem_filter.mpr ⟨?_, ?_⟩))
    · rw [eq]; exact List.mem_cons_of_mem _ other
    · rw [lives, show (t0.without s.g.idx).holds x = true from member]; rfl
  unfold State.endGroup
  rw [State.group?_turn rfl]
  simp only [live, follower, Bool.false_eq_true, if_false]
  show (match s.bereft.teamOf? s.g with
    | none => s.bereft
    | some t => match (State.memberEnded (s.bereft.onTeamOnly t (Team.without s.g.idx)) (t.without s.g.idx) s.g.idx).teamOf? s.g with
      | some u => (State.memberEnded (s.bereft.onTeamOnly t (Team.without s.g.idx)) (t.without s.g.idx) s.g.idx).endTeam u
      | none => State.memberEnded (s.bereft.onTeamOnly t (Team.without s.g.idx)) (t.without s.g.idx) s.g.idx) = _
  rw [found]
  have quiet : ∀ u : State, u.memberEnded (t0.without s.g.idx) s.g.idx = u := fun u => by simp [State.memberEnded, Team.without, bars]
  simp only [quiet, again]
  simp [State.endTeam, occupied]

theorem launchRemoval_member {s : State} {t0 : Team} {x : Group} (live : s.g.ended = false) (halted : s.g.halted ≠ none)
    (single : s.g.twin = none) (free : (s.core s.g.core).claims = []) (team : s.teamOf? s.g = some t0) (bars : t0.bars = [])
    (other : x ∈ s.others) (lives : x.ended = false) (member : t0.holds x = true) (apart : ∀ y ∈ s.others, y.key ≠ s.g.key) :
    Completes (.launchRemoval s.g.launch (some s.g.key)) s fun t => t.g.ended = true ∧ t.g.live = 0 ∧ t.g.em = 0 ∧ t.g.qw = 0
      ∧ t.others = s.others ∧ SameBytes s t ∧ t.returns = s.returns ++ s.lostWeight := by
  obtain ⟨cores, proms, eq⟩ := State.bereft_eq free apart
  refine ⟨s.bereft.onTeamOnly t0 (Team.without s.g.idx), ?_, ?_⟩
  · show execLaunchRemoval s.g.launch (some s.g.key) s = _
    have ends := State.endGroup_member live single free team bars other lives member apart
    simp [execLaunchRemoval, State.group?_turn rfl, State.removeGroup, single, ends, Option.isSome_iff_ne_none.mpr halted]
  · rw [eq]
    exact ⟨rfl, rfl, rfl, rfl, rfl, fun _ => rfl, rfl⟩
end Sys2Proof.Machine
end

section
/-! PROOFS. The in-field test of a cluster (R320, R321). -/
namespace Sys2Proof.Machine
open Sys2Proof.Safety

/-- The groups that the test of a cluster stops. -/
def underTest (die cluster : Nat) (g : Group) : Bool := g.core.die == die && g.core.cluster == cluster && g.going && g.key != 0

theorem Group.settleAll_pc (tick : Nat) (g : Group) : (g.settleAll tick).pc = g.pc :=
  (congrArg Group.pc (g.settleAll_withRegisters tick) :)
@[simp] theorem Group.halt_pc (tick age : Nat) (g : Group) : (g.halt tick age).pc = g.pc := g.settleAll_pc tick
@[simp] theorem Group.halt_em (tick age : Nat) (g : Group) : (g.halt tick age).em = g.em := g.settleAll_em tick

theorem infieldTest_untested {s : State} {die cluster : Nat} (h : (die, cluster) ∈ s.fenced ∨ s.testEvery = 0) (pass : Bool) :
    exec (.infieldTest die cluster pass) s = .next s := by
  show execInfieldTest die cluster pass s = _
  have barred : (s.fenced.contains (die, cluster) || s.testEvery == 0) = true := by simpa using h
  exact if_pos barred

theorem infieldTest_tests {s : State} {die cluster : Nat} (whole : (die, cluster) ∉ s.fenced) (tests : s.testEvery ≠ 0) (pass : Bool) :
    exec (.infieldTest die cluster pass) s = .next (if pass then
        (s.endRuns (underTest die cluster) (Group.halt s.tick)).testPassed die cluster
      else (s.endRuns (underTest die cluster) (Group.halt s.tick)).fence die cluster) := by
  show execInfieldTest die cluster pass s = _
  simp only [execInfieldTest, List.contains_iff_mem, whole, beq_iff_eq, tests, Bool.or_eq_true, or_self, if_false]
  rfl

theorem infieldTest_pass {s : State} {die cluster : Nat} (whole : (die, cluster) ∉ s.fenced) (tests : s.testEvery ≠ 0) :
    Completes (.infieldTest die cluster true) s fun t => t.fenced = s.fenced ∧ (die, cluster, s.tick) ∈ t.tested
      ∧ t = { s with g := t.g, others := t.others, fresh := t.fresh, tested := t.tested, hosted := t.hosted, icache := t.icache }
      ∧ t.g.em = s.g.em ∧ t.g.pc = s.g.pc
      ∧ ∀ g ∈ t.groups, (g.core.die = die ∧ g.core.cluster = cluster) → g.key ≠ 0 → g.going = true → g.runLen = 0 ∧ g.port = none := by
  have halts : ∀ (g : Group) (age : Nat), let x := if underTest die cluster g then g.halt s.tick age else g
      underTest die cluster x = true → x.runLen = 0 ∧ x.port = none := by
    intro g age x is
    by_cases hg : underTest die cluster g = true
    · rw [show x = g.halt s.tick age from if_pos hg]; exact ⟨rfl, rfl⟩
    · rw [show x = g from if_neg hg] at is; exact absurd is hg
  refine ⟨_, infieldTest_tests whole tests true, rfl, List.mem_cons_self, rfl, ?_, ?_, ?_⟩
  · show (if underTest die cluster s.g then s.g.halt s.tick s.fresh else s.g).em = _
    simp [apply_ite Group.em]
  · show (if underTest die cluster s.g then s.g.halt s.tick s.fresh else s.g).pc = _
    simp [apply_ite Group.pc]
  · intro g hg on key going
    have is : underTest die cluster g = true := by simp [underTest, on.1, on.2, key, going]
    obtain rfl | hg := List.mem_cons.mp hg
    · exact halts s.g s.fresh is
    · obtain ⟨y, -, rfl⟩ := List.mem_map.mp hg
      exact halts y s.fresh is

/-! The teams of a fenced cluster leave it. -/

/-- A team at a later time: its name and core are as before, and it has not come to a core. -/
structure Team.Becomes (x y : Team) : Prop where
  launch : y.launch = x.launch
  idx : y.idx = x.idx
  follower : y.follower = x.follower
  core : y.core = x.core
  stays : y.at_ = .resident → x.at_ = .resident

theorem Team.Becomes.refl (x : Team) : x.Becomes x := ⟨rfl, rfl, rfl, rfl, id⟩

theorem Team.Becomes.trans {x y z : Team} (h : x.Becomes y) (k : y.Becomes z) : x.Becomes z :=
  ⟨k.launch.trans h.launch, k.idx.trans h.idx, k.follower.trans h.follower, k.core.trans h.core, h.stays ∘ k.stays⟩

/-- What the swapping out of teams keeps: no team comes to a core, no notice and no fence is lost, no launch changes its class. -/
structure Vacates (s t : State) : Prop where
  teams : ∀ y ∈ t.teams, ∃ x ∈ s.teams, x.Becomes y
  events : ∀ e ∈ s.events, e ∈ t.events
  fenced : t.fenced = s.fenced
  classes : t.effective = s.effective

theorem Vacates.refl (s : State) : Vacates s s := ⟨fun y hy => ⟨y, hy, .refl y⟩, fun _ h => h, rfl, rfl⟩

theorem Vacates.trans {s t u : State} (h : Vacates s t) (k : Vacates t u) : Vacates s u where
  teams z hz := by
    obtain ⟨y, hy, becomes⟩ := k.teams z hz
    obtain ⟨x, hx, became⟩ := h.teams y hy
    exact ⟨x, hx, became.trans becomes⟩
  events e he := k.events e (h.events e he)
  fenced := k.fenced.trans h.fenced
  classes := k.classes.trans h.classes

theorem State.effective_congr {s t : State} (proms : t.proms = s.proms) (launches : t.launches = s.launches) (away : t.away = s.away) :
    t.effective = s.effective := by
  funext lid
  simp only [State.effective, State.declared, State.desc, State.launch?, proms, launches, away]

/-- A change that touches no team. -/
theorem Vacates.of_teams {s t : State} (teams : t.teams = s.teams) (events : t.events = s.events) (fenced : t.fenced = s.fenced)
    (proms : t.proms = s.proms) (launches : t.launches = s.launches) (away : t.away = s.away) : Vacates s t where
  teams y hy := (Vacates.refl s).teams y (teams ▸ hy)
  events _ he := events ▸ he
  fenced := fenced
  classes := State.effective_congr proms launches away

theorem Vacates.onTeamOnly (s : State) (t : Team) {f : Team → Team} (hf : ∀ x, Team.Becomes x (f x)) : Vacates s (s.onTeamOnly t f) where
  teams y hy := by
    obtain ⟨x, hx, rfl⟩ := List.mem_map.mp hy
    refine ⟨x, hx, ?_⟩
    split
    · exact hf x
    · exact .refl x
  events _ h := h
  fenced := rfl
  classes := State.effective_congr rfl rfl rfl

theorem Vacates.onCore (s : State) (c : CoreId) (f : CoreSt → CoreSt) : Vacates s (s.onCore c f) := by
  rw [State.onCore_onlyCores]
  exact .of_teams rfl rfl rfl rfl rfl rfl

theorem Vacates.saveWatch (s : State) (t : Team) : Vacates s (s.saveWatch t) := by
  unfold State.saveWatch
  dsimp only
  split
  · refine .trans (.onTeamOnly s t fun _ => ?_) (.onCore _ _ _)
    exact ⟨rfl, rfl, rfl, rfl, id⟩
  · exact .refl s

theorem Vacates.copyPad (s : State) (src dst n : Nat) : Vacates s (s.copyPad src dst n) := by
  unfold State.copyPad
  split
  · exact .refl s
  · exact .of_teams rfl rfl rfl rfl rfl rfl

theorem Vacates.endRuns (s : State) (p : Group → Bool) (f : Nat → Group → Group) : Vacates s (s.endRuns p f) :=
  .of_teams rfl rfl rfl rfl rfl rfl

theorem Vacates.restoreWatch (s : State) (t : Team) : Vacates s (s.restoreWatch t) := by
  unfold State.restoreWatch
  split
  · exact .refl s
  · dsimp only
    split
    · refine .trans (.onTeamOnly s t fun _ => ?_) (.onCore _ _ _)
      exact ⟨rfl, rfl, rfl, rfl, id⟩
    · split
      · exact .refl s
      · exact ⟨(Vacates.refl s).teams, fun _ h => List.mem_append_left _ h, rfl, State.effective_congr rfl rfl rfl⟩

theorem Vacates.applyWatches (s : State) (c : CoreId) : Vacates s (s.applyWatches c) := by
  unfold State.applyWatches
  split
  · split
    · exact .restoreWatch s _
    · exact .refl s
  · exact .refl s

theorem Vacates.keepHeader (s : State) (r : BitVec 4) : Vacates s (s.keepHeader r) := by
  unfold State.keepHeader
  dsimp only
  split
  · exact .of_teams rfl rfl rfl rfl rfl rfl
  · split
    · exact .of_teams rfl rfl rfl rfl rfl rfl
    · exact .of_teams rfl rfl rfl rfl rfl rfl

/-- The state in which a team's groups stand halted and its region is copied out. -/
def State.packed (s : State) (t : Team) : State :=
  let s := s.saveWatch t
  let s := s.copyPad (s.regionKey t) (ctxKey t) (1024 * (s.desc t.launch).scratch)
  s.endRuns (fun g => t.holds g && !g.ended && !g.spilled) fun age g => (g.halt s.tick age).spill

theorem Vacates.packed (s : State) (t : Team) : Vacates s (s.packed t) := by
  unfold State.packed
  exact .trans (.saveWatch s t) (.trans (.copyPad _ _ _ _) (.endRuns _ _ _))

def Team.swappedOut (t : Team) : Team := { t with at_ := .swapped, charged := none }

theorem State.swapOne_eq (s : State) (t : Team) : s.swapOne t
    = (((s.packed t).onTeamOnly t Team.swappedOut).applyWatches t.core).keepHeader ((s.packed t).reachOf t.launch) := rfl

theorem Team.becomes_swappedOut (t : Team) : t.Becomes t.swappedOut := ⟨rfl, rfl, rfl, rfl, fun h => nomatch h⟩

theorem Vacates.swapOne (s : State) (t : Team) : Vacates s (s.swapOne t) :=
  .trans (.packed s t) (.trans (.onTeamOnly _ t Team.becomes_swappedOut) (.trans (.applyWatches _ _) (.keepHeader _ _)))

/-- None of the named teams stands on a core. -/
def Absent (p : Team → Bool) (s : State) : Prop := ∀ y ∈ s.teams, p y = true → y.at_ ≠ .resident

theorem Absent.vacates {p : Team → Bool} (hp : ∀ x y : Team, x.Becomes y → p y = p x) {s t : State} (h : Absent p s) (v : Vacates s t) :
    Absent p t := by
  intro y hy named here
  obtain ⟨x, hx, becomes⟩ := v.teams y hy
  exact h x hx ((hp x y becomes).symm.trans named) (becomes.stays here)

theorem absent_onTeamOnly (s : State) (t : Team) : Absent (fun y => y.same t) (s.onTeamOnly t Team.swappedOut) := by
  intro y hy same
  obtain ⟨x, -, rfl⟩ := List.mem_map.mp hy
  dsimp only at same ⊢
  by_cases h : x.same t = true
  · rw [if_pos h]; exact fun k => nomatch k
  · rw [if_neg h] at same; exact absurd same h

theorem same_becomes (t : Team) {x y : Team} (h : x.Becomes y) : y.same t = x.same t := by
  simp only [Team.same, h.launch, h.idx, h.follower]

theorem absent_swapOne (s : State) (t : Team) : Absent (fun y => y.same t) (s.swapOne t) :=
  (absent_onTeamOnly (s.packed t) t).vacates (fun _ _ => same_becomes t) (.trans (.applyWatches _ _) (.keepHeader _ _))

/-- Where each step sends one kind of team away and brings none back, all the kinds are away at the end. -/
theorem absent_foldl {p : Team → Team → Bool} (hp : ∀ t x y : Team, x.Becomes y → p t y = p t x) {f : State → Team → State}
    (vacates : ∀ s t, Vacates s (f s t)) (absent : ∀ s t, Absent (p t) (f s t)) (ts : List Team) :
    ∀ s, Vacates s (ts.foldl f s) ∧ ∀ t ∈ ts, Absent (p t) (ts.foldl f s) := by
  induction ts with
  | nil => exact fun s => ⟨.refl s, fun _ h => nomatch h⟩
  | cons t ts ih =>
    intro s
    obtain ⟨later, rest⟩ := ih (f s t)
    refine ⟨(vacates s t).trans later, fun u hu => ?_⟩
    obtain rfl | hu := List.mem_cons.mp hu
    · exact (absent s u).vacates (hp u) later
    · exact rest u hu

def Team.isNamed (lid : BitVec 32) (idx : Nat) (t : Team) : Bool := t.launch == lid && t.idx == idx

theorem isNamed_becomes (lid : BitVec 32) (idx : Nat) {x y : Team} (h : x.Becomes y) : y.isNamed lid idx = x.isNamed lid idx := by
  simp only [Team.isNamed, h.launch, h.idx]

theorem swapOut_vacates (s : State) (lid : BitVec 32) (idx : Nat) :
    Vacates s (s.swapOut lid idx) ∧ Absent (Team.isNamed lid idx) (s.swapOut lid idx) := by
  obtain ⟨vacates, absent⟩ := absent_foldl (p := fun t y => y.same t) (fun t _ _ => same_becomes t) Vacates.swapOne absent_swapOne
    (s.teams.filter fun t => t.launch == lid && t.idx == idx && t.at_ == .resident) s
  refine ⟨vacates, fun y hy named here => ?_⟩
  obtain ⟨x, hx, becomes⟩ := vacates.teams y hy
  have stood : x ∈ s.teams.filter fun t => t.launch == lid && t.idx == idx && t.at_ == .resident := by
    have xnamed := (isNamed_becomes lid idx becomes).symm.trans named
    simp only [Team.isNamed] at xnamed
    simp [hx, xnamed, becomes.stays here]
  exact absent x stood y hy (by simp [Team.same, becomes.launch, becomes.idx, becomes.follower]) here

theorem State.launch?_map {s t : State} {f : Launch → Launch} (launches : t.launches = s.launches.map f) (lid : ∀ l, (f l).lid = l.lid)
    (n : BitVec 32) : t.launch? n = (s.launch? n).map f := by
  simp only [State.launch?, launches, List.find?_map, Function.comp_def, lid]

theorem State.declared_map {s t : State} {f : Launch → Launch} (launches : t.launches = s.launches.map f) (away : t.away = s.away)
    (lid : ∀ l, (f l).lid = l.lid) (desc : ∀ l, (f l).desc = l.desc) : t.declared = s.declared := by
  funext n
  simp only [State.declared, State.desc, State.launch?_map launches lid, away]
  cases s.launch? n with
  | none => rfl
  | some l => simp [desc]

theorem State.effective_map {s t : State} {f : Launch → Launch} {q : Prom → Bool} {p : Prom → Prom}
    (launches : t.launches = s.launches.map f)
    (proms : t.proms = updAll q p s.proms) (away : t.away = s.away) (lid : ∀ l, (f l).lid = l.lid) (desc : ∀ l, (f l).desc = l.desc)
    (target : ∀ x, (p x).target = x.target) (cls : ∀ x, (p x).cls = x.cls) : t.effective = s.effective := by
  funext n
  simp only [State.effective, proms, updAll, List.filter_map, List.foldl_map, Function.comp_def, apply_ite Prom.target,
    apply_ite Prom.cls, target, cls, ite_self, State.declared_map launches away lid desc]

theorem Vacates.uncharge (s : State) (t : Team) : Vacates s (s.uncharge t) := by
  unfold State.uncharge
  split
  · exact .refl s
  · dsimp only
    refine .trans ?classes (.onTeamOnly _ t fun _ => ?place)
    case classes =>
      exact ⟨(Vacates.refl s).teams, fun _ h => h, rfl,
        State.effective_map rfl rfl rfl (fun _ => rfl) (fun _ => rfl) (fun _ => rfl) fun _ => rfl⟩
    case place => exact ⟨rfl, rfl, rfl, rfl, fun h => h⟩

/-! A failed test. -/

/-- The fence stands, its notice is sent, and the cluster's teams have still to leave (R321). -/
def State.fencing (s : State) (die cluster : Nat) : State := { s.suspectInterval die cluster with
  fenced := (die, cluster) :: s.fenced
  tested := (die, cluster, s.tick) :: s.tested.filter fun x => !(x.1 == die && x.2.1 == cluster) }

def State.standing (s : State) (die cluster : Nat) : List Team :=
  s.teams.filter fun t => t.at_ == .resident && t.core.die == die && t.core.cluster == cluster

theorem State.mem_standing {s : State} {die cluster : Nat} {y : Team} : y ∈ s.standing die cluster
    ↔ y ∈ s.teams ∧ y.at_ = .resident ∧ y.core.die = die ∧ y.core.cluster = cluster := by
  simp [State.standing, and_assoc]

def State.vacated (s : State) (die cluster : Nat) : State :=
  (s.standing die cluster).foldl (fun s t => (s.uncharge t).swapOut t.launch t.idx) (s.fencing die cluster)

theorem State.vacated_spec (s : State) (die cluster : Nat) : Vacates (s.fencing die cluster) (s.vacated die cluster)
    ∧ ∀ t ∈ s.standing die cluster, Absent (Team.isNamed t.launch t.idx) (s.vacated die cluster) :=
  absent_foldl (p := fun t => Team.isNamed t.launch t.idx) (fun _ _ _ h => isNamed_becomes _ _ h)
    (fun s t => .trans (.uncharge s t) (swapOut_vacates _ _ _).1) (fun _ _ => (swapOut_vacates _ _ _).2) _ _

/-- Where no Held team has to leave, none has to be given another core. -/
theorem State.fence_eq {s : State} {die cluster : Nat}
    (lesser : ∀ y ∈ s.teams, y.at_ = .resident → (y.core.die = die ∧ y.core.cluster = cluster) → s.effective y.launch ≠ .held) :
    s.fence die cluster = s.vacated die cluster := by
  have classes : (s.vacated die cluster).effective = s.effective :=
    (s.vacated_spec die cluster).1.classes.trans (State.effective_congr rfl rfl rfl)
  have nobody : ((s.vacated die cluster).teams.filter fun t => !t.follower && (s.vacated die cluster).effective t.launch == .held
      && t.at_ == .swapped && among (s.standing die cluster) t) = [] := by
    refine List.filter_eq_nil_iff.mpr fun t _ is => ?_
    simp only [among, classes, Bool.and_eq_true, List.any_eq_true, beq_iff_eq] at is
    obtain ⟨⟨⟨-, held⟩, -⟩, y, hy, launch, -⟩ := is
    obtain ⟨mem, here, on⟩ := State.mem_standing.mp hy
    exact lesser y mem here on (launch ▸ held)
  show (sortBy Team.older ((s.vacated die cluster).teams.filter fun t => !t.follower && (s.vacated die cluster).effective t.launch == .held
      && t.at_ == .swapped && among (s.standing die cluster) t)).foldl State.rescue (s.vacated die cluster) = _
  rw [nobody]
  rfl

theorem fence_vacates {s : State} {die cluster : Nat}
    (lesser : ∀ y ∈ s.teams, y.at_ = .resident → (y.core.die = die ∧ y.core.cluster = cluster) → s.effective y.launch ≠ .held) :
    (die, cluster) ∈ (s.fence die cluster).fenced
      ∧ (∀ y ∈ (s.fence die cluster).teams, y.at_ = .resident → ¬(y.core.die = die ∧ y.core.cluster = cluster))
      ∧ ∃ e ∈ (s.fence die cluster).events, e.kind = .suspectInterval := by
  obtain ⟨vacates, absent⟩ := s.vacated_spec die cluster
  rw [State.fence_eq lesser]
  refine ⟨?_, fun y hy here on => ?_, ?_⟩
  · rw [vacates.fenced]
    exact List.mem_cons_self
  · obtain ⟨x, hx, becomes⟩ := vacates.teams y hy
    have stood : x ∈ s.standing die cluster := State.mem_standing.mpr ⟨hx, becomes.stays here, becomes.core ▸ on⟩
    exact absent x stood y hy (by simp [Team.isNamed, becomes.launch, becomes.idx]) here
  · exact ⟨_, vacates.events _ (List.mem_append_right _ List.mem_cons_self), rfl⟩

theorem infieldTest_fail {s : State} {die cluster : Nat} (whole : (die, cluster) ∉ s.fenced) (tests : s.testEvery ≠ 0)
    (lesser : ∀ y ∈ s.teams, y.at_ = .resident → (y.core.die = die ∧ y.core.cluster = cluster) → s.effective y.launch ≠ .held) :
    Completes (.infieldTest die cluster false) s fun t => (die, cluster) ∈ t.fenced
      ∧ (∀ y ∈ t.teams, y.at_ = .resident → ¬(y.core.die = die ∧ y.core.cluster = cluster))
      ∧ ∃ e ∈ t.events, e.kind = .suspectInterval :=
  ⟨_, infieldTest_tests whole tests false, fence_vacates (s := s.endRuns (underTest die cluster) (Group.halt s.tick)) lesser⟩
end Sys2Proof.Machine
end

section
/-! PROOFS. A device under recovery, and its loss (R322, R323, R374; log 44, 80, 81). -/
namespace Sys2Proof.Machine
open Sys2Proof.Safety

theorem fabricRecovery_refused {s : State} {dev : BitVec 8} {windowMs : Nat}
    (h : 500 < windowMs ∨ (dev ≠ s.device ∧ ¬(dev ≠ s.device ∧ windowMs ≤ 500 ∧ dev ∉ s.lost ∧ dev ∉ s.recovering))) :
    Answers (.fabricRecovery dev windowMs) 1 s := by
  show execFabricRecovery dev windowMs s = _
  obtain long | ⟨other, barred⟩ := h
  · simp [execFabricRecovery, long]
  · by_cases long : 500 < windowMs
    · simp [execFabricRecovery, long]
    · have away : dev ∈ s.lost ∨ dev ∈ s.recovering := by
        by_contra none_
        exact barred ⟨other, by omega, fun h => none_ (.inl h), fun h => none_ (.inr h)⟩
      simp [execFabricRecovery, long, other, away]

theorem fabricRecovery_begins {s : State} {dev : BitVec 8} {windowMs : Nat} (other : dev ≠ s.device) (short : windowMs ≤ 500)
    (here : dev ∉ s.lost) (up : dev ∉ s.recovering) : exec (.fabricRecovery dev windowMs) s
      = .next { s with recovering := dev :: s.recovering, replies := { code := 0, words := [], bytes := [] } :: s.replies } := by
  show execFabricRecovery dev windowMs s = _
  simp [execFabricRecovery, Nat.not_lt.mpr short, other, here, up, State.reply]

theorem fabricRecovery_own {s : State} {dev : BitVec 8} {windowMs : Nat} (own : dev = s.device) (short : windowMs ≤ 500) :
    exec (.fabricRecovery dev windowMs) s
      = .next { s with apart := true, replies := { code := 0, words := [], bytes := [] } :: s.replies } := by
  show execFabricRecovery dev windowMs s = _
  simp [execFabricRecovery, Nat.not_lt.mpr short, own, State.reply]

theorem recoveredWithinWindow_other {s : State} {dev : BitVec 8} (h : ¬(dev = s.device ∧ s.apart = true)) :
    exec (.recoveredWithinWindow dev) s = .next (s.unsuspend dev) := by
  show execRecoveredWithinWindow dev s = _
  have no : (dev == s.device && s.apart) = false := by simpa using h
  simp [execRecoveredWithinWindow, no]

/-! This device rejoins. -/

/-- Every store in flight is to be translated anew. -/
def Group.Stale (g : Group) : Prop := ∀ h ∈ g.held, h.again = true

theorem Group.stale_touch (g : Group) : (g.touch fun h => { h with again := true }).Stale := by
  intro h hh
  obtain ⟨x, -, rfl⟩ := List.mem_map.mp hh
  rfl

theorem State.rehome_again (s : State) (r : BitVec 4) (h : Held) : (s.rehome r h).again = h.again := by
  unfold State.rehome
  split
  · split <;> rfl
  · rfl

theorem Group.Stale.touch {g : Group} (h : g.Stale) {f : Held → Held} (hf : ∀ x, (f x).again = x.again) : (g.touch f).Stale := by
  intro y hy
  obtain ⟨x, hx, rfl⟩ := List.mem_map.mp hy
  exact (hf x).trans (h x hx)

theorem rejoin_stale (s : State) : ∀ g ∈ s.rejoin.groups, g.Stale := by
  have each : ∀ (u : State) (x : Group), x.Stale →
      (if x.ownBytes.any Held.again then x.touch (u.rehome (u.reachOf x.launch)) else x).Stale :=
    fun u x hx => by
      split
      · exact hx.touch fun y => u.rehome_again _ y
      · exact hx
  intro g hg
  obtain rfl | hg := List.mem_cons.mp hg
  · exact each _ _ s.g.stale_touch
  · obtain ⟨y, hy, rfl⟩ := List.mem_map.mp hg
    obtain ⟨x, -, rfl⟩ := List.mem_map.mp hy
    exact each _ _ x.stale_touch

theorem recoveredWithinWindow_own {s : State} {dev : BitVec 8} (own : dev = s.device) (apart : s.apart = true) :
    Completes (.recoveredWithinWindow dev) s fun t => SameBytes s t
      ∧ t = { s with g := t.g, others := t.others, apart := false, stalePte := t.stalePte }
      ∧ (∀ p, p ∈ t.stalePte ↔ p ∈ s.stalePte ∧ (p.1 < globalKey s.device.toNat 0 ∨ globalKey s.device.toNat 0 + 2 ^ 52 ≤ p.1))
      ∧ ∀ g ∈ t.groups, ∀ h ∈ g.held, h.again = true := by
  refine ⟨s.rejoin, ?_, fun _ => rfl, rfl, fun p => ?_, rejoin_stale s⟩
  · show execRecoveredWithinWindow dev s = _
    simp [execRecoveredWithinWindow, own, apart]
  · show p ∈ s.stalePte.filter _ ↔ _
    simp

/-! The window ends. -/

/-- Nothing of the group stands for the device. -/
structure Group.FreeOf (dev : BitVec 8) (g : Group) : Prop where
  suspended : g.suspended ≠ some dev
  drains : g.drains = []
  side : g.side = []
  heldOps : g.heldOps = []

/-- The device is lost, and nothing stands for it any more. Messages leave for other devices only where a far member of a domain waits,
`calm` says that none does, and `out` is what is on its way then. -/
structure State.Lost (dev : BitVec 8) (calm : Prop) (out : List OutMsg) (s : State) : Prop where
  lost : dev ∈ s.lost
  recovering : dev ∉ s.recovering
  groups : ∀ g ∈ s.groups, g.FreeOf dev
  proxies : ∀ p ∈ s.proxies, p.root ≠ dev
  calm : calm → (∀ y ∈ s.roots, y.remote = []) ∧ s.outbox = out

namespace State.Lost
variable {dev : BitVec 8} {calm : Prop} {out : List OutMsg} {s : State}

/-- A change of what the loss of a device does not speak of. -/
theorem of_same {t : State} (h : s.Lost dev calm out) (lost : t.lost = s.lost) (recovering : t.recovering = s.recovering)
    (groups : t.groups = s.groups) (proxies : t.proxies = s.proxies) (roots : t.roots = s.roots) (outbox : t.outbox = s.outbox) :
    t.Lost dev calm out :=
  ⟨lost ▸ h.lost, recovering ▸ h.recovering, groups ▸ h.groups, proxies ▸ h.proxies, by rw [roots, outbox]; exact h.calm⟩

theorem mapGroups (h : s.Lost dev calm out) {f : Group → Group} (hf : ∀ g, g.FreeOf dev → (f g).FreeOf dev) :
    (s.mapGroups f).Lost dev calm out where
  lost := h.lost
  recovering := h.recovering
  groups g hg := by
    rw [State.groups, mapGroups_g, mapGroups_others, ← List.map_cons] at hg
    obtain ⟨x, hx, rfl⟩ := List.mem_map.mp hg
    exact hf x (h.groups x hx)
  proxies := h.proxies
  calm := h.calm

theorem onGroup (h : s.Lost dev calm out) (k : Nat) {f : Group → Group} (hf : ∀ g, g.FreeOf dev → (f g).FreeOf dev) :
    (s.onGroup k f).Lost dev calm out :=
  h.mapGroups fun g hg => by
    split
    · exact hf g hg
    · exact hg

theorem failOne (h : s.Lost dev calm out) (k cause : Nat) (info : Word) (lanes : Mask) :
    (s.failOne k cause info lanes).Lost dev calm out := by
  unfold State.failOne
  split
  · exact h
  · split
    · exact h
    · refine (h.of_same (t := ((s.dropWaits _).mayReturn _)) rfl rfl rfl rfl rfl rfl).onGroup k fun g hg => ?_
      exact ⟨hg.suspended, hg.drains, hg.side, hg.heldOps⟩

theorem satisfyOne (h : s.Lost dev calm out) (k : Nat) : (s.satisfyOne k).Lost dev calm out := by
  unfold State.satisfyOne
  split
  · exact h
  · split
    · exact h
    · refine (h.of_same (t := ((s.dropWaits _).mayReturn _)) rfl rfl rfl rfl rfl rfl).onGroup k fun g hg => ?_
      exact ⟨hg.suspended, hg.drains, hg.side, hg.heldOps⟩

theorem foldl {α : Type} {f : State → α → State} (hf : ∀ s x, s.Lost dev calm out → (f s x).Lost dev calm out) (xs : List α)
    (h : s.Lost dev calm out) : (xs.foldl f s).Lost dev calm out :=
  List.foldlRecOn xs f h fun s hs x _ => hf s x hs

theorem satisfyAll (h : s.Lost dev calm out) (p : Group → Wait → Bool) : (s.satisfyAll p).Lost dev calm out :=
  h.foldl (fun _ _ h => h.satisfyOne _) _

theorem failAll (h : s.Lost dev calm out) (p : Group → Wait → Bool) (cause : Nat) (info : Group → Word) :
    (s.failAll p cause info).Lost dev calm out :=
  h.foldl (fun _ _ h => h.failOne _ _ _ _) _

/-- A message to another device leaves only where a far member waits. -/
theorem answers (h : s.Lost dev calm out) {α : Type} (xs : List α) (hxs : calm → xs = []) (dest : α → BitVec 8) (msg : α → RemoteMsg) :
    (xs.foldl (fun s y => s.answer (dest y) (msg y)) s).Lost dev calm out := by
  by_cases hc : calm
  · rw [hxs hc]
    exact h
  · refine h.foldl (fun s y h => ?_) xs
    exact ⟨h.lost, h.recovering, h.groups, h.proxies, fun k => absurd k hc⟩

theorem onRoot (h : s.Lost dev calm out) (r : BitVec 4) (d : BitVec 10) {f : Root → Root} (hf : ∀ y, y.remote = [] → (f y).remote = []) :
    (s.onRoot r d f).Lost dev calm out where
  lost := h.lost
  recovering := h.recovering
  groups := h.groups
  proxies := h.proxies
  calm hc := by
    obtain ⟨alone, same⟩ := h.calm hc
    refine ⟨fun z hz => ?_, same⟩
    obtain ⟨y, hy, rfl⟩ := List.mem_map.mp hz
    split
    · exact hf y (alone y hy)
    · exact alone y hy

theorem endQuiet (h : s.Lost dev calm out) {x : Root} (hx : x ∈ s.roots) : (s.endQuiet x).Lost dev calm out := by
  have told := h.answers x.remote (fun hc => (h.calm hc).1 x hx) Prod.fst fun y => .quietReply y.2 x.lost
  unfold State.endQuiet State.closeRoot
  dsimp only
  refine onRoot (onRoot ?_ _ _ fun _ _ => by exact rfl) _ _ fun _ k => by exact k
  split
  · exact told.satisfyAll _
  · exact told.failAll _ _ _

theorem quiesce (h : s.Lost dev calm out) (r : BitVec 4) (d : BitVec 10) : (s.quiesce r d).Lost dev calm out := by
  unfold State.quiesce
  split
  · exact h
  · next x found =>
    split
    · exact h
    · refine h.endQuiet ?_
      unfold State.root? at found
      split at found
      · cases found
      · exact List.mem_of_find?_eq_some found

theorem loseBalance (h : s.Lost dev calm out) (x : Root) : (s.loseBalance dev x).Lost dev calm out :=
  quiesce (onRoot (onRoot h _ _ fun _ k => by exact k) _ _ fun _ k => by exact k) _ _

theorem refusedBorrow (h : s.Lost dev calm out) (m : OutMsg) (r : BitVec 4) (d : BitVec 10) (units : Nat) :
    (s.borrowed m r d units false).Lost dev calm out := by
  unfold State.borrowed
  simp only [Bool.false_eq_true, if_false]
  split
  · split
    · exact h.of_same rfl rfl rfl rfl rfl rfl
    · exact h
  · refine h.onGroup _ fun g hg => ?_
    split
    · exact ⟨hg.suspended, hg.drains, hg.side, hg.heldOps⟩
    · exact hg

end State.Lost

theorem Group.FreeOf.writeStatus {dev : BitVec 8} {g : Group} (h : g.FreeOf dev) (op : Nat) (x : Word) (j : Option Join) :
    (g.writeStatus op x j).FreeOf dev := by
  unfold Group.writeStatus
  split
  · exact h
  · dsimp only
    split <;> exact ⟨h.suspended, h.drains, h.side, h.heldOps⟩

namespace State.Lost
variable {dev : BitVec 8} {calm : Prop} {out : List OutMsg} {s : State}

theorem writeStatus (h : s.Lost dev calm out) (op : Nat) (x : Word) (j : Option Join) : (s.writeStatus op x j).Lost dev calm out :=
  (h.mapGroups fun _ hg => hg.writeStatus op x j).satisfyAll _

/-- A message that is lost gives its units back to nobody: its status is 0x0B (R323). -/
theorem takeStatus (h : s.Lost dev calm out) (m : OutMsg) (other : ∀ r a die ctr j, m.msg ≠ .depdec r a die ctr j) :
    (s.takeStatus m (statusWord 0x0B 0)).Lost dev calm out := by
  have code : ((statusWord 0x0B 0).extractLsb' 56 6).toNat = 0x0B := by decide
  unfold State.takeStatus
  simp only [code]
  split
  · exact h.writeStatus _ _ _
  · simp only [Nat.reduceBEq, Bool.false_eq_true, if_false, Bool.or_true, Bool.true_or, if_true]
    refine (h.onGroup _ fun g hg => ?_).satisfyOne _
    have pending : (g.pend (BitVec.ofNat 6 m.op) (BitVec.ofNat 4 (m.op / 64)) m.tag).FreeOf dev :=
      ⟨hg.suspended, hg.drains, hg.side, hg.heldOps⟩
    exact pending.writeStatus _ _ _
  · next k => exact absurd k (other _ _ _ _ _)
  · exact h

theorem loseMessage (h : s.Lost dev calm out) (m : OutMsg) : (s.loseMessage m).Lost dev calm out := by
  unfold State.loseMessage
  split
  · exact h.failOne _ _ _ _
  · exact h.refusedBorrow _ _ _ _
  · exact h.failOne _ _ _ _
  · next other _ _ => exact h.takeStatus m other

theorem loseDrains (h : s.Lost dev calm out) (k : Nat) : s.loseDrains k = s := by
  unfold State.loseDrains
  split
  · rfl
  · next g found =>
    have drains := (h.groups g (List.mem_of_find?_eq_some found)).drains
    simp [drains]

theorem loseGroup (h : s.Lost dev calm out) {g : Group} (hg : g.FreeOf dev) : (s.loseGroup dev g).Lost dev calm out := by
  have failed : (if s.lanesAway dev g = 0 then s else s.failOne g.key 0x19
      (lostInfo dev.toNat (match g.wait with | some (.lanes true _ _ _) => 0 | _ => 1)) (s.lanesAway dev g)).Lost dev calm out := by
    split
    · exact h
    · exact h.failOne _ _ _ _
  unfold State.loseGroup
  simp only [hg.side, hg.heldOps, List.filter_nil, List.foldl_nil, State.replayAll]
  exact (failed.loseDrains _).symm ▸ failed

end State.Lost

/-- The state in which the messages to a lost device fail. -/
def State.losing (dev : BitVec 8) (s : State) : State := { s.unsuspend dev with
  lost := dev :: s.lost
  outbox := s.outbox.filter fun m => m.dest != dev
  proxies := s.proxies.filter fun p => p.root != dev }

theorem State.losing_lost {dev : BitVec 8} {s : State} (quiet : ∀ g ∈ s.groups, g.drains = [] ∧ g.side = [] ∧ g.heldOps = []) :
    (s.losing dev).Lost dev (∀ y ∈ s.roots, y.remote = []) (s.outbox.filter fun m => m.dest != dev) where
  lost := List.mem_cons_self
  recovering h := by simpa using (List.mem_filter.mp h).2
  groups g hg := by
    have awake : ∀ x : Group, (x.drains = [] ∧ x.side = [] ∧ x.heldOps = []) →
        (if x.suspended == some dev then { x with suspended := none } else x).FreeOf dev := fun x ⟨drains, side, heldOps⟩ => by
      split
      · exact ⟨(Option.some_ne_none dev).symm, drains, side, heldOps⟩
      · next h => exact ⟨by simpa using h, drains, side, heldOps⟩
    obtain rfl | hg := List.mem_cons.mp hg
    · exact awake s.g (quiet s.g List.mem_cons_self)
    · obtain ⟨x, hx, rfl⟩ := List.mem_map.mp hg
      exact awake x (quiet x (List.mem_cons_of_mem _ hx))
  proxies p hp := by simpa using (List.mem_filter.mp hp).2
  calm h := ⟨h, rfl⟩

/-- The messages to it have failed, and the weight that it held has come back as lost. -/
def State.unheld (dev : BitVec 8) (s : State) : State :=
  let s := (s.outbox.filter fun m => m.dest == dev).foldl State.loseMessage (s.losing dev)
  s.roots.foldl (fun s x => s.loseBalance dev x) s

theorem exec_recoveryWindowEnd {s : State} {dev : BitVec 8} (stood : dev ∈ s.recovering) : exec (.recoveryWindowEnd dev) s
    = .next (((s.unheld dev).groups.filter fun g => !g.ended && g.key != 0).foldl (State.loseGroup dev) (s.unheld dev)) := by
  show execRecoveryWindowEnd dev s = _
  simp only [execRecoveryWindowEnd, List.contains_iff_mem.mpr stood, Bool.not_true, Bool.false_eq_true, if_false]
  rfl

theorem recoveryWindowEnd_other {s : State} {dev : BitVec 8} (up : dev ∉ s.recovering) : exec (.recoveryWindowEnd dev) s = .next s := by
  show execRecoveryWindowEnd dev s = _
  simp [execRecoveryWindowEnd, up]

theorem recoveryWindowEnd_loses {s : State} {dev : BitVec 8} (stood : dev ∈ s.recovering)
    (quiet : ∀ g ∈ s.groups, g.drains = [] ∧ g.side = [] ∧ g.heldOps = []) :
    Completes (.recoveryWindowEnd dev) s fun t =>
      t.Lost dev (∀ y ∈ s.roots, y.remote = []) (s.outbox.filter fun m => m.dest != dev) := by
  have unheld : (s.unheld dev).Lost dev (∀ y ∈ s.roots, y.remote = []) (s.outbox.filter fun m => m.dest != dev) :=
    .foldl (fun _ x h => h.loseBalance x) _ (.foldl (fun _ m h => h.loseMessage m) _ (State.losing_lost quiet))
  exact ⟨_, exec_recoveryWindowEnd stood,
    List.foldlRecOn _ (State.loseGroup dev) unheld fun _ h g hg => h.loseGroup (unheld.groups g (List.mem_of_mem_filter hg))⟩
end Sys2Proof.Machine
end

section
/-! PROOFS. Watchdog, removal, in-field test and recovery together. -/
namespace Sys2Proof.Machine
open Sys2Proof.Safety

/-- Settles O52: each event by what it makes of the state. The loss of a device keeps an invariant through every message, domain and group
that it fails. -/
theorem recoveryEvents : Obligations.RecoveryEvents := by
  intro s die cluster windowMs dev gid t0 x k on free own ok awake
  refine ⟨?watchdog, groupResume_nobody, groupResume_frozen, ?resumes, ?removal, ?untested, infieldTest_pass, infieldTest_fail,
    fabricRecovery_refused, ?begins, fabricRecovery_own, ?awakes, recoveredWithinWindow_own, ?stands, ?lost⟩
  case watchdog =>
    intro live runs out single
    obtain ⟨own, others, -⟩ := s.onGroup_own (f := Group.timedOut s.tick) fun _ => rfl
    exact ⟨_, watchdog_freezes live runs out single, others, (congrArg Group.halted own :), (congrArg Group.port own :),
      (congrArg Group.pc own :), (congrArg Group.v own :), (congrArg Group.s own :), rfl, _, rfl, rfl, rfl⟩
  case resumes =>
    intro live key trap single
    obtain ⟨own, others, -⟩ := s.onGroup_own (f := Group.resumeTrap) fun _ => rfl
    exact ⟨_, groupResume_trap live key trap single, others, rfl, own⟩
  case removal =>
    exact fun live halted single _ free team bars other lives member apart =>
      launchRemoval_member live halted single free team bars other lives member apart
  case untested => exact fun h pass => infieldTest_untested h pass
  case begins => exact fun ⟨other, short, here, up⟩ => fabricRecovery_begins other short here up
  case awakes =>
    intro elsewhere
    rw [recoveredWithinWindow_other elsewhere]
    simp [State.unsuspend, State.mapGroups, awake]
  case stands => exact recoveryWindowEnd_other
  case lost =>
    intro stood quiet
    obtain ⟨t, run, after⟩ := recoveryWindowEnd_loses stood quiet
    exact ⟨t, run, after.lost, after.recovering, fun g hg => (after.groups g hg).suspended, fun h => (after.calm h).2, after.proxies⟩
end Sys2Proof.Machine
end

section
/-! PROOFS. The fields of an instruction word (R23, R24, R32): a word that is put together from parts has those parts in its fields, and
no other word has. -/
namespace Sys2Proof

/-- Consecutive bits are the two parts that they are cut into, and no other two. -/
theorem append_eq_extractLsb' {k m n : Nat} (x : BitVec m) (y : BitVec n) (w : BitVec k) (lo : Nat) :
    x ++ y = w.extractLsb' lo (m + n) ↔ x = w.extractLsb' (lo + n) m ∧ y = w.extractLsb' lo n := by
  have parts : w.extractLsb' (lo + n) m ++ w.extractLsb' lo n = w.extractLsb' lo (m + n) :=
    BitVec.extractLsb'_append_extractLsb'_eq_extractLsb' rfl
  constructor
  · intro h
    rw [← parts] at h
    refine ⟨?_, ?_⟩
    · simpa [BitVec.extractLsb'_append_eq_left] using congrArg (BitVec.extractLsb' n m) h
    · simpa [BitVec.extractLsb'_append_eq_right] using congrArg (BitVec.extractLsb' 0 n) h
  · rintro ⟨rfl, rfl⟩
    exact parts

theorem append_eq_iff {m n : Nat} (x : BitVec m) (y : BitVec n) (w : BitVec (m + n)) :
    x ++ y = w ↔ w.extractLsb' n m = x ∧ w.extractLsb' 0 n = y := by
  simpa [BitVec.extractLsb'_eq_self, eq_comm] using append_eq_extractLsb' x y w 0

/-- The same of a field of a word. Its width is written as a numeral there, so no key of the lemma may hold the sum. -/
theorem append_eq_fld {m n : Nat} (x : BitVec m) (y : BitVec n) (w : BitVec 32) (lo : Nat) :
    @Eq (no_index (BitVec (m + n))) (x ++ y) (fld w lo (no_index (m + n))) ↔ x = fld w (lo + n) m ∧ y = fld w lo n :=
  append_eq_extractLsb' x y w lo

/-- A field of one bit. -/
theorem ofBool_eq_fld (b : Bool) (w : BitVec 32) (lo : Nat) : BitVec.ofBool b = fld w lo 1 ↔ b = w.getLsbD lo := by
  have bit : fld w lo 1 = BitVec.ofBool (w.getLsbD lo) := by
    ext i hi
    obtain rfl : i = 0 := by omega
    simp [fld]
  rw [bit]
  cases b <;> cases w.getLsbD lo <;> decide

theorem fld_whole (w : BitVec 32) : fld w 0 32 = w := BitVec.extractLsb'_eq_self

section
variable {w : BitVec 32} {op : BitVec 6}

theorem laneWord_eq {body : BitVec 25} :
    laneWord op body = w ↔ w.getLsbD 31 = false ∧ op = fld w 25 6 ∧ body = fld w 0 25 := by
  calc laneWord op body = w ↔ BitVec.ofBool false ++ op ++ body = fld w 0 (1 + 6 + 25) := by rw [fld_whole]; rfl
    _ ↔ _ := by simp only [append_eq_fld, ofBool_eq_fld, and_assoc, eq_comm (a := false)]

theorem uniWord_eq {body : BitVec 25} :
    uniWord op body = w ↔ w.getLsbD 31 = true ∧ op = fld w 25 6 ∧ body = fld w 0 25 := by
  calc uniWord op body = w ↔ BitVec.ofBool true ++ op ++ body = fld w 0 (1 + 6 + 25) := by rw [fld_whole]; rfl
    _ ↔ _ := by simp only [append_eq_fld, ofBool_eq_fld, and_assoc, eq_comm (a := true)]

/-! The formats with names of their own. -/

theorem encLA_eq {x : Bool} {sz : BitVec 2} {d a b : BitVec 6} {g : Guard} :
    encLA op x sz d a b g = some w ↔ w.getLsbD 31 = false ∧ op = fld w 25 6 ∧ d = fld w 19 6 ∧ a = fld w 13 6 ∧ b = fld w 7 6
      ∧ sz = fld w 5 2 ∧ x = w.getLsbD 4 ∧ g.code = fld w 0 4 := by
  simp only [encLA, Option.some.injEq, laneWord_eq, append_eq_fld, ofBool_eq_fld, and_assoc]

theorem encLI_eq {sz : BitVec 2} {d a : BitVec 6} {imm : BitVec 7} {g : Guard} :
    encLI op sz d a imm g = some w ↔ w.getLsbD 31 = false ∧ op = fld w 25 6 ∧ d = fld w 19 6 ∧ a = fld w 13 6 ∧ sz = fld w 11 2
      ∧ imm = fld w 4 7 ∧ g.code = fld w 0 4 := by
  simp only [encLI, Option.some.injEq, laneWord_eq, append_eq_fld, and_assoc]

theorem encLP_eq {pd : PReg} {a b : BitVec 6} {c : BitVec 3} {w64 : Bool} {m : Comb} :
    encLP pd a b c w64 m = fld w 0 25 ↔ pd = fld w 18 7 ∧ a = fld w 12 6 ∧ b = fld w 6 6 ∧ c = fld w 3 3 ∧ w64 = w.getLsbD 2
      ∧ m.code = fld w 0 2 := by
  simp only [encLP, append_eq_fld, ofBool_eq_fld, and_assoc]

theorem encLM_eq {sz : Width} {d a : BitVec 6} {off : BitVec 3} {la : La} {g : Guard} :
    encLM op sz d a off la g = some w ↔ w.getLsbD 31 = false ∧ op = fld w 25 6 ∧ d = fld w 19 6 ∧ a = fld w 13 6
      ∧ sz.code = fld w 11 2 ∧ off = fld w 8 3 ∧ la = fld w 4 4 ∧ g.code = fld w 0 4 := by
  simp only [encLM, Option.some.injEq, laneWord_eq, append_eq_fld, and_assoc]

theorem encLX_eq {w64 : Bool} {sc : LxScope} {d a b : BitVec 6} {la : La} :
    encLX op w64 sc d a b la = some w ↔ w.getLsbD 31 = false ∧ op = fld w 25 6 ∧ d = fld w 19 6 ∧ a = fld w 13 6 ∧ b = fld w 7 6
      ∧ w64 = w.getLsbD 6 ∧ sc.code = fld w 4 2 ∧ la = fld w 0 4 := by
  simp only [encLX, Option.some.injEq, laneWord_eq, append_eq_fld, ofBool_eq_fld, and_assoc]

theorem encLT_eq {slot : BitVec 5} {d a : BitVec 6} {la : La} {g : Guard} :
    encLT op slot d a la g = some w ↔ w.getLsbD 31 = false ∧ op = fld w 25 6 ∧ d = fld w 19 6 ∧ a = fld w 13 6 ∧ slot = fld w 8 5
      ∧ la = fld w 4 4 ∧ g.code = fld w 0 4 := by
  simp only [encLT, Option.some.injEq, laneWord_eq, append_eq_fld, and_assoc]

theorem encUA_eq {f : BitVec 7} {sd sa sb : SReg} :
    encUA f sd sa sb = some w ↔ w.getLsbD 31 = true ∧ 0 = fld w 25 6 ∧ sd = fld w 19 6 ∧ sa = fld w 13 6 ∧ sb = fld w 7 6
      ∧ f = fld w 0 7 := by
  simp only [encUA, Option.some.injEq, uniWord_eq, append_eq_fld, and_assoc]

theorem encUM_eq {sz : Width} {sd sa : SReg} {off : BitVec 7} {la : La} :
    encUM op sz sd sa off la = some w ↔ w.getLsbD 31 = true ∧ op = fld w 25 6 ∧ sd = fld w 19 6 ∧ sa = fld w 13 6
      ∧ sz.code = fld w 11 2 ∧ off = fld w 4 7 ∧ la = fld w 0 4 := by
  simp only [encUM, Option.some.injEq, uniWord_eq, append_eq_fld, and_assoc]

theorem encUE_eq {f : BitVec 3} {sd sa sb : BitVec 6} {la : La} :
    encUE op f sd sa sb la = some w ↔ w.getLsbD 31 = true ∧ op = fld w 25 6 ∧ sd = fld w 19 6 ∧ sa = fld w 13 6 ∧ sb = fld w 7 6
      ∧ f = fld w 4 3 ∧ la = fld w 0 4 := by
  simp only [encUE, Option.some.injEq, uniWord_eq, append_eq_fld, and_assoc]

end

/-! The values of a field and their codes (R26–R34). -/

theorem widthOf_eq {x : BitVec 2} {s : Width} : widthOf x = s ↔ s.code = x := by cases s <;> decide +revert
theorem ffmt?_eq {x : BitVec 2} {f : FFmt} : ffmt? x = some f ↔ f.code = x := by cases f <;> decide +revert
theorem condOf_eq {x : BitVec 3} {c : Cond} : condOf x = c ↔ c.code = x := by cases c <;> decide +revert
theorem fcondOf_eq {x : BitVec 3} {c : FCond} : fcondOf x = c ↔ c.code = x := by cases c <;> decide +revert
theorem combOf_eq {x : BitVec 2} {m : Comb} : combOf x = m ↔ m.code = x := by cases m <;> decide +revert
theorem ffun?_eq {x : BitVec 6} {f : FFun} : ffun? x = some f ↔ f.code = x := by cases f <;> decide +revert
theorem dotPairOf_eq {x : BitVec 2} {p : DotPair} : dotPairOf x = p ↔ p.code = x := by cases p <;> decide +revert
theorem voteOf_eq {x : BitVec 2} {m : VoteMode} : voteOf x = m ↔ m.code = x := by cases m <;> decide +revert
theorem scopeOf_eq {x : BitVec 2} {c : LxScope} : scopeOf x = c ↔ c.code = x := by cases c <;> decide +revert
theorem redOf_eq {x : BitVec 3} {r : RedOp} : redOf x = r ↔ r.code = x := by cases r <;> decide +revert
theorem bcond?_eq {x : BitVec 3} {c : BCond} : bcond? x = some c ↔ c.code = x := by cases c <;> decide +revert
theorem pscope?_eq {x : BitVec 3} {c : PScope} : pscope? x = some c ↔ c.code = x := by cases c <;> decide +revert
theorem collKind?_eq {x : BitVec 3} {k : CollKind} : collKind? x = some k ↔ k.code = x := by cases k <;> decide +revert
theorem tag?_eq {x : BitVec 3} {t : Tag} : tag? x = some t ↔ t.code = x := by cases t <;> decide +revert
theorem afmt?_eq {x : BitVec 3} {f : AFmt} : afmt? x = some f ↔ f.code = x := by cases f <;> decide +revert
theorem bind?_eq {x : BitVec 2} {m : BindMode} : bind? x = some m ↔ m.code = x := by cases m <;> decide +revert
theorem icLevel?_eq {x : BitVec 2} {l : IcLevel} : icLevel? x = some l ↔ l.code = x := by cases l <;> decide +revert
theorem ired?_eq {x : BitVec 3} {r : IRed} : ired? x = r ↔ r.code = x := by cases r <;> decide +revert

theorem guard?_eq {x : BitVec 4} {g : Guard} : guard? x = some g ↔ g.wf = true ∧ g.code = x := by cases g <;> decide +revert
theorem hsel?_eq {x : BitVec 3} {h : HSel} : hsel? x = some h ↔ h.code = x := by cases h <;> decide +revert

theorem need_eq {α : Type} {c : Bool} {o : Option α} {y : α} : need c o = some y ↔ c = true ∧ o = some y := by
  cases c <;> simp [need]

/-- A mirror of LXCH has a number in its range; every other mode takes each number (R151). -/
theorem xch?_eq {sz : BitVec 2} {imm : BitVec 7} {x : Xch} :
    xch? sz imm = some x ↔ x.wf = true ∧ x.szCode = sz ∧ 0#2 ++ x.num = imm := by
  have mode : sz = 0 ∨ sz = 1 ∨ sz = 2 ∨ sz = 3 := by decide +revert
  rw [append_eq_iff (0#2) x.num imm, xch?, need_eq, decide_eq_true_eq]
  by_cases high : imm.extractLsb' 5 2 = 0
  · simp only [high, true_and]
    generalize imm.extractLsb' 0 5 = n
    rcases mode with rfl | rfl | rfl | rfl <;> cases x <;> simp [need_eq, Xch.wf, Xch.szCode, Xch.num]
    rintro rfl
    exact Iff.rfl
  · exact iff_of_false (fun h => high h.1) fun h => high h.2.2.1

/-- Selectors 0 to 7 are the integer operations, 8 to 10 the float ones (R152). -/
theorem reduce?_eq {b : BitVec 6} {sz : BitVec 2} {r : Reduce} : reduce? b sz = some r ↔ r.selCode = b ∧ r.szCode = sz := by
  cases r with
  | int op s =>
    have sel : Reduce.selCode (.int op s) = b ↔ b.extractLsb' 3 3 = 0 ∧ ired? (b.extractLsb' 0 3) = op := by
      rw [ired?_eq, eq_comm (a := op.code)]
      exact append_eq_iff (0#3) op.code b
    by_cases h : b.extractLsb' 3 3 = 0
    · simp [reduce?, h, sel, widthOf_eq, Reduce.szCode]
    · simp only [reduce?, h, sel, if_false, false_and, iff_false]
      split <;> simp
  | flt op f => cases op <;> cases f <;> decide +revert

end Sys2Proof
end

section
/-! PROOFS. Decoding the word of an instruction (R23, R36): the word has the operands in its fields, and the decoder reads them there.
There is a lemma for each format whose rows are alike, and one for each row of its own. -/
namespace Sys2Proof

variable {w : BitVec 32} {n : Nat}

/-! The row of an opcode. -/

theorem decode_lane (set : w.getLsbD 31 = false) : decode w = decodeLane w := by
  simp only [decode, set, Bool.false_eq_true, if_false]

theorem decode_uniform (set : w.getLsbD 31 = true) : decode w = decodeUniform w := by
  simp only [decode, set, if_true]

theorem opcode_eq (op : BitVec.ofNat 6 n = fld w 25 6) (small : n < 64) : (fld w 25 6).toNat = n := by
  rw [← op, BitVec.toNat_ofNat, Nat.mod_eq_of_lt small]

theorem pickX_eq {x : Bool} {o0 o1 : Option Instr} (h : w.getLsbD 4 = x) : pickX w o0 o1 = if x then o1 else o0 := by
  rw [pickX, h]

theorem need_of {α : Type} {c : Bool} {o o' : Option α} (h : c = true) (e : o = o') : need c o = o' := by
  rw [need, if_pos h, e]

theorem need_zero {α : Type} {k : Nat} {x : BitVec k} {o o' : Option α} (h : 0 = x) (e : o = o') : need (x = 0) o = o' :=
  need_of (decide_eq_true h.symm) e

/-- A word of the lane set decodes by the row of its opcode. -/
theorem decode_laneWord {body : BitVec 25} {i : Instr} (h : some (laneWord (BitVec.ofNat 6 n) body) = some w) (small : n < 64)
    (row : (fld w 25 6).toNat = n → body = fld w 0 25 → decodeLane w = some i) : decode w = some i := by
  obtain ⟨set, op, fields⟩ := laneWord_eq.1 (Option.some.inj h)
  rw [decode_lane set, row (opcode_eq op small) fields]

/-- A word of the uniform set decodes by the row of its opcode. -/
theorem decode_uniWord {body : BitVec 25} {i : Instr} (h : some (uniWord (BitVec.ofNat 6 n) body) = some w) (small : n < 64)
    (row : (fld w 25 6).toNat = n → body = fld w 0 25 → decodeUniform w = some i) : decode w = some i := by
  obtain ⟨set, op, fields⟩ := uniWord_eq.1 (Option.some.inj h)
  rw [decode_uniform set, row (opcode_eq op small) fields]

/-! LA (R24). -/

/-- Its row reads what an instruction of LA encodes. -/
theorem decode_encLA {x : Bool} {sz : BitVec 2} {d a b : BitVec 6} {g : Guard} {i : Instr}
    (h : encLA (BitVec.ofNat 6 n) x sz d a b g = some w) (small : n < 64) (wf : g.wf = true)
    (row : (fld w 25 6).toNat = n → d = fld w 19 6 → a = fld w 13 6 → b = fld w 7 6 → sz = fld w 5 2 → w.getLsbD 4 = x →
      guard? (fld w 0 4) = some g → decodeLane w = some i) : decode w = some i := by
  obtain ⟨set, op, hd, ha, hb, hs, hx, hg⟩ := encLA_eq.1 h
  rw [decode_lane set, row (opcode_eq op small) hd ha hb hs hx.symm (guard?_eq.2 ⟨wf, hg⟩)]

theorem decode_LA {x : Bool} {s : Width} {d a b : LReg} {g : Guard} {k : Width → LReg → LReg → LReg → Guard → Instr}
    (h : encLA (BitVec.ofNat 6 n) x s.code d a b g = some w) (small : n < 64) (wf : g.wf = true)
    (row : (fld w 25 6).toNat = n → w.getLsbD 4 = x → decodeLane w = asLA w k) : decode w = some (k s d a b g) := by
  refine decode_encLA h small wf ?_
  rintro op rfl rfl rfl hs hx hg
  rw [row op hx, asLA, widthOf_eq.2 hs, hg, Option.map_some]

theorem decode_LA1 {x : Bool} {s : Width} {d a : LReg} {g : Guard} {k : Width → LReg → LReg → Guard → Instr}
    (h : encLA (BitVec.ofNat 6 n) x s.code d a 0 g = some w) (small : n < 64) (wf : g.wf = true)
    (row : (fld w 25 6).toNat = n → w.getLsbD 4 = x → decodeLane w = asLA1 w k) : decode w = some (k s d a g) := by
  refine decode_encLA h small wf ?_
  rintro op rfl rfl zero hs hx hg
  rw [row op hx, asLA1, need_zero zero rfl, widthOf_eq.2 hs, hg, Option.map_some]

theorem decode_LF {x : Bool} {f : FFmt} {d a b : LReg} {g : Guard} {k : FFmt → LReg → LReg → LReg → Guard → Instr}
    (h : encLA (BitVec.ofNat 6 n) x f.code d a b g = some w) (small : n < 64) (wf : g.wf = true)
    (row : (fld w 25 6).toNat = n → w.getLsbD 4 = x → decodeLane w = asLF w k) : decode w = some (k f d a b g) := by
  refine decode_encLA h small wf ?_
  rintro op rfl rfl rfl hf hx hg
  rw [row op hx, asLF, ffmt?_eq.2 hf, Option.bind_some, hg, Option.map_some]

theorem decode_LF1 {x : Bool} {f : FFmt} {d a : LReg} {g : Guard} {k : FFmt → LReg → LReg → Guard → Instr}
    (h : encLA (BitVec.ofNat 6 n) x f.code d a 0 g = some w) (small : n < 64) (wf : g.wf = true)
    (row : (fld w 25 6).toNat = n → w.getLsbD 4 = x → decodeLane w = asLF1 w k) : decode w = some (k f d a g) := by
  refine decode_encLA h small wf ?_
  rintro op rfl rfl zero hf hx hg
  rw [row op hx, asLF1, need_zero zero rfl, ffmt?_eq.2 hf, Option.bind_some, hg, Option.map_some]

/-- MOV and MOVS have no sz (R26, R31). -/
theorem decode_move {x : Bool} {d a : BitVec 6} {g : Guard} {i : Instr} (h : encLA 0x15 x 0 d a 0 g = some w) (wf : g.wf = true)
    (pick : (if x then .movs d a g else .mov d a g) = i) : decode w = some i := by
  refine decode_encLA (n := 0x15) h (by decide) wf ?_
  rintro op rfl rfl zero sz hx hg
  rw [decodeLane, op]
  refine need_zero sz ((pickX_eq hx).trans ?_)
  rw [← pick]
  cases x with
  | false => exact need_zero zero (by rw [hg]; rfl)
  | true => exact need_zero zero (by rw [hg]; rfl)

/-- The bank that PMOV names, and the half of sz that it leaves zero (R31). -/
theorem bank_eq {hi : Bool} (h : 0#1 ++ BitVec.ofBool hi = fld w 5 2) : w.getLsbD 6 = false ∧ hi = w.getLsbD 5 := by
  obtain ⟨zero, bank⟩ := (append_eq_fld (0#1) (BitVec.ofBool hi) w 5).1 h
  exact ⟨((ofBool_eq_fld false w 6).1 zero).symm, (ofBool_eq_fld hi w 5).1 bank⟩

theorem decode_pmovGet {d : LReg} {hi : Bool} {g : Guard} (h : encode (.pmovGet d hi g) = some w) (wf : g.wf = true) :
    decode w = some (.pmovGet d hi g) := by
  refine decode_encLA (n := 0x1B) h (by decide) wf ?_
  rintro op rfl za zb sz hx hg
  obtain ⟨half, rfl⟩ := bank_eq sz
  rw [decodeLane, op]
  exact need_of (by rw [half]; rfl) ((pickX_eq hx).trans (need_zero za (need_zero zb (by rw [hg]; rfl))))

theorem decode_pmovSet {a : LReg} {hi : Bool} {g : Guard} (h : encode (.pmovSet a hi g) = some w) (wf : g.wf = true) :
    decode w = some (.pmovSet a hi g) := by
  refine decode_encLA (n := 0x1B) h (by decide) wf ?_
  rintro op zd rfl zb sz hx hg
  obtain ⟨half, rfl⟩ := bank_eq sz
  rw [decodeLane, op]
  exact need_of (by rw [half]; rfl) ((pickX_eq hx).trans (need_zero zd (need_zero zb (by rw [hg]; rfl))))

theorem decode_fspec {fn : FFun} {f : FFmt} {d a : LReg} {g : Guard} (h : encode (.fspec fn f d a g) = some w) (wf : g.wf = true) :
    decode w = some (.fspec fn f d a g) := by
  refine decode_encLA (n := 0x20) h (by decide) wf ?_
  rintro op rfl rfl hfn hf hx hg
  rw [decodeLane, op]
  refine (pickX_eq hx).trans ?_
  simp [ffun?_eq.2 hfn, asLF, ffmt?_eq.2 hf, hg]

theorem decode_cvt {sel : BitVec 6} {part : BitVec 2} {d a : LReg} {g : Guard} (h : encode (.cvt sel part d a g) = some w)
    (wf : WellFormed (.cvt sel part d a g) = true) : decode w = some (.cvt sel part d a g) := by
  obtain ⟨wf, listed⟩ := Bool.and_eq_true_iff.1 wf
  refine decode_encLA (n := 0x21) h (by decide) wf ?_
  rintro op rfl rfl rfl rfl hx hg
  rw [decodeLane, op]
  refine (pickX_eq hx).trans (need_of listed ?_)
  simp [asLA, hg]

theorem decode_dot {p : DotPair} {hi : Bool} {d a b : LReg} {g : Guard} (h : encode (.dot p hi d a b g) = some w) (wf : g.wf = true) :
    decode w = some (.dot p hi d a b g) := by
  refine decode_encLA (n := 0x22) h (by decide) wf ?_
  rintro op rfl rfl rfl hp rfl hg
  rw [decodeLane, op]
  show asLA w _ = _
  rw [asLA, hg, dotPairOf_eq.2 hp, Option.map_some]

theorem decode_lred {r : Reduce} {d a : LReg} {g : Guard} (h : encode (.lred r d a g) = some w) (wf : g.wf = true) :
    decode w = some (.lred r d a g) := by
  refine decode_encLA (n := 0x26) h (by decide) wf ?_
  rintro op rfl rfl hr hs hx hg
  rw [decodeLane, op]
  refine (pickX_eq hx).trans ?_
  simp [reduce?_eq.2 ⟨hr, hs⟩, asLA, hg]

theorem decode_lscan {r : Reduce} {exc : Bool} {d a : LReg} {g : Guard} (h : encode (.lscan r exc d a g) = some w) (wf : g.wf = true) :
    decode w = some (.lscan r exc d a g) := by
  refine decode_encLA (n := 0x27) h (by decide) wf ?_
  rintro op rfl rfl hr hs rfl hg
  rw [decodeLane, op]
  show (reduce? _ _).bind _ = _
  rw [reduce?_eq.2 ⟨hr, hs⟩, Option.bind_some, asLA, hg, Option.map_some]

/-! LI (R24). -/

theorem decode_LI {s : Width} {d a : LReg} {imm : BitVec 7} {g : Guard} {k : Width → LReg → LReg → BitVec 7 → Guard → Instr}
    (h : encLI (BitVec.ofNat 6 n) s.code d a imm g = some w) (small : n < 64) (wf : g.wf = true)
    (row : (fld w 25 6).toNat = n → decodeLane w = asLI w k) : decode w = some (k s d a imm g) := by
  obtain ⟨set, op, rfl, rfl, hs, rfl, hg⟩ := encLI_eq.1 h
  rw [decode_lane set, row (opcode_eq op small), asLI, widthOf_eq.2 hs, guard?_eq.2 ⟨wf, hg⟩, Option.map_some]

theorem decode_lxch {x : Xch} {d a : LReg} {g : Guard} (h : encode (.lxch x d a g) = some w)
    (wf : WellFormed (.lxch x d a g) = true) : decode w = some (.lxch x d a g) := by
  obtain ⟨gwf, num⟩ := Bool.and_eq_true_iff.1 wf
  obtain ⟨set, op, rfl, rfl, mode, imm, hg⟩ := encLI_eq.1 h
  rw [decode_lane set, decodeLane, opcode_eq op (by decide)]
  show (xch? _ _).bind _ = _
  rw [xch?_eq.2 ⟨num, mode, imm⟩, Option.bind_some, asLI, guard?_eq.2 ⟨gwf, hg⟩, Option.map_some]

/-! LW, LP, LS, LQ and LV (R24). -/

theorem decode_movi {d : LReg} {s : HSel} {imm : BitVec 16} (h : encode (.movi d s imm) = some w) : decode w = some (.movi d s imm) := by
  refine decode_laneWord (n := 0x16) h (by decide) fun op fields => ?_
  simp only [append_eq_fld, and_assoc] at fields
  obtain ⟨rfl, rfl, hs⟩ := fields
  rw [decodeLane, op]
  show (hsel? _).map _ = _
  rw [hsel?_eq.2 hs, Option.map_some]

theorem decode_sel {d a b : LReg} {p : PReg} (h : encode (.sel d a b p) = some w) : decode w = some (.sel d a b p) := by
  refine decode_laneWord (n := 0x17) h (by decide) fun op fields => ?_
  simp only [append_eq_fld, and_assoc] at fields
  obtain ⟨rfl, rfl, rfl, rfl⟩ := fields
  rw [decodeLane, op]
  exact rfl

theorem decode_plop {pd pa pb : PReg} {f : BitVec 4} (h : encode (.plop pd pa pb f) = some w) : decode w = some (.plop pd pa pb f) := by
  refine decode_laneWord (n := 0x1A) h (by decide) fun op fields => ?_
  simp only [append_eq_fld, and_assoc] at fields
  obtain ⟨rfl, rfl, rfl, rfl⟩ := fields
  rw [decodeLane, op]
  exact rfl

theorem decode_vote {sd : SReg} {p : PReg} {m : VoteMode} (h : encode (.vote sd p m) = some w) : decode w = some (.vote sd p m) := by
  refine decode_laneWord (n := 0x28) h (by decide) fun op fields => ?_
  simp only [append_eq_fld, and_assoc] at fields
  obtain ⟨rfl, rfl, hm, zero⟩ := fields
  rw [decodeLane, op]
  exact need_zero zero (by rw [voteOf_eq.2 hm])

theorem decode_icmp {pd : PReg} {a b : LReg} {c : Cond} {w64 : Bool} {m : Comb} (h : encode (.icmp pd a b c w64 m) = some w) :
    decode w = some (.icmp pd a b c w64 m) := by
  refine decode_laneWord (n := 0x18) h (by decide) fun op fields => ?_
  obtain ⟨rfl, rfl, rfl, hc, rfl, hm⟩ := encLP_eq.1 fields
  rw [decodeLane, op, ← condOf_eq.2 hc, ← combOf_eq.2 hm]
  exact rfl

theorem decode_fcmp {pd : PReg} {a b : LReg} {c : FCond} {m : Comb} (h : encode (.fcmp pd a b c m) = some w) :
    decode w = some (.fcmp pd a b c m) := by
  refine decode_laneWord (n := 0x19) h (by decide) fun op fields => ?_
  obtain ⟨rfl, rfl, rfl, hc, narrow, hm⟩ := encLP_eq.1 fields
  rw [decodeLane, op]
  exact need_of (by rw [← narrow]; rfl) (by rw [fcondOf_eq.2 hc, combOf_eq.2 hm])

/-! LM (R24). -/

theorem decode_LM {s : Width} {d a : LReg} {off : BitVec 3} {la : La} {g : Guard}
    {k : Width → LReg → LReg → BitVec 3 → La → Guard → Instr}
    (h : encLM (BitVec.ofNat 6 n) s d a off la g = some w) (small : n < 64) (wf : g.wf = true)
    (row : (fld w 25 6).toNat = n → d = fld w 19 6 → s.code = fld w 11 2 → decodeLane w = asLM w k) :
    decode w = some (k s d a off la g) := by
  obtain ⟨set, op, hd, rfl, hs, rfl, rfl, hg⟩ := encLM_eq.1 h
  rw [decode_lane set, row (opcode_eq op small) hd hs, asLM, widthOf_eq.2 hs, guard?_eq.2 ⟨wf, hg⟩, hd, Option.map_some]

/-- A destination is a v register (R25). -/
theorem asLMd_eq {d : LReg} {k : Width → LReg → LReg → BitVec 3 → La → Guard → Instr} (dest : isV d = true) (h : d = fld w 19 6) :
    asLMd w k = asLM w k := need_of (h ▸ dest) rfl

/-- LDS reads at most 4 bytes (R81). -/
theorem decode_lds {s : Width} {d a : LReg} {off : BitVec 3} {la : La} {g : Guard} (h : encode (.lds s d a off la g) = some w)
    (wf : WellFormed (.lds s d a off la g) = true) : decode w = some (.lds s d a off la g) := by
  obtain ⟨wf, narrow⟩ := Bool.and_eq_true_iff.1 wf
  obtain ⟨wf, dest⟩ := Bool.and_eq_true_iff.1 wf
  refine decode_LM (n := 0x2B) h (by decide) wf fun op hd hs => ?_
  have code : s.code ≠ 3 := by
    cases s with
    | w64 => exact absurd narrow (by decide)
    | _ => decide
  rw [decodeLane, op]
  exact need_of (decide_eq_true (hs ▸ code)) (asLMd_eq dest hd)

/-! LX (R24). -/

theorem decode_LX {w64 : Bool} {sc : LxScope} {d a b : LReg} {la : La} {k : Bool → LxScope → LReg → LReg → LReg → La → Instr}
    (h : encLX (BitVec.ofNat 6 n) w64 sc d a b la = some w) (small : n < 64) (dest : isV d = true)
    (row : (fld w 25 6).toNat = n → decodeLane w = asLX w k) : decode w = some (k w64 sc d a b la) := by
  obtain ⟨set, op, rfl, rfl, rfl, rfl, hsc, rfl⟩ := encLX_eq.1 h
  rw [decode_lane set, row (opcode_eq op small), asLX, scopeOf_eq.2 hsc]
  exact need_of dest rfl

theorem decode_red {r : RedOp} {w64 : Bool} {sc : LxScope} {a b : LReg} {la : La} (h : encode (.red r w64 sc a b la) = some w)
    (wf : redWf r w64 = true) : decode w = some (.red r w64 sc a b la) := by
  obtain ⟨set, op, hd, rfl, rfl, rfl, hsc, rfl⟩ := encLX_eq.1 h
  obtain ⟨hr, zero⟩ := (append_eq_fld r.code (0#3) w 19).1 hd
  rw [decode_lane set, decodeLane, opcode_eq op (by decide), ← scopeOf_eq.2 hsc, ← redOf_eq.2 hr]
  exact need_zero zero (need_of (redOf_eq.2 hr ▸ wf) rfl)

/-! LT (R24). -/

theorem decode_tload {slot : BitVec 5} {d a : LReg} {la : La} {g : Guard} (h : encode (.tload slot d a la g) = some w)
    (wf : WellFormed (.tload slot d a la g) = true) : decode w = some (.tload slot d a la g) := by
  obtain ⟨gwf, dest⟩ := Bool.and_eq_true_iff.1 wf
  obtain ⟨set, op, rfl, rfl, rfl, rfl, hg⟩ := encLT_eq.1 h
  rw [decode_lane set, decodeLane, opcode_eq op (by decide)]
  exact need_of dest (by rw [guard?_eq.2 ⟨gwf, hg⟩, Option.map_some])

theorem decode_tstore {slot : BitVec 5} {d a : LReg} {la : La} {g : Guard} (h : encode (.tstore slot d a la g) = some w)
    (wf : g.wf = true) : decode w = some (.tstore slot d a la g) := by
  obtain ⟨set, op, rfl, rfl, rfl, rfl, hg⟩ := encLT_eq.1 h
  rw [decode_lane set, decodeLane, opcode_eq op (by decide)]
  show (guard? _).map _ = _
  rw [guard?_eq.2 ⟨wf, hg⟩, Option.map_some]

/-! UA and UM (R32). -/

theorem decode_UA {f : BitVec 7} {sd sa sb : SReg} {i : Instr} (h : encUA f sd sa sb = some w) (row : salu? f sd sa sb = some i) :
    decode w = some i := by
  obtain ⟨set, op, rfl, rfl, rfl, rfl⟩ := encUA_eq.1 h
  rw [decode_uniform set, decodeUniform, opcode_eq (n := 0) op (by decide)]
  exact row

theorem decode_UM {s : Width} {sd sa : SReg} {off : BitVec 7} {la : La} {k : Width → SReg → SReg → BitVec 7 → La → Instr}
    (h : encUM (BitVec.ofNat 6 n) s sd sa off la = some w) (small : n < 64)
    (row : (fld w 25 6).toNat = n →
      decodeUniform w = some (k (widthOf (fld w 11 2)) (fld w 19 6) (fld w 13 6) (fld w 4 7) (fld w 0 4))) :
    decode w = some (k s sd sa off la) := by
  obtain ⟨set, op, rfl, rfl, hs, rfl, rfl⟩ := encUM_eq.1 h
  rw [decode_uniform set, row (opcode_eq op small), widthOf_eq.2 hs]

/-! UE (R32). -/

/-- Its row reads what an instruction of UE encodes. -/
theorem decode_encUE {f : BitVec 3} {sd sa sb : BitVec 6} {la : La} {i : Instr}
    (h : encUE (BitVec.ofNat 6 n) f sd sa sb la = some w) (small : n < 64)
    (row : (fld w 25 6).toNat = n → sd = fld w 19 6 → sa = fld w 13 6 → sb = fld w 7 6 → f = fld w 4 3 → la = fld w 0 4 →
      decodeUniform w = some i) : decode w = some i := by
  obtain ⟨set, op, hd, ha, hb, hf, hl⟩ := encUE_eq.1 h
  rw [decode_uniform set, row (opcode_eq op small) hd ha hb hf hl]

/-- A row that admits one value of f. -/
theorem asUE_eq {f : Nat} {x : BitVec 3} {i : Instr} (h : x = fld w 4 3) (hx : x.toNat = f) : asUE w f i = some i := by
  subst h
  exact need_of (by rw [hx, beq_self_eq_true]) rfl

theorem decode_enq {sd sa sb : SReg} {la : La} (h : encode (.enq sd sa sb la) = some w) (wf : WellFormed (.enq sd sa sb la) = true) :
    decode w = some (.enq sd sa sb la) := by
  refine decode_encUE (n := 0x18) h (by decide) ?_
  rintro op rfl rfl rfl hf rfl
  rw [decodeUniform, op]
  exact need_of wf (asUE_eq hf rfl)

theorem decode_deq {sd sa : SReg} {la : La} (h : encode (.deq sd sa la) = some w) (wf : WellFormed (.deq sd sa la) = true) :
    decode w = some (.deq sd sa la) := by
  refine decode_encUE (n := 0x19) h (by decide) ?_
  rintro op rfl rfl zero hf rfl
  rw [decodeUniform, op, ← zero, ← hf]
  exact need_of (Bool.and_eq_true_iff.2 ⟨wf, rfl⟩) rfl

theorem decode_deqNb {sd sa : SReg} {la : La} (h : encode (.deqNb sd sa la) = some w) (wf : WellFormed (.deqNb sd sa la) = true) :
    decode w = some (.deqNb sd sa la) := by
  refine decode_encUE (n := 0x19) h (by decide) ?_
  rintro op rfl rfl zero hf rfl
  rw [decodeUniform, op, ← zero, ← hf]
  exact need_of (Bool.and_eq_true_iff.2 ⟨wf, rfl⟩) rfl

theorem decode_deparm {sd sa sb : SReg} {la : La} (h : encode (.deparm sd sa sb la) = some w)
    (wf : WellFormed (.deparm sd sa sb la) = true) : decode w = some (.deparm sd sa sb la) := by
  refine decode_encUE (n := 0x1A) h (by decide) ?_
  rintro op rfl rfl rfl hf rfl
  rw [decodeUniform, op]
  exact need_of wf (asUE_eq hf rfl)

theorem decode_depdec {sd sa : SReg} {la : La} (h : encode (.depdec sd sa la) = some w) : decode w = some (.depdec sd sa la) := by
  refine decode_encUE (n := 0x1B) h (by decide) ?_
  rintro op rfl rfl zero hf rfl
  rw [decodeUniform, op]
  exact need_zero zero (asUE_eq hf rfl)

/-- The bit of f that CPY and TMOVE use (R200, R212). -/
theorem sched_code (sched : Bool) : (0#2 ++ BitVec.ofBool sched).toNat ≤ 1 ∧ ((0#2 ++ BitVec.ofBool sched).toNat == 1) = sched := by
  cases sched <;> decide

theorem decode_cpy {sd sa sb : SReg} {sched : Bool} {la : La} (h : encode (.cpy sd sa sb sched la) = some w)
    (wf : WellFormed (.cpy sd sa sb sched la) = true) : decode w = some (.cpy sd sa sb sched la) := by
  refine decode_encUE (n := 0x1C) h (by decide) ?_
  rintro op rfl rfl rfl hf rfl
  obtain ⟨one, bit⟩ := sched_code sched
  rw [decodeUniform, op, ← hf]
  exact need_of (Bool.and_eq_true_iff.2 ⟨wf, decide_eq_true one⟩) (by rw [bit])

theorem decode_tmove {sd sa sb : SReg} {sched : Bool} {la : La} (h : encode (.tmove sd sa sb sched la) = some w)
    (wf : WellFormed (.tmove sd sa sb sched la) = true) : decode w = some (.tmove sd sa sb sched la) := by
  refine decode_encUE (n := 0x1F) h (by decide) ?_
  rintro op rfl rfl rfl hf rfl
  obtain ⟨one, bit⟩ := sched_code sched
  rw [decodeUniform, op, ← hf]
  exact need_of (Bool.and_eq_true_iff.2 ⟨wf, decide_eq_true one⟩) (by rw [bit])

theorem decode_chead {sd sa sb : SReg} {la : La} (h : encode (.chead sd sa sb la) = some w) : decode w = some (.chead sd sa sb la) := by
  refine decode_encUE (n := 0x1D) h (by decide) ?_
  rintro op rfl rfl rfl hf rfl
  rw [decodeUniform, op]
  exact asUE_eq hf rfl

theorem decode_ctail {sd sa sb : SReg} {la : La} (h : encode (.ctail sd sa sb la) = some w) : decode w = some (.ctail sd sa sb la) := by
  refine decode_encUE (n := 0x1E) h (by decide) ?_
  rintro op rfl rfl rfl hf rfl
  rw [decodeUniform, op]
  exact asUE_eq hf rfl

theorem decode_coll {k : CollKind} {sd sa sb : SReg} {la : La} (h : encode (.coll k sd sa sb la) = some w) :
    decode w = some (.coll k sd sa sb la) := by
  refine decode_encUE (n := 0x20) h (by decide) ?_
  rintro op rfl rfl rfl hf rfl
  rw [decodeUniform, op, collKind?_eq.2 hf]
  exact rfl

theorem decode_relayout {t : Tag} {sd sa sb : SReg} {la : La} (h : encode (.relayout t sd sa sb la) = some w) :
    decode w = some (.relayout t sd sa sb la) := by
  refine decode_encUE (n := 0x23) h (by decide) ?_
  rintro op rfl rfl rfl hf rfl
  rw [decodeUniform, op, tag?_eq.2 hf]
  exact rfl

/-- The slots that hold two mnemonics, without sb: OCLAIM and ORELEASE, ACLAIM and ARELEASE. -/
theorem decode_claim {f : BitVec 3} {sd sa : SReg} {la : La} {i : Instr} (h : encUE (BitVec.ofNat 6 n) f sd sa 0 la = some w)
    (small : n < 64)
    (row : (fld w 25 6).toNat = n → sd = fld w 19 6 → sa = fld w 13 6 → f = fld w 4 3 → la = fld w 0 4 →
      decodeUniform w = need (fld w 7 6 = 0) (some i)) : decode w = some i := by
  refine decode_encUE h small fun op hd ha zero hf hl => ?_
  rw [row op hd ha hf hl]
  exact need_zero zero rfl

theorem decode_mloop {sd sa sb : SReg} {la : La} (h : encode (.mloop sd sa sb la) = some w) : decode w = some (.mloop sd sa sb la) := by
  refine decode_encUE (n := 0x26) h (by decide) ?_
  rintro op rfl rfl rfl hf rfl
  rw [decodeUniform, op, ← hf]
  exact rfl

theorem decode_mloopWait {sa : SReg} {la : La} (h : encode (.mloopWait sa la) = some w) : decode w = some (.mloopWait sa la) := by
  refine decode_encUE (n := 0x26) h (by decide) ?_
  rintro op zd rfl zb hf rfl
  rw [decodeUniform, op, ← hf, ← zd, ← zb]
  exact rfl

theorem decode_aread {f : AFmt} {vd : LReg} {sa : SReg} {la : La} (h : encode (.aread f vd sa la) = some w)
    (dest : isV vd = true) : decode w = some (.aread f vd sa la) := by
  refine decode_encUE (n := 0x28) h (by decide) ?_
  rintro op rfl rfl zero hf rfl
  rw [decodeUniform, op, ← zero, afmt?_eq.2 hf]
  exact need_of dest rfl

theorem decode_azero {sa : SReg} {la : La} (h : encode (.azero sa la) = some w) : decode w = some (.azero sa la) := by
  refine decode_encUE (n := 0x29) h (by decide) ?_
  rintro op zd rfl zb hf rfl
  rw [decodeUniform, op, ← zd, ← zb]
  exact need_of rfl (asUE_eq hf rfl)

/-! UI, UW, UB, UL, UD (R32). -/

theorem decode_saddi {sd sa : SReg} {imm : BitVec 13} (h : encode (.saddi sd sa imm) = some w) : decode w = some (.saddi sd sa imm) := by
  refine decode_uniWord (n := 0x01) h (by decide) fun op fields => ?_
  simp only [append_eq_fld, and_assoc] at fields
  obtain ⟨rfl, rfl, rfl⟩ := fields
  rw [decodeUniform, op]
  exact rfl

theorem decode_sli {sd : SReg} {s : HSel} {imm : BitVec 16} (h : encode (.sli sd s imm) = some w) : decode w = some (.sli sd s imm) := by
  refine decode_uniWord (n := 0x02) h (by decide) fun op fields => ?_
  simp only [append_eq_fld, and_assoc] at fields
  obtain ⟨rfl, hs, rfl⟩ := fields
  rw [decodeUniform, op]
  show (hsel? _).map _ = _
  rw [hsel?_eq.2 hs, Option.map_some]

theorem decode_bra {c : BCond} {p : PReg} {off : BitVec 15} (h : encode (.bra c p off) = some w) (wf : braWf c p = true) :
    decode w = some (.bra c p off) := by
  refine decode_uniWord (n := 0x08) h (by decide) fun op fields => ?_
  simp only [append_eq_fld, and_assoc] at fields
  obtain ⟨hc, rfl, rfl⟩ := fields
  rw [decodeUniform, op]
  show (bcond? _).bind _ = _
  rw [bcond?_eq.2 hc, Option.bind_some]
  exact need_of wf rfl

theorem decode_brd {p : PReg} {off : BitVec 18} (h : encode (.brd p off) = some w) : decode w = some (.brd p off) := by
  refine decode_uniWord (n := 0x0A) h (by decide) fun op fields => ?_
  obtain ⟨rfl, rfl⟩ := (append_eq_fld p off w 0).1 fields
  rw [decodeUniform, op]
  exact rfl

/-! UX (R33). -/

theorem decode_scmp {pd : PReg} {sa sb : SReg} {c : Cond} {w64 : Bool} {m : Comb} (h : encode (.scmp pd sa sb c w64 m) = some w) :
    decode w = some (.scmp pd sa sb c w64 m) := by
  refine decode_uniWord (n := 0x03) h (by decide) fun op fields => ?_
  obtain ⟨rfl, rfl, rfl, hc, rfl, hm⟩ := encLP_eq.1 fields
  rw [decodeUniform, op, ← condOf_eq.2 hc, ← combOf_eq.2 hm]
  exact rfl

theorem decode_sget {sd : SReg} {va : LReg} {lane : BitVec 5} (h : encode (.sget sd va lane) = some w) (source : isV va = true) :
    decode w = some (.sget sd va lane) := by
  refine decode_uniWord (n := 0x04) h (by decide) fun op fields => ?_
  simp only [append_eq_fld, and_assoc] at fields
  obtain ⟨rfl, rfl, rfl, zero⟩ := fields
  rw [decodeUniform, op, ← zero]
  exact need_of (Bool.and_eq_true_iff.2 ⟨source, rfl⟩) rfl

theorem decode_brx {va : LReg} {table : BitVec 19} (h : encode (.brx va table) = some w) (index : isV va = true) :
    decode w = some (.brx va table) := by
  refine decode_uniWord (n := 0x0D) h (by decide) fun op fields => ?_
  obtain ⟨rfl, rfl⟩ := (append_eq_fld va table w 0).1 fields
  rw [decodeUniform, op]
  exact need_of index rfl

theorem decode_yield {sd : SReg} {off : BitVec 19} (h : encode (.yield sd off) = some w) : decode w = some (.yield sd off) := by
  refine decode_uniWord (n := 0x11) h (by decide) fun op fields => ?_
  obtain ⟨rfl, rfl⟩ := (append_eq_fld sd off w 0).1 fields
  rw [decodeUniform, op]
  exact rfl

theorem decode_runend {wa wb : BitVec 3} {ma mb : BitVec 8} (h : encode (.runend wa ma wb mb) = some w)
    (wf : WellFormed (.runend wa ma wb mb) = true) : decode w = some (.runend wa ma wb mb) := by
  obtain ⟨first, second⟩ := Bool.and_eq_true_iff.1 wf
  refine decode_uniWord (n := 0x12) h (by decide) fun op fields => ?_
  simp only [append_eq_fld, and_assoc] at fields
  obtain ⟨rfl, rfl, rfl, rfl, zero⟩ := fields
  rw [decodeUniform, op, ← zero]
  exact need_of (Bool.and_eq_true_iff.2 ⟨Bool.and_eq_true_iff.2 ⟨rfl, first⟩, second⟩) rfl

theorem decode_bar {b : BitVec 4} {sa : SReg} (h : encode (.bar b sa) = some w) : decode w = some (.bar b sa) := by
  refine decode_uniWord (n := 0x13) h (by decide) fun op fields => ?_
  simp only [append_eq_fld, and_assoc] at fields
  obtain ⟨rfl, rfl, zero⟩ := fields
  rw [decodeUniform, op]
  exact need_zero zero rfl

theorem decode_phase {sc : PScope} (h : encode (.phase sc) = some w) : decode w = some (.phase sc) := by
  refine decode_uniWord (n := 0x14) h (by decide) fun op fields => ?_
  obtain ⟨hsc, zero⟩ := (append_eq_fld sc.code (0#22) w 0).1 fields
  rw [decodeUniform, op]
  exact need_zero zero (by rw [pscope?_eq.2 hsc, Option.map_some])

theorem decode_waitseq {sa sb : SReg} (h : encode (.waitseq sa sb) = some w) : decode w = some (.waitseq sa sb) := by
  refine decode_uniWord (n := 0x16) h (by decide) fun op fields => ?_
  simp only [append_eq_fld, and_assoc] at fields
  obtain ⟨rfl, rfl, zero⟩ := fields
  rw [decodeUniform, op]
  exact need_zero zero rfl

theorem decode_qop {sub : BitVec 2} {sd : SReg} {i : Instr} (h : some (uniWord 0x17 (sub ++ sd ++ 0#17)) = some w)
    (row : sub = fld w 23 2 → sd = fld w 17 6 → 0 = fld w 0 17 → qop? w = some i) : decode w = some i := by
  refine decode_uniWord (n := 0x17) h (by decide) fun op fields => ?_
  simp only [append_eq_fld, and_assoc] at fields
  obtain ⟨hsub, hd, zero⟩ := fields
  rw [decodeUniform, op]
  exact row hsub hd zero

/-- QOPEN, QRET and QWAIT have no register. -/
theorem qop?_of_none {sub : BitVec 2} {i : Instr} (hs : sub = fld w 23 2) (hd : 0 = fld w 17 6) (zero : 0 = fld w 0 17)
    (pick : (sub, i) ∈ [(0, Instr.qopen), (1, .qret), (2, .qwait)]) : qop? w = some i := by
  refine need_zero zero ?_
  rw [← hs]
  simp only [List.mem_cons, Prod.mk.injEq, List.not_mem_nil, or_false] at pick
  obtain ⟨rfl, rfl⟩ | ⟨rfl, rfl⟩ | ⟨rfl, rfl⟩ := pick
  · exact need_zero hd rfl
  · exact need_zero hd rfl
  · exact need_zero hd rfl

theorem decode_qread {sd : SReg} (h : encode (.qread sd) = some w) : decode w = some (.qread sd) := by
  refine decode_qop (sub := 3) h fun hs hd zero => need_zero zero ?_
  rw [← hs, ← hd]
  exact rfl

theorem decode_slot {slot : BitVec 5} {sa : SReg} {i : Instr} (h : some (uniWord (BitVec.ofNat 6 n) (slot ++ sa ++ 0#14)) = some w)
    (small : n < 64)
    (row : (fld w 25 6).toNat = n → slot = fld w 20 5 → sa = fld w 14 6 → decodeUniform w = need (fld w 0 14 = 0) (some i)) :
    decode w = some i := by
  refine decode_uniWord h small fun op fields => ?_
  simp only [append_eq_fld, and_assoc] at fields
  obtain ⟨hslot, ha, zero⟩ := fields
  rw [row op hslot ha]
  exact need_zero zero rfl

theorem decode_csrr_s {r : SReg} {csr : BitVec 12} (h : encode (.csrr (.s r) csr) = some w) (wf : csrrWf (.s r) csr = true) :
    decode w = some (.csrr (.s r) csr) := by
  refine decode_uniWord (n := 0x2A) h (by decide) fun op fields => ?_
  simp only [append_eq_fld, and_assoc] at fields
  obtain ⟨sub, vec, rfl, rfl, zero⟩ := fields
  have sub : false = w.getLsbD 24 := (ofBool_eq_fld false w 24).1 sub
  have vec : false = w.getLsbD 23 := (ofBool_eq_fld false w 23).1 vec
  rw [decodeUniform, op]
  refine need_zero zero ?_
  rw [csrDst, ← sub, ← vec]
  exact need_of wf rfl

theorem decode_csrr_v {r : LReg} {csr : BitVec 12} (h : encode (.csrr (.v r) csr) = some w) (wf : csrrWf (.v r) csr = true) :
    decode w = some (.csrr (.v r) csr) := by
  refine decode_uniWord (n := 0x2A) h (by decide) fun op fields => ?_
  simp only [append_eq_fld, and_assoc] at fields
  obtain ⟨sub, vec, rfl, rfl, zero⟩ := fields
  have sub : false = w.getLsbD 24 := (ofBool_eq_fld false w 24).1 sub
  have vec : true = w.getLsbD 23 := (ofBool_eq_fld true w 23).1 vec
  rw [decodeUniform, op]
  refine need_zero zero ?_
  rw [csrDst, ← sub, ← vec]
  exact need_of wf rfl

theorem decode_csrw {csr : BitVec 12} {sa : SReg} (h : encode (.csrw csr sa) = some w) (wf : csrKnown csr = true) :
    decode w = some (.csrw csr sa) := by
  refine decode_uniWord (n := 0x2A) h (by decide) fun op fields => ?_
  simp only [append_eq_fld, and_assoc] at fields
  obtain ⟨sub, vec, rfl, rfl, zero⟩ := fields
  have sub : true = w.getLsbD 24 := (ofBool_eq_fld true w 24).1 sub
  have vec : false = w.getLsbD 23 := (ofBool_eq_fld false w 23).1 vec
  rw [decodeUniform, op]
  refine need_zero zero ?_
  rw [← sub, ← vec]
  exact need_of wf rfl

theorem decode_trap {imm : BitVec 16} (h : encode (.trap imm) = some w) : decode w = some (.trap imm) := by
  refine decode_uniWord (n := 0x2C) h (by decide) fun op fields => ?_
  obtain ⟨rfl, zero⟩ := (append_eq_fld imm (0#9) w 0).1 fields
  rw [decodeUniform, op]
  exact need_zero zero rfl

theorem decode_bkpt {imm : BitVec 16} (h : encode (.bkpt imm) = some w) : decode w = some (.bkpt imm) := by
  refine decode_uniWord (n := 0x2E) h (by decide) fun op fields => ?_
  obtain ⟨rfl, zero⟩ := (append_eq_fld imm (0#9) w 0).1 fields
  rw [decodeUniform, op]
  exact need_zero zero rfl

theorem decode_rgn {region : BitVec 18} (h : encode (.rgn region) = some w) : decode w = some (.rgn region) := by
  refine decode_uniWord (n := 0x2F) h (by decide) fun op fields => ?_
  obtain ⟨rfl, zero⟩ := (append_eq_fld region (0#7) w 0).1 fields
  rw [decodeUniform, op]
  exact need_zero zero rfl

theorem decode_febind {sa sb sc : SReg} {m : BindMode} (h : encode (.febind sa sb sc m) = some w) :
    decode w = some (.febind sa sb sc m) := by
  refine decode_uniWord (n := 0x30) h (by decide) fun op fields => ?_
  simp only [append_eq_fld, and_assoc] at fields
  obtain ⟨rfl, rfl, rfl, hm, zero⟩ := fields
  rw [decodeUniform, op]
  exact need_zero zero (by rw [bind?_eq.2 hm]; rfl)

theorem decode_icinv {l : IcLevel} (h : encode (.icinv l) = some w) : decode w = some (.icinv l) := by
  refine decode_uniWord (n := 0x34) h (by decide) fun op fields => ?_
  obtain ⟨hl, zero⟩ := (append_eq_fld l.code (0#23) w 0).1 fields
  rw [decodeUniform, op]
  exact need_zero zero (by rw [icLevel?_eq.2 hl, Option.map_some])

/-! Every instruction. -/

theorem decode_encode {i : Instr} (wf : WellFormed i = true) (h : encode i = some w) : decode w = some i := by
  cases i with
  | iadd | isub | imin | imax | umin | umax | imul | imulhi | imad | imsb | iaddsat | isubsat | uaddsat | usubsat | land | landn | lor | lorn
  | lxor | lxnor | shl | shr | sar | rol | bfx | bfxs | bfi | perm =>
    exact decode_LA h (by decide) wf fun op x => by rw [decodeLane, op]; exact pickX_eq x
  | popc | clz | brev | ctz | iabs | ineg => exact decode_LA1 h (by decide) wf fun op x => by rw [decodeLane, op]; exact pickX_eq x
  | fadd | fsub | fmul | ffma | ffms | fmin | fmax =>
    exact decode_LF h (by decide) wf fun op x => by rw [decodeLane, op]; exact pickX_eq x
  | fabs | fneg => exact decode_LF1 h (by decide) wf fun op x => by rw [decodeLane, op]; exact pickX_eq x
  | mov | movs => exact decode_move h wf rfl
  | pmovGet => exact decode_pmovGet h wf
  | pmovSet => exact decode_pmovSet h wf
  | fspec => exact decode_fspec h wf
  | cvt => exact decode_cvt h wf
  | dot => exact decode_dot h wf
  | lred => exact decode_lred h wf
  | lscan => exact decode_lscan h wf
  | iaddi | shli | shri | sari => exact decode_LI h (by decide) wf fun op => by rw [decodeLane, op]; exact rfl
  | lxch => exact decode_lxch h wf
  | movi => exact decode_movi h
  | sel => exact decode_sel h
  | plop => exact decode_plop h
  | vote => exact decode_vote h
  | icmp => exact decode_icmp h
  | fcmp => exact decode_fcmp h
  | ld | ldfe | ldfw =>
    obtain ⟨wf, dest⟩ := Bool.and_eq_true_iff.1 wf
    exact decode_LM h (by decide) wf fun op hd _ => by rw [decodeLane, op]; exact asLMd_eq dest hd
  | lds => exact decode_lds h wf
  | st | stfe => exact decode_LM h (by decide) wf fun op _ _ => by rw [decodeLane, op]; exact rfl
  | cas | atomAdd | atomSmin | atomSmax | atomUmin | atomUmax | atomAnd | atomOr | atomXchg =>
    exact decode_LX h (by decide) wf fun op => by rw [decodeLane, op]; exact rfl
  | red => exact decode_red h wf
  | tload => exact decode_tload h wf
  | tstore => exact decode_tstore h wf
  | sadd | ssub | smul | smulhi | sand | sor | sxor | sandn | sshl | sshr | ssar | smin | smax | sminu | smaxu => exact decode_UA h rfl
  | sld | sst => exact decode_UM h (by decide) fun op => by rw [decodeUniform, op]; exact rfl
  | enq => exact decode_enq h wf
  | deq => exact decode_deq h wf
  | deqNb => exact decode_deqNb h wf
  | deparm => exact decode_deparm h wf
  | depdec => exact decode_depdec h
  | cpy => exact decode_cpy h wf
  | tmove => exact decode_tmove h wf
  | chead => exact decode_chead h
  | ctail => exact decode_ctail h
  | coll => exact decode_coll h
  | relayout => exact decode_relayout h
  | oclaim | orelease | aclaim | arelease =>
    exact decode_claim h (by decide) fun op hd ha hf hl => by rw [decodeUniform, op, ← hf, hd, ha, hl]; exact rfl
  | mloop => exact decode_mloop h
  | mloopWait => exact decode_mloopWait h
  | aread => exact decode_aread h wf
  | azero => exact decode_azero h
  | saddi => exact decode_saddi h
  | sli => exact decode_sli h
  | bra => exact decode_bra h wf
  | brl | jpush | call => exact decode_uniWord h (by decide) fun op off => by rw [decodeUniform, op, off]; exact rfl
  | brd => exact decode_brd h
  | scmp => exact decode_scmp h
  | sget => exact decode_sget h wf
  | join | ret | exit | xfence | rft | nop =>
    exact decode_uniWord h (by decide) fun op zero => by rw [decodeUniform, op]; exact need_zero zero rfl
  | brx => exact decode_brx h wf
  | yield => exact decode_yield h
  | runend => exact decode_runend h wf
  | bar => exact decode_bar h
  | phase => exact decode_phase h
  | waitseq => exact decode_waitseq h
  | qopen => exact decode_qop (sub := 0) (sd := 0) h fun hs hd zero => qop?_of_none hs hd zero (by simp)
  | qret => exact decode_qop (sub := 1) (sd := 0) h fun hs hd zero => qop?_of_none hs hd zero (by simp)
  | qwait => exact decode_qop (sub := 2) (sd := 0) h fun hs hd zero => qop?_of_none hs hd zero (by simp)
  | qread => exact decode_qread h
  | tsload | tsevict => exact decode_slot h (by decide) fun op hs ha => by rw [decodeUniform, op, hs, ha]; exact rfl
  | csrr dst csr =>
    cases dst with
    | s => exact decode_csrr_s h wf
    | v => exact decode_csrr_v h wf
  | csrw => exact decode_csrw h wf
  | trap => exact decode_trap h
  | bkpt => exact decode_bkpt h
  | rgn => exact decode_rgn h
  | febind => exact decode_febind h
  | icinv => exact decode_icinv h
  | _ => cases h

/-- Settles O2, by the instructions of each format: the word has the operands in its fields, where the row of its opcode reads them. -/
theorem decodeEncode : Obligations.DecodeEncode := fun _ _ => decode_encode

end Sys2Proof
end

section
/-! PROOFS. Every word that decodes is the word of its instruction (R36, R37): a row that answers has checked every bit that the
instruction does not name. -/
namespace Sys2Proof

/-- Whatever a row answers for a word is a well-formed instruction, and the word is its encoding. -/
def Faithful (w : BitVec 32) (o : Option Instr) : Prop := ∀ i, o = some i → WellFormed i = true ∧ encode i = some w

variable {w : BitVec 32} {n : Nat}

/-! Checks and choices. -/

theorem Faithful.none : Faithful w .none := fun _ e => by cases e

theorem Faithful.some {i : Instr} (h : WellFormed i = true ∧ encode i = .some w) : Faithful w (.some i) := by
  rintro _ ⟨⟩
  exact h

theorem Faithful.need {c : Bool} {o : Option Instr} (h : c = true → Faithful w o) : Faithful w (need c o) := by
  intro i e
  obtain ⟨hc, e⟩ := need_eq.1 e
  exact h hc i e

theorem Faithful.zero {k : Nat} {x : BitVec k} {o : Option Instr} (h : 0 = x → Faithful w o) : Faithful w (Sys2Proof.need (x = 0) o) :=
  .need fun e => h (of_decide_eq_true e).symm

theorem Faithful.pickX {o0 o1 : Option Instr} (h0 : false = w.getLsbD 4 → Faithful w o0) (h1 : true = w.getLsbD 4 → Faithful w o1) :
    Faithful w (pickX w o0 o1) := by
  unfold Sys2Proof.pickX
  split
  case isTrue x => exact h1 x.symm
  case isFalse x => exact h0 (by simpa using x)

theorem Faithful.map {α : Type} {o : Option α} {k : α → Instr}
    (h : ∀ x, o = .some x → WellFormed (k x) = true ∧ encode (k x) = .some w) : Faithful w (o.map k) := by
  intro i e
  obtain ⟨x, hx, rfl⟩ := Option.map_eq_some_iff.1 e
  exact h x hx

theorem Faithful.bind {α : Type} {o : Option α} {k : α → Option Instr} (h : ∀ x, o = .some x → Faithful w (k x)) :
    Faithful w (o.bind k) := by
  intro i e
  obtain ⟨x, hx, e⟩ := Option.bind_eq_some_iff.1 e
  exact h x hx i e

/-! The lane formats (R24). A row names its instruction's class; the defaults say what has to be so of each of its instructions. -/

theorem code_of {k : Nat} {x : BitVec k} (h : x.toNat = n) : BitVec.ofNat k n = x := by
  rw [← h, BitVec.ofNat_toNat, BitVec.setWidth_eq]

/-- An instruction whose word is put together from the parts in `body`. -/
theorem answer_lane {body : BitVec 25} {i : Instr} (set : w.getLsbD 31 = false) (op : (fld w 25 6).toNat = n)
    (wf : WellFormed i = true := by rfl) (enc : encode i = .some (laneWord (BitVec.ofNat 6 n) body) := by rfl)
    (fields : body = fld w 0 25) : WellFormed i = true ∧ encode i = .some w :=
  ⟨wf, enc.trans (congrArg Option.some (laneWord_eq.2 ⟨set, code_of op, fields⟩))⟩

/-- A row that reads a guard, with the other fields of LA in hand. -/
theorem Faithful.guardLA {x : Bool} {sz : BitVec 2} {d a b : BitVec 6} {k : Guard → Instr} (set : w.getLsbD 31 = false)
    (op : (fld w 25 6).toNat = n) (hd : d = fld w 19 6) (ha : a = fld w 13 6) (hb : b = fld w 7 6) (hs : sz = fld w 5 2)
    (hx : x = w.getLsbD 4) (wf : ∀ g, g.wf = true → WellFormed (k g) = true := by exact fun _ h => h)
    (enc : ∀ g, encode (k g) = encLA (BitVec.ofNat 6 n) x sz d a b g := by exact fun _ => rfl) :
    Faithful w ((guard? (fld w 0 4)).map k) := by
  refine .map fun g hg => ?_
  obtain ⟨gwf, code⟩ := guard?_eq.1 hg
  exact ⟨wf g gwf, (enc g).trans (encLA_eq.2 ⟨set, code_of op, hd, ha, hb, hs, hx, code⟩)⟩

section
variable {x : Bool} (set : w.getLsbD 31 = false) (op : (fld w 25 6).toNat = n)
include set op

theorem Faithful.la {k : Width → LReg → LReg → LReg → Guard → Instr}
    (wf : ∀ s d a b g, WellFormed (k s d a b g) = g.wf := by intros; rfl)
    (enc : ∀ s d a b g, encode (k s d a b g) = encLA (BitVec.ofNat 6 n) x s.code d a b g := by intros; rfl)
    (hx : x = w.getLsbD 4) : Faithful w (asLA w k) :=
  .guardLA set op rfl rfl rfl (widthOf_eq.1 rfl) hx (fun _ h => (wf ..).trans h) fun _ => enc ..

theorem Faithful.la1 {k : Width → LReg → LReg → Guard → Instr}
    (wf : ∀ s d a g, WellFormed (k s d a g) = g.wf := by intros; rfl)
    (enc : ∀ s d a g, encode (k s d a g) = encLA (BitVec.ofNat 6 n) x s.code d a 0 g := by intros; rfl)
    (hx : x = w.getLsbD 4) : Faithful w (asLA1 w k) :=
  .zero fun zero => .guardLA set op rfl rfl zero (widthOf_eq.1 rfl) hx (fun _ h => (wf ..).trans h) fun _ => enc ..

theorem Faithful.lf {k : FFmt → LReg → LReg → LReg → Guard → Instr}
    (wf : ∀ f d a b g, WellFormed (k f d a b g) = g.wf := by intros; rfl)
    (enc : ∀ f d a b g, encode (k f d a b g) = encLA (BitVec.ofNat 6 n) x f.code d a b g := by intros; rfl)
    (hx : x = w.getLsbD 4) : Faithful w (asLF w k) :=
  .bind fun _ hf => .guardLA set op rfl rfl rfl (ffmt?_eq.1 hf) hx (fun _ h => (wf ..).trans h) fun _ => enc ..

theorem Faithful.lf1 {k : FFmt → LReg → LReg → Guard → Instr}
    (wf : ∀ f d a g, WellFormed (k f d a g) = g.wf := by intros; rfl)
    (enc : ∀ f d a g, encode (k f d a g) = encLA (BitVec.ofNat 6 n) x f.code d a 0 g := by intros; rfl)
    (hx : x = w.getLsbD 4) : Faithful w (asLF1 w k) :=
  .zero fun zero => .bind fun _ hf =>
    .guardLA set op rfl rfl zero (ffmt?_eq.1 hf) hx (fun _ h => (wf ..).trans h) fun _ => enc ..

/-- A row that reads a guard, with the other fields of LI in hand. -/
theorem Faithful.guardLI {sz : BitVec 2} {imm : BitVec 7} {k : Guard → Instr} (hs : sz = fld w 11 2) (hi : imm = fld w 4 7)
    (wf : ∀ g, g.wf = true → WellFormed (k g) = true)
    (enc : ∀ g, encode (k g) = encLI (BitVec.ofNat 6 n) sz (fld w 19 6) (fld w 13 6) imm g := by exact fun _ => rfl) :
    Faithful w ((guard? (fld w 0 4)).map k) := by
  refine .map fun g hg => ?_
  obtain ⟨gwf, code⟩ := guard?_eq.1 hg
  exact ⟨wf g gwf, (enc g).trans (encLI_eq.2 ⟨set, code_of op, rfl, rfl, hs, hi, code⟩)⟩

theorem Faithful.li {k : Width → LReg → LReg → BitVec 7 → Guard → Instr}
    (wf : ∀ s d a imm g, WellFormed (k s d a imm g) = g.wf := by intros; rfl)
    (enc : ∀ s d a imm g, encode (k s d a imm g) = encLI (BitVec.ofNat 6 n) s.code d a imm g := by intros; rfl) :
    Faithful w (asLI w k) :=
  .guardLI set op (widthOf_eq.1 rfl) rfl (fun _ h => (wf ..).trans h) fun _ => enc ..

theorem Faithful.lm {k : Width → LReg → LReg → BitVec 3 → La → Guard → Instr}
    (wf : ∀ a off la g, g.wf = true → WellFormed (k (widthOf (fld w 11 2)) (fld w 19 6) a off la g) = true := by
      exact fun _ _ _ _ h => h)
    (enc : ∀ s d a off la g, encode (k s d a off la g) = encLM (BitVec.ofNat 6 n) s d a off la g := by intros; rfl) :
    Faithful w (asLM w k) := by
  refine .map fun g hg => ?_
  obtain ⟨gwf, code⟩ := guard?_eq.1 hg
  exact ⟨wf _ _ _ g gwf, (enc ..).trans (encLM_eq.2 ⟨set, code_of op, rfl, rfl, widthOf_eq.1 rfl, rfl, rfl, code⟩)⟩

theorem Faithful.lmd {k : Width → LReg → LReg → BitVec 3 → La → Guard → Instr}
    (wf : ∀ s d a off la g, WellFormed (k s d a off la g) = (g.wf && isV d) := by intros; rfl)
    (enc : ∀ s d a off la g, encode (k s d a off la g) = encLM (BitVec.ofNat 6 n) s d a off la g := by intros; rfl) :
    Faithful w (asLMd w k) :=
  .need fun dest => .lm set op (fun _ _ _ _ h => (wf ..).trans (Bool.and_eq_true_iff.2 ⟨h, dest⟩)) enc

theorem Faithful.lx {k : Bool → LxScope → LReg → LReg → LReg → La → Instr}
    (wf : ∀ w64 sc d a b la, WellFormed (k w64 sc d a b la) = isV d := by intros; rfl)
    (enc : ∀ w64 sc d a b la, encode (k w64 sc d a b la) = encLX (BitVec.ofNat 6 n) w64 sc d a b la := by intros; rfl) :
    Faithful w (asLX w k) :=
  .need fun dest =>
    .some ⟨(wf ..).trans dest, (enc ..).trans (encLX_eq.2 ⟨set, code_of op, rfl, rfl, rfl, rfl, scopeOf_eq.1 rfl, rfl⟩)⟩

/-- A row that reads a guard, with the other fields of LT in hand. -/
theorem Faithful.lt {k : Guard → Instr} (wf : ∀ g, g.wf = true → WellFormed (k g) = true)
    (enc : ∀ g, encode (k g) = encLT (BitVec.ofNat 6 n) (fld w 8 5) (fld w 19 6) (fld w 13 6) (fld w 4 4) g := by
      exact fun _ => rfl) : Faithful w ((guard? (fld w 0 4)).map k) := by
  refine .map fun g hg => ?_
  obtain ⟨gwf, code⟩ := guard?_eq.1 hg
  exact ⟨wf g gwf, (enc g).trans (encLT_eq.2 ⟨set, code_of op, rfl, rfl, rfl, rfl, code⟩)⟩

end

/-- The half of sz that PMOV leaves zero, and the bank that it names (R31). -/
theorem pmov_size (half : (!w.getLsbD 6) = true) : 0#1 ++ BitVec.ofBool (w.getLsbD 5) = fld w 5 2 :=
  (append_eq_fld _ _ w 5).2 ⟨(ofBool_eq_fld false w 6).2 (by simpa using half.symm), (ofBool_eq_fld _ w 5).2 rfl⟩

/-- LDS reads at most 4 bytes (R81). -/
theorem widthOf_ne_w64 {x : BitVec 2} (h : x ≠ 3) : (widthOf x != .w64) = true :=
  bne_iff_ne.2 fun e => h (widthOf_eq.1 e).symm

theorem decodeLane_faithful (set : w.getLsbD 31 = false) : Faithful w (decodeLane w) := by
  unfold decodeLane
  split
  -- IADD, ISUB
  next op => exact .pickX (.la set op) (.la set op)
  -- IADDI
  next op => exact .li set op
  -- IMIN to ROL
  iterate 11 next op => exact .pickX (.la set op) (.la set op)
  -- SHLI, SHRI, SARI
  iterate 3 next op => exact .li set op
  -- POPC, CLZ, BREV, CTZ
  iterate 2 next op => exact .pickX (.la1 set op) (.la1 set op)
  -- BFX, BFXS
  next op => exact .pickX (.la set op) (.la set op)
  -- BFI
  next op => exact .pickX (.la set op) fun _ => .none
  -- IABS, INEG
  next op => exact .pickX (.la1 set op) (.la1 set op)
  -- MOV, MOVS
  next op =>
    exact .zero fun hs => .pickX (fun hx => .zero fun hb => .guardLA set op rfl rfl hb hs hx)
      fun hx => .zero fun hb => .guardLA set op rfl rfl hb hs hx
  -- MOVI
  next op => exact .map fun s hs => answer_lane set op (fields := by simp only [append_eq_fld, hsel?_eq.1 hs, and_self])
  -- SEL
  next op => exact .some (answer_lane set op (fields := by simp only [append_eq_fld, and_self]))
  -- ICMP
  next op => exact .some (answer_lane set op (fields := encLP_eq.2 ⟨rfl, rfl, rfl, condOf_eq.1 rfl, rfl, combOf_eq.1 rfl⟩))
  -- FCMP
  next op =>
    exact .need fun narrow => .some (answer_lane set op
      (fields := encLP_eq.2 ⟨rfl, rfl, rfl, fcondOf_eq.1 rfl, by simpa using narrow.symm, combOf_eq.1 rfl⟩))
  -- PLOP
  next op => exact .some (answer_lane set op (fields := by simp only [append_eq_fld, and_self]))
  -- PMOV
  next op =>
    exact .need fun half => .pickX
      (fun hx => .zero fun ha => .zero fun hb => .guardLA set op rfl ha hb (pmov_size half) hx)
      fun hx => .zero fun hd => .zero fun hb => .guardLA set op hd rfl hb (pmov_size half) hx
  -- FADD, FSUB
  next op => exact .pickX (.lf set op) (.lf set op)
  -- FMUL
  next op => exact .pickX (.lf set op) fun _ => .none
  -- FFMA, FFMS, FMIN, FMAX
  iterate 2 next op => exact .pickX (.lf set op) (.lf set op)
  -- FSPEC
  next op =>
    exact .pickX (fun hx => .bind fun _ hfn => .bind fun _ hf => .guardLA set op rfl rfl (ffun?_eq.1 hfn) (ffmt?_eq.1 hf) hx)
      fun _ => .none
  -- CVT
  next op =>
    exact .pickX (fun hx => .need fun listed => .guardLA set op rfl rfl rfl rfl hx fun _ h => Bool.and_eq_true_iff.2 ⟨h, listed⟩)
      fun _ => .none
  -- DOT
  next op => exact .guardLA set op rfl rfl rfl (dotPairOf_eq.1 rfl) rfl
  -- FABS, FNEG
  next op => exact .pickX (.lf1 set op) (.lf1 set op)
  -- PERM
  next op => exact .pickX (.la set op) fun _ => .none
  -- LXCH
  next op =>
    refine .bind fun x hx => ?_
    obtain ⟨num, mode, imm⟩ := xch?_eq.1 hx
    exact .guardLI set op mode imm fun _ h => Bool.and_eq_true_iff.2 ⟨h, num⟩
  -- LRED
  next op =>
    exact .pickX (fun hx => .bind fun _ hr => .guardLA set op rfl rfl (reduce?_eq.1 hr).1 (reduce?_eq.1 hr).2 hx) fun _ => .none
  -- LSCAN
  next op => exact .bind fun _ hr => .guardLA set op rfl rfl (reduce?_eq.1 hr).1 (reduce?_eq.1 hr).2 rfl
  -- VOTE
  next op =>
    exact .zero fun zero => .some (answer_lane set op
      (fields := by simp only [append_eq_fld, voteOf_eq.1 rfl, ← zero, BitVec.ofNat_eq_ofNat, and_self]))
  -- LD
  next op => exact .lmd set op
  -- LDS
  next op =>
    exact .need fun narrow => .need fun dest => .lm set op fun _ _ _ _ h =>
      Bool.and_eq_true_iff.2 ⟨Bool.and_eq_true_iff.2 ⟨h, dest⟩, widthOf_ne_w64 (of_decide_eq_true narrow)⟩
  -- ST
  next op => exact .lm set op
  -- LDFE, LDFW
  iterate 2 next op => exact .lmd set op
  -- STFE
  next op => exact .lm set op
  -- CAS
  next op => exact .lx set op
  -- RED
  next op =>
    exact .zero fun zero => .need fun four => .some ⟨four, encLX_eq.2 ⟨set, code_of op,
      (append_eq_fld _ _ w 19).2 ⟨redOf_eq.1 rfl, zero⟩, rfl, rfl, rfl, scopeOf_eq.1 rfl, rfl⟩⟩
  -- TLOAD
  next op => exact .need fun dest => .lt set op fun _ h => Bool.and_eq_true_iff.2 ⟨h, dest⟩
  -- TSTORE
  next op => exact .lt set op fun _ h => h
  -- ATOM
  iterate 8 next op => exact .lx set op
  next => exact .none

/-! The uniform formats (R32, R33). -/

/-- An instruction whose word is put together from the parts in `body`. -/
theorem answer_uni {body : BitVec 25} {i : Instr} (set : w.getLsbD 31 = true) (op : (fld w 25 6).toNat = n)
    (wf : WellFormed i = true := by rfl) (enc : encode i = some (uniWord (BitVec.ofNat 6 n) body) := by rfl)
    (fields : body = fld w 0 25) : WellFormed i = true ∧ encode i = some w :=
  ⟨wf, enc.trans (congrArg some (uniWord_eq.2 ⟨set, code_of op, fields⟩))⟩

/-- An instruction of UE. -/
theorem answer_ue {f : BitVec 3} {sd sa sb : BitVec 6} {i : Instr} (set : w.getLsbD 31 = true) (op : (fld w 25 6).toNat = n)
    (wf : WellFormed i = true := by rfl) (enc : encode i = encUE (BitVec.ofNat 6 n) f sd sa sb (fld w 0 4) := by rfl)
    (hf : f = fld w 4 3) (hd : sd = fld w 19 6 := by rfl) (ha : sa = fld w 13 6 := by rfl) (hb : sb = fld w 7 6 := by rfl) :
    WellFormed i = true ∧ encode i = some w :=
  ⟨wf, enc.trans (encUE_eq.2 ⟨set, code_of op, hd, ha, hb, hf, rfl⟩)⟩

theorem eq_of_beq {k : Nat} {x y : BitVec k} (h : (x == y) = true) : y = x := (beq_iff_eq.1 h).symm

theorem Faithful.asUE {f : Nat} {i : Instr} (h : BitVec.ofNat 3 f = fld w 4 3 → WellFormed i = true ∧ encode i = .some w) :
    Faithful w (asUE w f i) :=
  .need fun e => .some (h (code_of (beq_iff_eq.1 e)))

/-- The bit of f that CPY and TMOVE use (R200, R212). -/
theorem sched_of {x : BitVec 3} (h : x.toNat ≤ 1) : 0#2 ++ BitVec.ofBool (x.toNat == 1) = x := by decide +revert

theorem salu?_faithful (set : w.getLsbD 31 = true) (op : (fld w 25 6).toNat = 0) :
    Faithful w (salu? (fld w 0 7) (fld w 19 6) (fld w 13 6) (fld w 7 6)) := by
  unfold salu?
  split
  iterate 15 next f => exact .some ⟨rfl, encUA_eq.2 ⟨set, code_of op, rfl, rfl, rfl, code_of f⟩⟩
  next => exact .none

theorem qop_fields {sub : BitVec 2} {sd : BitVec 6} (hs : sub = fld w 23 2) (hd : sd = fld w 17 6) (zero : 0 = fld w 0 17) :
    sub ++ sd ++ 0#17 = fld w 0 25 := by
  simp only [append_eq_fld]
  exact ⟨⟨hs, hd⟩, zero⟩

theorem qop?_faithful (set : w.getLsbD 31 = true) (op : (fld w 25 6).toNat = 0x17) : Faithful w (qop? w) := by
  refine .zero fun zero => ?_
  split
  next sub =>
    exact .zero fun none => .some (answer_uni set op (body := 0#2 ++ 0#6 ++ 0#17) (fields := qop_fields (code_of sub) none zero))
  next sub =>
    exact .zero fun none => .some (answer_uni set op (body := 1#2 ++ 0#6 ++ 0#17) (fields := qop_fields (code_of sub) none zero))
  next sub =>
    exact .zero fun none => .some (answer_uni set op (body := 2#2 ++ 0#6 ++ 0#17) (fields := qop_fields (code_of sub) none zero))
  next no0 no1 no2 =>
    have sub : ∀ x : BitVec 2, x.toNat ≠ 0 → x.toNat ≠ 1 → x.toNat ≠ 2 → 3#2 = x := by decide
    exact .some (answer_uni set op (fields := qop_fields (sub _ no0 no1 no2) rfl zero))

theorem csr_fields {sub vec : Bool} (hs : sub = w.getLsbD 24) (hv : vec = w.getLsbD 23) (zero : 0 = fld w 0 5) :
    BitVec.ofBool sub ++ BitVec.ofBool vec ++ fld w 17 6 ++ fld w 5 12 ++ 0#5 = fld w 0 25 := by
  simp only [append_eq_fld, ofBool_eq_fld]
  exact ⟨⟨⟨⟨hs, hv⟩, trivial⟩, trivial⟩, zero⟩

theorem csr?_faithful (set : w.getLsbD 31 = true) (op : (fld w 25 6).toNat = 0x2A) : Faithful w (csr? w) := by
  refine .zero fun zero => ?_
  split
  next sub =>
    refine .need fun h => ?_
    obtain ⟨vec, known⟩ := Bool.and_eq_true_iff.1 h
    exact .some (answer_uni set op known (fields := csr_fields (sub := true) (vec := false) sub.symm (by simpa using vec.symm) zero))
  next sub =>
    have sub : false = w.getLsbD 24 := by simpa using sub
    cases vec : w.getLsbD 23 with
    | true =>
      have dst : csrDst w = .v (fld w 17 6) := if_pos vec
      rw [dst]
      exact .need fun wf => .some (answer_uni set op wf (fields := csr_fields (sub := false) (vec := true) sub vec.symm zero))
    | false =>
      have dst : csrDst w = .s (fld w 17 6) := if_neg (by rw [vec]; decide)
      rw [dst]
      exact .need fun wf => .some (answer_uni set op wf (fields := csr_fields (sub := false) (vec := false) sub vec.symm zero))

theorem decodeUniform_faithful (set : w.getLsbD 31 = true) : Faithful w (decodeUniform w) := by
  unfold decodeUniform
  dsimp only
  split
  -- SALU
  next op => exact salu?_faithful set op
  -- SADDI
  next op => exact .some (answer_uni set op (fields := by simp only [append_eq_fld, and_self]))
  -- SLI
  next op => exact .map fun s hs => answer_uni set op (fields := by simp only [append_eq_fld, hsel?_eq.1 hs, and_self])
  -- SCMP
  next op => exact .some (answer_uni set op (fields := encLP_eq.2 ⟨rfl, rfl, rfl, condOf_eq.1 rfl, rfl, combOf_eq.1 rfl⟩))
  -- SGET
  next op =>
    refine .need fun h => ?_
    obtain ⟨source, zero⟩ := Bool.and_eq_true_iff.1 h
    exact .some (answer_uni set op source (fields := by simp only [append_eq_fld, true_and]; exact eq_of_beq zero))
  -- SLD, SST
  iterate 2 next op => exact .some ⟨rfl, encUM_eq.2 ⟨set, code_of op, rfl, rfl, widthOf_eq.1 rfl, rfl, rfl⟩⟩
  -- BRA
  next op =>
    exact .bind fun c hc => .need fun pred => .some (answer_uni set op pred
      (fields := by simp only [append_eq_fld, bcond?_eq.1 hc, and_self]))
  -- BRL
  next op => exact .some (answer_uni set op (fields := rfl))
  -- BRD
  next op => exact .some (answer_uni set op (fields := (append_eq_fld _ _ w 0).2 ⟨rfl, rfl⟩))
  -- JPUSH
  next op => exact .some (answer_uni set op (fields := rfl))
  -- JOIN
  next op => exact .zero fun zero => .some (answer_uni set op (fields := zero))
  -- BRX
  next op => exact .need fun index => .some (answer_uni set op index (fields := (append_eq_fld _ _ w 0).2 ⟨rfl, rfl⟩))
  -- CALL
  next op => exact .some (answer_uni set op (fields := rfl))
  -- RET, EXIT
  iterate 2 next op => exact .zero fun zero => .some (answer_uni set op (fields := zero))
  -- YIELD
  next op => exact .some (answer_uni set op (fields := (append_eq_fld _ _ w 0).2 ⟨rfl, rfl⟩))
  -- RUNEND
  next op =>
    refine .need fun h => ?_
    obtain ⟨h, second⟩ := Bool.and_eq_true_iff.1 h
    obtain ⟨zero, first⟩ := Bool.and_eq_true_iff.1 h
    exact .some (answer_uni set op (Bool.and_eq_true_iff.2 ⟨first, second⟩)
      (fields := by simp only [append_eq_fld, true_and]; exact (of_decide_eq_true zero).symm))
  -- BAR
  next op =>
    exact .zero fun zero => .some (answer_uni set op (fields := by simp only [append_eq_fld, true_and]; exact zero))
  -- PHASE
  next op =>
    exact .zero fun zero => .map fun sc hsc => answer_uni set op (fields := (append_eq_fld _ _ w 0).2 ⟨pscope?_eq.1 hsc, zero⟩)
  -- XFENCE
  next op => exact .zero fun zero => .some (answer_uni set op (fields := zero))
  -- WAITSEQ
  next op =>
    exact .zero fun zero => .some (answer_uni set op (fields := by simp only [append_eq_fld, true_and]; exact zero))
  -- QOP
  next op => exact qop?_faithful set op
  -- ENQ
  next op => exact .need fun wf => .asUE fun hf => answer_ue set op wf (hf := hf)
  -- DEQ
  next op =>
    refine .need fun h => ?_
    obtain ⟨wf, zero⟩ := Bool.and_eq_true_iff.1 h
    split
    next hf => exact .some (answer_ue set op wf (hf := code_of hf) (hb := eq_of_beq zero))
    next hf => exact .some (answer_ue set op wf (hf := code_of hf) (hb := eq_of_beq zero))
    next => exact .none
  -- DEPARM
  next op => exact .need fun wf => .asUE fun hf => answer_ue set op wf (hf := hf)
  -- DEPDEC
  next op => exact .zero fun zero => .asUE fun hf => answer_ue set op (hf := hf) (hb := zero)
  -- CPY
  next op =>
    refine .need fun h => ?_
    obtain ⟨wf, hf⟩ := Bool.and_eq_true_iff.1 h
    exact .some (answer_ue set op wf (hf := sched_of (of_decide_eq_true hf)))
  -- CHEAD, CTAIL
  iterate 2 next op => exact .asUE fun hf => answer_ue set op (hf := hf)
  -- TMOVE
  next op =>
    refine .need fun h => ?_
    obtain ⟨wf, hf⟩ := Bool.and_eq_true_iff.1 h
    exact .some (answer_ue set op wf (hf := sched_of (of_decide_eq_true hf)))
  -- COLL
  next op => exact .map fun k hk => answer_ue set op (hf := collKind?_eq.1 hk)
  -- TSLOAD, TSEVICT
  iterate 2 next op =>
    exact .zero fun zero => .some (answer_uni set op (fields := by simp only [append_eq_fld, true_and]; exact zero))
  -- RELAYOUT
  next op => exact .map fun t ht => answer_ue set op (hf := tag?_eq.1 ht)
  -- OCLAIM, ORELEASE, ACLAIM, ARELEASE
  iterate 2 next op =>
    refine .zero fun zero => ?_
    split
    next hf => exact .some (answer_ue set op (hf := code_of hf) (hb := zero))
    next hf => exact .some (answer_ue set op (hf := code_of hf) (hb := zero))
    next => exact .none
  -- MLOOP
  next op =>
    split
    next hf => exact .some (answer_ue set op (hf := code_of hf))
    next hf =>
      refine .need fun h => ?_
      obtain ⟨zd, zb⟩ := Bool.and_eq_true_iff.1 h
      exact .some (answer_ue set op (hf := code_of hf) (hd := eq_of_beq zd) (hb := eq_of_beq zb))
    next => exact .none
  -- AREAD
  next op =>
    refine .need fun h => ?_
    obtain ⟨zb, dest⟩ := Bool.and_eq_true_iff.1 h
    exact .map fun f hf => answer_ue set op dest (hf := afmt?_eq.1 hf) (hb := eq_of_beq zb)
  -- AZERO
  next op =>
    refine .need fun h => ?_
    obtain ⟨zb, zd⟩ := Bool.and_eq_true_iff.1 h
    exact .asUE fun hf => answer_ue set op (hf := hf) (hd := eq_of_beq zd) (hb := eq_of_beq zb)
  -- CSR
  next op => exact csr?_faithful set op
  -- TRAP
  next op => exact .zero fun zero => .some (answer_uni set op (fields := (append_eq_fld _ _ w 0).2 ⟨rfl, zero⟩))
  -- RFT
  next op => exact .zero fun zero => .some (answer_uni set op (fields := zero))
  -- BKPT, RGN
  iterate 2 next op => exact .zero fun zero => .some (answer_uni set op (fields := (append_eq_fld _ _ w 0).2 ⟨rfl, zero⟩))
  -- FEBIND
  next op =>
    exact .zero fun zero => .map fun m hm => answer_uni set op
      (fields := by simp only [append_eq_fld, true_and]; exact ⟨bind?_eq.1 hm, zero⟩)
  -- NOP
  next op => exact .zero fun zero => .some (answer_uni set op (fields := zero))
  -- ICINV
  next op =>
    exact .zero fun zero => .map fun l hl => answer_uni set op (fields := (append_eq_fld _ _ w 0).2 ⟨icLevel?_eq.1 hl, zero⟩)
  next => exact .none

/-- Settles O3, row by row of the two opcode maps: a row that answers has read every bit of the word into the instruction, or has
checked it. -/
theorem decodeSound : Obligations.DecodeSound := by
  intro w i h
  unfold decode at h
  split at h
  next set => exact decodeUniform_faithful set i h
  next set => exact decodeLane_faithful (by simpa using set) i h

end Sys2Proof
end

section
/-! PROOFS. Words of the encoding tables (R24, R32, R33). -/
namespace Sys2Proof

/-- Settles O1, by decoding the nine words. -/
theorem wordsDecode : Obligations.WordsDecode :=
  ⟨by decide, by decide, by decide, by decide, by decide, by decide, by decide, by decide, by decide⟩

end Sys2Proof
end

section
/-! PROOFS. Every instruction goes on to a next state (R2; log 1): a trap, a wait, a hold or a stall of the group is one too. There is a
lemma for each shared operation and for each instruction that has a choice; where an operation takes a continuation, its lemma asks that
the continuation go on. -/
namespace Sys2Proof.Machine

/-- An answer is a next state. -/
abbrev Out.Goes (o : Out) : Prop := ∃ t, o = .next t

variable {s : State}

/-! Shared operations. -/

theorem State.done_goes {g : Group} : (s.done g).Goes := ⟨_, rfl⟩
theorem State.jump_goes {g : Group} {pc : Word} : (s.jump g pc).Goes := ⟨_, rfl⟩
theorem State.stall_goes : s.stall.Goes := ⟨_, rfl⟩
theorem State.suspend_goes {dev : Nat} : (s.suspend dev).Goes := ⟨_, rfl⟩
theorem State.trapAt_goes {c : Nat} {i : Word} {m : Mask} : (s.trapAt c i m).Goes := ⟨_, rfl⟩
theorem State.trapU_goes {c : Nat} {i : Word} : (s.trapU c i).Goes := ⟨_, rfl⟩

theorem State.waitOn_goes {w : Wait} : (s.waitOn w).Goes := by
  unfold State.waitOn
  dsimp only
  split <;> exact ⟨_, rfl⟩

theorem Split.elim_goes {x : Split} {done : State → Nat → Out} {nodomain : State → Out} (hd : ∀ t e, (done t e).Goes)
    (hn : ∀ t, (nodomain t).Goes) : (x.elim done nodomain).Goes := by
  cases x with
  | done t e => exact hd t e
  | wait t => exact ⟨_, rfl⟩
  | nodomain t => exact hn t

theorem State.afterImplicit_goes {sc : Nat} {overlap : Bool} {go : State → Out} (h : ∀ t, (go t).Goes) :
    (s.afterImplicit sc overlap go).Goes := by
  unfold State.afterImplicit
  split
  · exact State.atBound_next h
  · split
    · exact State.atBound_next h
    · exact h s

theorem State.readEach_goes {n : Nat} : {as : List Word} → {s : State} → {k : State → List Nat → Out} → (∀ t xs, (k t xs).Goes) →
    (State.readEach n as s k).Goes
  | [], s, _, h => h s []
  | _ :: _, _, _, h => State.readAt_next fun _ _ => State.readEach_goes fun t _ => h t _

theorem State.flagWait_goes {n : Nat} {go : Out} (h : go.Goes) : (s.flagWait n go).Goes := by
  unfold State.flagWait
  split
  · exact State.stall_goes
  · exact h

/-! Memory. -/

theorem State.load_goes {signed : Bool} {i : Instr} {w : Width} {d a : LReg} {off : BitVec 3} {la : La} {g : Guard} :
    (s.load signed i w d a off la g).Goes := by
  refine State.checked_next ?_
  split
  · exact State.done_goes
  · split <;> exact ⟨_, rfl⟩

theorem State.store_goes {n : Nat} {ps : List Probe} {data : Nat → List Byte} {watched : Bool} : (s.store n ps data watched).Goes := by
  unfold State.store
  split <;> exact ⟨_, rfl⟩

theorem State.feLoad_goes {empties : Bool} {w : Width} {d a : LReg} {off : BitVec 3} {g : Guard} :
    (s.feLoad empties w d a off g).Goes := by
  refine State.checked_next ?_
  split
  · exact State.trapAt_goes
  · refine State.afterImplicit_goes fun t => ?_
    dsimp only
    split
    · split <;> exact ⟨_, rfl⟩
    · split
      · exact State.trapAt_goes
      · split <;> exact ⟨_, rfl⟩

theorem State.atom_goes {i : Instr} {w64 : Bool} {d a b : LReg} {la : La} : (s.atom i w64 d a b la).Goes := by
  refine State.checked_next (State.afterImplicit_goes fun t => ?_)
  dsimp only
  split <;> exact ⟨_, rfl⟩

theorem execStfe_goes (w : Width) (d a : LReg) (off : BitVec 3) (la : La) (g : Guard) : (execStfe w d a off la g s).Goes := by
  refine State.checked_next ?_
  split
  · exact State.trapAt_goes
  · refine State.afterImplicit_goes fun t => ?_
    split <;> exact ⟨_, rfl⟩

theorem execRed_goes (op : RedOp) (w64 : Bool) (sc : LxScope) (a b : LReg) (la : La) : (execRed op w64 sc a b la s).Goes := by
  refine State.checked_next (State.afterImplicit_goes fun t => ?_)
  split
  · exact ⟨_, rfl⟩
  · split <;> exact ⟨_, rfl⟩

theorem execSld_goes (w : Width) (sd sa : SReg) (off : BitVec 7) (la : La) : (execSld w sd sa off la s).Goes := by
  unfold execSld
  dsimp only
  split
  · exact State.trapU_goes
  · split <;> exact ⟨_, rfl⟩
  · exact State.done_goes
  · split
    · exact State.done_goes
    · split <;> exact ⟨_, rfl⟩

theorem execSst_goes (w : Width) (sd sa : SReg) (off : BitVec 7) (la : La) : (execSst w sd sa off la s).Goes := by
  unfold execSst
  dsimp only
  split
  · exact State.trapU_goes
  · exact State.store_goes

/-! Tensors. -/

theorem State.tensorAccess_goes {acc : Acc} {slot : BitVec 5} {m : Mask} {a : LReg}
    {go : Shape → List (Nat × List TElem) → List Probe → Out} (h : ∀ sh es ps, (go sh es ps).Goes) :
    (s.tensorAccess acc slot m a go).Goes := by
  unfold State.tensorAccess
  split
  · exact State.done_goes
  · split
    · exact State.trapAt_goes
    · dsimp only
      split
      · exact ⟨_, rfl⟩
      · split
        · exact State.trapAt_goes
        · exact State.trapAt_goes
        · exact State.checked_next (h ..)

theorem execTload_goes (slot : BitVec 5) (d a : LReg) (la : La) (g : Guard) : (execTload slot d a la g s).Goes := by
  refine State.tensorAccess_goes fun sh es ps => ?_
  dsimp only
  split
  · exact State.done_goes
  · split <;> exact ⟨_, rfl⟩

theorem execTstore_goes (slot : BitVec 5) (d a : LReg) (la : La) (g : Guard) : (execTstore slot d a la g s).Goes := by
  refine State.tensorAccess_goes fun sh es ps => ?_
  dsimp only
  split
  · exact ⟨_, rfl⟩
  · split <;> exact ⟨_, rfl⟩

theorem execTsload_goes (slot : BitVec 5) (sa : SReg) : (execTsload slot sa s).Goes := by
  unfold execTsload
  dsimp only
  split
  · exact State.stall_goes
  · refine State.readAt_next fun t x => ?_
    split <;> exact ⟨_, rfl⟩

theorem execTsevict_goes (slot : BitVec 5) (sa : SReg) : (execTsevict slot sa s).Goes := by
  unfold execTsevict
  dsimp only
  split
  · exact State.done_goes
  · split
    · exact State.stall_goes
    · split
      · exact ⟨_, rfl⟩
      · split
        · exact State.done_goes
        · split
          · exact State.trapU_goes
          · split
            · split
              · exact State.stall_goes
              · exact State.store_goes
            · split
              · exact State.stall_goes
              · exact State.store_goes

/-! Control. -/

theorem execBra_goes (c : BCond) (p : PReg) (off : BitVec 15) : (execBra c p off s).Goes := by
  unfold execBra
  split <;> exact ⟨_, rfl⟩

theorem execBrd_goes (p : PReg) (off : BitVec 18) : (execBrd p off s).Goes := by
  unfold execBrd
  dsimp only
  repeat' split
  all_goals exact ⟨_, rfl⟩

theorem execJpush_goes (off : BitVec 25) : (execJpush off s).Goes := by
  unfold execJpush
  split <;> exact ⟨_, rfl⟩

theorem execJoin_goes : (execJoin s).Goes := by
  unfold execJoin
  split <;> exact ⟨_, rfl⟩

theorem execBrx_goes (va : LReg) (table : BitVec 19) : (execBrx va table s).Goes := by
  unfold execBrx
  dsimp only
  refine State.readAt_next fun _ _ => State.readAt_next fun _ _ => ?_
  split
  · exact State.jump_goes
  · split
    · exact State.trapAt_goes
    · refine State.readEach_goes fun _ _ => ?_
      split
      · exact State.jump_goes
      · split <;> exact ⟨_, rfl⟩

theorem execRet_goes : (execRet s).Goes := by
  unfold execRet
  dsimp only
  split <;> exact ⟨_, rfl⟩

theorem execExit_goes : (execExit s).Goes := by
  unfold execExit
  dsimp only
  split
  · exact State.jump_goes
  · split
    · exact State.stall_goes
    · exact State.atBound_next fun _ => ⟨_, rfl⟩

theorem execYield_goes (sd : SReg) (off : BitVec 19) : (execYield sd off s).Goes := by
  unfold execYield
  split <;> exact ⟨_, rfl⟩

theorem execRft_goes : (execRft s).Goes := by
  unfold execRft
  repeat' split
  all_goals exact ⟨_, rfl⟩

theorem execRgn_goes (region : BitVec 18) : (execRgn region s).Goes := by
  unfold execRgn
  dsimp only
  exact State.readAt_next fun _ _ => State.readAt_next fun _ _ => State.done_goes

theorem execCvt_goes (sel : BitVec 6) (part : BitVec 2) (d a : LReg) (g : Guard) : (execCvt sel part d a g s).Goes := by
  unfold execCvt
  split <;> exact State.done_goes

theorem execCsrr_goes (dst : CsrDst) (csr : BitVec 12) : (execCsrr dst csr s).Goes := by
  unfold execCsrr
  dsimp only
  split
  · exact State.trapU_goes
  · refine State.flagWait_goes ?_
    split <;> exact State.done_goes

theorem execCsrw_goes (csr : BitVec 12) (sa : SReg) : (execCsrw csr sa s).Goes := by
  unfold execCsrw
  dsimp only
  split
  · exact State.trapU_goes
  · exact State.flagWait_goes State.done_goes

/-! Exchange. -/

theorem execBar_goes (n : BitVec 4) (sa : SReg) : (execBar n sa s).Goes := by
  unfold execBar
  dsimp only
  repeat' split
  all_goals exact ⟨_, rfl⟩

theorem execPhase_goes (sc : PScope) : (execPhase sc s).Goes := State.atBound_next fun _ => State.done_goes

theorem execXfence_goes : (execXfence s).Goes := State.atBound_next fun _ => State.done_goes

theorem execFebind_goes (sa sb sc : SReg) (m : BindMode) : (execFebind sa sb sc m s).Goes := by
  unfold execFebind
  dsimp only
  repeat' split
  all_goals exact ⟨_, rfl⟩

/-! Tasks. -/

theorem State.openHere_goes : s.openHere.Goes := by
  unfold State.openHere
  dsimp only
  split <;> exact ⟨_, rfl⟩

theorem State.weigh_goes {sd : SReg} {e : Entry} {go : State → Nat → Out} (h : ∀ t w, (go t w).Goes) : (s.weigh sd e go).Goes := by
  unfold State.weigh
  split
  · exact ⟨_, rfl⟩
  · split
    · exact h ..
    · split
      · exact ⟨_, rfl⟩
      · exact Split.elim_goes (fun _ _ => h ..) fun _ => ⟨_, rfl⟩

theorem State.weighedDone_goes {sd : SReg} {e : QEntry} {code : Nat} : (s.weighedDone sd e code).Goes := by
  unfold State.weighedDone
  split <;> exact ⟨_, rfl⟩

theorem State.sendEntry_goes {dev : BitVec 8} {e : QEntry} {sent : State → Nat → Out} {lost : State → Out} {op : Nat → Nat}
    {m : Nat → RemoteMsg} (hs : ∀ t tag, (sent t tag).Goes) (hl : ∀ t, (lost t).Goes) : (s.sendEntry dev e sent lost op m).Goes := by
  unfold State.sendEntry
  split
  · exact hl s
  · exact hs ..

theorem State.dequeue_goes {sd sa : SReg} {blocking : Bool} : (s.dequeue sd sa blocking).Goes := by
  unfold State.dequeue
  dsimp only
  split
  · exact State.trapU_goes
  · split
    · exact State.trapU_goes
    · split
      · exact State.trapU_goes
      · split
        · split <;> exact ⟨_, rfl⟩
        · split
          · exact State.done_goes
          · split
            · exact State.trapU_goes
            · exact State.waitOn_goes

theorem execEnq_goes (sd sa sb : SReg) (la : La) : (execEnq sd sa sb la s).Goes := by
  unfold execEnq
  dsimp only
  refine State.weigh_goes fun t w => ?_
  split
  · exact State.weighedDone_goes
  · split
    · exact State.weighedDone_goes
    · exact State.sendEntry_goes (fun _ _ => State.done_goes) fun _ => State.weighedDone_goes

theorem execDeparm_goes (sd sa sb : SReg) (la : La) : (execDeparm sd sa sb la s).Goes := by
  unfold execDeparm
  dsimp only
  split
  · exact State.trapU_goes
  · refine State.weigh_goes fun t w => ?_
    split
    · exact State.weighedDone_goes
    · split
      · exact State.weighedDone_goes
      · exact State.sendEntry_goes (fun _ _ => State.waitOn_goes) fun _ => State.weighedDone_goes

theorem execDepdec_goes (sd sa : SReg) (la : La) : (execDepdec sd sa la s).Goes := by
  unfold execDepdec
  dsimp only
  split
  · exact State.trapU_goes
  · split
    · exact State.trapU_goes
    · split
      · exact State.waitOn_goes
      · split
        · exact State.trapU_goes
        · split
          · exact State.trapU_goes
          · exact State.done_goes

theorem execQopen_goes : (execQopen s).Goes := by
  unfold execQopen
  dsimp only
  split
  · exact State.done_goes
  · exact State.openHere_goes
  · split
    · exact ⟨_, rfl⟩
    · exact State.stall_goes
    · exact State.done_goes
    · exact State.openHere_goes

theorem execQwait_goes : (execQwait s).Goes := by
  unfold execQwait
  dsimp only
  split
  · split
    · exact State.done_goes
    · exact State.waitOn_goes
  · split
    · exact State.waitOn_goes
    · split <;> exact ⟨_, rfl⟩

/-! Engines. -/

theorem State.withChannel_goes {x : Word} {go : BitVec 9 → Option Channel → Out} (h : ∀ n c, (go n c).Goes) :
    (s.withChannel x go).Goes := by
  unfold State.withChannel
  dsimp only
  split
  · exact State.trapU_goes
  · exact h ..

theorem State.withOwn_goes {x : Word} {go : Channel → Out} (h : ∀ c, (go c).Goes) : (s.withOwn x go).Goes := by
  refine State.withChannel_goes fun _ c => ?_
  cases c with
  | none => exact State.trapU_goes
  | some c =>
    dsimp only
    split
    · exact h c
    · exact State.trapU_goes

theorem State.fill_goes {c : Channel} {go refused : State → Out} (hg : ∀ t, (go t).Goes) (hr : ∀ t, (refused t).Goes) :
    (s.fill c go refused).Goes := by
  unfold State.fill
  split
  · exact hg s
  · exact Split.elim_goes (fun _ _ => hg _) hr

theorem State.oneShot_goes {sd : SReg} {la : La} {src dst : Word} {ss ds rb rows : Nat} : (s.oneShot sd la src dst ss ds rb rows).Goes := by
  unfold State.oneShot
  split <;> exact ⟨_, rfl⟩

theorem execWaitseq_goes (sa sb : SReg) : (execWaitseq sa sb s).Goes := by
  refine State.withChannel_goes fun h c => ?_
  cases c with
  | none => exact State.trapU_goes
  | some c =>
    dsimp only
    split
    · exact State.done_goes
    · split
      · exact State.waitOn_goes
      · split
        · exact State.trapU_goes
        · exact State.waitOn_goes

theorem execChead_goes (sd sa sb : SReg) (la : La) : (execChead sd sa sb la s).Goes := by
  refine State.withOwn_goes fun c => ?_
  dsimp only
  split
  · exact State.waitOn_goes
  · exact State.done_goes

theorem execCtail_goes (sd sa sb : SReg) (la : La) : (execCtail sd sa sb la s).Goes :=
  State.withOwn_goes fun _ => State.fill_goes (fun _ => State.done_goes) fun _ => State.done_goes

theorem execColl_goes (k : CollKind) (sd sa sb : SReg) (la : La) : (execColl k sd sa sb la s).Goes := by
  unfold execColl
  dsimp only
  repeat' split
  all_goals exact ⟨_, rfl⟩

/-! Claims and the matrix engine. -/

theorem State.releaseClaims_goes {tile : Bool} {sd sa : SReg} : (s.releaseClaims tile sd sa).Goes := by
  unfold State.releaseClaims
  dsimp only
  split
  · exact State.done_goes
  · split
    · exact State.trapU_goes
    · exact State.trapU_goes
    · split <;> exact ⟨_, rfl⟩

theorem State.queueCmd_goes {sd : SReg} {word : Word} {fmt : Word × Word} {ring : Option (Word × Word)} :
    (s.queueCmd sd word fmt ring).Goes := by
  unfold State.queueCmd
  dsimp only
  split
  · exact State.trapU_goes
  · split
    · exact State.trapU_goes
    · split
      · exact State.waitOn_goes
      · exact State.done_goes

theorem State.withTile_goes {tile : Nat} {go : Team → Out} (h : ∀ t, (go t).Goes) : (s.withTile tile go).Goes := by
  unfold State.withTile
  split
  · exact State.trapU_goes
  · split
    · exact State.trapU_goes
    · split
      · exact State.trapU_goes
      · exact h _

theorem execOclaim_goes (sd sa : SReg) (la : La) : (execOclaim sd sa la s).Goes := by
  unfold execOclaim
  dsimp only
  repeat' split
  all_goals exact ⟨_, rfl⟩

theorem execAclaim_goes (sd sa : SReg) (la : La) : (execAclaim sd sa la s).Goes := by
  unfold execAclaim
  dsimp only
  repeat' split
  all_goals exact ⟨_, rfl⟩

theorem execMloop_goes (sd sa sb : SReg) (la : La) : (execMloop sd sa sb la s).Goes := by
  unfold execMloop
  dsimp only
  refine State.readAt_next fun _ _ => ?_
  split
  · exact State.readAt_next fun _ _ => State.queueCmd_goes
  · exact State.queueCmd_goes

theorem execMloopWait_goes (sa : SReg) (la : La) : (execMloopWait sa la s).Goes := by
  unfold execMloopWait
  dsimp only
  split
  · exact State.done_goes
  · split
    · exact State.done_goes
    · exact State.waitOn_goes

theorem execAread_goes (f : AFmt) (vd : LReg) (sa : SReg) (la : La) : (execAread f vd sa la s).Goes := by
  refine State.withTile_goes fun t => ?_
  split <;> exact ⟨_, rfl⟩

theorem execAzero_goes (sa : SReg) (la : La) : (execAzero sa la s).Goes := State.withTile_goes fun _ => State.done_goes

/-! Every instruction. -/

/-- An instruction, as its word names it, goes on to a next state. -/
theorem exec_goes {i : Instr} {w : BitVec 32} (word : encode i = some w) : Out.Goes (exec i s) := by
  cases i with
  | ld | lds => exact State.load_goes
  | st => exact State.checked_next State.store_goes
  | ldfe | ldfw => exact State.feLoad_goes
  | stfe w d a off la g => exact execStfe_goes w d a off la g
  | cas | atomAdd | atomSmin | atomSmax | atomUmin | atomUmax | atomAnd | atomOr | atomXchg => exact State.atom_goes
  | red op w64 sc a b la => exact execRed_goes op w64 sc a b la
  | tload slot d a la g => exact execTload_goes slot d a la g
  | tstore slot d a la g => exact execTstore_goes slot d a la g
  | sld w sd sa off la => exact execSld_goes w sd sa off la
  | sst w sd sa off la => exact execSst_goes w sd sa off la
  | tsload slot sa => exact execTsload_goes slot sa
  | tsevict slot sa => exact execTsevict_goes slot sa
  | bra c p off => exact execBra_goes c p off
  | brd p off => exact execBrd_goes p off
  | jpush off => exact execJpush_goes off
  | join => exact execJoin_goes
  | brx va table => exact execBrx_goes va table
  | ret => exact execRet_goes
  | exit => exact execExit_goes
  | yield sd off => exact execYield_goes sd off
  | rft => exact execRft_goes
  | rgn region => exact execRgn_goes region
  | cvt sel part d a g => exact execCvt_goes sel part d a g
  | csrr dst csr => exact execCsrr_goes dst csr
  | csrw csr sa => exact execCsrw_goes csr sa
  | bar n sa => exact execBar_goes n sa
  | phase sc => exact execPhase_goes sc
  | xfence => exact execXfence_goes
  | febind sa sb sc m => exact execFebind_goes sa sb sc m
  | enq sd sa sb la => exact execEnq_goes sd sa sb la
  | deq | deqNb => exact State.dequeue_goes
  | deparm sd sa sb la => exact execDeparm_goes sd sa sb la
  | depdec sd sa la => exact execDepdec_goes sd sa la
  | qopen => exact execQopen_goes
  | qwait => exact execQwait_goes
  | waitseq sa sb => exact execWaitseq_goes sa sb
  | cpy | tmove => exact State.oneShot_goes
  | chead sd sa sb la => exact execChead_goes sd sa sb la
  | ctail sd sa sb la => exact execCtail_goes sd sa sb la
  | coll k sd sa sb la => exact execColl_goes k sd sa sb la
  | oclaim sd sa la => exact execOclaim_goes sd sa la
  | aclaim sd sa la => exact execAclaim_goes sd sa la
  | orelease | arelease => exact State.releaseClaims_goes
  | mloop sd sa sb la => exact execMloop_goes sd sa sb la
  | mloopWait sa la => exact execMloopWait_goes sa la
  | aread f vd sa la => exact execAread_goes f vd sa la
  | azero sa la => exact execAzero_goes sa la
  | iadd | isub | iaddi | imin | imax | umin | umax | imul | imulhi | imad | imsb | iaddsat | isubsat | uaddsat | usubsat | land | landn
  | lor | lorn | lxor | lxnor | shl | shr | sar | rol | shli | shri | sari | popc | clz | brev | ctz | bfx | bfxs | bfi | iabs | ineg | mov
  | movs | movi | sel | icmp | plop | pmovGet | pmovSet | fadd | fsub | fmul | ffma | ffms | fmin | fmax | fabs | fneg | fcmp | fspec | dot
  | perm | lxch | lred | lscan | vote | sadd | ssub | smul | smulhi | sand | sor | sxor | sandn | sshl | sshr | ssar | smin | smax | sminu
  | smaxu | saddi | sli | scmp | sget | runend | qret | qread | relayout | nop | icinv => exact State.done_goes
  | brl | call => exact State.jump_goes
  | trap | bkpt => exact State.trapU_goes
  | _ => cases word

end Sys2Proof.Machine
end

section
/-! PROOFS. A step of a group that issues (R36, R105; log 1, 4, 18, 21): fetch, decode, the checks that stand before the instruction, and
its effect. -/
namespace Sys2Proof.Machine

variable {s : State}

/-! What a fetch leaves. -/

@[simp] theorem State.fetched_g (s : State) (l : Loc) : (s.fetched l).g = s.g := by
  unfold State.fetched
  cases l.pte <;> rfl

@[simp] theorem State.fetched_launches (s : State) (l : Loc) : (s.fetched l).launches = s.launches := by
  unfold State.fetched
  cases l.pte <;> rfl

@[simp] theorem State.fetched_desc (s : State) (l : Loc) (lid : BitVec 32) : (s.fetched l).desc lid = s.desc lid := by
  simp only [State.desc, State.launch?, State.fetched_launches]

@[simp] theorem State.fetched_gdesc (s : State) (l : Loc) : (s.fetched l).gdesc = s.gdesc := by
  simp only [State.gdesc, State.fetched_g, State.fetched_desc]

@[simp] theorem State.fetched_decodeFor (s : State) (l : Loc) (g : Group) (w : BitVec 32) :
    (s.fetched l).decodeFor g w = s.decodeFor g w := by
  have beyond : (s.fetched l).beyond g = s.beyond g := funext fun r => by simp only [State.beyond, State.fetched_desc]
  simp only [State.decodeFor, beyond, State.fetched_desc]

/-! Decoding in a group. -/

/-- What a group decodes is what the word stands for (R36). -/
theorem State.decode_of_decodeFor {g : Group} {w : BitVec 32} {i : Instr} (h : s.decodeFor g w = .inl i) : decode w = some i := by
  unfold State.decodeFor at h
  split at h
  · cases h
  · split at h
    · cases h
    · split at h
      next e => exact Sum.inl.inj h ▸ e
      · cases h

/-- A word that names no instruction is ILLEGAL or FIELD in every group (R36). -/
theorem State.decodeFor_none {g : Group} {w : BitVec 32} (h : decode w = none) : ∃ c info, c ∈ [1, 2] ∧ s.decodeFor g w = .inr (c, info) := by
  unfold State.decodeFor
  split
  · exact ⟨1, _, by simp, rfl⟩
  · split
    · exact ⟨2, _, by simp, rfl⟩
    · exact ⟨2, _, by simp, by rw [h]⟩

/-! The step. -/

/-- Without an event in the schedule, a group that can issue does. -/
theorem step_issues (runs : s.alarmed = false) (up : s.down = false) (idle : s.inputs = []) (may : s.mayIssue = true)
    (fresh : s.g.last ≠ .stalled) : step s = advanced s s.issue := by
  have turn : (s.mayIssue && s.g.last != .stalled) = true := by rw [may, Bool.true_and, bne_iff_ne]; exact fresh
  simp only [step, runs, up, Bool.or_self, Bool.false_eq_true, if_false, State.awake, idle, turn, if_true, State.issueStep]

theorem advanced_next (old t : State) :
    advanced old (.next t) = .next (State.finish old (if t.g.last = .stalled then t else t.retryOthers)) := by
  simp only [advanced, beq_iff_eq]

theorem State.issue_decoded {l : Loc} {w : BitVec 32} {i : Instr} (sound : s.g.marked = false) (fetch : s.fetch s.g = .ok l w)
    (dec : s.decodeFor s.g w = .inl i) : s.issue = (s.fetched l).issueInstr w i := by
  simp only [State.issue, sound, Bool.false_eq_true, if_false, fetch, State.fetched_g, State.fetched_decodeFor, dec]

theorem State.issue_undecoded {l : Loc} {w : BitVec 32} {c : Nat} {info : Word} (sound : s.g.marked = false)
    (fetch : s.fetch s.g = .ok l w) (dec : s.decodeFor s.g w = .inr (c, info)) :
    s.issue = .next (((s.fetched l).trapGroup s.g c info s.g.em s.g.pc).afterTrap s.g.key s.g.pc) := by
  simp only [State.issue, sound, Bool.false_eq_true, if_false, fetch, State.fetched_g, State.fetched_decodeFor, dec, State.trapNow]

/-! A group with nothing outstanding. -/

/-- Nothing stands between a decoded instruction and its effect: no region, no twin, no result or held lane on its way, no poison. -/
structure Group.Clear (g : Group) : Prop where
  region : g.region = none
  twin : g.twin = none
  pendS : g.pendS = []
  inflight : g.inflight = []
  heldOps : g.heldOps = []
  poison : g.poison = []
  joins : g.joins = []

namespace Group.Clear
variable {g : Group} (h : g.Clear) {tick : Nat} {u : Use} {i : Instr}
include h

theorem enterAt : Group.enterAt i g = g := by rw [Group.enterAt, h.region]

theorem settleTouched : Group.settleTouched tick u g = g := by
  simp only [Group.settleTouched, h.inflight, List.filter_nil, List.foldr_nil]
  rw [← h.inflight]

theorem awaits : g.awaits i = none := by
  unfold Group.awaits
  split
  · rfl
  · rw [Group.pendingS, h.pendS]; rfl

theorem readsPoison : g.readsPoison i = false := by
  simp [Group.readsPoison, h.poison]

/-- An instruction sees the registers as they are. -/
theorem view : g.view tick u = { g with last := .stalled, hits := none } := by
  simp [Group.view, Group.openL, Group.openS, h.inflight]

end Group.Clear

/-- The run has written every e register that an instruction names, so none holds a free value (R19). -/
theorem Group.blankE_of_written {g : Group} {tick : Nat} {u : Use}
    (h : ∀ r ∈ u.rl ++ u.wl, 56 ≤ r.toNat → g.eWritten.getLsbD (r.toNat - 56) = true) : Group.blankE tick u g = g := by
  have none : g.unwritten (u.rl ++ u.wl) = [] := by
    refine List.filter_eq_nil_iff.2 fun r hr => ?_
    by_cases e : 56 ≤ r.toNat
    · simp [h r hr e]
    · simp [isV, Nat.lt_of_not_le e]
  rw [Group.blankE, none]
  rfl

theorem State.onG_self {f : Group → Group} (h : f s.g = s.g) : s.onG f = s := by rw [State.onG, h]

theorem State.joinReads_self {u : Use} (h : s.g.joins = []) : s.joinReads u = s := by
  simp only [State.joinReads, h, List.filter_nil, List.foldl_nil]
  refine State.onG_self ?_
  rw [h, List.filter_nil, ← h]

/-- The instruction runs on the group as it stands. -/
theorem State.run1_clear {i : Instr} {t : State} (clear : s.g.Clear)
    (written : ∀ r ∈ (uses i).rl ++ (uses i).wl, 56 ≤ r.toNat → s.g.eWritten.getLsbD (r.toNat - 56) = true)
    (run : exec i { s with g := { s.g with last := .stalled, hits := none } } = .next t) :
    s.run1 i = .next (State.after s { s.g with last := .stalled, hits := none } i t) := by
  simp only [State.run1, State.onG_self (Group.blankE_of_written written), clear.view]
  simp only [State.onG, run]

/-- Nothing holds the instruction up: it runs. -/
theorem State.issueInstr_clear {w : BitVec 32} {i : Instr} (clear : s.g.Clear) (plain : s.gdesc.debugFlag = false)
    (room : s.mustStall i = false) : s.issueInstr w i = s.run1 i := by
  have noHazard : ∀ f, s.debugHazard f = none := fun f => by rw [State.debugHazard, plain]; rfl
  have carry : s.carryOut w i = s.run1 i := by
    simp only [State.carryOut, State.onG_self clear.settleTouched, noHazard, State.joinReads_self clear.joins, clear.twin,
      Option.isSome_none, Bool.false_and, Bool.false_eq_true, if_false]
  simp only [State.issueInstr, State.onG_self clear.enterAt, noHazard, clear.awaits, room, clear.readsPoison, carry, Bool.false_eq_true,
    if_false, ite_self]

/-- Settles O56: the step is the issue of the group in turn, the issue is that of the decoded instruction or a trap, and with nothing
that stands before it the instruction runs. -/
theorem stepRunsDecoded : Obligations.StepRunsDecoded := by
  intro s l w runs up idle may fresh sound fetch u ends
  refine ⟨fun i dec => ?decoded, fun none => ?undecoded⟩
  case decoded =>
    have names := State.decode_of_decodeFor dec
    obtain ⟨wf, word⟩ := decodeSound w i names
    have issues : step s = advanced s (u.issueInstr w i) := by
      rw [step_issues runs up idle may fresh, State.issue_decoded sound fetch dec]
    refine ⟨names, wf, issues, fun region twin plain pendS inflight heldOps poison joins room written => ?_⟩
    intro x
    have same : u.g = s.g := State.fetched_g s l
    have clear : u.g.Clear := same ▸ ⟨region, twin, pendS, inflight, heldOps, poison, joins⟩
    obtain ⟨t, run⟩ : Out.Goes (exec i { u with g := x }) := exec_goes word
    refine ⟨t, run, ?_⟩
    have runs1 := State.run1_clear (t := t) clear (same ▸ written) (same ▸ run)
    rw [issues, State.issueInstr_clear clear ((State.fetched_gdesc s l).symm ▸ plain) room, runs1, advanced_next, same]
  case undecoded =>
    obtain ⟨c, info, cause, dec⟩ := State.decodeFor_none (s := s) (g := s.g) none
    refine ⟨c, info, cause, ?_⟩
    rw [step_issues runs up idle may fresh, State.issue_undecoded sound fetch dec, advanced_next]

end Sys2Proof.Machine
end

section
/-! PROOFS. The tree and the scan across the lanes of a group (R60, R153, R154), and the tree of integer addition as a sum. -/
namespace Sys2Proof.Machine
open Sys2Proof.Safety

/-! The tree. -/

/-- One level of the tree, as positions: value `j` of the next level comes from values `2j` and `2j + 1`. -/
def pairAt (op : Nat → Nat → Nat) (x : Nat → Nat) (j : Nat) : Nat := op (x (2 * j)) (x (2 * j + 1))

/-- A tree of one more level is the tree over the combined neighbours. -/
theorem treeAt_succ_two_mul (op : Nat → Nat → Nat) (x : Nat → Nat) (n : Nat) :
    ∀ i, treeAt op x (n + 1) (2 * i) = treeAt op (pairAt op x) n i := by
  induction n with
  | zero => intro i; rfl
  | succ n ih =>
    intro i
    have right : 2 * i + 2 ^ (n + 1) = 2 * (i + 2 ^ n) := by rw [Nat.pow_succ]; omega
    rw [treeAt, right, ih, ih, treeAt]

theorem pairUp_map_range (op : Nat → Nat → FRes) (k : Nat) : ∀ x : Nat → Nat,
    (pairUp op ((List.range (2 * k)).map x)).1 = (List.range k).map (pairAt (fun u v => (op u v).1) x) := by
  induction k with
  | zero => intro x; rfl
  | succ k ih =>
    intro x
    have two : (List.range (2 * (k + 1))).map x = x 0 :: x 1 :: (List.range (2 * k)).map fun j => x (j + 2) := by
      rw [show 2 * (k + 1) = 2 * k + 1 + 1 by omega, List.range_succ_eq_map, List.range_succ_eq_map]
      simp
    rw [two, List.range_succ_eq_map]
    simp [pairUp, ih, pairAt, Function.comp_def, Nat.mul_add]

/-- The tree over 2^n values is that of R60. -/
theorem treeOf_map_range (op : Nat → Nat → FRes) (n : Nat) : ∀ x : Nat → Nat,
    (treeOf op n ((List.range (2 ^ n)).map x)).1 = treeAt (fun u v => (op u v).1) x n 0 := by
  induction n with
  | zero => intro x; rfl
  | succ n ih =>
    intro x
    rw [treeOf, Nat.pow_succ, Nat.mul_comm, pairUp_map_range, ih, ← treeAt_succ_two_mul]

/-! The scan. -/

/-- One level of the scan, as positions. -/
theorem scanLevel_map_range (op : Nat → Nat → FRes) (x : Nat → Nat) {k n : Nat} (h : k ≤ n) :
    (scanLevel op k ((List.range n).map x)).1 = (List.range n).map fun i => if k ≤ i then (op (x (i - k)) (x i)).1 else x i := by
  refine List.ext_getElem (by simp [scanLevel]; omega) fun i hi _ => ?_
  by_cases low : k ≤ i
  · have split : k + (i - k) = i := by omega
    simp [scanLevel, low, h, split]
  · simp [scanLevel, List.getElem_append, low, h]

theorem scanLevel_scanAt (op : Nat → Nat → FRes) (x : Nat → Nat) {n m : Nat} (h : 2 ^ n ≤ m) :
    (scanLevel op (2 ^ n) ((List.range m).map (scanAt (fun u v => (op u v).1) x n))).1
      = (List.range m).map (scanAt (fun u v => (op u v).1) x (n + 1)) := by
  rw [scanLevel_map_range op _ h]
  rfl

/-- The scan over 32 values is that of R60. -/
theorem scanOf_map_range (op : Nat → Nat → FRes) (x : Nat → Nat) :
    (scanOf op ((List.range 32).map x)).1 = (List.range 32).map (scanAt (fun u v => (op u v).1) x 5) := by
  have level := fun n (h : 2 ^ n ≤ 32) => scanLevel_scanAt op x h
  have l0 := level 0 (by decide)
  have l1 := level 1 (by decide)
  have l2 := level 2 (by decide)
  have l3 := level 3 (by decide)
  have l4 := level 4 (by decide)
  norm_num at l0 l1 l2 l3 l4
  simp only [scanOf, List.foldl_cons, List.foldl_nil]
  rw [show x = scanAt (fun u v => (op u v).1) x 0 from rfl, l0, l1, l2, l3, l4]
  rfl

/-! Flags: an operation that raises none makes a tree and a scan that raise none. -/

section
variable {op : Nat → Nat → FRes} (quiet : ∀ u v, (op u v).2 = 0)
include quiet

theorem pairUp_flags : ∀ l, (pairUp op l).2 = 0
  | [] => rfl
  | [_] => rfl
  | a :: b :: rest => by simp [pairUp, quiet, pairUp_flags rest]

theorem treeOf_flags (n : Nat) : ∀ l, (treeOf op n l).2 = 0 := by
  induction n with
  | zero => intro l; rfl
  | succ n ih => intro l; simp [treeOf, ih, pairUp_flags quiet]

theorem scanLevel_flags (k : Nat) (l : List Nat) : (scanLevel op k l).2 = 0 := by
  have fold : ∀ r : List FRes, (∀ y ∈ r, y.2 = 0) → r.foldl (fun f y => f ||| y.2) 0 = 0#5 := by
    intro r
    induction r with
    | nil => intro _; rfl
    | cons y r ih =>
      intro h
      rw [List.foldl_cons, h y (by simp)]
      exact ih fun z hz => h z (by simp [hz])
  refine fold _ fun y hy => ?_
  obtain ⟨i, hi, rfl⟩ := List.mem_iff_getElem.1 hy
  simp [quiet]

theorem scanOf_flags (l : List Nat) : (scanOf op l).2 = 0 := by
  simp [scanOf, scanLevel_flags quiet]

end

theorem flagsN_zero {f : Nat → BitVec 5} (h : ∀ i, f i = 0) (n : Nat) : flagsN f n = 0 := by
  induction n with
  | zero => rfl
  | succ n ih => simp [flagsN, ih, h]

theorem redOp_int_flags (k : IRed) (w : Width) (rm : BitVec 2) (u v : Nat) : (redOp (.int k w) rm u v).2 = 0 := by
  cases k <;> rfl

/-! What an instruction leaves that writes lanes and raises flags. -/

theorem Group.lane_raise (g : Group) (f : BitVec 5) (r : LReg) (l : Nat) : (g.raise f).lane r l = g.lane r l := rfl
theorem Group.lreg_raise (g : Group) (f : BitVec 5) (r : LReg) : (g.raise f).lreg r = g.lreg r := rfl

theorem Group.raise_zero (g : Group) : g.raise 0 = g :=
  (congrArg (fun f => { g with fflags := f }) BitVec.or_zero :)

theorem onlyLanesFlags_of_raise (s : State) (m : Mask) (d : LReg) (f : Nat → Word) (fl : BitVec 5) (pc : Word) :
    OnlyLanesFlags d m s { s with g := ((s.g.writeL m d f).raise fl).retireTo pc } where
  outside := rfl
  group := by
    have rest := unretired_writeL s.g m d f pc
    exact (congrArg (fun x : Group => { x with fflags := s.g.fflags }) rest :)
  registers r hr := by simp [Group.lreg_raise, hr]
  lanes l hl := by simp [Group.lane_raise, hl]
  sticky := by
    show s.g.fflags &&& ((s.g.writeL m d f).fflags ||| fl) = s.g.fflags
    rw [Group.writeL_fflags]
    ext i
    simp_all
  bytes _ := rfl

/-- An instruction that writes the lanes of a mask, and raises flags where the mask has a lane. -/
theorem completes_of_raise {i : Instr} {s : State} {m : Mask} {d : LReg} {f : Nat → Word} {fl : BitVec 5} {P : State → Prop}
    (h : exec i s = s.done (if m = 0 then s.g.writeL m d f else (s.g.writeL m d f).raise fl))
    (p : ∀ t, (∀ l, m.has l = true → t.g.lane d l = f l) → (fl = 0 → t.g.fflags = s.g.fflags) → P t) :
    Completes i s fun t => Retires s t ∧ OnlyLanesFlags d m s t ∧ P t := by
  have one : (if m = 0 then s.g.writeL m d f else (s.g.writeL m d f).raise fl) = (s.g.writeL m d f).raise (if m = 0 then 0 else fl) := by
    split
    · rw [Group.raise_zero]
    · rfl
  rw [one, State.done_eq] at h
  refine ⟨_, h, ⟨?_, ?_, rfl⟩, onlyLanesFlags_of_raise s m d f _ _, p _ (fun l hl => ?_) fun none => ?_⟩
  · show (s.g.writeL m d f).pc + 4 = s.g.pc + 4
    rw [Group.writeL_pc]
  · show (s.g.writeL m d f).retired + 1 = s.g.retired + 1
    rw [Group.writeL_retired]
  · simp [Group.lane_raise, hl]
  · show (s.g.writeL m d f).fflags ||| (if m = 0 then 0 else fl) = s.g.fflags
    simp [none]

/-! LRED and LSCAN. -/

/-- The values that enter at element position `i`, by lane (R60). -/
def Group.redInput (g : Group) (r : Reduce) (m : Mask) (a : LReg) (i l : Nat) : Nat :=
  if m.has l then elem (redWidth r) i (g.lane a l) else redIdentity r

theorem Group.redInputs_eq (g : Group) (r : Reduce) (m : Mask) (a : LReg) (i : Nat) :
    g.redInputs r m a i = (List.range 32).map (g.redInput r m a i) := rfl

theorem lred_completes (r : Reduce) (d a : LReg) (g : Guard) (s : State) :
    Completes (.lred r d a g) s fun t => Retires s t ∧ OnlyLanesFlags d (s.g.acts g) s t
      ∧ (∀ l i, (s.g.acts g).has l = true → i < 64 / redWidth r → elem (redWidth r) i (t.g.lane d l)
        = treeAt (fun u v => (redOp r s.g.frm u v).1) (s.g.redInput r (s.g.acts g) a i) 5 0 % 2 ^ redWidth r)
      ∧ ∀ k n, r = .int k n → t.g.fflags = s.g.fflags := by
  refine completes_of_raise rfl fun t lanes flags => ⟨fun l i hl hi => ?_, fun k n int => flags ?_⟩
  · rw [lanes l hl, elem_ofElems _ hi]
    exact congrArg (· % _) (treeOf_map_range _ 5 _)
  · subst int
    exact flagsN_zero (fun i => treeOf_flags (redOp_int_flags k n _) 5 _) _

theorem lscan_completes (r : Reduce) (exc : Bool) (d a : LReg) (g : Guard) (s : State) :
    Completes (.lscan r exc d a g) s fun t => Retires s t ∧ OnlyLanesFlags d (s.g.acts g) s t
      ∧ (∀ l i, (s.g.acts g).has l = true → i < 64 / redWidth r → elem (redWidth r) i (t.g.lane d l)
        = (if exc then (if l = 0 then redIdentity r
            else scanAt (fun u v => (redOp r s.g.frm u v).1) (s.g.redInput r (s.g.acts g) a i) 5 (l - 1))
          else scanAt (fun u v => (redOp r s.g.frm u v).1) (s.g.redInput r (s.g.acts g) a i) 5 l) % 2 ^ redWidth r)
      ∧ ∀ k n, r = .int k n → t.g.fflags = s.g.fflags := by
  refine completes_of_raise rfl fun t lanes flags => ⟨fun l i hl hi => ?_, fun k n int => flags ?_⟩
  · have lane := Mask.lt_of_has hl
    have below : l - 1 < 32 := by omega
    rw [lanes l hl, elem_ofElems _ hi]
    simp only [Group.redInputs_eq, scanOf_map_range]
    simp [lane, below, List.getD_eq_getElem?_getD]
  · subst int
    exact flagsN_zero (fun i => scanOf_flags (redOp_int_flags k n _) _) _

/-- Settles O14: the levels of the lists are those of R60, position by position. -/
theorem reduceScan : Obligations.ReduceScan :=
  ⟨fun r d a g s => lred_completes r d a g s, fun r exc d a g s => lscan_completes r exc d a g s⟩

/-! The tree of integer addition. -/

/-- A tree of sums modulo `M` is the sum of its inputs modulo `M`. -/
theorem treeAt_add_mod (M : Nat) (x : Nat → Nat) (n : Nat) : ∀ i,
    treeAt (fun u v => (u + v) % M) x n i % M = ((List.range (2 ^ n)).map fun j => x (i + j)).sum % M := by
  induction n with
  | zero => intro i; simp [treeAt]
  | succ n ih =>
    intro i
    rw [treeAt, Nat.mod_mod, Nat.add_mod, ih, ih, ← Nat.add_mod, Nat.pow_succ, Nat.mul_two, List.range_add]
    simp [Function.comp_def, Nat.add_assoc]

/-- What does not pass a test adds nothing. -/
theorem sum_filter_eq_sum_ite (p : Nat → Bool) (f : Nat → Nat) (l : List Nat) :
    ((l.filter p).map f).sum = (l.map fun k => if p k then f k else 0).sum := by
  induction l with
  | nil => rfl
  | cons k l ih => by_cases h : p k <;> simp [h, ih]

/-- Settles O15: the identity is 0, so the tree of R60 adds up the acting lanes. -/
theorem reduceAddIsSum : Obligations.ReduceAddIsSum := by
  intro w d a g s l i m n hl hi
  obtain ⟨t, run, -, -, values, -⟩ := lred_completes (.int .add w) d a g s
  refine ⟨t, run, (values l i hl hi).trans ?_⟩
  rw [sum_filter_eq_sum_ite]
  refine (treeAt_add_mod (2 ^ n) _ 5 0).trans ?_
  simp only [Nat.zero_add]
  rfl

end Sys2Proof.Machine
end

section
/-! PROOFS. Floating-point numbers (R54, R55): exact values as rationals, the fields of a code, and the finite codes of a format. -/
namespace Sys2Proof.Machine
open Sys2Proof.Safety

/-! Exact values. -/

/-- The magnitude `m × 2^x`. -/
def dyadic (m : Nat) (x : Int) : ℚ := m * 2 ^ x

theorem two_zpow_pos (x : Int) : (0 : ℚ) < 2 ^ x := zpow_pos (by norm_num) x

theorem dyadic_nonneg (m : Nat) (x : Int) : 0 ≤ dyadic m x := mul_nonneg m.cast_nonneg (two_zpow_pos x).le

@[simp] theorem dyadic_zero (x : Int) : dyadic 0 x = 0 := by simp [dyadic]

theorem dyadic_le_iff {a b : Nat} {x : Int} : dyadic a x ≤ dyadic b x ↔ a ≤ b := by
  rw [dyadic, dyadic, mul_le_mul_iff_left₀ (two_zpow_pos x), Nat.cast_le]

theorem dyadic_lt_iff {a b : Nat} {x : Int} : dyadic a x < dyadic b x ↔ a < b := by
  rw [dyadic, dyadic, mul_lt_mul_iff_left₀ (two_zpow_pos x), Nat.cast_lt]

/-- A magnitude as a multiple of a smaller power of two. -/
theorem dyadic_shift {q x : Int} (h : q ≤ x) (m : Nat) : dyadic m x = dyadic (m * 2 ^ (x - q).toNat) q := by
  have split : (2 : ℚ) ^ x = 2 ^ (x - q).toNat * 2 ^ q := by
    rw [← zpow_natCast, ← zpow_add₀ (by norm_num), Int.toNat_of_nonneg (by omega), sub_add_cancel]
  rw [dyadic, dyadic, split]
  push_cast
  ring

/-- Doubling the exponent's power doubles the magnitude. -/
theorem dyadic_add_one (m : Nat) (x : Int) : dyadic m (x + 1) = dyadic (2 * m) x := by
  rw [dyadic_shift (show x ≤ x + 1 by omega) m, show (x + 1 - x).toNat = 1 by omega, pow_one, mul_comm]

theorem magLt_iff (a : Nat) (x : Int) (b : Nat) (y : Int) : magLt a x b y = true ↔ dyadic a x < dyadic b y := by
  unfold magLt
  split
  next h => rw [dyadic_shift h b, dyadic_lt_iff, decide_eq_true_iff]
  next h => rw [dyadic_shift (le_of_not_ge h) a, dyadic_lt_iff, decide_eq_true_iff]

theorem lt_two_pow_bits (m : Nat) : m < 2 ^ bits m := by
  by_cases h : m = 0
  · simp [h]
  · simpa [bits, h] using Nat.lt_log2_self

theorem two_pow_bits_le {m : Nat} (h : m ≠ 0) : 2 ^ (bits m - 1) ≤ m := by
  simpa [bits, h] using Nat.log2_self_le h

theorem bits_pos {m : Nat} (h : m ≠ 0) : 1 ≤ bits m := by
  simp [bits, h]

theorem bits_le_of_lt {m n : Nat} (h : m < 2 ^ n) : bits m ≤ n := by
  by_cases zero : m = 0
  · simp [bits, zero]
  · have := (Nat.log2_lt zero).2 h
    simpa [bits, zero] using this

theorem lt_bits_of_le {m n : Nat} (h : 2 ^ n ≤ m) : n < bits m :=
  (Nat.pow_lt_pow_iff_right (by decide)).1 (h.trans_lt (lt_two_pow_bits m))

/-! Codes and their fields. -/

/-- The code of a sign, an exponent field and a fraction field. -/
def Fmt.code (f : Fmt) (neg : Bool) (e m : Nat) : Nat := f.signBit neg + (e * 2 ^ f.fw + m)

/-- The finite value that the fields of a code give (R54). -/
def Fmt.finite (f : Fmt) (neg : Bool) (e m : Nat) : FVal :=
  if e = 0 then .fin neg m f.qmin else .fin neg (2 ^ f.fw + m) (e - f.bias - f.fw)

/-- The fields of infinities and NaNs. -/
def Fmt.special (f : Fmt) (e m : Nat) : Bool :=
  match f.kind with
  | .infinities _ => e == 2 ^ f.ew - 1
  | .e4m3 => e == 15 && m == 7
  | .e2m1 => false

/-- The sign, the exponent field and the fraction field of a code. -/
def Fmt.sign (f : Fmt) (x : Nat) : Bool := x / 2 ^ (f.ew + f.fw) % 2 == 1
def Fmt.expField (f : Fmt) (x : Nat) : Nat := x / 2 ^ f.fw % 2 ^ f.ew
def Fmt.fracField (f : Fmt) (x : Nat) : Nat := x % 2 ^ f.fw

variable {f : Fmt}

theorem Fmt.expField_lt (x : Nat) : f.expField x < 2 ^ f.ew := Nat.mod_lt _ (Nat.two_pow_pos _)
theorem Fmt.fracField_lt (x : Nat) : f.fracField x < 2 ^ f.fw := Nat.mod_lt _ (Nat.two_pow_pos _)

/-- A code is that of its fields. -/
theorem Fmt.code_fields {x : Nat} (h : x < 2 ^ f.width) : f.code (f.sign x) (f.expField x) (f.fracField x) = x := by
  have high : x / 2 ^ (f.ew + f.fw) < 2 := by
    refine Nat.div_lt_of_lt_mul ?_
    rwa [← pow_succ, add_comm _ 1, ← add_assoc]
  have exponent : x / 2 ^ f.fw / 2 ^ f.ew = x / 2 ^ (f.ew + f.fw) := by rw [Nat.div_div_eq_div_mul, ← pow_add, add_comm f.fw]
  have sign : f.signBit (f.sign x) = x / 2 ^ (f.ew + f.fw) * 2 ^ (f.ew + f.fw) := by
    obtain h | h := Nat.le_one_iff_eq_zero_or_eq_one.1 (Nat.le_of_lt_succ high)
    · simp [Fmt.sign, Fmt.signBit, h]
    · simp [Fmt.sign, Fmt.signBit, h]
  have low := Nat.div_add_mod x (2 ^ f.fw)
  have mid := Nat.div_add_mod (x / 2 ^ f.fw) (2 ^ f.ew)
  rw [exponent] at mid
  rw [Fmt.code, sign, Fmt.expField, Fmt.fracField]
  calc x / 2 ^ (f.ew + f.fw) * 2 ^ (f.ew + f.fw) + (x / 2 ^ f.fw % 2 ^ f.ew * 2 ^ f.fw + x % 2 ^ f.fw)
      = 2 ^ f.fw * (2 ^ f.ew * (x / 2 ^ (f.ew + f.fw)) + x / 2 ^ f.fw % 2 ^ f.ew) + x % 2 ^ f.fw := by rw [pow_add]; ring
    _ = x := by rw [mid, low]

section
variable {e m : Nat} (he : e < 2 ^ f.ew) (hm : m < 2 ^ f.fw)
include he hm

theorem Fmt.magnitude_lt : e * 2 ^ f.fw + m < 2 ^ (f.ew + f.fw) := by
  calc e * 2 ^ f.fw + m < (e + 1) * 2 ^ f.fw := by rw [Nat.succ_mul]; omega
    _ ≤ 2 ^ f.ew * 2 ^ f.fw := Nat.mul_le_mul_right _ he
    _ = 2 ^ (f.ew + f.fw) := (pow_add ..).symm

theorem Fmt.code_lt (neg : Bool) : f.code neg e m < 2 ^ f.width := by
  have low := Fmt.magnitude_lt he hm
  have width : 2 ^ f.width = 2 ^ (f.ew + f.fw) + 2 ^ (f.ew + f.fw) := by rw [Fmt.width, add_assoc, pow_add]; ring
  cases neg <;> simp only [Fmt.code, Fmt.signBit, width, Bool.false_eq_true, if_false, if_true] <;> omega

theorem Fmt.sign_code (neg : Bool) : f.sign (f.code neg e m) = neg := by
  have low := Fmt.magnitude_lt he hm
  cases neg
  · simp [Fmt.sign, Fmt.code, Fmt.signBit, Nat.div_eq_of_lt low]
  · simp [Fmt.sign, Fmt.code, Fmt.signBit, Nat.div_eq_of_lt low]

theorem Fmt.expField_code (neg : Bool) : f.expField (f.code neg e m) = e := by
  have sign : f.signBit neg = (if neg then 1 else 0) * 2 ^ f.ew * 2 ^ f.fw := by
    rw [Fmt.signBit, mul_assoc, ← pow_add]
    split <;> simp
  have quotient : f.code neg e m / 2 ^ f.fw = (if neg then 1 else 0) * 2 ^ f.ew + e := by
    rw [Fmt.code, sign, ← add_assoc, ← add_mul, add_comm, Nat.add_mul_div_right _ _ (Nat.two_pow_pos _), Nat.div_eq_of_lt hm, zero_add]
  rw [Fmt.expField, quotient, Nat.mul_add_mod_self_right, Nat.mod_eq_of_lt he]

omit he in
theorem Fmt.fracField_code (neg : Bool) : f.fracField (f.code neg e m) = m := by
  have sign : 2 ^ f.fw ∣ f.signBit neg := by
    rw [Fmt.signBit]
    split
    · exact pow_dvd_pow 2 (by omega)
    · exact dvd_zero _
  obtain ⟨k, hk⟩ := sign
  rw [Fmt.fracField, Fmt.code, hk, ← add_assoc, mul_comm, ← add_mul, Nat.mul_add_mod_self_right, Nat.mod_eq_of_lt hm]

end

/-- What the special codes stand for. -/
def Fmt.specialVal (f : Fmt) (neg : Bool) (m : Nat) : FVal :=
  match f.kind with
  | .infinities quietOnly => if m = 0 then .inf neg else .nan (!quietOnly && m < 2 ^ (f.fw - 1))
  | _ => .nan false

/-- The value of a code by its fields. -/
theorem Fmt.val_eq (x : Nat) : f.val x =
    if f.special (f.expField x) (f.fracField x) then f.specialVal (f.sign x) (f.fracField x)
    else f.finite (f.sign x) (f.expField x) (f.fracField x) := by
  unfold Fmt.val Fmt.special Fmt.specialVal Fmt.finite Fmt.sign Fmt.expField Fmt.fracField
  cases f.kind with
  | infinities q => simp only [beq_iff_eq]
  | e4m3 => simp only [beq_iff_eq]
  | e2m1 => simp only [beq_iff_eq, Bool.false_eq_true, if_false]

theorem Fmt.not_special_of_fin {x m : Nat} {neg : Bool} {e : Int} (h : f.val x = .fin neg m e) :
    f.special (f.expField x) (f.fracField x) = false := by
  by_contra special
  rw [Fmt.val_eq, if_pos (by simpa using special), Fmt.specialVal] at h
  split at h
  · split at h <;> cases h
  · cases h

theorem Fmt.val_of_fin {x m : Nat} {neg : Bool} {e : Int} (h : f.val x = .fin neg m e) :
    f.finite (f.sign x) (f.expField x) (f.fracField x) = .fin neg m e := by
  rw [← h, Fmt.val_eq, if_neg (by simp [Fmt.not_special_of_fin h])]

theorem Fmt.val_code {e m : Nat} (he : e < 2 ^ f.ew) (hm : m < 2 ^ f.fw) (h : f.special e m = false) (neg : Bool) :
    f.val (f.code neg e m) = f.finite neg e m := by
  rw [Fmt.val_eq, Fmt.expField_code he hm, Fmt.fracField_code hm, Fmt.sign_code he hm, if_neg (by simp [h])]

/-- Whether a code is a NaN rests on its exponent and fraction alone. -/
theorem Fmt.isNan_congr {x y : Nat} (he : f.expField x = f.expField y) (hm : f.fracField x = f.fracField y) :
    (f.val x).isNan = (f.val y).isNan := by
  rw [Fmt.val_eq, Fmt.val_eq, he, hm]
  split
  · unfold Fmt.specialVal
    split
    · split <;> rfl
    · rfl
  · unfold Fmt.finite
    split <;> rfl

/-! The finite codes. -/

/-- The fields `e` and `m` are those of the largest finite magnitude of the format, and the codes above it are no finite ones (R54). -/
structure Fmt.LargestAt (f : Fmt) (e m : Nat) : Prop where
  exponent : e < 2 ^ f.ew
  normal : 2 ≤ e
  fraction : m < 2 ^ f.fw
  fractionBits : 1 ≤ f.fw
  top : f.top = (2 ^ f.fw + m, (e : Int) - f.bias - f.fw)
  maxCode : f.maxCode = e * 2 ^ f.fw + m
  finite : ∀ e' m', e' < 2 ^ f.ew → m' < 2 ^ f.fw → (f.special e' m' = false ↔ e' < e ∨ (e' = e ∧ m' ≤ m))

/-- A format with infinities has its largest finite magnitude below them. -/
theorem Fmt.largestAt_of_infinities {q : Bool} (kind : f.kind = .infinities q) (ew : 2 ≤ f.ew) (fw : 1 ≤ f.fw) :
    f.LargestAt (2 ^ f.ew - 2) (2 ^ f.fw - 1) := by
  have e4 : 4 ≤ 2 ^ f.ew := Nat.pow_le_pow_right (n := 2) (by decide) ew
  have m1 := Nat.two_pow_pos f.fw
  refine ⟨by omega, by omega, by omega, fw, ?_, ?_, fun e' m' he hm => ?_⟩
  · simp only [Fmt.top, kind, Prod.mk.injEq]
    refine ⟨by rw [pow_succ]; omega, ?_⟩
    rw [Nat.cast_sub (by omega)]
    push_cast
    ring
  · simp [Fmt.maxCode, kind]
  · simp only [Fmt.special, kind, beq_eq_false_iff_ne]
    omega

theorem e4m3_largestAt : e4m3.LargestAt 15 6 :=
  ⟨by decide, by decide, by decide, by decide, by decide, by decide, fun e' m' he hm => by
    have he : e' < 16 := he
    have hm : m' < 8 := hm
    simp only [Fmt.special, e4m3, Bool.and_eq_false_iff, beq_eq_false_iff_ne]
    omega⟩

theorem e2m1_largestAt : e2m1.LargestAt 3 1 :=
  ⟨by decide, by decide, by decide, by decide, by decide, by decide, fun e' m' he hm => by
    have he : e' < 4 := he
    have hm : m' < 2 := hm
    simp only [Fmt.special, e2m1, true_iff]
    omega⟩

/-- Every format of R54 has a largest finite magnitude. -/
theorem exists_largestAt {t : Fmt} (h : t ∈ [fp32, fp16, bf16, e5m2, e4m3, e2m1]) : ∃ e m, t.LargestAt e m := by
  simp only [List.mem_cons, List.not_mem_nil, or_false] at h
  obtain rfl | rfl | rfl | rfl | rfl | rfl := h
  · exact ⟨_, _, Fmt.largestAt_of_infinities rfl (by decide) (by decide)⟩
  · exact ⟨_, _, Fmt.largestAt_of_infinities rfl (by decide) (by decide)⟩
  · exact ⟨_, _, Fmt.largestAt_of_infinities rfl (by decide) (by decide)⟩
  · exact ⟨_, _, Fmt.largestAt_of_infinities rfl (by decide) (by decide)⟩
  · exact ⟨_, _, e4m3_largestAt⟩
  · exact ⟨_, _, e2m1_largestAt⟩

/-- The largest finite magnitude. -/
def Fmt.largest (f : Fmt) : ℚ := dyadic f.top.1 f.top.2

/-- A finite code: its fields, and the shape of its mantissa. -/
theorem Fmt.fin_shape {x m : Nat} {neg : Bool} {e : Int} (h : f.val x = .fin neg m e) :
    m < 2 ^ (f.fw + 1) ∧ f.qmin ≤ e ∧ (e = f.qmin ∨ 2 ^ f.fw ≤ m) := by
  have fields := Fmt.val_of_fin h
  have low := f.fracField_lt x
  rw [Fmt.finite] at fields
  have twice : 2 ^ (f.fw + 1) = 2 * 2 ^ f.fw := by rw [pow_succ']
  have least : f.qmin = 1 - f.bias - f.fw := rfl
  split at fields
  · cases fields
    exact ⟨by omega, le_rfl, .inl rfl⟩
  · cases fields
    exact ⟨by omega, by omega, .inr (by omega)⟩

section
variable {E M : Nat} (L : f.LargestAt E M)
include L

theorem Fmt.LargestAt.largest_eq : f.largest = dyadic (2 ^ f.fw + M) ((E : Int) - f.bias - f.fw) := by rw [Fmt.largest, L.top]

/-- The finite magnitudes stand in the order of their fields, up to the largest one. -/
theorem Fmt.LargestAt.le_largest_iff {e m : Nat} (hm : m < 2 ^ f.fw) :
    dyadic (2 ^ f.fw + m) ((e : Int) - f.bias - f.fw) ≤ f.largest ↔ e < E ∨ (e = E ∧ m ≤ M) := by
  have frac := L.fraction
  have twice : ∀ {a b : Nat}, a < b → dyadic (2 * 2 ^ f.fw) ((a : Int) - f.bias - f.fw) ≤ dyadic (2 ^ f.fw) ((b : Int) - f.bias - f.fw) := by
    intro a b h
    rw [← dyadic_add_one, dyadic_shift (q := (a : Int) - f.bias - f.fw + 1) (x := (b : Int) - f.bias - f.fw) (by omega), dyadic_le_iff]
    exact Nat.le_mul_of_pos_right _ (Nat.two_pow_pos _)
  rw [L.largest_eq]
  obtain below | rfl | above := lt_trichotomy e E
  · refine iff_of_true ?_ (.inl below)
    calc dyadic (2 ^ f.fw + m) _ ≤ dyadic (2 * 2 ^ f.fw) _ := dyadic_le_iff.2 (by omega)
      _ ≤ dyadic (2 ^ f.fw) _ := twice below
      _ ≤ dyadic (2 ^ f.fw + M) _ := dyadic_le_iff.2 (by omega)
  · rw [dyadic_le_iff]
    omega
  · refine iff_of_false (not_le.2 ?_) (by omega)
    calc dyadic (2 ^ f.fw + M) _ < dyadic (2 * 2 ^ f.fw) _ := dyadic_lt_iff.2 (by omega)
      _ ≤ dyadic (2 ^ f.fw) _ := twice above
      _ ≤ dyadic (2 ^ f.fw + m) _ := dyadic_le_iff.2 (by omega)

/-- A finite code is no larger than the largest one. -/
theorem Fmt.LargestAt.fin_le {x m : Nat} {neg : Bool} {e : Int} (h : f.val x = .fin neg m e) : dyadic m e ≤ f.largest := by
  have plain := Fmt.not_special_of_fin h
  have fields := Fmt.val_of_fin h
  have order := (L.finite _ _ (f.expField_lt x) (f.fracField_lt x)).1 plain
  have frac := f.fracField_lt x
  have normal := L.normal
  rw [Fmt.finite] at fields
  split at fields
  · cases fields
    have first : f.qmin = ((1 : Nat) : Int) - f.bias - f.fw := by simp [Fmt.qmin, Fmt.emin]
    calc dyadic _ f.qmin ≤ dyadic (2 ^ f.fw + 0) f.qmin := dyadic_le_iff.2 (by omega)
      _ ≤ f.largest := by
        rw [first, L.le_largest_iff (Nat.two_pow_pos _)]
        omega
  · cases fields
    exact (L.le_largest_iff frac).2 order

end

end Sys2Proof.Machine
end

section
/-! PROOFS. Rounding (R56): what each mode delivers on a grid of multiples of a power of two, and the grid on which the codes of a format
stand. -/
namespace Sys2Proof.Machine
open Sys2Proof.Safety

/-! Rounding to an integer. -/

/-- The integer `r` is the value `x` rounded under a mode (R56). -/
structure Rounded (rm : BitVec 2) (x : ℚ) (r : Int) : Prop where
  near : |x - r| < 1
  nearest : rm = rne → |x - r| ≤ 1 / 2 ∧ (|x - r| = 1 / 2 → r.natAbs % 2 = 0)
  toZero : rm = rtz → |(r : ℚ)| ≤ |x|
  up : rm = rup → x ≤ r
  down : rm = rdn → r ≤ x
  sameSign : 0 ≤ r * x

/-- A value and its sign. -/
def signOf (neg : Bool) : ℚ := if neg then -1 else 1

@[simp] theorem signOf_true : signOf true = -1 := rfl
@[simp] theorem signOf_false : signOf false = 1 := rfl
@[simp] theorem abs_signOf (neg : Bool) : |signOf neg| = 1 := by cases neg <;> simp
theorem signOf_mul_signOf (neg : Bool) (a b : ℚ) : signOf neg * a * (signOf neg * b) = a * b := by cases neg <;> simp

/-- The integer of a sign and a magnitude. -/
def signedInt (neg : Bool) (n : Nat) : Int := if neg then -n else n

theorem signedInt_cast (neg : Bool) (n : Nat) : (signedInt neg n : ℚ) = signOf neg * n := by cases neg <;> simp [signedInt]

@[simp] theorem natAbs_signedInt (neg : Bool) (n : Nat) : (signedInt neg n).natAbs = n := by cases neg <;> simp [signedInt]

theorem rounded_self (rm : BitVec 2) (neg : Bool) (n : Nat) : Rounded rm (signOf neg * n) (signedInt neg n) := by
  have self := signedInt_cast neg n
  exact ⟨by simp [self], fun _ => by simp [self], fun _ => by rw [self], fun _ => self.ge, fun _ => self.le,
    by rw [self]; exact mul_self_nonneg _⟩

/-- When a magnitude between `n` and `n + 1` may be taken down to `n`, and when up to `n + 1`: `r` is what stands above `n`. -/
def TakesDown (rm : BitVec 2) (neg : Bool) (n : Nat) (r : ℚ) : Prop :=
  (rm = rne → r ≤ 1 / 2 ∧ (r = 1 / 2 → n % 2 = 0)) ∧ (rm = rup → neg = true) ∧ (rm = rdn → neg = false)
def TakesUp (rm : BitVec 2) (neg : Bool) (n : Nat) (r : ℚ) : Prop :=
  (rm = rne → 1 / 2 ≤ r ∧ (r = 1 / 2 → n % 2 = 1)) ∧ rm ≠ rtz ∧ (rm = rup → neg = false) ∧ (rm = rdn → neg = true)

section
variable {rm : BitVec 2} {neg : Bool} {n : Nat} {r : ℚ} (pos : 0 < r) (one : r < 1)
include pos one

theorem rounded_of_takesDown (h : TakesDown rm neg n r) : Rounded rm (signOf neg * (n + r)) (signedInt neg n) := by
  obtain ⟨even, up, down⟩ := h
  have n0 : (0 : ℚ) ≤ n := n.cast_nonneg
  have gap : |signOf neg * (n + r) - signedInt neg n| = r := by
    rw [signedInt_cast, ← mul_sub, abs_mul, abs_signOf, one_mul, add_sub_cancel_left, abs_of_pos pos]
  refine ⟨gap.trans_lt one, fun h => ?_, fun _ => ?_, fun h => ?_, fun h => ?_, ?_⟩
  · rw [gap, natAbs_signedInt]
    exact even h
  · rw [signedInt_cast, abs_mul, abs_mul, abs_signOf, abs_of_nonneg n0, abs_of_nonneg (by linarith)]
    linarith
  · rw [signedInt_cast, up h, signOf_true]
    linarith
  · rw [signedInt_cast, down h, signOf_false]
    linarith
  · rw [signedInt_cast, signOf_mul_signOf]
    exact mul_nonneg n0 (by linarith)

theorem rounded_of_takesUp (h : TakesUp rm neg n r) : Rounded rm (signOf neg * (n + r)) (signedInt neg (n + 1)) := by
  obtain ⟨odd, zero, up, down⟩ := h
  have gap : |signOf neg * (n + r) - signedInt neg (n + 1)| = 1 - r := by
    rw [signedInt_cast, ← mul_sub, abs_mul, abs_signOf, one_mul, abs_sub_comm]
    push_cast
    rw [add_sub_add_left_eq_sub, abs_of_pos (by linarith)]
  refine ⟨by rw [gap]; linarith, fun h => ?_, fun h => absurd h zero, fun h => ?_, fun h => ?_, ?_⟩
  · rw [gap, natAbs_signedInt]
    refine ⟨by linarith [(odd h).1], fun half => ?_⟩
    have := (odd h).2 (by linarith)
    omega
  · rw [signedInt_cast, up h, signOf_false]
    push_cast
    linarith
  · rw [signedInt_cast, down h, signOf_true]
    push_cast
    linarith
  · rw [signedInt_cast, signOf_mul_signOf]
    exact mul_nonneg (Nat.cast_nonneg _) (by linarith [(n.cast_nonneg : (0 : ℚ) ≤ n)])

end

/-- `roundsUp` decides between the two (R56). -/
theorem roundsUp_takes {rm : BitVec 2} {neg : Bool} {n r k : Nat} (hr : r ≠ 0) :
    if roundsUp rm neg n r k false then TakesUp rm neg n (r / 2 ^ k) else TakesDown rm neg n (r / 2 ^ k) := by
  have unit : (0 : ℚ) < 2 ^ k := by positivity
  have below : (r / 2 ^ k : ℚ) ≤ 1 / 2 ↔ 2 * r ≤ 2 ^ k := by
    rw [div_le_iff₀ unit, one_div, ← div_eq_inv_mul, le_div_iff₀ (by norm_num), mul_comm]
    exact_mod_cast Iff.rfl
  have above : 1 / 2 ≤ (r / 2 ^ k : ℚ) ↔ 2 ^ k ≤ 2 * r := by
    rw [le_div_iff₀ unit, one_div, ← div_eq_inv_mul, div_le_iff₀ (by norm_num), mul_comm]
    exact_mod_cast Iff.rfl
  have half : (r / 2 ^ k : ℚ) = 1 / 2 ↔ 2 * r = 2 ^ k := by rw [le_antisymm_iff, below, above, ← le_antisymm_iff]
  obtain rfl | rfl | rfl | rfl : rm = rne ∨ rm = rtz ∨ rm = rup ∨ rm = rdn := by revert rm; decide
  · simp only [TakesUp, TakesDown, below, above, half, roundsUp, beq_self_eq_true, if_true, Bool.false_or, Bool.or_eq_true,
      Bool.and_eq_true, decide_eq_true_eq, beq_iff_eq]
    split
    next h => exact ⟨fun _ => by omega, by decide, fun h => absurd h (by decide), fun h => absurd h (by decide)⟩
    next h => exact ⟨fun _ => by omega, fun h => absurd h (by decide), fun h => absurd h (by decide)⟩
  · simp [TakesDown, roundsUp, rne, rtz, rup, rdn]
  · cases neg <;> simp [TakesDown, TakesUp, roundsUp, hr, rne, rtz, rup, rdn]
  · cases neg <;> simp [TakesDown, TakesUp, roundsUp, hr, rne, rtz, rup, rdn]

theorem roundAt_of_le {q x : Int} (h : q ≤ x) (rm : BitVec 2) (neg : Bool) (m : Nat) (sticky : Bool) :
    roundAt rm neg m x sticky q = (m * 2 ^ (x - q).toNat, sticky) := if_pos h

/-- The multiple of `2^q` that a rounding takes is the value in units of `2^q` rounded under the mode, and the flag says whether they
differ. -/
theorem roundAt_rounded (rm : BitVec 2) (neg : Bool) (m : Nat) (x q : Int) :
    Rounded rm (signOf neg * (dyadic m x / 2 ^ q)) (signedInt neg (roundAt rm neg m x false q).1)
      ∧ ((roundAt rm neg m x false q).2 = true ↔ dyadic (roundAt rm neg m x false q).1 q ≠ dyadic m x) := by
  have unit := two_zpow_pos q
  by_cases h : q ≤ x
  · rw [roundAt_of_le h, dyadic_shift h, dyadic, mul_div_cancel_right₀ _ unit.ne']
    exact ⟨rounded_self rm neg _, by simp⟩
  · obtain ⟨k, hk⟩ := Int.eq_ofNat_of_zero_le (show 0 ≤ q - x by omega)
    have step : (2 : ℚ) ^ q = 2 ^ k * 2 ^ x := by
      rw [← zpow_natCast, ← zpow_add₀ (by norm_num), ← hk, sub_add_cancel]
    have whole : dyadic m x / 2 ^ q = (m / 2 ^ k : Nat) + (m % 2 ^ k : Nat) / 2 ^ k := by
      have parts : (m : ℚ) = 2 ^ k * (m / 2 ^ k : Nat) + (m % 2 ^ k : Nat) := by exact_mod_cast (Nat.div_add_mod m (2 ^ k)).symm
      have upos := two_zpow_pos x
      rw [dyadic, step, mul_div_mul_right _ _ upos.ne', parts]
      field_simp
    have rest : m % 2 ^ k < 2 ^ k := Nat.mod_lt _ (Nat.two_pow_pos k)
    have run : roundAt rm neg m x false q
        = (if roundsUp rm neg (m / 2 ^ k) (m % 2 ^ k) k false then m / 2 ^ k + 1 else m / 2 ^ k, m % 2 ^ k != 0) := by
      simp [roundAt, h, hk]
    have inexact : ∀ n : Nat, dyadic n q = dyadic m x ↔ (n : ℚ) = dyadic m x / 2 ^ q := fun n => by
      rw [eq_div_iff unit.ne', dyadic]
    by_cases zero : m % 2 ^ k = 0
    · have down : roundsUp rm neg (m / 2 ^ k) 0 k false = false := by
        have : ¬ (2 ^ k = 0) := (Nat.two_pow_pos k).ne'
        simp [roundsUp, eq_comm (a := 0)]
      rw [run, zero, down, Ne, inexact, whole, zero]
      simp only [Nat.cast_zero, zero_div, add_zero, Bool.false_eq_true, if_false]
      exact ⟨rounded_self rm neg _, by simp⟩
    · have takes := roundsUp_takes (rm := rm) (neg := neg) (n := m / 2 ^ k) (k := k) zero
      have pos : (0 : ℚ) < (m % 2 ^ k : Nat) / 2 ^ k := by
        have : (0 : ℚ) < (m % 2 ^ k : Nat) := by exact_mod_cast Nat.pos_of_ne_zero zero
        positivity
      have one : ((m % 2 ^ k : Nat) / 2 ^ k : ℚ) < 1 := by
        rw [div_lt_one (by positivity)]
        exact_mod_cast rest
      rw [run, Ne, inexact, whole]
      refine ⟨?_, iff_of_true (by simpa using zero) ?_⟩
      · split at takes
        next h => rw [if_pos h]; exact rounded_of_takesUp pos one takes
        next h => rw [if_neg h]; exact rounded_of_takesDown pos one takes
      · intro same
        split at same
        · push_cast at same
          linarith
        · linarith

/-! What a mode delivers among the values of a grid. -/

/-- Of the values that may be delivered, `r` is the one for the exact value `x` as far as `y` goes (R56); `even` says that the fraction
of `r` is even. -/
def Delivers (rm : BitVec 2) (even : Prop) (x r y : ℚ) : Prop :=
  (rm = 0 → |x - r| < |x - y| ∨ (|x - r| = |x - y| ∧ (y = r ∨ even)))
    ∧ (rm = 1 → |r| ≤ |x| ∧ (|y| ≤ |x| → |y| ≤ |r|) ∧ (r = 0 ∨ 0 < r * x))
    ∧ (rm = 2 → x ≤ r ∧ (x ≤ y → r ≤ y))
    ∧ (rm = 3 → r ≤ x ∧ (y ≤ x → y ≤ r))

/-- Delivering does not rest on the unit. -/
theorem Delivers.scale {rm : BitVec 2} {even : Prop} {x r y c : ℚ} (pos : 0 < c) (h : Delivers rm even x r y) :
    Delivers rm even (x * c) (r * c) (y * c) := by
  obtain ⟨nearest, toZero, up, down⟩ := h
  refine ⟨fun h => ?_, fun h => ?_, fun h => ?_, fun h => ?_⟩
  · simpa only [← sub_mul, abs_mul, abs_of_pos pos, mul_lt_mul_iff_left₀ pos, mul_left_inj' pos.ne'] using nearest h
  · have square : r * c * (x * c) = r * x * (c * c) := by ring
    simpa only [abs_mul, abs_of_pos pos, mul_le_mul_iff_left₀ pos, mul_eq_zero, pos.ne', or_false, square,
      mul_pos_iff_of_pos_right (mul_pos pos pos)] using toZero h
  · simpa only [mul_le_mul_iff_left₀ pos] using up h
  · simpa only [mul_le_mul_iff_left₀ pos] using down h

theorem Delivers.of_cast {rm : BitVec 2} {even : Prop} {x r y : Int} (h : Delivers rm even x r y) :
    (rm = 0 → (x - r).natAbs < (x - y).natAbs ∨ ((x - r).natAbs = (x - y).natAbs ∧ (y = r ∨ even)))
      ∧ (rm = 1 → r.natAbs ≤ x.natAbs ∧ (y.natAbs ≤ x.natAbs → y.natAbs ≤ r.natAbs) ∧ (r = 0 ∨ 0 < r * x))
      ∧ (rm = 2 → x ≤ r ∧ (x ≤ y → r ≤ y))
      ∧ (rm = 3 → r ≤ x ∧ (y ≤ x → y ≤ r)) := by
  obtain ⟨nearest, toZero, up, down⟩ := h
  refine ⟨fun h => ?_, fun h => ?_, fun h => ?_, fun h => ?_⟩
  · have := nearest h
    norm_cast at this
    zify
    exact this
  · have := toZero h
    norm_cast at this
    zify
    exact this
  · exact_mod_cast up h
  · exact_mod_cast down h

/-- A place on a grid of integers that is coarser below `b`. -/
def OnGrid (b : Nat) (y : ℚ) : Prop := (∃ k : Int, y = k) ∨ |y| < b

theorem OnGrid.neg {b : Nat} {y : ℚ} (h : OnGrid b y) : OnGrid b (-y) := by
  obtain ⟨k, rfl⟩ | low := h
  · exact .inl ⟨-k, by simp⟩
  · exact .inr (by rwa [abs_neg])

namespace Rounded
variable {rm : BitVec 2} {x y : ℚ} {r : Int} {b : Nat} (h : Rounded rm x r)

include h in
/-- A bound that is an integer holds after rounding too. -/
theorem le_abs (hb : b ≤ |x|) : (b : Int) ≤ |r| := by
  have tri := abs_sub_abs_le_abs_sub x r
  have near := h.near
  have : (b : ℚ) < (|r| + 1 : Int) := by push_cast; linarith
  exact Int.lt_add_one_iff.1 (by exact_mod_cast this)

/-- The least place no smaller than a value. -/
theorem least (near : r < x + 1) (same : 0 ≤ r * x) (hb : b ≤ |x|) (hr : (b : ℚ) ≤ |(r : ℚ)|) (hy : OnGrid b y)
    (le : x ≤ y) : r ≤ y := by
  obtain ⟨k, rfl⟩ | low := hy
  · have : (r : ℚ) < (k + 1 : Int) := by push_cast; linarith
    have : r < k + 1 := by exact_mod_cast this
    exact_mod_cast Int.lt_add_one_iff.1 this
  · have ylow := neg_abs_le y
    have yhigh := le_abs_self y
    by_cases pos : 0 ≤ x
    · rw [abs_of_nonneg pos] at hb
      linarith
    · have neg : (r : ℚ) ≤ 0 := nonpos_of_mul_nonneg_left same (not_le.1 pos)
      rw [abs_of_nonpos neg] at hr
      linarith

include h in
/-- A rounded value is delivered among the places of a grid that is no coarser at it. -/
theorem delivers (hb : b ≤ |x|) (hy : OnGrid b y) : Delivers rm (r.natAbs % 2 = 0) x r y := by
  have hr : (b : ℚ) ≤ |(r : ℚ)| := by exact_mod_cast h.le_abs hb
  obtain ⟨above, below⟩ := abs_lt.1 h.near
  refine ⟨fun mode => ?nearest, fun mode => ?toZero, fun mode => ?up, fun mode => ?down⟩
  case nearest =>
    obtain ⟨half, tie⟩ := h.nearest mode
    obtain ⟨k, rfl⟩ | low := hy
    · by_cases same : k = r
      · exact .inr (by simp [same])
      · have apart : (1 : ℚ) ≤ |(r : ℚ) - k| := by exact_mod_cast Int.one_le_abs (sub_ne_zero.2 (Ne.symm same))
        have tri : |(r : ℚ) - k| ≤ |x - r| + |x - k| := by
          calc |(r : ℚ) - k| = |(x - k) - (x - r)| := by ring_nf
            _ ≤ |x - k| + |x - r| := abs_sub _ _
            _ = |x - r| + |x - k| := add_comm _ _
        obtain less | eq := lt_or_eq_of_le (show |x - r| ≤ |x - k| by linarith)
        · exact .inl less
        · exact .inr ⟨eq, .inr (tie (by linarith))⟩
    · refine .inl ?_
      have far := abs_sub_abs_le_abs_sub x y
      have close : |x - r| ≤ |x| - b := by
        obtain eq | less := eq_or_lt_of_le (h.le_abs hb)
        · have same : |x - r| = |(|x| - |(r : ℚ)|)| := by
            obtain ⟨hx, hr⟩ | ⟨hx, hr⟩ : (0 ≤ x ∧ (0 : ℚ) ≤ r) ∨ (x ≤ 0 ∧ (r : ℚ) ≤ 0) := by
              obtain ⟨a, b⟩ | ⟨a, b⟩ := mul_nonneg_iff.1 h.sameSign
              · exact .inl ⟨b, a⟩
              · exact .inr ⟨b, a⟩
            · rw [abs_of_nonneg hx, abs_of_nonneg hr]
            · rw [abs_of_nonpos hx, abs_of_nonpos hr, ← abs_neg]
              ring_nf
          have eq' : (b : ℚ) = |(r : ℚ)| := by exact_mod_cast eq
          rw [same, ← eq', abs_of_nonneg (by linarith)]
        · have step : (b : ℚ) + 1 ≤ |(r : ℚ)| := by exact_mod_cast less
          have tri := abs_sub_abs_le_abs_sub (r : ℚ) x
          rw [abs_sub_comm] at tri
          linarith
      linarith
  case toZero =>
    refine ⟨h.toZero mode, fun le => ?_, ?_⟩
    · obtain ⟨k, rfl⟩ | low := hy
      · have tri := abs_sub_abs_le_abs_sub x r
        have : (|k| : ℚ) < (|r| + 1 : Int) := by
          push_cast
          linarith [h.near]
        have : |k| < |r| + 1 := by exact_mod_cast this
        exact_mod_cast Int.lt_add_one_iff.1 this
      · linarith
    · by_cases zero : r = 0
      · exact .inl (by simp [zero])
      · have rpos : (0 : ℚ) < |(r : ℚ)| := abs_pos.2 (by exact_mod_cast zero)
        have xpos : 0 < |x| := rpos.trans_le (h.toZero mode)
        exact .inr (lt_of_le_of_ne h.sameSign (mul_ne_zero (abs_pos.1 rpos) (abs_pos.1 xpos)).symm)
  case up =>
    exact ⟨h.up mode, least (by linarith) h.sameSign hb hr hy⟩
  case down =>
    refine ⟨h.down mode, fun le => ?_⟩
    have := h.down mode
    have turned := least (x := -x) (r := -r) (b := b) (y := -y) (by push_cast; linarith)
      (by push_cast; linarith [h.sameSign]) (by rwa [abs_neg]) (by push_cast; rwa [abs_neg]) hy.neg (by linarith)
    push_cast at turned
    linarith

end Rounded

end Sys2Proof.Machine
end

section
/-! PROOFS. The one rounding to a format (R56, R57): the delivered code, and what stands for its value. -/
namespace Sys2Proof.Machine
open Sys2Proof.Safety
variable {f : Fmt} {E M : Nat}

/-! Bounds of a rounded mantissa. -/

theorem dyadic_two_pow (a : Nat) (x : Int) : dyadic (2 ^ a) x = 2 ^ (a + x) := by
  rw [dyadic, zpow_add₀ (by norm_num), zpow_natCast]
  push_cast
  rfl

/-- The exponent of the last bit that a mantissa of full precision has (R56: as if the exponent range were unbounded). -/
def Fmt.quantum (f : Fmt) (m : Nat) (x : Int) : Int := x + bits m - f.prec

theorem dyadic_quantum_le {m : Nat} (h : m ≠ 0) (x : Int) : dyadic (2 ^ f.fw) (f.quantum m x) ≤ dyadic m x := by
  have one := bits_pos h
  calc dyadic (2 ^ f.fw) (f.quantum m x) = dyadic (2 ^ (bits m - 1)) x := by
        rw [dyadic_two_pow, dyadic_two_pow, Fmt.quantum, Fmt.prec]
        congr 1
        omega
    _ ≤ dyadic m x := dyadic_le_iff.2 (two_pow_bits_le h)

/-- A rounded mantissa has at most the bits of the precision, or is the next power of two. -/
theorem roundAt_le {rm : BitVec 2} {neg : Bool} {m : Nat} {x q : Int} {sticky : Bool} (h : f.quantum m x ≤ q) :
    (roundAt rm neg m x sticky q).1 ≤ 2 ^ (f.fw + 1) := by
  rw [Fmt.quantum, Fmt.prec] at h
  have size := lt_two_pow_bits m
  by_cases le : q ≤ x
  · rw [roundAt_of_le le]
    calc m * 2 ^ (x - q).toNat ≤ 2 ^ bits m * 2 ^ (x - q).toNat := Nat.mul_le_mul_right _ size.le
      _ = 2 ^ (bits m + (x - q).toNat) := (pow_add ..).symm
      _ ≤ 2 ^ (f.fw + 1) := Nat.pow_le_pow_right (by decide) (by omega)
  · have quotient : m / 2 ^ (q - x).toNat < 2 ^ (f.fw + 1) := by
      refine Nat.div_lt_of_lt_mul (size.trans_le ?_)
      rw [← pow_add]
      exact Nat.pow_le_pow_right (by decide) (by omega)
    simp only [roundAt, le, if_false]
    split <;> omega

/-- It has all of them, where the exponent range does not cut them off. -/
theorem le_roundAt {rm : BitVec 2} {neg : Bool} {m : Nat} {x : Int} {sticky : Bool} (h : m ≠ 0) :
    2 ^ f.fw ≤ (roundAt rm neg m x sticky (f.quantum m x)).1 := by
  have size := two_pow_bits_le h
  have one := bits_pos h
  have gap : f.quantum m x = x + bits m - (f.fw + 1 : Nat) := rfl
  by_cases le : f.quantum m x ≤ x
  · rw [roundAt_of_le le]
    calc 2 ^ f.fw = 2 ^ (bits m - 1) * 2 ^ (x - f.quantum m x).toNat := by rw [← pow_add]; congr 1; omega
      _ ≤ m * 2 ^ (x - f.quantum m x).toNat := Nat.mul_le_mul_right _ size
  · have quotient : 2 ^ f.fw ≤ m / 2 ^ (f.quantum m x - x).toNat := by
      rw [Nat.le_div_iff_mul_le (Nat.two_pow_pos _), ← pow_add]
      refine le_trans (Nat.pow_le_pow_right (by decide) ?_) size
      omega
    simp only [roundAt, le, if_false]
    split <;> omega

/-! The code of a rounded magnitude. -/

/-- What the code of the magnitude `n × 2^q` with a sign stands for: `n × 2^q`, under a fraction that is even where `n` is. -/
structure Fmt.Packs (f : Fmt) (neg : Bool) (n : Nat) (q : Int) : Prop where
  lt : f.signBit neg + f.pack n q < 2 ^ f.width
  parity : (f.signBit neg + f.pack n q) % 2 = n % 2
  value : ∃ (m : Nat) (e : Int), f.val (f.signBit neg + f.pack n q) = .fin neg m e ∧ dyadic m e = dyadic n q

theorem Fmt.LargestAt.packs_code (L : f.LargestAt E M) {neg : Bool} {n e m : Nat} {q : Int} (code : f.pack n q = e * 2 ^ f.fw + m)
    (he : e < E ∨ (e = E ∧ m ≤ M)) (hm : m < 2 ^ f.fw) (parity : m % 2 = n % 2)
    (value : dyadic (if e = 0 then m else 2 ^ f.fw + m) (if e = 0 then f.qmin else (e : Int) - f.bias - f.fw) = dyadic n q) :
    f.Packs neg n q := by
  have field : e < 2 ^ f.ew := by have := L.exponent; omega
  have whole : f.signBit neg + f.pack n q = f.code neg e m := by rw [code, Fmt.code]
  refine ⟨whole ▸ Fmt.code_lt field hm neg, ?_, ?_⟩
  · obtain ⟨w, hw⟩ : ∃ w, f.fw = w + 1 := ⟨f.fw - 1, by have := L.fractionBits; omega⟩
    have sign : f.signBit neg % 2 = 0 := by
      rw [Fmt.signBit, hw, ← add_assoc, pow_succ]
      split <;> omega
    have high : e * 2 ^ f.fw % 2 = 0 := by rw [hw, pow_succ, ← mul_assoc, Nat.mul_mod_left]
    rw [code]
    omega
  · rw [whole, Fmt.val_code field hm ((L.finite e m field hm).2 he), Fmt.finite]
    split
    next zero => exact ⟨m, f.qmin, rfl, by simpa [zero] using value⟩
    next zero => exact ⟨_, _, rfl, by simpa [zero] using value⟩

/-- A mantissa of full precision, or any at the least exponent, has a code where its magnitude fits the format. -/
theorem Fmt.LargestAt.packs (L : f.LargestAt E M) {neg : Bool} {n : Nat} {q : Int} (full : n ≤ 2 ^ (f.fw + 1)) (least : f.qmin ≤ q)
    (low : q = f.qmin ∨ 2 ^ f.fw ≤ n) (fits : dyadic n q ≤ f.largest) : f.Packs neg n q := by
  have qmin : f.qmin = 1 - f.bias - f.fw := rfl
  have twice : 2 ^ (f.fw + 1) = 2 ^ f.fw + 2 ^ f.fw := by rw [pow_succ]; omega
  have some_ := Nat.two_pow_pos f.fw
  have bits := L.fractionBits
  have normal := L.normal
  by_cases sub : n < 2 ^ f.fw
  · obtain rfl : q = f.qmin := low.resolve_right (by omega)
    exact L.packs_code (e := 0) (m := n) (by simp [Fmt.pack, sub]) (.inl (by omega)) sub rfl (by simp)
  · by_cases carry : n = 2 ^ (f.fw + 1)
    · obtain ⟨e, he⟩ := Int.eq_ofNat_of_zero_le (show 0 ≤ q + 1 + f.fw + f.bias by omega)
      have exponent : (e : Int) - f.bias - f.fw = q + 1 := by omega
      have value : dyadic (2 ^ f.fw + 0) ((e : Int) - f.bias - f.fw) = dyadic n q := by
        rw [exponent, dyadic_add_one, carry, pow_succ', add_zero]
      refine L.packs_code (e := e) (m := 0) ?_ ((L.le_largest_iff some_).1 (value ▸ fits)) some_ ?_ ?_
      · simp [Fmt.pack, carry, he, twice]
      · rw [carry, pow_succ, Nat.mul_mod_left]
      · rw [if_neg (by omega), if_neg (by omega), value]
    · obtain ⟨e, he⟩ := Int.eq_ofNat_of_zero_le (show 0 ≤ q + f.fw + f.bias by omega)
      have exponent : (e : Int) - f.bias - f.fw = q := by omega
      have value : dyadic (2 ^ f.fw + (n - 2 ^ f.fw)) ((e : Int) - f.bias - f.fw) = dyadic n q := by
        rw [exponent, Nat.add_sub_cancel' (not_lt.1 sub)]
      have frac : n - 2 ^ f.fw < 2 ^ f.fw := by omega
      refine L.packs_code (e := e) (m := n - 2 ^ f.fw) ?_ ((L.le_largest_iff frac).1 (value ▸ fits)) frac ?_ ?_
      · simp [Fmt.pack, sub, carry, he]
      · obtain ⟨w, hw⟩ : ∃ w, f.fw = w + 1 := ⟨f.fw - 1, by omega⟩
        rw [hw, pow_succ] at sub ⊢
        omega
      · rw [if_neg (by omega), if_neg (by omega), value]

/-! The delivered result. -/

/-- Whether a rounding overflows the format: the magnitude rounded with unbounded exponent exceeds the largest finite one (R57). -/
def Fmt.Overflows (f : Fmt) (rm : BitVec 2) (neg : Bool) (m : Nat) (x : Int) (sticky : Bool) : Prop :=
  f.largest < dyadic (roundAt rm neg m x sticky (f.quantum m x)).1 (f.quantum m x)

/-- The exponent of the last bit that a result has in the format. -/
def Fmt.place (f : Fmt) (m : Nat) (x : Int) : Int := max (f.quantum m x) f.qmin

theorem Fmt.place_cases (m : Nat) (x : Int) :
    (f.place m x = f.quantum m x ∧ f.qmin ≤ f.quantum m x) ∨ (f.place m x = f.qmin ∧ f.quantum m x ≤ f.qmin) := by
  rw [Fmt.place]
  omega

theorem Fmt.round_zero (rm : BitVec 2) (neg : Bool) (x : Int) (sticky : Bool) : f.round rm neg 0 x sticky = (f.signBit neg, 0) := rfl

section
variable {rm : BitVec 2} {neg : Bool} {m : Nat} {x : Int} {sticky : Bool} (nonzero : m ≠ 0)
include nonzero

theorem Fmt.round_overflows (h : f.Overflows rm neg m x sticky) :
    f.round rm neg m x sticky = (f.overflow rm neg, flagOF ||| flagNX) := by
  have big := (magLt_iff f.top.1 f.top.2 _ (f.quantum m x)).2 h
  rw [Fmt.quantum] at big
  simp [Fmt.round, nonzero, big]

theorem Fmt.round_fits (h : ¬ f.Overflows rm neg m x sticky) : ∃ tiny : Bool,
    f.round rm neg m x sticky = (f.signBit neg + f.pack (roundAt rm neg m x sticky (f.place m x)).1 (f.place m x),
      if (roundAt rm neg m x sticky (f.place m x)).2 then (if tiny then flagUF ||| flagNX else flagNX) else 0) := by
  have fits := mt (magLt_iff f.top.1 f.top.2 _ (f.quantum m x)).1 h
  rw [Fmt.quantum] at fits
  refine ⟨magLt (roundAt rm neg m x sticky (f.quantum m x)).1 (f.quantum m x) 1 f.emin, ?_⟩
  simp only [Fmt.round, beq_iff_eq, nonzero, fits, if_false]
  rfl

omit nonzero in
theorem flags_inexact (inexact tiny : Bool) :
    (if inexact then (if tiny then flagUF ||| flagNX else flagNX) else 0 : BitVec 5).getLsbD 0 = inexact := by
  decide +revert

/-- A result that does not overflow has a code. -/
theorem Fmt.LargestAt.packs_roundAt (L : f.LargestAt E M) (h : ¬ f.Overflows rm neg m x sticky) :
    f.Packs neg (roundAt rm neg m x sticky (f.place m x)).1 (f.place m x) := by
  have full : (roundAt rm neg m x sticky (f.place m x)).1 ≤ 2 ^ (f.fw + 1) := roundAt_le (le_max_left _ _)
  obtain ⟨place, least⟩ | ⟨place, least⟩ := Fmt.place_cases (f := f) m x
  · rw [place] at full ⊢
    exact L.packs full least (.inr (le_roundAt nonzero)) (not_lt.1 h)
  · rw [place] at full ⊢
    refine L.packs full le_rfl (.inl rfl) ?_
    have second : f.qmin + 1 = ((2 : Nat) : Int) - f.bias - f.fw := by simp [Fmt.qmin, Fmt.emin]; omega
    have normal := L.normal
    calc dyadic _ f.qmin ≤ dyadic (2 * 2 ^ f.fw) f.qmin := dyadic_le_iff.2 (by rwa [← pow_succ'])
      _ = dyadic (2 ^ f.fw + 0) (((2 : Nat) : Int) - f.bias - f.fw) := by rw [← dyadic_add_one, second, add_zero]
      _ ≤ f.largest := (L.le_largest_iff (Nat.two_pow_pos _)).2 (by omega)

end

/-! What a value within the range of the format becomes. -/

/-- An exact magnitude within the range does not overflow, in any mode. -/
theorem Fmt.LargestAt.not_overflows (L : f.LargestAt E M) {rm : BitVec 2} {neg : Bool} {m : Nat} {x : Int} (nonzero : m ≠ 0)
    (fits : dyadic m x ≤ f.largest) : ¬ f.Overflows rm neg m x false := by
  have frac := L.fraction
  have low : f.quantum m x ≤ (E : Int) - f.bias - f.fw := by
    by_contra above
    refine absurd fits (not_le.2 ?_)
    calc f.largest = dyadic (2 ^ f.fw + M) ((E : Int) - f.bias - f.fw) := L.largest_eq
      _ < dyadic (2 * 2 ^ f.fw) ((E : Int) - f.bias - f.fw) := dyadic_lt_iff.2 (by omega)
      _ = dyadic (2 ^ f.fw) ((E : Int) - f.bias - f.fw + 1) := (dyadic_add_one _ _).symm
      _ ≤ dyadic (2 ^ f.fw) (f.quantum m x) := by
        rw [dyadic_two_pow, dyadic_two_pow]
        exact zpow_le_zpow_right₀ (by norm_num) (by omega)
      _ ≤ dyadic m x := dyadic_quantum_le nonzero x
  have rounded := (roundAt_rounded rm neg m x (f.quantum m x)).1
  have unit := two_zpow_pos (f.quantum m x)
  rw [Fmt.Overflows, not_lt, L.largest_eq, dyadic_shift low, dyadic_le_iff]
  rw [L.largest_eq, dyadic_shift low] at fits
  generalize (2 ^ f.fw + M) * 2 ^ ((E : Int) - f.bias - f.fw - f.quantum m x).toNat = N at fits ⊢
  have gap := rounded.near
  rw [signedInt_cast, ← mul_sub, abs_mul, abs_signOf, one_mul, abs_lt] at gap
  have units : dyadic m x / 2 ^ f.quantum m x ≤ N := (div_le_iff₀ unit).2 fits
  have : ((roundAt rm neg m x false (f.quantum m x)).1 : ℚ) < (N + 1 : Nat) := by push_cast; linarith [gap.1]
  exact Nat.lt_add_one_iff.1 (by exact_mod_cast this)

/-- The result `r` delivers an exact value as the code of `n × 2^q`: the value in units of `2^q`, rounded under the mode, with NX where
that differs, and with `2^q` no coarser than the codes of the format are at the value. -/
structure Fmt.Delivered (f : Fmt) (rm : BitVec 2) (neg : Bool) (m : Nat) (x : Int) (r : FRes) (n : Nat) (q : Int) : Prop where
  code : r.1 = f.signBit neg + f.pack n q
  packs : f.Packs neg n q
  inexact : r.2.getLsbD 0 = true ↔ dyadic n q ≠ dyadic m x
  rounded : Rounded rm (signOf neg * (dyadic m x / 2 ^ q)) (signedInt neg n)
  fine : q = f.qmin ∨ dyadic (2 ^ f.fw) q ≤ dyadic m x

theorem Fmt.LargestAt.delivered (L : f.LargestAt E M) (rm : BitVec 2) (neg : Bool) {m : Nat} {x : Int}
    (fits : dyadic m x ≤ f.largest) : ∃ n q, f.Delivered rm neg m x (f.round rm neg m x) n q := by
  by_cases nonzero : m = 0
  · subst nonzero
    refine ⟨0, f.qmin, ?_⟩
    rw [Fmt.round_zero]
    exact {
      code := by simp [Fmt.pack]
      packs := L.packs (Nat.zero_le _) le_rfl (.inl rfl) (by simpa using fits)
      inexact := by simp
      rounded := by simpa using rounded_self rm neg 0
      fine := .inl rfl }
  · have small := L.not_overflows (rm := rm) (neg := neg) nonzero fits
    obtain ⟨tiny, result⟩ := Fmt.round_fits nonzero small
    obtain ⟨rounded, inexact⟩ := roundAt_rounded rm neg m x (f.place m x)
    refine ⟨(roundAt rm neg m x false (f.place m x)).1, f.place m x, ?_⟩
    rw [result]
    refine ⟨rfl, L.packs_roundAt nonzero small, ?_, rounded, ?_⟩
    · rw [← inexact, flags_inexact]
    · obtain ⟨place, -⟩ | ⟨place, -⟩ := Fmt.place_cases (f := f) m x
      · exact .inr (place ▸ dyadic_quantum_le nonzero x)
      · exact .inl place

/-- The values of a format stand on the grid of a delivered one (R54). -/
theorem Fmt.onGrid_of_fin {y m : Nat} {neg : Bool} {e q : Int} (h : f.val y = .fin neg m e) :
    OnGrid (if q = f.qmin then 0 else 2 ^ f.fw) (signOf neg * (dyadic m e / 2 ^ q)) := by
  obtain ⟨size, above, -⟩ := Fmt.fin_shape h
  have unit := two_zpow_pos q
  by_cases fine : q ≤ e
  · refine .inl ⟨signedInt neg (m * 2 ^ (e - q).toNat), ?_⟩
    rw [signedInt_cast, dyadic_shift fine, dyadic, mul_div_cancel_right₀ _ unit.ne']
  · have coarse : q ≠ f.qmin := by omega
    refine .inr ?_
    rw [if_neg coarse, abs_mul, abs_signOf, one_mul, abs_of_nonneg (div_nonneg (dyadic_nonneg _ _) unit.le), div_lt_iff₀ unit]
    calc dyadic m e < dyadic (2 ^ (f.fw + 1)) e := dyadic_lt_iff.2 size
      _ = dyadic (2 ^ f.fw) (e + 1) := by rw [dyadic_add_one, pow_succ']
      _ ≤ dyadic (2 ^ f.fw) q := by
        rw [dyadic_two_pow, dyadic_two_pow]
        exact zpow_le_zpow_right₀ (by norm_num) (by omega)
      _ = (2 ^ f.fw : Nat) * 2 ^ q := rfl

/-- A delivered value is the mode's among all values of the format (R56). -/
theorem Fmt.Delivered.delivers {rm : BitVec 2} {neg nneg : Bool} {m n y k : Nat} {x q e : Int} {r : FRes}
    (d : f.Delivered rm neg m x r n q) (h : f.val y = .fin nneg k e) :
    Delivers rm (r.1 % 2 = 0) (signOf neg * dyadic m x) (signOf neg * dyadic n q) (signOf nneg * dyadic k e) := by
  have unit := two_zpow_pos q
  have bound : ((if q = f.qmin then 0 else 2 ^ f.fw : Nat) : ℚ) ≤ |signOf neg * (dyadic m x / 2 ^ q)| := by
    rw [abs_mul, abs_signOf, one_mul, abs_of_nonneg (div_nonneg (dyadic_nonneg _ _) unit.le), le_div_iff₀ unit]
    split
    · simpa using dyadic_nonneg m x
    next coarse => exact d.fine.resolve_left coarse
  have units := (d.rounded.delivers bound (Fmt.onGrid_of_fin h)).scale unit
  rw [signedInt_cast, natAbs_signedInt, ← d.packs.parity, ← d.code] at units
  simpa only [mul_assoc, div_mul_cancel₀ _ unit.ne', dyadic] using units

/-- A value of the format is delivered as it is, with no flag (R56). -/
theorem Fmt.LargestAt.round_of_fin (L : f.LargestAt E M) (rm : BitVec 2) {y m : Nat} {neg : Bool} {e : Int} (h : f.val y = .fin neg m e)
    (low : y < 2 ^ f.width) : f.round rm neg m e = (y, 0) := by
  obtain ⟨size, above, full⟩ := Fmt.fin_shape h
  have fields := Fmt.val_of_fin h
  have whole := Fmt.code_fields low
  have frac := f.fracField_lt y
  have qmin : f.qmin = 1 - f.bias - f.fw := rfl
  rw [Fmt.finite] at fields
  rw [Fmt.code] at whole
  have pack : f.pack m e = f.expField y * 2 ^ f.fw + f.fracField y ∧ f.sign y = neg := by
    split at fields
    next zero =>
      cases fields
      simp [Fmt.pack, frac, zero]
    next nonzero =>
      cases fields
      have carry : 2 ^ f.fw + f.fracField y ≠ 2 ^ (f.fw + 1) := by rw [pow_succ]; omega
      simp [Fmt.pack, carry]
  by_cases nonzero : m = 0
  · subst nonzero
    rw [Fmt.round_zero, ← whole, ← pack.1, pack.2]
    simp [Fmt.pack]
  · have place : f.place m e = e := by
      have top := bits_le_of_lt size
      have quantum : f.quantum m e = e + bits m - (f.fw + 1 : Nat) := rfl
      rw [Fmt.place]
      obtain eq | large := full
      · omega
      · have := lt_bits_of_le large
        omega
    obtain ⟨tiny, result⟩ := Fmt.round_fits (sticky := false) (rm := rm) (neg := neg) nonzero (L.not_overflows nonzero (L.fin_le h))
    rw [result, place, roundAt_of_le le_rfl, ← whole, pack.2, ← pack.1]
    simp

end Sys2Proof.Machine
end

section
/-! PROOFS. What float operations deliver (R55, R56, R58, R86): NaNs are canonical, a rounding gives none, and a value within the range is
rounded as the mode says. -/
namespace Sys2Proof.Machine
open Sys2Proof.Safety

/-! Results that are no NaN. -/

/-- Where a result is a NaN, it is the canonical one. -/
structure Fmt.Canonical (f : Fmt) (x : Nat) : Prop where
  eq_nan : (f.val x).isNan = true → x = f.nan

variable {f : Fmt} {E M : Nat}

theorem Fmt.canonical_nan : f.Canonical f.nan := ⟨fun _ => rfl⟩

theorem Fmt.canonical_of_not {x : Nat} (h : (f.val x).isNan = false) : f.Canonical x :=
  ⟨fun nan => by simp [h] at nan⟩

theorem Fmt.isNan_of_fin {x m : Nat} {neg : Bool} {e : Int} (h : f.val x = .fin neg m e) : (f.val x).isNan = false := by rw [h]; rfl

theorem Fmt.isNan_code {e m : Nat} (he : e < 2 ^ f.ew) (hm : m < 2 ^ f.fw) (h : f.special e m = false) (neg : Bool) :
    (f.val (f.code neg e m)).isNan = false := by
  rw [Fmt.val_code he hm h, Fmt.finite]
  split <;> rfl

theorem Fmt.isNan_infCode {q : Bool} (kind : f.kind = .infinities q) (neg : Bool) : (f.val (f.signBit neg + f.infCode)).isNan = false := by
  have field : 2 ^ f.ew - 1 < 2 ^ f.ew := Nat.sub_lt (Nat.two_pow_pos _) one_pos
  have frac := Nat.two_pow_pos f.fw
  have whole : f.signBit neg + f.infCode = f.code neg (2 ^ f.ew - 1) 0 := rfl
  rw [whole, Fmt.val_eq, Fmt.expField_code field frac, Fmt.fracField_code frac]
  simp [Fmt.special, Fmt.specialVal, kind, FVal.isNan]

theorem Fmt.LargestAt.isNan_signBit (L : f.LargestAt E M) (neg : Bool) : (f.val (f.signBit neg)).isNan = false := by
  have zero : f.signBit neg = f.code neg 0 0 := by simp [Fmt.code]
  have normal := L.normal
  rw [zero]
  exact Fmt.isNan_code (Nat.two_pow_pos _) (Nat.two_pow_pos _)
    ((L.finite 0 0 (Nat.two_pow_pos _) (Nat.two_pow_pos _)).2 (.inl (by omega))) neg

theorem Fmt.LargestAt.isNan_maxCode (L : f.LargestAt E M) (neg : Bool) : (f.val (f.signBit neg + f.maxCode)).isNan = false := by
  rw [L.maxCode]
  exact Fmt.isNan_code L.exponent L.fraction ((L.finite E M L.exponent L.fraction).2 (.inr ⟨rfl, le_rfl⟩)) neg

theorem Fmt.LargestAt.isNan_overflow (L : f.LargestAt E M) (rm : BitVec 2) (neg : Bool) : (f.val (f.overflow rm neg)).isNan = false := by
  unfold Fmt.overflow
  split
  next q kind =>
    split
    · exact Fmt.isNan_infCode kind neg
    · exact L.isNan_maxCode neg
  · exact L.isNan_maxCode neg

/-- A rounding gives no NaN. -/
theorem Fmt.LargestAt.isNan_round (L : f.LargestAt E M) (rm : BitVec 2) (neg : Bool) (m : Nat) (x : Int) (sticky : Bool) :
    (f.val (f.round rm neg m x sticky).1).isNan = false := by
  by_cases zero : m = 0
  · rw [zero, Fmt.round_zero]
    exact L.isNan_signBit neg
  · by_cases big : f.Overflows rm neg m x sticky
    · rw [Fmt.round_overflows zero big]
      exact L.isNan_overflow rm neg
    · obtain ⟨tiny, result⟩ := Fmt.round_fits zero big
      obtain ⟨m', e', value, -⟩ := (L.packs_roundAt zero big).value
      rw [result]
      exact Fmt.isNan_of_fin value

theorem Fmt.LargestAt.isNan_roundSum (L : f.LargestAt E M) (rm : BitVec 2) (as : List Addend) :
    (f.val (f.roundSum rm as).1).isNan = false := by
  unfold Fmt.roundSum
  dsimp only
  split
  · exact L.isNan_signBit _
  · exact L.isNan_round ..

/-! Sums and products. -/

section
variable {q : Bool} (kind : f.kind = .infinities q) (L : f.LargestAt E M)
include kind L

theorem Fmt.canonical_sumTerms (rm : BitVec 2) (snan : Bool) (ts : List Term) : f.Canonical (f.sumTerms rm snan ts).1 := by
  unfold Fmt.sumTerms
  dsimp only
  split
  · exact Fmt.canonical_nan
  · split
    · exact Fmt.canonical_nan
    · split
      · exact Fmt.canonical_of_not (by simpa [Fmt.signBit] using Fmt.isNan_infCode kind false)
      · split
        · exact Fmt.canonical_of_not (Fmt.isNan_infCode kind true)
        · exact Fmt.canonical_of_not (L.isNan_roundSum rm _)

theorem Fmt.canonical_sum2 (rm : BitVec 2) (snan : Bool) (t u : Term) : f.Canonical (f.sum2 rm snan t u).1 := by
  unfold Fmt.sum2
  split
  · exact Fmt.canonical_nan
  · exact Fmt.canonical_sumTerms kind L rm snan _

theorem Fmt.canonical_mul (rm : BitVec 2) (a b : Nat) : f.Canonical (f.mul rm a b).1 := by
  unfold Fmt.mul
  dsimp only
  split
  · exact Fmt.canonical_nan
  · exact Fmt.canonical_nan
  · exact Fmt.canonical_of_not (Fmt.isNan_infCode kind _)
  · exact Fmt.canonical_of_not (L.isNan_round ..)

end

/-- The other operand of a NaN is no NaN; two NaNs give the canonical one (R55). -/
theorem Fmt.canonical_minMax (big : Bool) (a b : Nat) : f.Canonical (f.minMax big a b).1 := by
  refine ⟨fun nan => ?_⟩
  unfold Fmt.minMax at nan ⊢
  dsimp only at nan ⊢
  cases ha : (f.val a).isNan <;> cases hb : (f.val b).isNan <;>
    simp only [ha, hb, Bool.and_self, Bool.and_false, Bool.false_and, Bool.false_eq_true, if_false, if_true] at nan ⊢
  split at nan
  · split at nan <;> simp [ha, hb] at nan
  · split at nan <;> simp [ha, hb] at nan

/-! Functions (R89, R90). -/

theorem Fmt.isNan_of_rsqOk {c m : Nat} {x : Int} (h : f.rsqOk c m x = true) : (f.val c).isNan = false := by
  unfold Fmt.rsqOk at h
  split at h
  next value => exact Fmt.isNan_of_fin value
  · cases h

theorem Fmt.isNan_of_within {k c : Nat} {y e : Int} (h : f.within k c y e = true) : (f.val c).isNan = false := by
  unfold Fmt.within at h
  split at h
  next value => exact Fmt.isNan_of_fin value
  · cases h

/-- The sign of a result has no part in its being a NaN. -/
theorem Fmt.isNan_withSign {c : Nat} (neg : Bool) (h : (f.val c).isNan = false) : (f.val (f.withSign neg c)).isNan = false := by
  unfold Fmt.withSign
  split
  · have mag : c % 2 ^ (f.ew + f.fw) = f.expField c * 2 ^ f.fw + f.fracField c := by
      have outer := Nat.mod_mul (a := 2 ^ f.fw) (b := 2 ^ f.ew) (x := c)
      rw [← pow_add, add_comm f.fw] at outer
      rw [outer, Fmt.expField, Fmt.fracField]
      ring
    rw [mag, ← Fmt.code, ← h]
    exact Fmt.isNan_congr (Fmt.expField_code (f.expField_lt c) (f.fracField_lt c) _) (Fmt.fracField_code (f.fracField_lt c) _)
  · exact h

/-- The element formats have infinities. -/
theorem fmtOf_kind (ff : FFmt) : ∃ q, (fmtOf ff).kind = .infinities q := by cases ff <;> exact ⟨_, rfl⟩

theorem fmtOf_largestAt (ff : FFmt) : ∃ e m, (fmtOf ff).LargestAt e m := exists_largestAt (by cases ff <;> decide)

theorem isNan_approxTo (fn : FFun) (ff : FFmt) (a : Nat) (y e : Int) : ((fmtOf ff).val (approxTo fn ff a y e)).isNan = false := by
  obtain ⟨E, M, L⟩ := fmtOf_largestAt ff
  unfold approxTo
  dsimp only
  generalize (if ff == .f32 then 2 else 1) = k
  split
  next ok => exact Fmt.isNan_of_within ok
  · exact L.isNan_round ..

theorem canonical_fspecFinite (fn : FFun) (ff : FFmt) (rm : BitVec 2) (bits : Nat) (neg : Bool) (m : Nat) (x : Int) :
    (fmtOf ff).Canonical (fspecFinite fn ff rm bits neg m x).1 := by
  obtain ⟨E, M, L⟩ := fmtOf_largestAt ff
  have round : ∀ rm neg m x sticky, (fmtOf ff).Canonical ((fmtOf ff).round rm neg m x sticky).1 :=
    fun _ _ _ _ _ => Fmt.canonical_of_not (L.isNan_round ..)
  have approximated : ∀ a y e, (fmtOf ff).Canonical (approxRes fn ff a y e).1 :=
    fun _ _ _ => Fmt.canonical_of_not (isNan_approxTo ..)
  have root : ∀ c, (fmtOf ff).Canonical (if (fmtOf ff).rsqOk c m x then c else (fmtOf ff).rsqDown m x) := by
    intro c
    split
    next ok => exact Fmt.canonical_of_not (Fmt.isNan_of_rsqOk ok)
    · exact round ..
  cases fn with
  | rcp => exact round ..
  | sqrt =>
    simp only [fspecFinite]
    split
    · exact Fmt.canonical_nan
    · exact round ..
  | rsq =>
    simp only [fspecFinite]
    split
    · exact Fmt.canonical_nan
    · split
      · split
        · exact round ..
        · exact root _
      · exact root _
  | exp2 =>
    simp only [fspecFinite]
    split
    · exact Fmt.canonical_of_not (L.isNan_overflow ..)
    · split
      · split
        · exact round ..
        · exact approximated ..
      · exact approximated ..
  | log2 =>
    simp only [fspecFinite]
    split
    · exact Fmt.canonical_nan
    · split
      · split
        · exact Fmt.canonical_of_not (by simpa [Fmt.signBit] using L.isNan_signBit false)
        · exact round ..
      · exact approximated ..
  | sin => exact Fmt.canonical_of_not (Fmt.isNan_withSign neg (isNan_approxTo ..))
  | cos => exact approximated ..
  | tanh => exact Fmt.canonical_of_not (Fmt.isNan_withSign neg (isNan_approxTo ..))

/-- ±1 is finite in each element format. -/
theorem isNan_signed_one (ff : FFmt) (neg : Bool) :
    ((fmtOf ff).val ((fmtOf ff).signBit neg + ((fmtOf ff).round rtz false 1 0).1)).isNan = false := by
  cases ff <;> cases neg <;> decide

theorem canonical_fspec (fn : FFun) (ff : FFmt) (rm : BitVec 2) (bits : Nat) : (fmtOf ff).Canonical (fspec fn ff rm bits).1 := by
  obtain ⟨E, M, L⟩ := fmtOf_largestAt ff
  obtain ⟨q, kind⟩ := fmtOf_kind ff
  have inf : ∀ neg, (fmtOf ff).Canonical ((fmtOf ff).signBit neg + (fmtOf ff).infCode) :=
    fun neg => Fmt.canonical_of_not (Fmt.isNan_infCode kind neg)
  have zero : ∀ neg, (fmtOf ff).Canonical ((fmtOf ff).signBit neg) := fun neg => Fmt.canonical_of_not (L.isNan_signBit neg)
  have pinf : (fmtOf ff).Canonical (fmtOf ff).infCode := by simpa [Fmt.signBit] using inf false
  have pzero : (fmtOf ff).Canonical 0 := by simpa [Fmt.signBit] using zero false
  have one := L.isNan_round rtz false 1 0 false
  unfold fspec
  dsimp only
  split
  · exact Fmt.canonical_nan
  next neg _ =>
    cases fn with
    | rcp => exact zero neg
    | sqrt =>
      dsimp only
      split
      · exact Fmt.canonical_nan
      · exact pinf
    | rsq =>
      dsimp only
      split
      · exact Fmt.canonical_nan
      · exact pzero
    | exp2 =>
      dsimp only
      split
      · exact pzero
      · exact pinf
    | log2 =>
      dsimp only
      split
      · exact Fmt.canonical_nan
      · exact pinf
    | sin => exact Fmt.canonical_nan
    | cos => exact Fmt.canonical_nan
    | tanh => exact Fmt.canonical_of_not (isNan_signed_one ff neg)
  next neg m x value =>
    split
    · have same := Fmt.canonical_of_not (Fmt.isNan_of_fin value)
      cases fn with
      | rcp => exact inf neg
      | sqrt => exact same
      | rsq => exact inf neg
      | exp2 => exact Fmt.canonical_of_not one
      | log2 => exact inf true
      | sin => exact same
      | cos => exact Fmt.canonical_of_not one
      | tanh => exact same
    · exact canonical_fspecFinite ..

/-- x − x of a finite x is an exact zero: the two addends carry opposite signs (R56). -/
theorem Fmt.sub_self_of_fin {x m : Nat} {neg : Bool} {e : Int} (rm : BitVec 2) (h : f.val x = .fin neg m e) :
    f.sub rm x x = (f.signBit (rm == rdn), 0) := by
  have sum : sumAt e [(neg, m, e), (!neg, m, e)] = 0 := by cases neg <;> simp [sumAt]
  have sign : zeroSign rm [(neg, m, e), (!neg, m, e)] = (rm == rdn) := by cases neg <;> simp [zeroSign]
  have least : minExp [(neg, m, e), (!neg, m, e)] = e := by simp [minExp]
  have total : f.roundSum rm [(neg, m, e), (!neg, m, e)] = (f.signBit (rm == rdn), 0) := by
    simp [Fmt.roundSum, least, sum, sign]
  simpa [Fmt.sub, Fmt.sum2, Fmt.sumTerms, h, FVal.isSnan, FVal.neg, valTerm, Term.addends] using total

/-! Conversions (R58). -/

theorem canonical_cvtFF (src : Fmt) {dst : Fmt} (L : dst.LargestAt E M) (rm : BitVec 2) (x : Nat) :
    dst.Canonical (cvtFF src dst rm x).1 := by
  unfold cvtFF
  split
  · exact Fmt.canonical_nan
  · split
    next q kind => exact Fmt.canonical_of_not (Fmt.isNan_infCode kind _)
    · exact Fmt.canonical_of_not (L.isNan_maxCode _)
  · exact Fmt.canonical_of_not (L.isNan_round ..)

/-! The statement's terms. -/

theorem scaled_cast {q e : Int} (h : q ≤ e) (neg : Bool) (m : Nat) : (scaled q neg m e : ℚ) = signOf neg * (dyadic m e / 2 ^ q) := by
  rw [scaled, dyadic_shift h, dyadic, mul_div_cancel_right₀ _ (two_zpow_pos q).ne']
  cases neg <;> simp

/-- Two values are equal where they are in one unit. -/
theorem scaled_eq_iff {q e e' : Int} (h : q ≤ e) (h' : q ≤ e') (neg : Bool) (m m' : Nat) :
    scaled q neg m e = scaled q neg m' e' ↔ dyadic m e = dyadic m' e' := by
  have sign : signOf neg ≠ 0 := by cases neg <;> simp
  rw [← @Int.cast_inj ℚ, scaled_cast h, scaled_cast h', mul_right_inj' sign, div_left_inj' (two_zpow_pos q).ne']

theorem scaled_le_iff {q e e' : Int} (h : q ≤ e) (h' : q ≤ e') (m m' : Nat) :
    scaled q false m e ≤ scaled q false m' e' ↔ dyadic m e ≤ dyadic m' e' := by
  rw [← @Int.cast_le ℚ, scaled_cast h, scaled_cast h', signOf_false, one_mul, one_mul, div_le_div_iff_of_pos_right (two_zpow_pos q)]

/-- A delivered value in the terms of the statement: integers in one unit for the exact, the delivered and any other value. -/
theorem Fmt.Delivered.delivers_scaled {rm : BitVec 2} {neg : Bool} {m n y m1 m2 : Nat} {n2 : Bool} {e e1 e2 p : Int} {r : FRes}
    (d : f.Delivered rm neg m e r n p) (same : dyadic m1 e1 = dyadic n p) (h : f.val y = .fin n2 m2 e2) :
    let q := min e (min e1 e2)
    Delivers rm (r.1 % 2 = 0) (scaled q neg m e : Int) (scaled q neg m1 e1 : Int) (scaled q n2 m2 e2 : Int) := by
  intro q
  have unit := two_zpow_pos q
  have units := (d.delivers h).scale (inv_pos.2 unit)
  rw [scaled_cast (by omega), scaled_cast (by omega), scaled_cast (by omega), same]
  simpa only [div_eq_mul_inv, mul_assoc] using units

/-- Settles O9: a rounding gives no NaN, so that every NaN is one that an operation has put there; a finite code and its negation cancel;
and what is rounded within the range is delivered among the codes of the format as the mode says. -/
theorem floatDelivery : Obligations.FloatDelivery := by
  refine ⟨⟨fun f fn rm x y c r hr => ?arithmetic, fun f big x y => (Fmt.canonical_minMax big x y).eq_nan, fun src dst rm x _ hd => ?convert⟩,
    fun f rm x m neg e h => Fmt.sub_self_of_fin rm h, fun t rm x m neg e ht low h => ?exact, fun t rm z mz nz ez m neg e ht low hz fits => ?round⟩
  case arithmetic =>
    obtain ⟨q, kind⟩ := fmtOf_kind f
    obtain ⟨E, M, L⟩ := fmtOf_largestAt f
    refine Fmt.Canonical.eq_nan ?_
    simp only [List.mem_cons, List.not_mem_nil, or_false] at hr
    obtain rfl | rfl | rfl | rfl | rfl | rfl := hr
    · exact Fmt.canonical_sum2 kind L ..
    · exact Fmt.canonical_sum2 kind L ..
    · exact Fmt.canonical_mul kind L ..
    · exact Fmt.canonical_sum2 kind L ..
    · exact Fmt.canonical_sum2 kind L ..
    · exact canonical_fspec ..
  case convert =>
    obtain ⟨E, M, L⟩ := exists_largestAt hd
    exact (canonical_cvtFF src L rm x).eq_nan
  case exact =>
    obtain ⟨E, M, L⟩ := exists_largestAt ht
    exact L.round_of_fin rm h low
  case round =>
    obtain ⟨E, M, L⟩ := exists_largestAt ht
    have within := ((scaled_le_iff (min_le_left _ _) (min_le_right _ _) _ _).1 fits).trans (L.fin_le hz)
    obtain ⟨n, q, d⟩ := L.delivered rm neg within
    obtain ⟨m1, e1, value, same⟩ := d.packs.value
    intro r
    refine ⟨d.code ▸ d.packs.lt, neg, m1, e1, d.code ▸ value, ?_, fun y m2 n2 e2 _ hy => (d.delivers_scaled same hy).of_cast⟩
    rw [d.inexact, Ne, Ne, scaled_eq_iff (min_le_right _ _) (min_le_left _ _), same]

end Sys2Proof.Machine
end

section
/-! PROOFS. What an engine's reads and moves leave unchanged (R200, R218, R309): all but stored bytes with what goes with them, fault
service, meters and flits. -/
namespace Sys2Proof.Machine

/-- A state with the bytes of another, what goes with them, and its fault service, meters and flits. -/
def State.withStorage (s x : State) : State :=
  { s with
    mem := x.mem, olds := x.olds, keyTags := x.keyTags, icache := x.icache, poison := x.poison, faultQueue := x.faultQueue
    stuck := x.stuck, traffic := x.traffic, flits := x.flits, flitLog := x.flitLog }

/-- Only bytes, what goes with them, fault service, meters and flits change. -/
def OnlyStorage (s t : State) : Prop := t = s.withStorage t

namespace OnlyStorage
variable {s t u : State}

theorem refl (s : State) : OnlyStorage s s := rfl

theorem trans (h : OnlyStorage s t) (k : OnlyStorage t u) : OnlyStorage s u :=
  Eq.trans k (congrArg (·.withStorage u) h :)

theorem ite {c : Prop} [Decidable c] (h : OnlyStorage s t) (k : OnlyStorage s u) : OnlyStorage s (if c then t else u) := by
  split
  · exact h
  · exact k

theorem foldl {α : Type} (f : State → α → State) (hf : ∀ u x, OnlyStorage u (f u x)) (xs : List α) (s : State) :
    OnlyStorage s (xs.foldl f s) :=
  List.foldlRecOn xs f (motive := OnlyStorage s) (refl s) fun u hu x _ => hu.trans (hf u x)

/-! What an engine does not reach. -/

section
variable (h : OnlyStorage s t)
include h

theorem g_eq : t.g = s.g := (congrArg State.g h :)
theorem groups_eq : t.groups = s.groups := (congrArg State.groups h :)
theorem conv?_eq (id : Nat) : t.conv? id = s.conv? id := (congrArg (State.conv? · id) h :)
theorem convView_eq (c : Conv) : t.convView c = s.convView c := (congrArg (State.convView · c) h :)
theorem reachOf_eq (lid : BitVec 32) : t.reachOf lid = s.reachOf lid := (congrArg (State.reachOf · lid) h :)

end

/-! Operations. -/

variable (v : View)

theorem install (s : State) (w : Bool) (pte : Nat) : OnlyStorage s (s.install w pte) := rfl
theorem seen (s : State) (r : Reader) (lane : Nat) (l : Loc) (n : Nat) : OnlyStorage s (s.seen r lane l n) := rfl
theorem homeWrite (s : State) (l : Loc) (bs : List Byte) : OnlyStorage s (s.homeWrite l bs) := rfl
theorem unstick (s : State) : OnlyStorage s (s.unstick v) := rfl
theorem poisonWords (s : State) (ks : List Nat) : OnlyStorage s (s.poisonWords ks) := rfl

theorem sendFlits (s : State) (die : Nat) (lid : BitVec 32) (cls : Nat) (dev : BitVec 8) : OnlyStorage s (s.sendFlits die lid cls dev) := by
  unfold State.sendFlits
  split
  · exact refl s
  · rfl

theorem engineFlits (s : State) (ls : List Loc) : OnlyStorage s (s.engineFlits v ls) :=
  ite (refl s) (foldl _ (fun u _ => sendFlits u ..) _ s)

theorem opSeen (s : State) (ls : List Loc) : OnlyStorage s (s.opSeen v ls) := by
  unfold State.opSeen
  split
  · exact (engineFlits v s ls).trans (foldl _ (fun u _ => seen u ..) _ _)
  · exact refl s

theorem opWrite (s : State) (l : Loc) (bs : List Byte) : OnlyStorage s (s.opWrite v l bs) := by
  unfold State.opWrite
  split
  · rfl
  · exact homeWrite s l bs

theorem engineFault (s : State) (lid : BitVec 32) (acc : Acc) (h : Hit) : OnlyStorage s (s.engineFault v lid acc h) := by
  unfold State.engineFault
  dsimp only
  split
  · split
    · rfl
    · exact ite (refl s) rfl
  · exact refl s

theorem engineRead (s : State) (lid : BitVec 32) (n : Nat) (a : Word) : OnlyStorage s (s.engineRead v lid n a).st := by
  unfold State.engineRead
  dsimp only
  split
  · exact engineFault v s ..
  · exact refl s
  · exact refl s
  · have read := fun ls ps => (opSeen v s ls).trans (foldl _ (fun u p => install u false p) ps _)
    split
    · exact read _ _
    · exact read _ _

theorem commit (s : State) (fs : List Found) : OnlyStorage s (s.commit v fs) := by
  have written := ((engineFlits v s (fs.map Found.loc)).trans
    (foldl _ (fun u p => install u true p) (fs.filterMap fun f => f.loc.pte).eraseDups _)).trans
    (foldl (α := Loc × List Byte) _ (fun u r => opWrite v u r.1 r.2) (runsOf fs) _)
  unfold State.commit
  dsimp only
  split
  · exact written
  · exact written.trans (poisonWords ..)

theorem readSources (s : State) (ms : List Move) : OnlyStorage s (s.readSources v ms) :=
  (foldl _ (fun u p => install u false p) _ s).trans (opSeen v _ _)

theorem moves (s : State) (lid : BitVec 32) (ms : List Move) (skip : List Nat) : OnlyStorage s (s.moves v lid ms skip).st := by
  have moved := fun todo fs => (readSources v s todo).trans ((commit v _ fs).trans (unstick v _))
  unfold State.moves
  dsimp only
  split
  · split
    · exact engineFault v s ..
    · exact moved _ _
  · split
    · exact moved _ _
    · exact moved _ _

theorem copySlab (s : State) (c : Conv) : OnlyStorage s (s.copySlab c).st := by
  unfold State.copySlab
  dsimp only
  split
  · split
    · exact engineFault (s.convView c) s ..
    · exact refl s
    · exact refl s
    · exact refl s
    · exact refl s
    · exact engineFault (s.convView c) s ..
    · exact refl s
  next =>
    have read := fun ps => (unstick (s.convView c) s).trans (foldl _ (fun u p => install u false p) ps _)
    have paged := fun ps qs => (read ps).trans (foldl _ (fun u p => install u true p) qs _)
    have put := fun ps qs es (f : State → (Word × Nat) × (Word × Nat) × Loc × Loc → Nat) => (paged ps qs).trans (foldl
      (fun u e => u.putElem State.homeWrite c.desc e.2.2.2 e.2.1.2 (f u e)) (fun u e => homeWrite u ..) es _)
    have raced : ∀ (u : State) olds traffic, OnlyStorage u { u with olds := olds, traffic := traffic } := fun _ _ _ => rfl
    split
    · exact ((put _ _ _ _).trans (raced _ _ _)).trans (poisonWords ..)
    · split
      · exact (put _ _ _ _).trans (raced _ _ _)
      · exact ((put _ _ _ _).trans (raced _ _ _)).trans (moves ..)

/-! The states that these operations leave, by their results. -/

theorem of_engineRead {v : View} {lid : BitVec 32} {n : Nat} {a : Word} {bs : List Byte} (h : s.engineRead v lid n a = .ok u bs) :
    OnlyStorage s u :=
  Eq.subst (congrArg ERead.st h) (motive := OnlyStorage s) (engineRead v s lid n a)

theorem of_moves {v : View} {lid : BitVec 32} {ms : List Move} {skip : List Nat} {code n : Nat} (h : s.moves v lid ms skip = .done u code n) :
    OnlyStorage s u :=
  Eq.subst (congrArg Moved.st h) (motive := OnlyStorage s) (moves v s lid ms skip)

theorem of_copySlab {c : Conv} {code n : Nat} (h : s.copySlab c = .done u code n) : OnlyStorage s u :=
  Eq.subst (congrArg Moved.st h) (motive := OnlyStorage s) (copySlab s c)

end OnlyStorage

end Sys2Proof.Machine
end

section
/-! PROOFS. Conversions of layouts (R262, R269–R272; log 61). -/
namespace Sys2Proof.Machine
open Sys2Proof.Safety

/-! Conversions by their number. -/

theorem State.conv?_onConv {s : State} {id : Nat} {c : Conv} {f : Conv → Conv} (hf : ∀ x, (f x).id = x.id) (h : s.conv? id = some c) :
    (s.onConv id f).conv? id = some (f c) := by
  have named : (c.id == id) = true := List.find?_some (p := fun x : Conv => x.id == id) h
  rw [State.conv?, State.onConv, find?_updAll (fun x => by rw [hf])]
  rw [State.conv?] at h
  rw [h, Option.map_some, if_pos named]

/-! A conversion step towards the slots of the tenant (R262, R270, R272). -/

@[simp] theorem State.renew_conv? (s : State) (r : BitVec 4) (attach : Nat) (d : Desc) (id : Nat) :
    (s.renew r attach d).conv? id = s.conv? id := rfl

@[simp] theorem State.renew_reachOf (s : State) (r : BitVec 4) (attach : Nat) (d : Desc) (lid : BitVec 32) :
    (s.renew r attach d).reachOf lid = s.reachOf lid := rfl

/-- A team of the tenant: its slots that are attached to the descriptor take it. -/
def Team.renewed (attach : Nat) (d : Desc) (t : Team) : Team :=
  { t with shapes := t.shapes.map fun x => x.map fun sh => if sh.attach == attach then { sh with desc := d } else sh }

/-- A group of the tenant: its stored elements that are attached to the descriptor take it. -/
def Group.renewed (attach : Nat) (d : Desc) (g : Group) : Group :=
  { g with
    heldT := g.heldT.map (HeldT.renew attach d)
    drains := g.drains.map fun x => match x with | .elem t sc => .elem (t.renew attach d) sc | x => x
    side := g.side.map fun e => match e.op with | .tensor t => { e with op := .tensor (t.renew attach d) } | _ => e }

/-- What a step of a tenant's conversion makes of something that belongs to a launch. -/
def State.ofTenant {α : Type} (s : State) (r : BitVec 4) (launch : α → BitVec 32) (f : α → α) (x : α) : α :=
  if s.reachOf (launch x) != r then x else f x

theorem State.renew_teams (s : State) (r : BitVec 4) (attach : Nat) (d : Desc) :
    (s.renew r attach d).teams = s.teams.map (s.ofTenant r Team.launch (Team.renewed attach d)) := rfl

theorem State.renew_g (s : State) (r : BitVec 4) (attach : Nat) (d : Desc) :
    (s.renew r attach d).g = s.ofTenant r Group.launch (Group.renewed attach d) s.g := rfl

theorem State.renew_others (s : State) (r : BitVec 4) (attach : Nat) (d : Desc) :
    (s.renew r attach d).others = s.others.map (s.ofTenant r Group.launch (Group.renewed attach d)) := rfl

theorem State.ofTenant_keeps {α β : Type} (s : State) (r : BitVec 4) {launch : α → BitVec 32} {f : α → α} (p : α → β)
    (hf : ∀ x, p (f x) = p x) (x : α) : p (s.ofTenant r launch f x) = p x := by
  unfold State.ofTenant
  split
  · rfl
  · exact hf x

/-- Every slot of a tenant that is attached to a descriptor has it. -/
def State.SlotsHave (s : State) (r : BitVec 4) (attach : Nat) (d : Desc) : Prop :=
  ∀ x ∈ s.teams, s.reachOf x.launch = r → ∀ sh, some sh ∈ x.shapes → sh.attach = attach → sh.desc = d

/-- Every slot of the tenant that is attached to the descriptor takes it. -/
theorem State.renew_slotsHave (s : State) (r : BitVec 4) (attach : Nat) (d : Desc) : (s.renew r attach d).SlotsHave r attach d := by
  intro x hx hr sh hs ha
  rw [State.renew_teams] at hx
  obtain ⟨t, -, rfl⟩ := List.mem_map.1 hx
  rw [State.renew_reachOf, s.ofTenant_keeps r (f := Team.renewed attach d) Team.launch fun _ => rfl] at hr
  rw [State.ofTenant, if_neg (by simpa using hr)] at hs
  obtain ⟨o, -, e⟩ := List.mem_map.1 hs
  obtain ⟨sh', rfl, rfl⟩ := Option.map_eq_some_iff.1 e
  split at ha
  next same => rw [if_pos same]
  next other => exact absurd (by simpa using ha) other

/-! The end of a conversion (R272). -/

/-- Nobody's wait hinges on a renewal of slots. -/
theorem State.renew_idle {s : State} (r : BitVec 4) (attach : Nat) (d : Desc) (idle : ∀ g ∈ s.groups, g.wait = none) :
    ∀ g ∈ (s.renew r attach d).groups, g.wait = none := by
  intro g hg
  rw [State.groups, State.renew_g, State.renew_others, ← List.map_cons] at hg
  obtain ⟨x, hx, rfl⟩ := List.mem_map.1 hg
  rw [s.ofTenant_keeps r (f := Group.renewed attach d) Group.wait fun _ => rfl]
  exact idle x hx

theorem Group.writeStatus_wait (g : Group) (op : Nat) (x : Word) (j : Option Join) : (g.writeStatus op x j).wait = g.wait := by
  unfold Group.writeStatus
  split
  · rfl
  · split
    · exact Group.setS_wait ..
    · rfl

/-- A status that a group awaits outside a promise comes into its register (R18). -/
theorem Group.sreg_writeStatus {g : Group} {p : PendS} (due : (g.pendS.find? fun q => q.op == p.op) = some p) (now : p.left = 0) (x : Word)
    (j : Option Join) : (g.writeStatus p.op x j).sreg p.reg = x := by
  unfold Group.writeStatus
  rw [due]
  simp [now]

/-- With nobody in a wait, the end of a conversion takes it away and posts its status. -/
theorem State.endConv_of_idle {s : State} (idle : ∀ g ∈ s.groups, g.wait = none) (id code count : Nat) :
    s.endConv id code count = State.mapGroups { s with convs := s.convs.filter fun c => c.id != id }
      fun g => g.writeStatus id (statusWord code count) none := by
  rw [State.endConv, State.writeStatus]
  refine State.satisfyAll_of_idle _ fun g hg => ?_
  obtain ⟨x, hx, rfl⟩ := List.mem_map.1 (show g ∈ s.groups.map fun g => g.writeStatus id (statusWord code count) none from hg)
  rw [Group.writeStatus_wait]
  exact idle x hx

theorem find?_filter_ne (id : Nat) (l : List Conv) : (l.filter fun c => c.id != id).find? (fun c => c.id == id) = none := by
  simp [List.find?_eq_none]

/-! The steps. -/

/-- A conversion that may begin does (R270; log 61). -/
theorem execDredgerBegin_begins {s u v w : State} {c : Conv} {bs : List Byte} {n m : Nat} (known : s.conv? c.id = some c)
    (runs : s.enginesRun c.launch c.core = true) (fresh : c.running = false)
    (room : (s.convs.filter fun x => x.die == c.die && x.running).length < 8)
    (first : (s.convs.find? fun x => x.die == c.die && !x.running) = some c) (attach : c.attach % 64 = 0) (new : c.new % 64 = 0)
    (low : c.attach < 2 ^ 56) (newLow : c.new < 2 ^ 56)
    (read : s.engineRead (s.convView c) c.launch 64 (BitVec.ofNat 64 c.attach) = .ok u bs) (valid : convError c bs = none)
    (put : u.moves (s.convView c) c.launch (litMoves (BitVec.ofNat 64 c.attach) (descBytes ((descOf bs).begin_ c.new c.tag))) = .done v 0 n)
    (cleared : v.moves (s.convView c) c.launch (litMoves (BitVec.ofNat 64 ((descOf bs).begin_ c.new c.tag).dir)
      (List.replicate ((((descOf bs).begin_ c.new c.tag).slabs + 63) / 64 * 8) 0)) = .done w 0 m) :
    execDredgerBegin c.id s = .next ((w.renew (s.reachOf c.launch) c.attach ((descOf bs).begin_ c.new c.tag)).onConv c.id fun x =>
      { x with desc := (descOf bs).begin_ c.new c.tag, running := true, slabs := ((descOf bs).begin_ c.new c.tag).slabs }) := by
  have few : ((s.convs.filter fun x => x.die == c.die).filter Conv.running).length < 8 := by
    simp only [List.filter_filter]
    simpa only [Bool.and_comm] using room
  have oldest : ((s.convs.filter fun x => x.die == c.die).find? fun x => !x.running) = some c := by
    simpa only [List.find?_filter, Bool.decide_and, Bool.decide_eq_true] using first
  have go : (c.running || !s.enginesRun c.launch c.core || 8 ≤ ((s.convs.filter fun x => x.die == c.die).filter Conv.running).length
      || ((s.convs.filter fun x => x.die == c.die).find? fun x => !x.running).map Conv.id != some c.id) = false := by
    simp only [fresh, runs, oldest, decide_eq_false (Nat.not_le.2 few)]
    simp
  unfold execDredgerBegin
  rw [known]
  dsimp only
  rw [if_neg (by rw [go]; decide), if_neg (by simp [attach, new]), if_neg (by simpa using ⟨low, newLow⟩), read]
  dsimp only
  rw [valid]
  dsimp only
  rw [put]
  dsimp only
  rw [if_neg (by decide), cleared]
  rfl

/-- A conversion that begins has the new side in its descriptor, and so has every slot attached to it. -/
theorem dredgerBegin_begins {s u v w : State} {c : Conv} {bs : List Byte} {n m : Nat} (known : s.conv? c.id = some c)
    (runs : s.enginesRun c.launch c.core = true) (fresh : c.running = false)
    (room : (s.convs.filter fun x => x.die == c.die && x.running).length < 8)
    (first : (s.convs.find? fun x => x.die == c.die && !x.running) = some c) (attach : c.attach % 64 = 0) (new : c.new % 64 = 0)
    (low : c.attach < 2 ^ 56) (newLow : c.new < 2 ^ 56)
    (read : s.engineRead (s.convView c) c.launch 64 (BitVec.ofNat 64 c.attach) = .ok u bs) (valid : convError c bs = none)
    (put : u.moves (s.convView c) c.launch (litMoves (BitVec.ofNat 64 c.attach) (descBytes ((descOf bs).begin_ c.new c.tag))) = .done v 0 n)
    (cleared : v.moves (s.convView c) c.launch (litMoves (BitVec.ofNat 64 ((descOf bs).begin_ c.new c.tag).dir)
      (List.replicate ((((descOf bs).begin_ c.new c.tag).slabs + 63) / 64 * 8) 0)) = .done w 0 m) :
    Completes (.dredgerBegin c.id) s fun t =>
      t.conv? c.id = some { c with desc := (descOf bs).begin_ c.new c.tag, running := true, slabs := ((descOf bs).begin_ c.new c.tag).slabs }
        ∧ t.mem = w.mem ∧ t.SlotsHave (s.reachOf c.launch) c.attach ((descOf bs).begin_ c.new c.tag) := by
  have su : OnlyStorage s u := .of_engineRead read
  have uv : OnlyStorage u v := .of_moves put
  have vw : OnlyStorage v w := .of_moves cleared
  refine ⟨_, execDredgerBegin_begins known runs fresh room first attach new low newLow read valid put cleared, ?_, rfl,
    w.renew_slotsHave _ _ _⟩
  refine State.conv?_onConv (fun _ => rfl) ?_
  rw [State.renew_conv?, ((su.trans uv).trans vw).conv?_eq, known]

section
variable {s : State} {c : Conv} (known : s.conv? c.id = some c) (runs : s.enginesRun c.launch c.core = true) (running : c.running = true)
include known runs running

/-- A slab is copied (R271). -/
theorem slabCommit_copies (slab : c.slab < c.slabs) (todo : c.copied = false) {u : State} {n : Nat}
    (copy : State.copySlab (s.onConv c.id fun c => { c with dirty := c.dirty.filter (· != c.slab) }) c = .done u 0 n) :
    Completes (.slabCommit c.id) s fun t =>
      t.conv? c.id = some { c with copied := true, dirty := c.dirty.filter (· != c.slab) } ∧ t.mem = u.mem := by
  have su : OnlyStorage (s.onConv c.id fun c => { c with dirty := c.dirty.filter (· != c.slab) }) u := .of_copySlab copy
  have cleaned : u.conv? c.id = some { c with dirty := c.dirty.filter (· != c.slab) } := by
    exact (su.conv?_eq _).trans (State.conv?_onConv (fun _ => rfl) known)
  refine ⟨u.onConv c.id fun c => { c with copied := true }, ?_,
    State.conv?_onConv (f := fun c => { c with copied := true }) (fun _ => rfl) cleaned, rfl⟩
  show execSlabCommit c.id s = _
  unfold execSlabCommit
  rw [known]
  dsimp only
  rw [if_neg (by simp [running, runs, slab]), if_pos (by simp [todo]), copy]
  rfl

/-- A slab that has been written since its copy is copied again (R271). -/
theorem slabCommit_again (slab : c.slab < c.slabs) (copied : c.copied = true) (dirty : c.slab ∈ c.dirty) :
    Completes (.slabCommit c.id) s fun t => t = { s with convs := t.convs }
      ∧ t.conv? c.id = some { c with copied := false, attempts := c.attempts + 1 } := by
  refine ⟨s.onConv c.id fun c => { c with copied := false, attempts := c.attempts + 1 }, ?_, rfl, State.conv?_onConv (fun _ => rfl) known⟩
  show execSlabCommit c.id s = _
  unfold execSlabCommit
  rw [known]
  dsimp only
  rw [if_neg (by simp [running, runs, slab]), if_neg (by simp [copied]), if_pos (by simp [dirty])]

/-- A copied slab that has not been written since is committed (R271). -/
theorem slabCommit_commits (slab : c.slab < c.slabs) (copied : c.copied = true) (clean : c.slab ∉ c.dirty) {u v : State} {b : Byte} {n : Nat}
    (read : s.engineRead (s.convView c) c.launch 1 (BitVec.ofNat 64 (c.desc.dir + c.slab / 8)) = .ok u [b])
    (put : u.moves (s.convView c) c.launch
      (litMoves (BitVec.ofNat 64 (c.desc.dir + c.slab / 8)) [b ||| BitVec.ofNat 8 (2 ^ (c.slab % 8))]) = .done v 0 n) :
    Completes (.slabCommit c.id) s fun t =>
      t.conv? c.id = some { c with slab := c.slab + 1, attempts := 0, copied := false } ∧ t.mem = v.mem := by
  have su : OnlyStorage s u := .of_engineRead read
  have uv : OnlyStorage u v := .of_moves put
  refine ⟨v.onConv c.id fun c => { c with slab := c.slab + 1, attempts := 0, copied := false }, ?_,
    State.conv?_onConv (fun _ => rfl) (((su.trans uv).conv?_eq _).trans known), rfl⟩
  show execSlabCommit c.id s = _
  unfold execSlabCommit
  rw [known]
  dsimp only
  rw [if_neg (by simp [running, runs, slab]), if_neg (by simp [copied]), if_neg (by simp [clean]), read]
  dsimp only [List.headD]
  rw [su.convView_eq, put]
  rfl

/-- The last step gives the old side up and posts the number of slabs (R272). -/
theorem dredgerComplete_posts (last : c.slabs ≤ c.slab) {p : PendS} (waits : Awaits p s) (same : p.op = c.id) (idle : NobodyWaits s)
    {u : State} {n : Nat}
    (put : s.moves (s.convView c) c.launch (litMoves (BitVec.ofNat 64 c.attach) (descBytes c.desc.finish)) = .done u 0 n) :
    Completes (.dredgerComplete c.id) s fun t => t.conv? c.id = none ∧ t.g.sreg p.reg = statusWord 0 c.slabs ∧ t.mem = u.mem
      ∧ t.SlotsHave (s.reachOf c.launch) c.attach c.desc.finish := by
  have su : OnlyStorage s u := .of_moves put
  have reach : u.reachOf c.launch = s.reachOf c.launch := su.reachOf_eq _
  obtain ⟨idle, -⟩ := idle
  obtain ⟨due, now⟩ := waits
  have ended : execDredgerComplete c.id s = .next ((u.renew (s.reachOf c.launch) c.attach c.desc.finish).endConv c.id 0 c.slabs) := by
    simp [execDredgerComplete, known, runs, running, last, put, reach]
  rw [State.endConv_of_idle (State.renew_idle _ _ _ (su.groups_eq ▸ idle))] at ended
  refine ⟨_, ended, find?_filter_ne .., ?_, rfl, u.renew_slotsHave _ _ _⟩
  have mine : ((u.renew (s.reachOf c.launch) c.attach c.desc.finish).g.pendS.find? fun q => q.op == p.op) = some p := by
    rw [State.renew_g, u.ofTenant_keeps _ (f := Group.renewed c.attach c.desc.finish) Group.pendS fun _ => rfl, su.g_eq, due]
  show Group.sreg (Group.writeStatus _ c.id _ none) p.reg = _
  rw [← same]
  exact Group.sreg_writeStatus mine now ..

end

end Sys2Proof.Machine
end

section
/-! PROOFS. The words of a tile (R61, R288). -/
namespace Sys2Proof.Machine
open Sys2Proof.Safety

/-! Words in memory (R3). -/

/-- A number reads as the bytes that stand for it. -/
theorem memRead_of_bytes {m : List Host.Cell} {a x : Nat} :
    (n : Nat) → (∀ k, k < n → memGet (a + k) m = BitVec.ofNat 8 (x / 256 ^ k)) → memRead m a n = x % 256 ^ n
  | 0, _ => (Nat.mod_one x).symm
  | n + 1, bytes => by
    rw [memRead, memRead_of_bytes n fun k hk => bytes k (by omega), bytes n n.lt_succ_self, BitVec.toNat_ofNat, Nat.mod_pow_succ (b := 256),
      Nat.mul_comm]

/-- Byte `k` of words of 4 bytes in a row. -/
theorem getD_words (f : Nat → Nat) {n k : Nat} (hk : k < 4 * n) :
    ((List.range n).flatMap fun j => leBytes (f j) 4).getD k 0 = BitVec.ofNat 8 (f (k / 4) / 256 ^ (k % 4)) := by
  induction n with
  | zero => omega
  | succ n ih =>
    have length : ((List.range n).flatMap fun j => leBytes (f j) 4).length = 4 * n := by simp [List.length_flatMap, Nat.mul_comm]
    rw [List.range_succ, List.flatMap_append, List.getD_eq_getElem?_getD]
    by_cases low : k < 4 * n
    · rw [List.getElem?_append_left (by omega), ← List.getD_eq_getElem?_getD, ih low]
    · rw [List.getElem?_append_right (by omega), length, show k / 4 = n by omega, show k % 4 = k - 4 * n by omega]
      simp only [List.flatMap_singleton]
      rw [List.getElem?_eq_getElem (by rw [leBytes_length]; omega), leBytes_getElem]
      rfl

/-! Tiles. -/

theorem tileKey_add (core : CoreId) (tile off : Nat) : tileKey core tile off = tileKey core tile 0 + off := by simp [tileKey]

/-- The rows of a tile, each of 128 words, the first `n` of them written. -/
def writeRows (core : CoreId) (tile : Nat) (f : Nat → Nat → Nat) (n : Nat) (m : List Host.Cell) : List Host.Cell :=
  (List.range n).foldl (fun m i => memWrite m (tileWord core tile i 0) ((List.range 128).flatMap fun j => leBytes (f i j) 4)) m

theorem State.writeTile_eq (s : State) (core : CoreId) (tile : Nat) (f : Nat → Nat → Nat) :
    s.writeTile core tile f = { s with mem := writeRows core tile f 128 s.mem } := rfl

theorem memGet_writeRows {m : List Host.Cell} (wf : Memory.wf m = true) (core : CoreId) (tile : Nat) (f : Nat → Nat → Nat) (n a : Nat) :
    memGet a (writeRows core tile f n m) =
      if tileKey core tile 0 ≤ a ∧ a < tileKey core tile 0 + 512 * n then
        BitVec.ofNat 8 (f ((a - tileKey core tile 0) / 512) ((a - tileKey core tile 0) % 512 / 4) / 256 ^ ((a - tileKey core tile 0) % 4))
      else memGet a m := by
  induction n with
  | zero => rw [if_neg (by omega)]; rfl
  | succ n ih =>
    have rows : Memory.wf (writeRows core tile f n m) = true := foldl_wf _ (fun _ _ h => memWrite_wf h) _ wf
    have row : ((List.range 128).flatMap fun j => leBytes (f n j) 4).length = 512 := by simp [List.length_flatMap]
    have step : writeRows core tile f (n + 1) m
        = memWrite (writeRows core tile f n m) (tileWord core tile n 0) ((List.range 128).flatMap fun j => leBytes (f n j) 4) := by
      simp [writeRows, List.range_succ]
    rw [step, memGet_memWrite rows, ih, row, tileWord, tileKey_add]
    generalize tileKey core tile 0 = T
    by_cases here : T + 512 * n ≤ a ∧ a < T + 512 * n + 512
    · rw [if_pos (by omega), if_pos (by omega), getD_words _ (by omega), show (a - T) / 512 = n by omega,
        show (a - (T + 4 * (128 * n + 0))) / 4 = (a - T) % 512 / 4 by omega,
        show (a - (T + 4 * (128 * n + 0))) % 4 = (a - T) % 4 by omega]
    · rw [if_neg (by omega)]
      by_cases before : T ≤ a ∧ a < T + 512 * n
      · rw [if_pos before, if_pos (by omega)]
      · rw [if_neg before, if_neg (by omega)]

/-- A word of a tile is what was written there. -/
theorem memRead_writeTile {s : State} (wf : Memory.wf s.mem = true) (core : CoreId) (tile : Nat) (f : Nat → Nat → Nat) {i j : Nat}
    (hi : i < 128) (hj : j < 128) : memRead (s.writeTile core tile f).mem (tileKey core tile (4 * (128 * i + j))) 4 = f i j % 2 ^ 32 := by
  refine memRead_of_bytes 4 fun k hk => ?_
  rw [State.writeTile_eq, memGet_writeRows wf, tileKey_add core tile (4 * _)]
  generalize tileKey core tile 0 = T
  rw [if_pos (by omega), show (T + 4 * (128 * i + j) + k - T) / 512 = i by omega,
    show (T + 4 * (128 * i + j) + k - T) % 512 / 4 = j by omega, show (T + 4 * (128 * i + j) + k - T) % 4 = k by omega]

/-- The write of a tile writes nothing else. -/
theorem onlyBytes_writeTile {s : State} (wf : Memory.wf s.mem = true) (core : CoreId) (tile : Nat) (f : Nat → Nat → Nat) :
    OnlyBytes (tileKey core tile 0) 65536 s (s.writeTile core tile f) := by
  intro a outside
  rw [State.writeTile_eq, memGet_writeRows wf, if_neg (by omega)]

end Sys2Proof.Machine
end

section
/-! PROOFS. A matrix engine works for one team (R288, R294): its steps change that team's queue. -/
namespace Sys2Proof.Machine
open Sys2Proof.Safety

/-! The one team of a launch and an index. -/

section
variable {lid : BitVec 32} {idx : Nat} {t : Team} {s : State}

theorem onlyTeam_here (one : OnlyTeam lid idx t s) : t ∈ s.teams ∧ t.launch = lid ∧ t.idx = idx := by
  have here : t ∈ s.teams.filter fun t => t.launch == lid && t.idx == idx := by rw [one]; exact List.mem_singleton_self t
  simpa using List.mem_filter.1 here

/-- A change of the one team leaves it the one team. -/
theorem onlyTeam_onTeamOnly {f : Team → Team} (one : OnlyTeam lid idx t s) (launch : (f t).launch = t.launch) (index : (f t).idx = t.idx) :
    OnlyTeam lid idx (f t) (s.onTeamOnly t f) := by
  obtain ⟨-, rfl, rfl⟩ := onlyTeam_here one
  have kept : ∀ x ∈ s.teams, ((fun x : Team => x.launch == t.launch && x.idx == t.idx) ∘ fun x => if x.same t then f x else x) x
      = (x.launch == t.launch && x.idx == t.idx) := by
    intro x hx
    simp only [Function.comp]
    split
    next same =>
      have ours : (x.launch == t.launch && x.idx == t.idx) = true := by
        rw [Team.same, Bool.and_assoc, Bool.and_comm (x.idx == t.idx), ← Bool.and_assoc, Bool.and_right_comm, Bool.and_eq_true] at same
        exact same.1
      have it : x ∈ s.teams.filter fun x => x.launch == t.launch && x.idx == t.idx := List.mem_filter.2 ⟨hx, ours⟩
      rw [one, List.mem_singleton] at it
      subst it
      rw [launch, index, ours]
    · rfl
  rw [OnlyTeam, State.onTeamOnly, updAll, List.filter_map, List.filter_congr kept, one]
  simp [Team.same]

theorem twinsOf_onlyTeam (one : OnlyTeam lid idx t s) : s.twinsOf lid idx = [t] := one

theorem exec_kStep (one : OnlyTeam lid idx t s) : exec (.kStep lid idx) s = .next (s.kStep t) := by
  show execKStep lid idx s = _
  rw [execKStep, twinsOf_onlyTeam one]
  rfl

theorem exec_ringEntryAcquire (one : OnlyTeam lid idx t s) : exec (.ringEntryAcquire lid idx) s = .next (s.acquire t) := by
  show execRingEntryAcquire lid idx s = _
  rw [execRingEntryAcquire, twinsOf_onlyTeam one]
  rfl

end

/-! Nobody's wait ends while nobody waits. -/

theorem State.waiters_of_idle {s : State} (p : Group → Wait → Bool) (idle : ∀ g ∈ s.groups, g.wait = none) : s.waiters p = [] := by
  have none : (s.groups.filter fun g => !g.ended && g.waiting && match g.wait with | some w => p g w | none => false) = [] :=
    List.filter_eq_nil_iff.2 fun g hg => by simp [Group.waiting, idle g hg]
  exact (congrArg (sortBy _) none).trans rfl

/-- A team with a group that has not ended does not end. -/
theorem State.endTeam_of_live {s : State} {t : Team} (live : s.liveOf t ≠ []) : s.endTeam t = s := by
  unfold State.endTeam
  rw [if_pos (by simp [live])]

/-! What a matrix engine reaches. -/

/-- A state with the bytes of another, what goes with them, and its full words and teams. -/
def State.withEngine (s x : State) : State :=
  { s with mem := x.mem, olds := x.olds, full := x.full, poison := x.poison, teams := x.teams }

/-- Only bytes, what goes with them, full words and teams change. -/
def OnlyEngine (s t : State) : Prop := t = s.withEngine t

namespace OnlyEngine
variable {s t u : State}

theorem refl (s : State) : OnlyEngine s s := rfl

theorem trans (h : OnlyEngine s t) (k : OnlyEngine t u) : OnlyEngine s u := Eq.trans k (congrArg (·.withEngine u) h :)

theorem groups_eq (h : OnlyEngine s t) : t.groups = s.groups := (congrArg State.groups h :)

theorem of_full (h : OnlyEngine s t) (full : t.full = s.full) :
    t = { s with mem := t.mem, olds := t.olds, poison := t.poison, teams := t.teams } := by
  have e : t = { s with mem := t.mem, olds := t.olds, full := t.full, poison := t.poison, teams := t.teams } := h
  rw [full] at e
  exact e

theorem onTeamOnly (s : State) (t : Team) (f : Team → Team) : OnlyEngine s (s.onTeamOnly t f) := rfl

end OnlyEngine

/-! K-steps. -/

/-- Only the writes that somebody has seen change. -/
def OnlyOlds (s t : State) : Prop := t = { s with olds := t.olds }

namespace OnlyOlds
variable {s t u : State}

theorem trans (h : OnlyOlds s t) (k : OnlyOlds t u) : OnlyOlds s u := Eq.trans k (congrArg (fun x => { x with olds := u.olds }) h :)

theorem ite {c : Prop} [Decidable c] (h : OnlyOlds s t) (k : OnlyOlds s u) : OnlyOlds s (if c then t else u) := by
  split
  · exact h
  · exact k

theorem seen (s : State) (r : Reader) (lane k n : Nat) : OnlyOlds s (s.seen r lane (padLoc k) n) := rfl

theorem cmdSeen (s : State) (t : Team) (c : MCmd) (n : Nat) : OnlyOlds s (s.cmdSeen t c n) := by
  unfold State.cmdSeen
  dsimp only
  have operands : OnlyOlds s _ := (seen s (c.reader t) 0 (slotKey t.core (cmdA c.word n) 0) (tileBytes c.fmtA)).trans
    (seen _ (c.reader t) 0 (slotKey t.core (cmdB c.word n) 0) (tileBytes c.fmtB))
  have scale := fun (u : State) (h : OnlyOlds s u) (p : Prop) [Decidable p] k n => h.ite (c := p) (h.trans (seen u (c.reader t) 0 k n))
  exact scale _ (scale _ operands _ _ _) _ _ _

end OnlyOlds

/-- The tile before a step: ZINIT clears it before the first (R288). -/
def State.zeroed (s : State) (t : Team) (c : MCmd) : State :=
  if c.step = 0 ∧ c.word.getLsbD 38 = true then (s.writeTile t.core (cmdTile c.word) fun _ _ => 0).healTile t.core (cmdTile c.word) else s

theorem State.zeroed_wf {s : State} (wf : Memory.wf s.mem = true) (t : Team) (c : MCmd) : Memory.wf (s.zeroed t c).mem = true := by
  unfold State.zeroed
  split
  · rw [State.healTile_mem]
    exact writeTile_wf _ _ _ wf
  · exact wf

theorem State.zeroed_onlyBytes {s : State} (wf : Memory.wf s.mem = true) (t : Team) (c : MCmd) :
    OnlyBytes (tileKey t.core (cmdTile c.word) 0) 65536 s (s.zeroed t c) := by
  unfold State.zeroed
  split
  · intro a outside
    rw [State.healTile_mem, onlyBytes_writeTile wf t.core (cmdTile c.word) _ a outside]
  · exact fun _ _ => rfl

theorem State.zeroed_onlyEngine (s : State) (t : Team) (c : MCmd) : OnlyEngine s (s.zeroed t c) ∧ (s.zeroed t c).full = s.full
    ∧ (s.zeroed t c).teams = s.teams := by
  unfold State.zeroed
  split
  · rw [State.writeTile_eq]
    generalize writeRows _ _ _ _ _ = m
    exact ⟨rfl, rfl, rfl⟩
  · exact ⟨rfl, rfl, rfl⟩

/-- A word of the tile after a step (R61). -/
def State.stepped (s : State) (t : Team) (c : MCmd) (i j : Nat) : Nat :=
  stepElem (s.stepIn t c c.step) i j (memRead s.mem (tileWord t.core (cmdTile c.word) i j) 4)

/-- A step that reads no poison writes its tile. -/
theorem State.runStep_of_clean {s : State} {t : Team} {c : MCmd} (clean : (s.zeroed t c).stepPoison t c c.step = []) :
    s.runStep t c = ((s.zeroed t c).cmdSeen t c c.step).writeTile t.core (cmdTile c.word) ((s.zeroed t c).stepped t c) := by
  have cleared : (if (c.step == 0 && c.word.getLsbD 38) = true then
      (s.writeTile t.core (cmdTile c.word) fun _ _ => 0).healTile t.core (cmdTile c.word) else s) = s.zeroed t c := by
    simp [State.zeroed]
  unfold State.runStep
  dsimp only
  rw [cleared, clean]
  rfl

/-- A step that reads no poison changes bytes and what goes with them. -/
theorem State.runStep_onlyEngine {s : State} {t : Team} {c : MCmd} (clean : (s.zeroed t c).stepPoison t c c.step = []) :
    OnlyEngine s (s.runStep t c) ∧ (s.runStep t c).full = s.full ∧ (s.runStep t c).teams = s.teams := by
  obtain ⟨frame, full, teams⟩ := s.zeroed_onlyEngine t c
  rw [State.runStep_of_clean clean, State.writeTile_eq, OnlyOlds.cmdSeen (s.zeroed t c) t c c.step]
  generalize writeRows _ _ _ _ _ = m
  exact ⟨frame.trans rfl, full, teams⟩

/-- What becomes of a team by a K-step of its oldest command. -/
def Team.stepped (t : Team) (c : MCmd) (rest : List MCmd) : Team :=
  if c.step + 1 < cmdSteps c.word then { t with queue := { c with step := c.step + 1 } :: rest }
  else { t with mseq := t.mseq + 1, queue := rest }

/-- A K-step of a command that does not end its team: the tile is written, and the queue of the team goes on. -/
theorem State.kStep_of_idle {s : State} {t : Team} {c : MCmd} {rest : List MCmd} (queue : t.queue = c :: rest) (runs : s.matrixRuns t = true)
    (noRing : c.ring = none) (clean : (s.zeroed t c).stepPoison t c c.step = []) (idle : ∀ g ∈ s.groups, g.wait = none)
    (live : s.liveOf t ≠ []) : ∃ f : Team → Team, f t = t.stepped c rest ∧ s.kStep t = (s.runStep t c).onTeamOnly t f := by
  have groups := (State.runStep_onlyEngine clean).1.groups_eq
  unfold State.kStep
  rw [queue]
  dsimp only
  rw [if_neg (by simp [runs, noRing])]
  by_cases more : c.step + 1 < cmdSteps c.word
  · exact ⟨fun t => { t with queue := { c with step := c.step + 1 } :: rest }, (if_pos more).symm, if_pos more⟩
  · refine ⟨fun _ => { t with mseq := t.mseq + 1, queue := rest }, (if_neg more).symm, ?_⟩
    have still : ∀ g ∈ ((s.runStep t c).onTeamOnly t fun _ => { t with mseq := t.mseq + 1, queue := rest }).groups, g.wait = none :=
      groups ▸ idle
    rw [if_neg more, State.waiters_of_idle _ still, List.foldl_nil, State.satisfyAll_of_idle _ still]
    refine State.endTeam_of_live ?_
    have same : ((s.runStep t c).onTeamOnly t fun _ => { t with mseq := t.mseq + 1, queue := rest }).liveOf
        { t with mseq := t.mseq + 1, queue := rest } = s.liveOf t := congrArg (List.filter _) groups
    rw [same]
    exact live

/-- A K-step writes every word of its tile with the sum of R61 and nothing else, and its command's last one ends it (R288, R291). -/
theorem kStep_writes {s : State} {lid : BitVec 32} {idx : Nat} {t0 : Team} {c : MCmd} {rest : List MCmd} (one : OnlyTeam lid idx t0 s)
    (queue : t0.queue = c :: rest) (runs : s.matrixRuns t0 = true) (wf : Memory.wf s.mem = true) (noRing : c.ring = none)
    (clean : (s.zeroed t0 c).stepPoison t0 c c.step = []) (idle : ∀ g ∈ s.groups, g.wait = none) (live : s.liveOf t0 ≠ []) :
    Completes (.kStep lid idx) s fun t => OnlyBytes (tileKey t0.core (cmdTile c.word) 0) 65536 s t
      ∧ (∀ i j, i < 128 → j < 128 → memRead t.mem (tileKey t0.core (cmdTile c.word) (4 * (128 * i + j))) 4
        = (s.zeroed t0 c).stepped t0 c i j % 2 ^ 32)
      ∧ OnlyTeam lid idx (t0.stepped c rest) t
      ∧ t = { s with mem := t.mem, olds := t.olds, poison := t.poison, teams := t.teams } := by
  obtain ⟨frame, full, teams⟩ := State.runStep_onlyEngine clean
  obtain ⟨f, next, step⟩ := State.kStep_of_idle queue runs noRing clean idle live
  have written : (s.kStep t0).mem
      = ((s.zeroed t0 c).writeTile t0.core (cmdTile c.word) ((s.zeroed t0 c).stepped t0 c)).mem := by
    rw [step, State.onTeamOnly_mem, State.runStep_of_clean clean, State.writeTile_eq, State.writeTile_eq, State.cmdSeen_mem]
  have wf' := s.zeroed_wf wf t0 c
  refine ⟨s.kStep t0, exec_kStep one, fun a outside => ?_, fun i j hi hj => ?_, ?_, ?_⟩
  · rw [written, onlyBytes_writeTile wf' _ _ _ a outside, State.zeroed_onlyBytes wf t0 c a outside]
  · rw [written, memRead_writeTile wf' _ _ _ hi hj]
  · have kept : (t0.stepped c rest).launch = t0.launch ∧ (t0.stepped c rest).idx = t0.idx := by
      unfold Team.stepped
      split
      · exact ⟨rfl, rfl⟩
      · exact ⟨rfl, rfl⟩
    have one' : OnlyTeam lid idx t0 (s.runStep t0 c) := by rw [OnlyTeam, teams]; exact one
    rw [step, ← next]
    exact onlyTeam_onTeamOnly one' (next ▸ kept.1) (next ▸ kept.2)
  · rw [step]
    exact (frame.trans (OnlyEngine.onTeamOnly ..)).of_full full

end Sys2Proof.Machine
end

section
/-! PROOFS. The ring entries of a matrix engine (R290, R293; log 63). -/
namespace Sys2Proof.Machine
open Sys2Proof.Safety

/-! An entry of half A. -/

/-- What becomes of a team whose oldest command has taken an entry. -/
def Team.took (c : MCmd) (rest : List MCmd) (t : Team) : Team :=
  { t with queue := { c with acquired := c.acquired + 1, waits := none, granted := false } :: rest }

/-- The credit word of an entry is written, which releases at core level. -/
def State.writeCredit (s : State) (t : Team) (c : MCmd) (w : Nat) : State :=
  ((s.homeWriteBy (c.agent t) (some 5) true t.core (padLoc w) (leBytes (c.ticket.toNat + c.acquired * 2 ^ 32) 8)).newFill w).orderAfter
    (c.agent t) (.spot (fillSpot w) 8 1 t.core)

theorem State.copyTile_full (s : State) (t : Team) (c : MCmd) (src dst n : Nat) : (s.copyTile t c src dst n).full = s.full := by
  unfold State.copyTile
  dsimp only
  split
  · rfl
  · rfl

/-- An entry of half A is taken: its tile is copied, and its credit word filled unless it is full. -/
theorem State.takeEntry_eq (s : State) (t : Team) (c : MCmd) (rest : List MCmd) {r : Word × Word} (e : Nat) (a : ringA r = true)
    (b : ringB r = false) (empty : e + 8 ∉ s.full) : s.takeEntry t c rest r e =
      (((s.copyTile t c (e + 64) (slotKey t.core (cmdA c.word c.acquired) 0) (tileBytes c.fmtA)).onTeamOnly t
        (Team.took c rest)).writeCredit t c (e + 8)).fillWord (e + 8) := by
  unfold State.takeEntry
  simp only [a, b, if_true, Bool.false_eq_true, if_false]
  refine if_neg ?_
  simpa [State.isFull, State.onTeamOnly, State.copyTile_full] using empty

/-- That its header has been read is nothing to the copies of an entry. -/
theorem State.takeEntry_granted (s : State) (t : Team) (c : MCmd) (rest : List MCmd) {r : Word × Word} (e : Nat) (a : ringA r = true)
    (b : ringB r = false) (empty : e + 8 ∉ s.full) :
    s.takeEntry t { c with waits := none, granted := true } rest r e = s.takeEntry t c rest r e := by
  rw [s.takeEntry_eq t _ rest e a b empty, s.takeEntry_eq t c rest e a b empty]
  rfl

/-! The engine waits for a header, or takes it. -/

section
variable {s : State} {t : Team} {c : MCmd} {rest : List MCmd} {r : Word × Word} (queue : t.queue = c :: rest)
  (runs : s.matrixRuns t = true) (ring : c.ring = some r) (more : c.acquired < cmdSteps c.word)
include queue runs ring more

/-- An empty header is waited for, as by LDFE. -/
theorem State.acquire_of_empty (due : c.granted = false) (first : c.waits = none)
    (empty : s.regionKey t + ringEntry r c.fmtA c.fmtB c.acquired ∉ s.full) :
    s.acquire t = { s.onTeamOnly t fun t => { t with
      queue := { c with waits := some (ringEntry r c.fmtA c.fmtB c.acquired, s.fresh) } :: rest } with fresh := s.fresh + 1 } := by
  have stays : s.isFull (s.regionOf (some t) + ringEntry r c.fmtA c.fmtB c.acquired) = false := by
    simpa [State.isFull, State.regionOf] using empty
  unfold State.acquire
  rw [queue]
  dsimp only
  rw [ring]
  dsimp only
  rw [if_neg (by simp [runs, more]), if_neg (by simp [due]), if_pos (by simp [stays]), if_neg (by simp [first])]

/-- A full header, or one that has been served, is taken once the slot is free. -/
theorem State.acquire_of_full (a : ringA r = true) (b : ringB r = false)
    (free : ∀ k, k < c.acquired → c.step ≤ k →
      cmdA c.word k ≠ cmdA c.word c.acquired ∧ cmdB c.word k ≠ cmdA c.word c.acquired ∧ cmdA c.word c.acquired ∉ scaleSlots c)
    (full : c.granted = false → s.regionKey t + ringEntry r c.fmtA c.fmtB c.acquired ∈ s.full)
    (credit : s.regionKey t + ringEntry r c.fmtA c.fmtB c.acquired + 8 ∉ s.full) :
    s.acquire t = (if c.granted then s else s.grantHeader t c (s.regionKey t + ringEntry r c.fmtA c.fmtB c.acquired)).takeEntry t c rest r
      (s.regionKey t + ringEntry r c.fmtA c.fmtB c.acquired) := by
  have idle : ((List.range c.acquired).any fun u => c.step ≤ u && ((ringA r && (cmdA c.word u == cmdA c.word c.acquired
      || cmdB c.word u == cmdA c.word c.acquired || (scaleSlots c).contains (cmdA c.word c.acquired)))
      || (ringB r && (cmdA c.word u == cmdB c.word c.acquired || cmdB c.word u == cmdB c.word c.acquired
      || (scaleSlots c).contains (cmdB c.word c.acquired))))) = false := by
    rw [List.any_eq_false]
    intro u hu
    by_cases old : c.step ≤ u
    · obtain ⟨na, nb, ns⟩ := free u (List.mem_range.1 hu) old
      simp [a, b, na, nb, ns]
    · simp [old]
  unfold State.acquire
  rw [queue]
  dsimp only
  rw [ring]
  dsimp only [State.regionOf]
  rw [if_neg (by simp [runs, more]), idle]
  by_cases granted : c.granted = true
  · rw [if_pos granted, if_pos granted]
    rfl
  · have isFull : s.isFull (s.regionKey t + ringEntry r c.fmtA c.fmtB c.acquired) = true := by
      simpa [State.isFull] using full (by simpa using granted)
    simp only [isFull, granted, Bool.not_true, Bool.false_eq_true, if_false]
    rw [← ring]
    exact State.takeEntry_granted _ t c rest _ a b fun h => credit (List.mem_of_mem_filter h)

end

/-! Words filled. -/

/-- A word that nobody waits for is served to nobody. -/
theorem State.serveWord_of_idle {s : State} (idle : NobodyWaits s) (w : Nat) : s.serveWord w = s := by
  obtain ⟨groups, engines⟩ := idle
  have none : s.engineOn w = none := by
    refine List.findSome?_eq_none_iff.2 fun t ht => ?_
    cases queue : t.queue with
    | nil => rfl
    | cons c rest => simp [engines t ht c (by simp [queue])]
  unfold State.serveWord
  simp only [State.waiters_of_idle _ groups, List.flatMap_nil, List.foldl_nil, none]
  split
  · rfl
  · rfl

/-- A word that nobody waits for becomes full. -/
theorem State.fillWord_of_idle {s : State} (idle : NobodyWaits s) {w : Nat} (empty : w ∉ s.full) :
    s.fillWord w = { s with full := w :: s.full } := by
  unfold State.fillWord State.setFull
  rw [if_neg (by simpa using empty)]
  exact State.serveWord_of_idle (s := { s with full := w :: s.full }) idle w

/-! An entry is taken. -/

/-- What a command has read of a tile. -/
def State.tileOf (s : State) (t : Team) (c : MCmd) (src n : Nat) : List Byte := (List.range n).map fun i => s.cmdByte t c (src + i)

/-- A tile without poison is copied: the bytes that the command reads come into the slot. -/
theorem State.copyTile_of_clean {s : State} (t : Team) (c : MCmd) {src n : Nat} (dst : Nat)
    (clean : ∀ k, k < n → s.poisoned (src + k) 1 = false) :
    ∃ olds poison, s.copyTile t c src dst n = { s with mem := memWrite s.mem dst (s.tileOf t c src n), olds := olds, poison := poison } := by
  have bad : ((List.range n).filter fun i => s.poisoned (src + i) 1) = [] :=
    List.filter_eq_nil_iff.2 fun i hi => by simp [clean i (List.mem_range.1 hi)]
  unfold State.copyTile
  dsimp only
  rw [bad]
  exact ⟨_, _, rfl⟩

/-- No engine waits after one has taken an entry. -/
theorem took_waits {s : State} {t : Team} {c : MCmd} {rest : List MCmd} (idle : ∀ x ∈ s.teams, ∀ c ∈ x.queue, c.waits = none)
    (others : ∀ x ∈ rest, x.waits = none) : ∀ x ∈ (s.onTeamOnly t (Team.took c rest)).teams, ∀ c ∈ x.queue, c.waits = none := by
  intro x hx
  obtain ⟨y, hy, rfl⟩ := List.mem_map.1 hx
  split
  · intro d hd
    obtain rfl | hd := List.mem_cons.1 hd
    · rfl
    · exact others d hd
  · exact idle y hy

theorem State.writeCredit_eq (s : State) (t : Team) (c : MCmd) (w : Nat) : s.writeCredit t c w =
    { s with
      mem := memWrite s.mem w (leBytes (c.ticket.toNat + c.acquired * 2 ^ 32) 8)
      olds := (s.writeCredit t c w).olds
      poison := (s.writeCredit t c w).poison } := rfl

/-- The credit word that nobody waits for is written and filled. -/
theorem State.fillCredit_of_idle {s : State} {w : Nat} (idle : NobodyWaits s) (free : w ∉ s.full) (t : Team) (c : MCmd) :
    ∃ olds poison, (s.writeCredit t c w).fillWord w = { s with
      mem := memWrite s.mem w (leBytes (c.ticket.toNat + c.acquired * 2 ^ 32) 8), olds := olds, full := w :: s.full, poison := poison } := by
  rw [s.writeCredit_eq]
  generalize (s.writeCredit t c w).olds = olds
  generalize (s.writeCredit t c w).poison = poison
  generalize memWrite s.mem w _ = mem
  exact ⟨olds, poison, State.fillWord_of_idle (s := { s with mem := mem, olds := olds, poison := poison }) idle free⟩

/-- An entry that nobody waits for is taken: its tile comes into the slot, and its credit word is filled. -/
theorem State.takeEntry_of_idle {s : State} {t : Team} {c : MCmd} {rest : List MCmd} {r : Word × Word} {e : Nat} (a : ringA r = true)
    (b : ringB r = false) (idle : NobodyWaits s) (others : ∀ x ∈ rest, x.waits = none) (free : e + 8 ∉ s.full)
    (clean : ∀ k, k < tileBytes c.fmtA → s.poisoned (e + 64 + k) 1 = false) :
    ∃ olds poison, s.takeEntry t c rest r e = { s.onTeamOnly t (Team.took c rest) with
      mem := memWrite (memWrite s.mem (slotKey t.core (cmdA c.word c.acquired) 0) (s.tileOf t c (e + 64) (tileBytes c.fmtA))) (e + 8)
        (leBytes (c.ticket.toNat + c.acquired * 2 ^ 32) 8)
      olds := olds
      full := (e + 8) :: s.full
      poison := poison } := by
  obtain ⟨olds, poison, copied⟩ := State.copyTile_of_clean t c (slotKey t.core (cmdA c.word c.acquired) 0) clean
  rw [s.takeEntry_eq t c rest e a b free, copied]
  generalize memWrite s.mem _ _ = mem
  exact State.fillCredit_of_idle (s := { s.onTeamOnly t (Team.took c rest) with mem := mem, olds := olds, poison := poison })
    ⟨idle.1, took_waits idle.2 others⟩ free t c

end Sys2Proof.Machine
end

section
/-! PROOFS. What a matrix engine does with its ring entries, all together (R290). -/
namespace Sys2Proof.Machine
open Sys2Proof.Safety

/-- A byte that nobody has written under a race is read as it is stored (R197). -/
theorem State.cmdByte_of_settled {s : State} {k : Nat} (settled : ∀ o ∈ s.olds, o.key ≠ k) (t : Team) (c : MCmd) :
    s.cmdByte t c k = memGet k s.mem := by
  have none : s.olds.filter (fun o => o.key == (padLoc k).key + 0) = [] :=
    List.filter_eq_nil_iff.2 fun o ho => by simpa [padLoc] using settled o ho
  have latest : s.openOlds (c.reader t) (padLoc k) 0 = [] := by
    unfold State.openOlds
    rw [none]
    rfl
  unfold State.cmdByte State.raceByte
  rw [latest]
  simp only [State.raceChoice, latest]
  rfl

/-! The header of an entry. -/

/-- The state once a header has been read: by this step, unless it had been served before. -/
def State.headerRead (s : State) (t : Team) (c : MCmd) (e : Nat) : State := if c.granted then s else s.grantHeader t c e

section
variable (s : State) (t : Team) (c : MCmd) (e : Nat)

theorem State.headerRead_onlyEngine : OnlyEngine s (s.headerRead t c e) := by
  unfold State.headerRead
  split
  · rfl
  · rfl

theorem State.headerRead_mem : (s.headerRead t c e).mem = s.mem := by
  unfold State.headerRead
  split
  · rfl
  · rfl

theorem State.headerRead_poison : (s.headerRead t c e).poison = s.poison := by
  unfold State.headerRead
  split
  · rfl
  · rfl

/-- A header that this step reads becomes empty. -/
theorem State.mem_headerRead_full {x : Nat} : x ∈ (s.headerRead t c e).full ↔ x ∈ s.full ∧ ¬(x = e ∧ c.granted = false) := by
  unfold State.headerRead
  split
  next served => simp [served]
  next now =>
    show x ∈ s.full.filter _ ↔ _
    simp [now]

/-- That a header is read shows its reader earlier writes and adds none. -/
theorem State.headerRead_settled {k : Nat} (settled : ∀ o ∈ s.olds, o.key ≠ k) : ∀ o ∈ (s.headerRead t c e).olds, o.key ≠ k := by
  unfold State.headerRead
  split
  · exact settled
  · intro o ho
    obtain ⟨p, hp, rfl⟩ := List.mem_map.1 ho
    have key : ∀ q : Old, (q.learn (c.agent t)).key = q.key := fun q => by unfold Old.learn; split <;> rfl
    split
    · rw [key]
      exact settled p hp
    · exact settled p hp

theorem State.headerRead_idle {s : State} (idle : NobodyWaits s) : NobodyWaits (s.headerRead t c e) := by
  unfold State.headerRead
  split
  · exact idle
  · refine ⟨idle.1, fun x hx => ?_⟩
    obtain ⟨y, hy, rfl⟩ := List.mem_map.1 hx
    split
    · intro d hd
      obtain rfl | hd := List.mem_cons.1 hd
      · rfl
      · exact idle.2 y hy d (List.mem_of_mem_drop hd)
    · exact idle.2 y hy

end

/-- The team that takes an entry is the one team after it, whoever read the header. -/
theorem onlyTeam_took {s : State} {lid : BitVec 32} {idx : Nat} {t : Team} (one : OnlyTeam lid idx t s) (c : MCmd) (rest : List MCmd) (e : Nat) :
    OnlyTeam lid idx (Team.took c rest t) ((s.headerRead t c e).onTeamOnly t (Team.took c rest)) := by
  unfold State.headerRead
  split
  · exact onlyTeam_onTeamOnly one rfl rfl
  · have header : OnlyTeam lid idx _ (s.grantHeader t c e) :=
      onlyTeam_onTeamOnly (f := fun t => { t with queue := { c with waits := none, granted := true } :: t.queue.drop 1 }) one rfl rfl
    have took := onlyTeam_onTeamOnly header (f := Team.took c rest) rfl rfl
    exact took

/-! The event. -/

section
variable {s : State} {lid : BitVec 32} {idx : Nat} {t0 : Team} {c : MCmd} {rest : List MCmd} {r : Word × Word}
  (one : OnlyTeam lid idx t0 s) (queue : t0.queue = c :: rest) (runs : s.matrixRuns t0 = true) (ring : c.ring = some r)
  (more : c.acquired < cmdSteps c.word) (idle : NobodyWaits s)
include one queue runs ring more idle

/-- The engine waits among the LDFE waiters of a header that is empty. -/
theorem ringEntryAcquire_waits (due : c.granted = false) (empty : s.regionKey t0 + ringEntry r c.fmtA c.fmtB c.acquired ∉ s.full) :
    Completes (.ringEntryAcquire lid idx) s fun t => t = { s with teams := t.teams, fresh := s.fresh + 1 }
      ∧ OnlyTeam lid idx { t0 with queue := { c with waits := some (ringEntry r c.fmtA c.fmtB c.acquired, s.fresh) } :: rest } t := by
  have first : c.waits = none := idle.2 t0 (onlyTeam_here one).1 c (by simp [queue])
  refine ⟨_, (exec_ringEntryAcquire one).trans (congrArg _ (State.acquire_of_empty queue runs ring more due first empty)), rfl, ?_⟩
  exact onlyTeam_onTeamOnly (f := fun t => { t with
    queue := { c with waits := some (ringEntry r c.fmtA c.fmtB c.acquired, s.fresh) } :: rest }) one rfl rfl

/-- The engine takes an entry of half A: its header is empty, its tile in the slot and its credit word full. -/
theorem ringEntryAcquire_takes (wf : Memory.wf s.mem = true) (a : ringA r = true) (b : ringB r = false)
    (free : ∀ k, k < c.acquired → c.step ≤ k →
      cmdA c.word k ≠ cmdA c.word c.acquired ∧ cmdB c.word k ≠ cmdA c.word c.acquired ∧ cmdA c.word c.acquired ∉ scaleSlots c)
    {e slot : Nat} (entry : s.regionKey t0 + ringEntry r c.fmtA c.fmtB c.acquired = e)
    (place : slotKey t0.core (cmdA c.word c.acquired) 0 = slot) (full : c.granted = false → e ∈ s.full) (credit : e + 8 ∉ s.full)
    (apart : e + 64 + tileBytes c.fmtA ≤ slot) (clean : ∀ k, k < tileBytes c.fmtA → s.poisoned (e + 64 + k) 1 = false) :
    Completes (.ringEntryAcquire lid idx) s fun t => e + 8 ∈ t.full
      ∧ (∀ x, x ≠ e + 8 → (x ∈ t.full ↔ x ∈ s.full ∧ ¬(x = e ∧ c.granted = false)))
      ∧ memRead t.mem (e + 8) 8 = (c.ticket.toNat + c.acquired * 2 ^ 32) % 2 ^ 64
      ∧ (∀ k, k < tileBytes c.fmtA → memGet (slot + k) t.mem = (s.headerRead t0 c e).cmdByte t0 c (e + 64 + k)
        ∧ ((∀ o ∈ s.olds, o.key ≠ e + 64 + k) → memGet (slot + k) t.mem = memGet (e + 64 + k) s.mem))
      ∧ OnlyTeam lid idx (Team.took c rest t0) t
      ∧ t = { s with mem := t.mem, olds := t.olds, full := t.full, poison := t.poison, teams := t.teams } := by
  have others : ∀ x ∈ rest, x.waits = none := fun x hx => idle.2 t0 (onlyTeam_here one).1 x (by simp [queue, hx])
  have sound : ∀ k, k < tileBytes c.fmtA → (s.headerRead t0 c e).poisoned (e + 64 + k) 1 = false := fun k hk => by
    rw [State.poisoned, s.headerRead_poison]
    exact clean k hk
  obtain ⟨olds, poison, took⟩ := State.takeEntry_of_idle (t := t0) (c := c) (e := e) a b (State.headerRead_idle t0 c e idle) others
    (fun h => credit ((s.mem_headerRead_full t0 c e).1 h).1) sound
  have acquired : s.acquire t0 = (s.headerRead t0 c e).takeEntry t0 c rest r e := by
    subst entry
    exact State.acquire_of_full queue runs ring more a b free full credit
  rw [place, s.headerRead_mem] at took
  have tile : Memory.wf (memWrite s.mem slot ((s.headerRead t0 c e).tileOf t0 c (e + 64) (tileBytes c.fmtA))) = true := memWrite_wf wf
  have length : ((s.headerRead t0 c e).tileOf t0 c (e + 64) (tileBytes c.fmtA)).length = tileBytes c.fmtA := by simp [State.tileOf]
  have copied : ∀ k, k < tileBytes c.fmtA → memGet (slot + k) (s.acquire t0).mem = (s.headerRead t0 c e).cmdByte t0 c (e + 64 + k) := by
    intro k hk
    rw [acquired, took]
    dsimp only
    rw [memGet_memWrite tile, if_neg (by rw [leBytes_length]; omega), memGet_memWrite wf, length, if_pos (by omega),
      show slot + k - slot = k by omega]
    simp [State.tileOf, hk]
  refine ⟨s.acquire t0, exec_ringEntryAcquire one, ?_, ?_, ?_, fun k hk => ⟨copied k hk, fun settled => ?_⟩, ?_, ?_⟩
  · rw [acquired, took]
    exact List.mem_cons_self
  · intro x hx
    rw [acquired, took, List.mem_cons, or_iff_right hx]
    exact s.mem_headerRead_full t0 c e
  · rw [acquired, took]
    refine memRead_of_bytes 8 fun k hk => ?_
    rw [memGet_memWrite tile, leBytes_length, if_pos (by omega), show e + 8 + k - (e + 8) = k by omega]
    simp [leBytes, hk]
  · rw [copied k hk, State.cmdByte_of_settled (s.headerRead_settled t0 c e settled), s.headerRead_mem]
  · rw [acquired, took]
    exact onlyTeam_took one c rest e
  · rw [acquired, took]
    exact (s.headerRead_onlyEngine t0 c e).trans rfl

end

end Sys2Proof.Machine
end

section
/-! PROOFS. The engines of tensors and matrices together. -/
namespace Sys2Proof.Machine
open Sys2Proof.Safety

/-- Settles O51: the three steps of a conversion, the K-step, and the engine at an empty and at a full header. -/
theorem engineSteps : Obligations.EngineSteps := by
  unfold Obligations.EngineSteps
  constructor
  · intro s u v w c bs n m b p view at_ d slots known runs
    refine ⟨?begins, fun running slab => ⟨?copies, ?again, ?commits⟩, ?completes⟩
    case begins =>
      intro fresh room first attach new low newLow read valid put cleared
      exact dredgerBegin_begins known runs fresh room first attach new low newLow read valid put cleared
    case copies => exact fun todo copy => slabCommit_copies known runs running slab todo copy
    case again => exact fun copied dirty => slabCommit_again known runs running slab copied dirty
    case commits => exact fun copied clean read put => slabCommit_commits known runs running slab copied clean read put
    case completes => exact fun running last waits same idle put => dredgerComplete_posts known runs running last waits same idle put
  · intro lid idx s t0 c rest r tile word zero z n e slot bytes one queue runs wf
    refine ⟨?kStep, ?waits, ?takes⟩
    case kStep => exact fun noRing clean idle live => kStep_writes one queue runs wf noRing clean idle.1 live
    case waits => exact fun ring more due empty idle => ringEntryAcquire_waits one queue runs ring more idle due empty
    case takes =>
      intro ring a b more free full credit idle apart clean
      exact ringEntryAcquire_takes one queue runs ring more idle wf a b free rfl rfl full credit apart clean

end Sys2Proof.Machine
end

section
/-! PROOFS. The element-wise loop (R63), and integer arithmetic per sub-element (R66–R69). -/
namespace Sys2Proof.Machine
open Sys2Proof.Safety

/-! The loop. -/

theorem widthBits_pos (w : Width) : 0 < widthBits w := by
  cases w <;> decide

/-- The loop of R63 retires with the results of `f`, of which a sub-element keeps the low bits. -/
theorem elementResult_of_int3 {i : Instr} {w : Width} {d a b : LReg} {gd : Guard} {s : State} {f : Nat → Nat → Nat → Nat → Nat}
    {r : Nat → Nat → Nat → Nat} (runs : exec i s = s.done (s.g.int3 w d a b gd f))
    (result : ∀ x y c, x < 2 ^ widthBits w → y < 2 ^ widthBits w → c < 2 ^ widthBits w → f (widthBits w) x y c % 2 ^ widthBits w = r x y c) :
    ElementResult i w d a b gd r s := by
  obtain ⟨t, run, retires, lanes, frame⟩ := laneResult_of_writeL runs
  refine ⟨t, run, retires, fun l k hl hk => ?_, frame⟩
  rw [lanes l hl, elem_mapElems _ _ _ _ hk]
  exact result _ _ _ (elem_lt ..) (elem_lt ..) (elem_lt ..)

/-- The same for one source, and a result that fits the sub-element and that a relation fixes. -/
theorem elementRelation_of_int1 {i : Instr} {w : Width} {d a : LReg} {gd : Guard} {s : State} {f : Nat → Nat → Nat} {R : Nat → Nat → Prop}
    (runs : exec i s = s.done (s.g.int1 w d a gd f)) (fits : ∀ x, x < 2 ^ widthBits w → f (widthBits w) x < 2 ^ widthBits w)
    (related : ∀ x, x < 2 ^ widthBits w → R x (f (widthBits w) x)) : ElementRelation i w d a gd R s := by
  obtain ⟨t, run, retires, values, frame⟩ := elementResult_of_int3 (r := fun x _ _ => f (widthBits w) x) runs
    fun x _ _ hx _ _ => Nat.mod_eq_of_lt (fits x hx)
  refine ⟨t, run, retires, fun l k hl hk => ?_, frame⟩
  rw [values l k hl hk]
  exact related _ (elem_lt ..)

/-! Integers as numbers of `n` bits. -/

theorem ofInt_eq_modulo (n : Nat) (x : Int) : ofInt n x = modulo n x := by
  simp [ofInt, modulo]

theorem modulo_cast (n : Nat) (x : Int) : (modulo n x : Int) = x % 2 ^ n :=
  Int.toNat_of_nonneg (Int.emod_nonneg x (by positivity))

theorem modulo_lt (n : Nat) (x : Int) : modulo n x < 2 ^ n := by
  have := Int.emod_lt_of_pos x (show (0 : Int) < 2 ^ n by positivity)
  rw [← modulo_cast] at this
  exact_mod_cast this

@[simp] theorem modulo_mod (n : Nat) (x : Int) : modulo n x % 2 ^ n = modulo n x := Nat.mod_eq_of_lt (modulo_lt n x)

@[simp] theorem ofInt_mod (n : Nat) (x : Int) : ofInt n x % 2 ^ n = modulo n x := by
  rw [ofInt_eq_modulo, modulo_mod]

theorem modulo_natCast (n x : Nat) : modulo n x = x % 2 ^ n := by
  have := modulo_cast n x
  exact_mod_cast this

/-- The reduction can wait until after an addition. -/
theorem modulo_add_mod (n : Nat) (x : Int) (k : Nat) : (modulo n x + k) % 2 ^ n = modulo n (x + k) := by
  rw [← modulo_natCast, Nat.cast_add, modulo_cast]
  simp [modulo]

/-- The signed value is the unsigned one, less `2 ^ n` where the sign bit is set. -/
theorem signed_split {n : Nat} (hn : 0 < n) (x : Nat) :
    ∃ p : Nat, signed n x = x - p * 2 ^ n ∧ ∀ y, (if 2 ^ (n - 1) ≤ x then y else 0) = p * y := by
  have twice : 2 ^ n = 2 * 2 ^ (n - 1) := by rw [← pow_succ', Nat.sub_add_cancel hn]
  by_cases set : 2 ^ (n - 1) ≤ x
  · exact ⟨1, by rw [signed, if_neg (by omega)]; simp, fun y => by simp [set]⟩
  · exact ⟨0, by rw [signed, if_pos (by omega)]; simp, fun y => by simp [set]⟩

theorem modulo_signed {n x : Nat} (hx : x < 2 ^ n) : modulo n (signed n x) = x := by
  have same : modulo n (signed n x) = modulo n x := by
    unfold signed modulo
    split
    · rfl
    · rw [Int.sub_emod_right]
  rw [same, modulo_natCast, Nat.mod_eq_of_lt hx]

theorem signed_inj {n x y : Nat} (hx : x < 2 ^ n) (hy : y < 2 ^ n) (h : signed n x = signed n y) : x = y := by
  rw [← modulo_signed hx, h, modulo_signed hy]

/-! Results. -/

theorem wrapSub_eq {n y : Nat} (x : Nat) (hy : y < 2 ^ n) : wrapSub n x y = modulo n (x - y) := by
  have cast : ((x + 2 ^ n - y : Nat) : Int) = x - y + 2 ^ n := by
    rw [Nat.cast_sub (by omega)]
    push_cast
    ring
  rw [wrapSub, ← modulo_natCast, cast]
  simp [modulo]

theorem wrapAdd_ofInt (n x : Nat) (z : Int) : wrapAdd n x (ofInt n z) = modulo n (x + z) := by
  rw [wrapAdd, Nat.add_comm, ofInt_eq_modulo, modulo_add_mod, add_comm]

theorem satS_mod (n : Nat) (x : Int) : satS n x % 2 ^ n = modulo n (clamp (-(2 ^ (n - 1))) (2 ^ (n - 1) - 1) x) := by
  simp [satS, clampInt, intRange, clamp]

theorem satU_mod (n : Nat) (x : Int) : satU n x % 2 ^ n = modulo n (clamp 0 (2 ^ n - 1) x) := by
  simp [satU, clampInt, intRange, clamp]

theorem minU_eq (n x y : Nat) : minU n x y = min x y := by
  rw [minU]
  split <;> omega

theorem maxU_eq (n x y : Nat) : maxU n x y = max x y := by
  rw [maxU]
  split <;> omega

section
variable {n x y : Nat} (hn : 0 < n) (hx : x < 2 ^ n) (hy : y < 2 ^ n)

include hn in
theorem minS_eq : minS n x y = if signed n x ≤ signed n y then x else y := by
  simp only [minS, sval_eq_signed hn, ← not_le, ite_not]

include hn hx hy in
/-- Of two equal operands either is the maximum. -/
theorem maxS_eq : maxS n x y = if signed n x ≤ signed n y then y else x := by
  rw [maxS, sval_eq_signed hn, sval_eq_signed hn]
  obtain below | same | above := lt_trichotomy (signed n x) (signed n y)
  · rw [if_pos below, if_pos below.le]
  · rw [signed_inj hx hy same, ite_self, ite_self]
  · rw [if_neg above.not_gt, if_neg above.not_ge]

include hn hx in
theorem absW_eq : absW n x = modulo n (if 0 ≤ signed n x then signed n x else -signed n x) := by
  rw [absW, negW, sval_eq_signed hn]
  split
  · exact (modulo_signed hx).symm
  · exact ofInt_eq_modulo n _

include hn in
theorem negW_eq : negW n x = modulo n (-signed n x) := by
  rw [negW, ofInt_eq_modulo, sval_eq_signed hn]

include hn in
theorem mulHi_eq : mulHi n x y = modulo n (signed n x * signed n y / 2 ^ n) := by
  simp [mulHi, ofInt_eq_modulo, sval_eq_signed hn]

include hn hx hy in
/-- The identity of R69: the unsigned high half of a product from the signed one. -/
theorem mul_div_eq_signedHigh : x * y / 2 ^ n
    = (modulo n (signed n x * signed n y / 2 ^ n) + (if 2 ^ (n - 1) ≤ x then y else 0) + if 2 ^ (n - 1) ≤ y then x else 0) % 2 ^ n := by
  obtain ⟨p, signedX, signX⟩ := signed_split hn x
  obtain ⟨q, signedY, signY⟩ := signed_split hn y
  have high : signed n x * signed n y / 2 ^ n = (x * y : Nat) / 2 ^ n + (p * q * 2 ^ n - p * y - q * x) := by
    rw [← Int.add_mul_ediv_right _ _ (show (2 ^ n : Int) ≠ 0 by positivity), signedX, signedY]
    congr 1
    push_cast
    ring
  have small : x * y / 2 ^ n < 2 ^ n := Nat.div_lt_of_lt_mul (Nat.mul_lt_mul'' hx hy)
  calc x * y / 2 ^ n = modulo n ((x * y / 2 ^ n : Nat) + p * q * 2 ^ n) := by
        rw [modulo, Int.add_mul_emod_self_right, ← modulo.eq_def, modulo_natCast, Nat.mod_eq_of_lt small]
    _ = modulo n (signed n x * signed n y / 2 ^ n + (p * y + q * x : Nat)) := by
        rw [high]
        congr 1
        push_cast
        ring
    _ = _ := by rw [signX, signY, Nat.add_assoc, modulo_add_mod]

end

/-- Settles O4: the loop of R63 with the function of each instruction, and that function in terms of integers. -/
theorem integerArithmetic : Obligations.IntegerArithmetic := by
  refine ⟨?wrapping, ?saturating, ?comparing, ?products, ?unsignedHigh⟩
  case wrapping =>
    intro w d a b imm g s
    refine ⟨?add, ?sub, ?immediate⟩
    case add => exact elementResult_of_int3 rfl fun x y _ _ _ _ => Nat.mod_mod _ _
    case sub => exact elementResult_of_int3 rfl fun x y _ _ hy _ => by rw [wrapSub_eq x hy, modulo_mod]
    case immediate => exact elementResult_of_int3 rfl fun x _ _ _ _ _ => by rw [wrapAdd_ofInt, modulo_mod]; rfl
  case saturating =>
    intro w d a b g s n lo hi top
    have signedOf := sval_eq_signed (widthBits_pos w)
    refine ⟨?add, ?sub, ?unsignedAdd, ?unsignedSub⟩
    case add => exact elementResult_of_int3 rfl fun x y _ _ _ _ => (satS_mod _ _).trans (by rw [signedOf, signedOf])
    case sub => exact elementResult_of_int3 rfl fun x y _ _ _ _ => (satS_mod _ _).trans (by rw [signedOf, signedOf])
    case unsignedAdd => exact elementResult_of_int3 rfl fun x y _ _ _ _ => satU_mod _ _
    case unsignedSub => exact elementResult_of_int3 rfl fun x y _ _ _ _ => satU_mod _ _
  case comparing =>
    intro w d a b g s n
    have hn : 0 < n := widthBits_pos w
    refine ⟨?min, ?max, ?umin, ?umax, ?abs, ?neg⟩
    case min => exact elementResult_of_int3 rfl fun x y _ hx hy _ => by rw [minS_eq hn, Nat.mod_eq_of_lt (by split <;> assumption)]
    case max => exact elementResult_of_int3 rfl fun x y _ hx hy _ => by rw [maxS_eq hn hx hy, Nat.mod_eq_of_lt (by split <;> assumption)]
    case umin => exact elementResult_of_int3 rfl fun x y _ hx _ _ => by rw [minU_eq, Nat.mod_eq_of_lt (min_lt_of_left_lt hx)]
    case umax => exact elementResult_of_int3 rfl fun x y _ hx hy _ => by rw [maxU_eq, Nat.mod_eq_of_lt (max_lt hx hy)]
    case abs => exact elementResult_of_int3 rfl fun x _ _ hx _ _ => by rw [absW_eq hn hx, modulo_mod]
    case neg => exact elementResult_of_int3 rfl fun x _ _ _ _ _ => by rw [negW_eq hn, modulo_mod]
  case products =>
    intro w d a b g s n
    refine ⟨?low, ?high, ?mulAdd, ?mulSub⟩
    case low => exact elementResult_of_int3 rfl fun x y _ _ _ _ => Nat.mod_mod _ _
    case high => exact elementResult_of_int3 rfl fun x y _ _ _ _ => by rw [mulHi_eq (widthBits_pos w), modulo_mod]
    case mulAdd => exact elementResult_of_int3 rfl fun x y c _ _ _ => Nat.mod_mod _ _
    case mulSub => exact elementResult_of_int3 rfl fun x y c _ _ _ => ofInt_mod _ _
  case unsignedHigh => exact fun w x y hx hy => mul_div_eq_signedHigh (widthBits_pos w) hx hy

end Sys2Proof.Machine
end

section
/-! PROOFS. Shifts, bit counts and bit fields of sub-elements (R70–R74). -/
namespace Sys2Proof.Machine
open Sys2Proof.Safety

/-! Widths. -/

theorem two_pow_logW (w : Width) : 2 ^ logW (widthBits w) = widthBits w := by
  cases w <;> rfl

theorem widthBits_dvd_two_pow (w : Width) : widthBits w ∣ 2 ^ widthBits w := by
  cases w <;> decide

/-- The immediate of LI, reduced to its element, is the same shift amount (R72). -/
theorem ofInt_mod_of_dvd {n : Nat} (dvd : n ∣ 2 ^ n) (z : Int) : ofInt n z % n = (z % n).toNat := by
  have reduced : ((ofInt n z % n : Nat) : Int) = z % n := by
    rw [ofInt_eq_modulo, Int.natCast_mod, modulo_cast]
    exact Int.emod_emod_of_dvd z (by exact_mod_cast dvd)
  rw [← reduced, Int.toNat_natCast]

theorem testBit_beyond {x n j : Nat} (hx : x < 2 ^ n) (hj : n ≤ j) : x.testBit j = false :=
  Nat.testBit_lt_two_pow (hx.trans_le (Nat.pow_le_pow_right (by decide) hj))

/-! Shifts. -/

theorem shrW_lt {n x : Nat} (hx : x < 2 ^ n) (y : Nat) : shrW n x y < 2 ^ n := (Nat.div_le_self ..).trans_lt hx

theorem sarW_mod {n : Nat} (hn : 0 < n) (x y : Nat) : sarW n x y % 2 ^ n = modulo n (signed n x / 2 ^ (y % n)) := by
  simp [sarW, sval_eq_signed hn]

theorem rolW_mod (n x y : Nat) : rolW n x y % 2 ^ n = (x * 2 ^ (y % n) ||| x / 2 ^ (n - y % n)) % 2 ^ n := by
  rw [rolW, Nat.or_mod_two_pow, Nat.mod_mod, ← Nat.or_mod_two_pow]

/-! Counts. -/

theorem popcount_eq (x n : Nat) : popcount x n = ((List.range n).filter fun j => x.testBit j).length := by
  induction n with
  | zero => rfl
  | succ n ih =>
    rw [popcount, ih, List.range_succ, List.filter_append, List.length_append]
    cases h : x.testBit n <;> simp [h]

theorem popcount_le (x n : Nat) : popcount x n ≤ n := by
  rw [popcount_eq]
  exact (List.length_filter_le ..).trans_eq List.length_range

/-- `r` counts the 0 bits of the `n`-bit number `x` above its highest 1 bit. -/
structure LeadingZeros (n x r : Nat) : Prop where
  le : r ≤ n
  lt : x < 2 ^ (n - r)
  one : r < n → x.testBit (n - 1 - r) = true

theorem clzW_leadingZeros {x n : Nat} (hx : x < 2 ^ n) : LeadingZeros n x (clzW x n) := by
  induction n with
  | zero => exact ⟨le_rfl, hx, nofun⟩
  | succ n ih =>
    rw [clzW]
    split
    next top => exact ⟨by omega, hx, fun _ => top⟩
    next top =>
      have below : x < 2 ^ n := by
        refine Nat.lt_pow_two_of_testBit x fun i hi => ?_
        obtain rfl | above := hi.eq_or_lt
        · simpa using top
        · exact testBit_beyond hx above
      obtain ⟨le, lt, one⟩ := ih below
      refine ⟨by omega, by rwa [Nat.add_sub_add_right], fun h => ?_⟩
      rw [show n + 1 - 1 - (clzW x n + 1) = n - 1 - clzW x n by omega]
      exact one (by omega)

/-! Reversal. -/

theorem brevW_lt (x n : Nat) : brevW x n < 2 ^ n := by
  induction n generalizing x with
  | zero => exact Nat.one_pos
  | succ n ih =>
    have half := ih (x % 2 ^ n)
    have twice : 2 ^ (n + 1) = 2 * 2 ^ n := pow_succ' ..
    rw [brevW, Nat.mod_eq_of_lt (by omega)]
    split <;> omega

theorem brevW_succ (x n : Nat) : brevW x (n + 1) = Nat.bit (x.testBit n) (brevW (x % 2 ^ n) n) := by
  have half := brevW_lt (x % 2 ^ n) n
  have twice : 2 ^ (n + 1) = 2 * 2 ^ n := pow_succ' ..
  rw [brevW, Nat.mod_eq_of_lt (by omega), Nat.bit_val]
  cases x.testBit n <;> rfl

theorem testBit_brevW (x : Nat) {n j : Nat} (hj : j < n) : (brevW x n).testBit j = x.testBit (n - 1 - j) := by
  induction n generalizing x j with
  | zero => omega
  | succ n ih =>
    rw [brevW_succ]
    cases j with
    | zero => exact Nat.testBit_bit_zero ..
    | succ j =>
      rw [Nat.testBit_bit_succ, ih _ (by omega), Nat.testBit_mod_two_pow, decide_eq_true (by omega), Bool.true_and]
      congr 1
      omega

/-- The trailing zeros are the leading zeros of the reversed number. -/
theorem ctzW_spec (x n : Nat) : ctzW n x ≤ n ∧ x % 2 ^ ctzW n x = 0 ∧ (ctzW n x < n → x.testBit (ctzW n x) = true) := by
  obtain ⟨le, lt, one⟩ := clzW_leadingZeros (brevW_lt x n)
  rw [← ctzW] at le lt one
  refine ⟨le, Nat.eq_of_testBit_eq fun j => ?_, fun h => ?_⟩
  · rw [Nat.testBit_mod_two_pow, Nat.zero_testBit, Bool.and_eq_false_imp]
    intro low
    have low := of_decide_eq_true low
    have reversed := testBit_brevW x (n := n) (j := n - 1 - j) (by omega)
    rw [show n - 1 - (n - 1 - j) = j by omega] at reversed
    rw [← reversed]
    exact testBit_beyond lt (by omega)
  · have found := one h
    rwa [testBit_brevW x (by omega), show n - 1 - (n - 1 - ctzW n x) = ctzW n x by omega] at found

/-! Fields. -/

theorem bfxsW_mod (n x y : Nat) : bfxsW n x y % 2 ^ n
    = if (fieldOf n y).2 = 0 then 0 else modulo n (signed (fieldOf n y).2 (bfxW n x y)) := by
  rw [bfxsW]
  by_cases empty : (fieldOf n y).2 = 0
  · simp [empty]
  · simp [empty, sval_eq_signed (Nat.pos_of_ne_zero empty)]

theorem bfxW_lt {n x : Nat} (hx : x < 2 ^ n) (y : Nat) : bfxW n x y < 2 ^ n :=
  ((Nat.mod_le ..).trans (Nat.div_le_self ..)).trans_lt hx

/-- A field of `n` bits ends within them, where the position does (R74). -/
theorem fieldOf_le {n y : Nat} (h : (fieldOf n y).1 ≤ n) : (fieldOf n y).1 + (fieldOf n y).2 ≤ n := by
  have clipped : (fieldOf n y).2 ≤ n - (fieldOf n y).1 := min_le_right ..
  omega

theorem fieldOf_position_lt (w : Width) (y : Nat) : (fieldOf (widthBits w) y).1 < widthBits w := by
  have low : y % 2 ^ logW (widthBits w) < 2 ^ logW (widthBits w) := Nat.mod_lt _ (by positivity)
  exact low.trans_eq (two_pow_logW w)

/-! A field that takes `m` bits at position `p` (R74). -/

/-- The 1 bits of a field. -/
def fieldMask (p m : Nat) : Nat := (2 ^ m - 1) * 2 ^ p

theorem testBit_fieldMask (p m j : Nat) : (fieldMask p m).testBit j = decide (p ≤ j ∧ j < p + m) := by
  rw [fieldMask, Nat.testBit_mul_two_pow, Nat.testBit_two_pow_sub_one]
  grind

theorem fieldMask_lt {p m n : Nat} (h : p + m ≤ n) : fieldMask p m < 2 ^ n := by
  refine Nat.lt_pow_two_of_testBit _ fun j hj => ?_
  rw [testBit_fieldMask]
  exact decide_eq_false (by omega)

/-- The low `m` bits of `a` in place of the field of `c`. -/
def insertField (a c p m : Nat) : Nat := c % 2 ^ p + a % 2 ^ m * 2 ^ p + c / 2 ^ (p + m) * 2 ^ (p + m)

theorem bfiW_eq (n x y c : Nat) : bfiW n x y c = insertField x c (fieldOf n y).1 (fieldOf n y).2 := rfl

theorem testBit_insertField (a c p m j : Nat) :
    (insertField a c p m).testBit j = if p ≤ j ∧ j < p + m then a.testBit (j - p) else c.testBit j := by
  have parts : insertField a c p m = 2 ^ p * (2 ^ m * (c / 2 ^ (p + m)) + a % 2 ^ m) + c % 2 ^ p := by rw [insertField, pow_add]; ring
  have low (k i : Nat) : i % 2 ^ k < 2 ^ k := Nat.mod_lt _ (by positivity)
  rw [parts, Nat.testBit_two_pow_mul_add _ (low _ _), Nat.testBit_two_pow_mul_add _ (low _ _), Nat.testBit_div_two_pow,
    Nat.testBit_mod_two_pow, Nat.testBit_mod_two_pow]
  obtain low | low := lt_or_ge j p
  · have outside : ¬(p ≤ j ∧ j < p + m) := by omega
    simp [low, outside]
  · obtain inside | high := lt_or_ge j (p + m)
    · have width : j - p < m := by omega
      simp [low.not_gt, low, inside, width]
    · have beyond : ¬j - p < m := by omega
      have index : j - p - m + (p + m) = j := by omega
      simp [low.not_gt, high.not_gt, beyond, index]

theorem insertField_lt {a c p m n : Nat} (hc : c < 2 ^ n) (h : p + m ≤ n) : insertField a c p m < 2 ^ n := by
  refine Nat.lt_pow_two_of_testBit _ fun j hj => ?_
  rw [testBit_insertField, if_neg (by omega)]
  exact testBit_beyond hc hj

theorem insertField_eq {a c p m n : Nat} (hc : c < 2 ^ n) (h : p + m ≤ n) :
    insertField a c p m = (c &&& (2 ^ n - 1 - fieldMask p m)) ||| (a * 2 ^ p &&& fieldMask p m) := by
  refine Nat.eq_of_testBit_eq fun j => ?_
  have high : n ≤ j → c.testBit j = false := testBit_beyond hc
  rw [Nat.sub_sub, Nat.add_comm 1, Nat.testBit_or, Nat.testBit_and, Nat.testBit_and, Nat.testBit_two_pow_sub_succ (fieldMask_lt h),
    Nat.testBit_mul_two_pow, testBit_insertField, testBit_fieldMask]
  grind

/-- Settles O5: the logic on whole lanes, and the loop of R63 with what each function of R71–R74 computes. -/
theorem logicShiftBits : Obligations.LogicShiftBits := by
  refine ⟨?logic, ?shifts, ?counts, ?fields⟩
  case logic =>
    intro w d a b g s x y
    refine ⟨?land, ?andn, ?or, ?orn, ?xor, ?xnor⟩
    all_goals exact laneResult_of_writeL rfl
  case shifts =>
    intro w d a b imm g s n k
    have hn : 0 < n := widthBits_pos w
    have amount : ofInt n (sext imm) % n = k := ofInt_mod_of_dvd (widthBits_dvd_two_pow w) imm.toInt
    refine ⟨?shl, ?shr, ?sar, ?rol, ?shli, ?shri, ?sari⟩
    case shl => exact elementResult_of_int3 rfl fun x y _ _ _ _ => Nat.mod_mod _ _
    case shr => exact elementResult_of_int3 rfl fun x y _ hx _ _ => Nat.mod_eq_of_lt (shrW_lt hx y)
    case sar => exact elementResult_of_int3 rfl fun x y _ _ _ _ => sarW_mod hn x y
    case rol => exact elementResult_of_int3 rfl fun x y _ _ _ _ => rolW_mod n x y
    case shli => exact elementResult_of_int3 rfl fun x _ _ _ _ _ => by rw [← amount]; exact Nat.mod_mod _ _
    case shri => exact elementResult_of_int3 rfl fun x _ _ hx _ _ => by rw [← amount]; exact Nat.mod_eq_of_lt (shrW_lt hx _)
    case sari => exact elementResult_of_int3 rfl fun x _ _ _ _ _ => by rw [← amount]; exact sarW_mod hn x _
  case counts =>
    intro w d a g s n
    refine ⟨?popc, ?clz, ?ctz, ?brev⟩
    case popc => exact elementRelation_of_int1 rfl (fun x _ => (popcount_le x n).trans_lt Nat.lt_two_pow_self) fun x _ => popcount_eq x n
    case clz =>
      refine elementRelation_of_int1 rfl (fun x hx => (clzW_leadingZeros hx).le.trans_lt Nat.lt_two_pow_self) fun x hx => ?_
      obtain ⟨le, lt, one⟩ := clzW_leadingZeros hx
      exact ⟨le, lt, one⟩
    case ctz => exact elementRelation_of_int1 rfl (fun x _ => (ctzW_spec x n).1.trans_lt Nat.lt_two_pow_self) fun x _ => ctzW_spec x n
    case brev => exact elementRelation_of_int1 rfl (fun x _ => brevW_lt x n) fun x _ j hj => testBit_brevW x hj
  case fields =>
    intro w d a b g s n k pos len mask
    have log : k = logW n := by cases w <;> rfl
    have field (y : Nat) : fieldOf n y = (pos y, len y) := by simp only [fieldOf, pos, len, log]
    have inside (y : Nat) : pos y + len y ≤ n := by
      have start := (fieldOf_position_lt w y).le
      have stop := fieldOf_le start
      rwa [field] at stop
    refine ⟨?bfx, ?bfxs, ?bfi⟩
    case bfx =>
      refine elementResult_of_int3 rfl fun x y _ hx _ _ => (Nat.mod_eq_of_lt (bfxW_lt hx y)).trans ?_
      rw [bfxW, field]
    case bfxs =>
      refine elementResult_of_int3 rfl fun x y _ _ _ _ => (bfxsW_mod n x y).trans ?_
      rw [bfxW, field]
    case bfi =>
      refine elementResult_of_int3 rfl fun x y c _ _ hc => ?_
      rw [bfiW_eq, field, Nat.mod_eq_of_lt (insertField_lt hc (inside y)), insertField_eq hc (inside y)]
      rfl

end Sys2Proof.Machine
end

section
/-! PROOFS. Moves and selection (R75–R77). -/
namespace Sys2Proof.Machine
open Sys2Proof.Safety

/-- A quarter of a register that takes imm16 (R28). -/
theorem immInto_quarter (k : BitVec 2) (imm : BitVec 16) (x : Word) : immInto (.quarter k) imm x = bitsOfFn (fun j =>
    if 16 * k.toNat ≤ j ∧ j < 16 * k.toNat + 16 then imm.getLsbD (j - 16 * k.toNat) else x.getLsbD j) 64 := by
  refine BitVec.eq_of_getLsbD_eq fun j hj => ?_
  have ones : (0xFFFF#64).getLsbD (j - 16 * k.toNat) = decide (j - 16 * k.toNat < 16) := by
    rw [show 0xFFFF#64 = BitVec.ofNat 64 (2 ^ 16 - 1) from rfl, BitVec.getLsbD_ofNat, Nat.testBit_two_pow_sub_one]
    grind
  have beyond := imm.getLsbD_of_ge (j - 16 * k.toNat)
  rw [immInto, bitsOfFn_getLsbD, BitVec.getLsbD_or, BitVec.getLsbD_and, BitVec.getLsbD_not, BitVec.getLsbD_shiftLeft, ones,
    BitVec.getLsbD_shiftLeft, BitVec.getLsbD_setWidth]
  grind

/-- Settles O6: each instruction writes its lanes. -/
theorem moveSelect : Obligations.MoveSelect := by
  refine ⟨?moves, ?select⟩
  case moves =>
    intro d a sa g k imm s
    refine ⟨?mov, ?movs, ?quarter, ?sext, ?zext⟩
    case mov => exact laneResult_of_writeL rfl
    case movs => exact laneResult_of_writeL rfl
    case quarter =>
      simp only [← immInto_quarter]
      exact laneResult_of_writeL rfl
    case sext => exact laneResult_of_writeL rfl
    case zext =>
      rw [BitVec.ofNat_toNat]
      exact laneResult_of_writeL rfl
  case select => exact fun d a b p s => laneResult_of_writeL rfl

end Sys2Proof.Machine
end

section
/-! PROOFS. Comparisons, predicate logic and predicate banks (R78–R80, R102). -/
namespace Sys2Proof.Machine
open Sys2Proof.Safety

/-! What an instruction leaves that writes predicates. -/

/-- Only the lanes of the mask take new bits, and only in the predicate written. -/
theorem Group.has_preg_writeP (g : Group) (m : Mask) (r q : PReg) (x : Mask) (l : Nat) :
    ((g.writeP m r x).preg q).has l = if q = r ∧ m.has l = true then x.has l else (g.preg q).has l := by
  rw [Group.preg_writeP]
  by_cases written : q = r
  · subst written
    have inside : (g.preg q).has l = true → l < 32 := Mask.lt_of_has
    rw [if_pos rfl, Mask.has_or, Mask.has_and, Mask.has_and, Mask.has_not]
    grind
  · rw [if_neg written, if_neg (fun h => written h.1)]

/-- An instruction that retires with a group which differs in predicates alone. -/
theorem completes_of_preds {i : Instr} {s : State} {x : Group} (runs : exec i s = s.done x) (rest : { x with p := s.g.p } = s.g) :
    Completes i s fun t => Retires s t ∧ t = { s with g := t.g } ∧ { unretired s.g t.g with p := s.g.p } = s.g ∧ SameBytes s t
      ∧ ∀ q, t.g.preg q = x.preg q := by
  refine ⟨_, runs.trans (s.done_eq x), ⟨?pc, ?retired, rfl⟩, rfl, ?group, fun _ => rfl, fun _ => rfl⟩
  case pc => exact (congrArg (fun y : Group => y.pc + 4) rest :)
  case retired => exact (congrArg (fun y : Group => y.retired + 1) rest :)
  case group => exact (congrArg (unretired s.g) rest :)

theorem predResult_of_writeP {i : Instr} {d : PReg} {x : Mask} {c : Nat → Bool} {s : State}
    (runs : exec i s = s.done (s.g.writeP s.g.em d x)) (bits : ∀ l, l < 32 → x.has l = c l) : PredResult i d c s := by
  obtain ⟨t, run, retires, outside, group, bytes, preds⟩ := completes_of_preds runs rfl
  refine ⟨t, run, retires, fun l hl => ?_, outside, group, fun r hr => ?_, fun l hl => ?_, bytes⟩
  · rw [preds, Group.has_preg_writeP, if_pos ⟨rfl, hl⟩, bits l (Mask.lt_of_has hl)]
  · rw [preds, Group.preg_writeP, if_neg hr]
  · rw [preds, Group.has_preg_writeP, if_neg (by simp [hl])]

/-! Conditions. -/

theorem condHolds_eq_holds {n : Nat} (hn : 0 < n) (c : Cond) (x y : Nat) : condHolds c n x y = Holds c n x y := by
  cases c <;> simp only [condHolds, Holds, sval_eq_signed hn]

theorem compare_eq_holds (c : Cond) (w64 : Bool) (a b : Word) :
    let n := if w64 then 64 else 32
    compare c w64 a b = Holds c n (a.toNat % 2 ^ n) (b.toNat % 2 ^ n) := by
  intro n
  have hn : 0 < n := by cases w64 <;> decide
  rw [compare, condHolds_eq_holds hn]
  simp only [elem, Nat.mul_zero, pow_zero, Nat.div_one]
  rfl

theorem combine_has (m : Comb) (old c : Mask) {l : Nat} (hl : l < 32) : (combine m old c).has l = Combined m (old.has l) (c.has l) := by
  cases m <;> simp [combine, Combined, hl]

/-! Banks of predicates (R80). -/

/-- The first predicate of a bank. -/
def bankBase (hi : Bool) : Nat := if hi then 64 else 0

theorem bankP_toNat (hi : Bool) {j : Nat} (hj : j < 64) : (bankP hi j).toNat = bankBase hi + j := by
  cases hi <;> simp [bankP, bankBase] <;> omega

theorem Group.writeP_rest (g : Group) (m : Mask) (r : PReg) (x : Mask) (p : Vector Mask 128) :
    { g.writeP m r x with p := p } = { g with p := p } := rfl

theorem setBank_rest (g : Group) (m : Mask) (hi : Bool) (a : Lanes) (n : Nat) : { setBank g m hi a n with p := g.p } = g := by
  induction n with
  | zero => rfl
  | succ n ih => exact (Group.writeP_rest _ _ _ _ _).trans ih

/-- The predicates below bank index `n` take the bits of the register, in the lanes of the mask. -/
theorem has_preg_setBank (g : Group) (m : Mask) (hi : Bool) (a : Lanes) (q : PReg) (l : Nat) {n : Nat} (hn : n ≤ 64) :
    ((setBank g m hi a n).preg q).has l = if m.has l = true ∧ bankBase hi ≤ q.toNat ∧ q.toNat < bankBase hi + n
      then (a.at l).getLsbD (q.toNat - bankBase hi) else (g.preg q).has l := by
  induction n with
  | zero => rw [setBank, if_neg (by omega)]
  | succ n ih =>
    have name : q = bankP hi n ↔ q.toNat = bankBase hi + n := by rw [← BitVec.toNat_inj, bankP_toNat hi (by omega)]
    rw [setBank, Group.has_preg_writeP, ih (by omega), Mask.has_ofFn]
    simp only [name]
    have inside : m.has l = true → l < 32 := Mask.lt_of_has
    grind

/-- Settles O7: each comparison is a write of one predicate, and PMOV one of 64. -/
theorem comparePredicates : Obligations.ComparePredicates := by
  refine ⟨?icmp, ?scmp, ?plop, ?pmov⟩
  case icmp =>
    intro pd a b c w64 m s n
    refine predResult_of_writeP rfl fun l hl => ?_
    rw [combine_has _ _ _ hl, Mask.has_ofFn, decide_eq_true hl, Bool.true_and, compare_eq_holds]
  case scmp =>
    intro pd sa sb c w64 m s n
    refine predResult_of_writeP rfl fun l hl => ?_
    have spread (r : Bool) : Mask.has (if r then BitVec.allOnes 32 else 0) l = r := by
      cases r
      · exact Mask.has_zero l
      · exact BitVec.getLsbD_allOnes.trans (decide_eq_true hl)
    rw [combine_has _ _ _ hl, spread, compare_eq_holds]
  case plop =>
    intro pd pa pb f s
    refine predResult_of_writeP rfl fun l hl => ?_
    rw [Mask.has_ofFn, decide_eq_true hl, Bool.true_and]
    simp only [Bool.toNat, Bool.cond_eq_ite]
  case pmov =>
    intro r hi g s base m
    obtain ⟨t, runs, retires, outside, group, bytes, preds⟩ := completes_of_preds (i := .pmovSet r hi g) rfl
      (setBank_rest s.g m hi (s.g.lreg r) 64)
    refine ⟨laneResult_of_writeL rfl, t, runs, retires, outside, group, bytes, ?bits, ?others⟩
    case bits =>
      intro j l hj hl
      have name : (BitVec.ofNat 7 (base + j)).toNat = bankBase hi + j := bankP_toNat hi hj
      rw [preds, has_preg_setBank _ _ _ _ _ _ le_rfl, name, if_pos ⟨hl, by omega⟩, Nat.add_sub_cancel_left]
      rfl
    case others =>
      intro q l other
      have base_eq : base = bankBase hi := rfl
      rw [preds, has_preg_setBank _ _ _ _ _ _ le_rfl, if_neg ?_]
      rintro ⟨hl, low, high⟩
      obtain unset | below | above := other
      · exact Bool.false_ne_true (unset.symm.trans hl)
      · omega
      · omega

end Sys2Proof.Machine
end

section
/-! PROOFS. Element-wise float instructions (R83, R86–R91; log 13, 14). -/
namespace Sys2Proof.Machine
open Sys2Proof.Safety

/-! What an instruction leaves that writes lane results with their flags. -/

/-- The lanes of the mask take their results, each adds its flags, and nothing else changes. -/
theorem completes_of_writeF {i : Instr} {s : State} {m : Mask} {d : LReg} {f : Nat → Word × BitVec 5}
    (runs : exec i s = s.done (s.g.writeF m d f)) :
    Completes i s fun t => Retires s t ∧ OnlyLanesFlags d m s t ∧ (∀ l, m.has l = true → t.g.lane d l = (f l).1)
      ∧ ∀ k, t.g.fflags.getLsbD k = true ↔ s.g.fflags.getLsbD k = true ∨ ∃ l, m.has l = true ∧ (f l).2.getLsbD k = true := by
  refine ⟨_, runs.trans (s.done_eq _), ⟨?pc, ?retired, rfl⟩, onlyLanesFlags_of_raise s m d _ _ _, fun l hl => ?lanes, fun k => ?flags⟩
  case pc => exact congrArg (· + 4) (Group.writeL_pc ..)
  case retired => exact congrArg (· + 1) (Group.writeL_retired ..)
  case lanes => rw [Group.lane_retireTo, Group.lane_writeF, if_pos ⟨rfl, hl⟩]
  case flags =>
    rw [Group.retireTo_fflags, Group.fflags_writeF, BitVec.getLsbD_or, Bool.or_eq_true, flagsOf_getLsbD]

/-- The loop of R83 retires with the results of `op` and the flags of every acting sub-element. -/
theorem floatResult_of_flt3 {i : Instr} {f : FFmt} {d a b : LReg} {gd : Guard} {s : State} {op : Nat → Nat → Nat → FRes}
    (runs : exec i s = s.done (s.g.flt3 f d a b gd fun _ => op)) : FloatResult i f d a b gd op s := by
  obtain ⟨t, run, retires, frame, lanes, flags⟩ := completes_of_writeF runs
  refine ⟨t, run, retires, fun l k hl hk => ?_, fun k => ?_, frame⟩
  · rw [lanes l hl, mapF, elem_ofElems _ hk]
  · simp only [flags, mapF, flagsN_getLsbD, exists_and_left]

/-! The sign bit (R87). -/

theorem fmtOf_width (f : FFmt) : (fmtOf f).width = if f = .f32 then 32 else 16 := by
  cases f <;> rfl

/-- Clearing the highest bit of an `n`-bit number. -/
theorem mod_two_pow_pred {n x : Nat} (hn : 0 < n) (hx : x < 2 ^ n) :
    x % 2 ^ (n - 1) = if 2 ^ (n - 1) ≤ x then x - 2 ^ (n - 1) else x := by
  have twice := Nat.two_pow_pred_add_two_pow_pred hn
  split
  next set => rw [Nat.mod_eq_sub_mod set, Nat.mod_eq_of_lt (by omega)]
  next clear => exact Nat.mod_eq_of_lt (not_le.mp clear)

/-- Inverting a bit above all bits of a number adds it. -/
theorem xor_two_pow_of_lt {k y : Nat} (hy : y < 2 ^ k) : y ^^^ 2 ^ k = y + 2 ^ k := by
  rw [← Nat.or_two_pow_eq_add_of_lt hy]
  refine Nat.eq_of_testBit_eq fun j => ?_
  rw [Nat.testBit_xor, Nat.testBit_or, Nat.testBit_two_pow]
  by_cases top : k = j
  · simp [← top, Nat.testBit_lt_two_pow hy]
  · simp [top]

/-- Inverting the highest bit of an `n`-bit number. -/
theorem xor_two_pow_pred {n x : Nat} (hn : 0 < n) (hx : x < 2 ^ n) :
    x ^^^ 2 ^ (n - 1) = if 2 ^ (n - 1) ≤ x then x - 2 ^ (n - 1) else x + 2 ^ (n - 1) := by
  have twice := Nat.two_pow_pred_add_two_pow_pred hn
  split
  next set =>
    have rest := xor_two_pow_of_lt (show x - 2 ^ (n - 1) < 2 ^ (n - 1) by omega)
    rw [Nat.sub_add_cancel set] at rest
    calc x ^^^ 2 ^ (n - 1) = (x - 2 ^ (n - 1)) ^^^ 2 ^ (n - 1) ^^^ 2 ^ (n - 1) := by rw [rest]
      _ = x - 2 ^ (n - 1) := Nat.xor_xor_cancel_right ..
  next clear => exact xor_two_pow_of_lt (not_le.mp clear)

/-- An instruction that changes each sub-element of one source on its own and raises no flag. -/
theorem signResult_of_writeL {i : Instr} {f : FFmt} {d a : LReg} {gd : Guard} {s : State} {op r : Nat → Nat}
    (runs : exec i s = s.done (s.g.writeL (s.g.acts gd) d fun l => mapElems (fmtOf f).width (fun x _ _ => op x) (s.g.lane a l) 0 0))
    (result : ∀ x, x < 2 ^ (fmtOf f).width → op x = r x) (fits : ∀ x, x < 2 ^ (fmtOf f).width → op x < 2 ^ (fmtOf f).width) :
    Completes i s fun t => Retires s t ∧ OnlyLanes d (s.g.acts gd) s t
      ∧ Elementwise (fmtOf f).width d a a (s.g.acts gd) (fun x _ _ => r x) s t := by
  obtain ⟨t, run, retires, lanes, frame⟩ := laneResult_of_writeL runs
  refine ⟨t, run, retires, frame, fun l k hl hk => ?_⟩
  rw [lanes l hl, elem_mapElems _ _ _ _ hk, Nat.mod_eq_of_lt (fits _ (elem_lt ..)), result _ (elem_lt ..)]

/-- Settles O8: the loop of R83 with the operation of each instruction, and the sign bit as the highest bit of a number. -/
theorem floatArithmetic : Obligations.FloatArithmetic := by
  refine ⟨?operations, ?signs⟩
  case operations =>
    intro f fn d a b g s t rm
    refine ⟨?add, ?sub, ?mul, ?fma, ?fms, ?min, ?max, ?function⟩
    all_goals exact floatResult_of_flt3 rfl
  case signs =>
    intro f d a g s n m
    have width : n = (fmtOf f).width := (fmtOf_width f).symm
    have pos : 0 < (fmtOf f).width := by rw [Fmt.width]; omega
    have high : 2 ^ ((fmtOf f).width - 1) < 2 ^ (fmtOf f).width := Nat.pow_lt_pow_right (by omega) (by omega)
    rw [width]
    refine ⟨?abs, ?neg⟩
    case abs =>
      exact signResult_of_writeL rfl (fun x hx => mod_two_pow_pred pos hx) fun x _ => (Nat.mod_lt x (by positivity)).trans high
    case neg =>
      exact signResult_of_writeL rfl (fun x hx => xor_two_pow_pred pos hx) fun x hx => Nat.xor_lt_two_pow hx high

end Sys2Proof.Machine
end

section
/-! PROOFS. Float comparison (R88). -/
namespace Sys2Proof.Machine
open Sys2Proof.Safety

/-! The order of values. -/

theorem magLt_asymm {a b : Nat} {x y : Int} (h : magLt a x b y = true) : magLt b y a x = false := by
  rw [Bool.eq_false_iff, ne_eq, magLt_iff]
  exact ((magLt_iff a x b y).mp h).asymm

/-- No value is below another that is below it: signs and infinities decide alone, and of two finite values with one sign only one
magnitude is below the other. -/
theorem FVal.lt_asymm {zeros : Bool} {x y : FVal} (h : FVal.lt zeros x y = true) : FVal.lt zeros y x = false := by
  cases x with
  | nan => cases y <;> simp_all [FVal.lt]
  | inf p => cases y <;> simp_all [FVal.lt]
  | fin p m u =>
    cases y with
    | nan => simp [FVal.lt] at h
    | inf q => simp_all [FVal.lt]
    | fin q n v =>
      have smaller := @magLt_asymm m n u v
      have larger := @magLt_asymm n m v u
      simp only [FVal.lt] at h ⊢
      cases p <;> cases q <;> grind

theorem FVal.isNan_of_isSnan {x : FVal} (h : x.isSnan = true) : x.isNan = true := by
  cases x with
  | nan => rfl
  | inf | fin => exact absurd h Bool.false_ne_true

/-! The condition and NV. -/

/-- The lowest sub-element is the low bits. -/
theorem elem_zero (w : Nat) (x : Word) : elem w 0 x = x.toNat % 2 ^ w := by
  rw [elem, Nat.mul_zero, pow_zero, Nat.div_one]

theorem flagNV_getLsbD (k : Nat) : flagNV.getLsbD k = true ↔ k = 4 := by
  show (BitVec.twoPow 5 4).getLsbD k = true ↔ k = 4
  simp [BitVec.getLsbD_twoPow, eq_comm]

theorem ite_flagNV_getLsbD (c : Bool) (k : Nat) : (if c then flagNV else 0 : BitVec 5).getLsbD k = true ↔ k = 4 ∧ c = true := by
  cases c
  · simp
  · simp [flagNV_getLsbD]

section
variable (a b : Nat)

/-- No order holds between two operands, as one is a NaN. -/
def unordered : Bool := (fp32.val a).isNan || (fp32.val b).isNan

/-- Two operands are ordered, and the first is below the second. -/
def orderedBelow : Bool := !unordered a b && FVal.lt false (fp32.val a) (fp32.val b)

/-- Two operands are ordered, and the first is above the second. -/
def orderedAbove : Bool := !unordered a b && FVal.lt false (fp32.val b) (fp32.val a)

/-- Of "unordered", "below" and "above" at most one holds, so that the rest is "equal". -/
theorem ordered_exclusive : (orderedAbove a b = true → unordered a b = false ∧ orderedBelow a b = false)
    ∧ (orderedBelow a b = true → unordered a b = false) := by
  simp only [orderedAbove, orderedBelow, Bool.and_eq_true, Bool.not_eq_true']
  refine ⟨fun ⟨ordered, gt⟩ => ⟨ordered, ?_⟩, fun ⟨ordered, _⟩ => ordered⟩
  rw [FVal.lt_asymm gt, Bool.and_false]

end

/-- What a condition says of operands that are unordered, below or above (R30). -/
def condSays (c : FCond) (uno lt gt : Bool) : Bool :=
  match c with
  | .eq => !uno && !lt && !gt
  | .ne => uno || lt || gt
  | .lt => lt
  | .ge => !uno && !lt
  | .le => !uno && !gt
  | .gt => gt
  | .ord => !uno
  | .uno => uno

/-- The conditions that a quiet NaN makes invalid too (R88). -/
def quietInvalid : FCond → Bool
  | .lt | .ge | .le | .gt => true
  | .eq | .ne | .ord | .uno => false

theorem quietInvalid_iff (c : FCond) : quietInvalid c = true ↔ c = .lt ∨ c = .ge ∨ c = .le ∨ c = .gt := by
  cases c <;> simp [quietInvalid]

theorem fcmpHolds_value (c : FCond) (a b : Nat) :
    (fcmpHolds c a b).1 = condSays c (unordered a b) (orderedBelow a b) (orderedAbove a b) := by
  have value : ∀ uno lt gt : Bool, (gt = true → uno = false ∧ lt = false) ∧ (lt = true → uno = false) →
      (gt || (!uno && !lt && !gt)) = (!uno && !lt) ∧ (lt || (!uno && !lt && !gt)) = (!uno && !gt)
        ∧ (!(!uno && !lt && !gt)) = (uno || lt || gt) := by decide
  obtain ⟨ge, le, ne⟩ := value _ _ _ (ordered_exclusive a b)
  cases c with
  | eq | lt | gt | ord | uno => rfl
  | ne => exact ne
  | ge => exact ge
  | le => exact le

theorem fcmpHolds_raised (c : FCond) (a b : Nat) : (fcmpHolds c a b).2
    = if (if quietInvalid c then unordered a b else (fp32.val a).isSnan || (fp32.val b).isSnan) then flagNV else 0 := by
  cases c <;> rfl

/-- NV is the only flag, and a signalling NaN raises it whatever the condition. -/
theorem fcmpHolds_flags (c : FCond) (a b k : Nat) : (fcmpHolds c a b).2.getLsbD k = true ↔
    k = 4 ∧ ((fp32.val a).isSnan = true ∨ (fp32.val b).isSnan = true ∨ (quietInvalid c = true ∧ unordered a b = true)) := by
  have snanA := @FVal.isNan_of_isSnan (fp32.val a)
  have snanB := @FVal.isNan_of_isSnan (fp32.val b)
  rw [fcmpHolds_raised, ite_flagNV_getLsbD, unordered]
  grind

/-- An instruction that writes a predicate in the lanes of EM and raises flags. -/
theorem completes_of_writeP_raise {i : Instr} {s : State} {d : PReg} {x : Mask} {fl : BitVec 5}
    (runs : exec i s = s.done ((s.g.writeP s.g.em d x).raise fl)) :
    Completes i s fun t => Retires s t
      ∧ (∀ q l, (t.g.preg q).has l = if q = d ∧ s.g.em.has l = true then x.has l else (s.g.preg q).has l)
      ∧ t.g.fflags = s.g.fflags ||| fl
      ∧ t = { s with g := t.g } ∧ { unretired s.g t.g with p := s.g.p, fflags := s.g.fflags } = s.g ∧ SameBytes s t := by
  have rest : { (s.g.writeP s.g.em d x).raise fl with p := s.g.p, fflags := s.g.fflags } = s.g := rfl
  refine ⟨_, runs.trans (s.done_eq _), ⟨rfl, rfl, rfl⟩, fun q l => ?preds, rfl, rfl, ?group, fun _ => rfl⟩
  case preds => exact s.g.has_preg_writeP s.g.em d q x l
  case group => exact (congrArg (unretired s.g) rest :)

/-- Settles O10: FCMP writes a predicate with its condition and raises what the lanes of EM raise. -/
theorem compareFloat : Obligations.CompareFloat := by
  intro pd a b c m s x y uno lt gt r loud
  obtain ⟨t, run, retires, preds, flags, outside, group, bytes⟩ := completes_of_writeP_raise (i := .fcmp pd a b c m) (s := s) rfl
  refine ⟨t, run, retires, fun l hl => ?acting, fun l hl => ?idle, fun q hq => ?others, fun k => ?raised, outside, group, bytes⟩
  case acting =>
    have lane := Mask.lt_of_has hl
    rw [preds, if_pos ⟨rfl, hl⟩, combine_has _ _ _ lane, Mask.has_ofFn, decide_eq_true lane, Bool.true_and, fcmpHolds_value,
      elem_zero, elem_zero]
    cases c <;> rfl
  case idle => rw [preds, if_neg (by simp [hl])]
  case others => exact Mask.ext_has fun l _ => by rw [preds, if_neg (fun h => hq h.1)]
  case raised =>
    rw [flags, BitVec.getLsbD_or, Bool.or_eq_true, flagsOf_getLsbD]
    simp only [fcmpHolds_flags, quietInvalid_iff, elem_zero, and_left_comm (b := k = 4), exists_and_left]
    rfl

end Sys2Proof.Machine
end

section
/-! PROOFS. Conversions (R58, R92, R93). -/
namespace Sys2Proof.Machine
open Sys2Proof.Safety

/-- The part of a narrowing conversion ends within the register. -/
theorem part_end_le {p ws wd : Nat} (fits : p < ws / wd) : p * (64 / ws) + 64 / ws ≤ 64 / wd := by
  have pos : 0 < ws := by
    by_contra none
    simp [Nat.eq_zero_of_not_pos none] at fits
  calc p * (64 / ws) + 64 / ws = (p + 1) * (64 / ws) := by ring
    _ ≤ ws / wd * (64 / ws) := Nat.mul_le_mul_right _ fits
    _ ≤ ws * 64 / (wd * ws) := Nat.div_mul_div_le ..
    _ = 64 / wd := by rw [Nat.mul_comm wd, Nat.mul_div_mul_left _ _ pos]

section
variable (r : CvtRow) (sz : BitVec 2)

/-- The number of elements that a conversion works on (R92). -/
def cvtCount : Nat := 64 / max r.src.width r.dst.width

/-- The conversion of the element `i` of a part (R92): a widening one reads the part of a. -/
def cvtElement (rm : BitVec 2) (x : Word) (i : Nat) : FRes :=
  convert r rm (elem r.src.width (if r.src.width < r.dst.width then r.part sz * cvtCount r + i else i) x)

variable (rm : BitVec 2) (x old : Word)

/-- A narrowing conversion fills a part of the old register. -/
theorem cvtLane_narrow (narrow : r.dst.width < r.src.width) : cvtLane r sz rm x old
    = (ofElems r.dst.width fun i => if r.part sz * cvtCount r ≤ i ∧ i < r.part sz * cvtCount r + cvtCount r
        then (cvtElement r sz rm x (i - r.part sz * cvtCount r)).1 else elem r.dst.width i old,
      flagsN (fun i => (cvtElement r sz rm x i).2) (cvtCount r)) := by
  simp only [cvtLane, if_pos narrow, cvtElement, if_neg narrow.not_gt, cvtCount, Bool.and_eq_true, decide_eq_true_eq]

/-- Any other conversion fills the whole register. -/
theorem cvtLane_wide (wide : ¬r.dst.width < r.src.width) : cvtLane r sz rm x old
    = (ofElems r.dst.width fun i => (cvtElement r sz rm x i).1, flagsN (fun i => (cvtElement r sz rm x i).2) (cvtCount r)) := by
  simp only [cvtLane, if_neg wide, cvtElement, cvtCount]
  split <;> simp

theorem cvtLane_flags : (cvtLane r sz rm x old).2 = flagsN (fun i => (cvtElement r sz rm x i).2) (cvtCount r) := by
  by_cases narrow : r.dst.width < r.src.width
  · rw [cvtLane_narrow r sz rm x old narrow]
  · rw [cvtLane_wide r sz rm x old narrow]

variable {r sz} in
/-- The converted elements stand in the part of d, or from element 0 on. -/
theorem elem_cvtLane (ok : r.partOk sz = true) {i : Nat} (hi : i < cvtCount r) :
    elem r.dst.width (if r.dst.width < r.src.width then r.part sz * cvtCount r + i else i) (cvtLane r sz rm x old).1
      = (cvtElement r sz rm x i).1 % 2 ^ r.dst.width := by
  rw [CvtRow.partOk, decide_eq_true_eq] at ok
  by_cases narrow : r.dst.width < r.src.width
  · rw [max_eq_left narrow.le, min_eq_right narrow.le] at ok
    have count : cvtCount r = 64 / r.src.width := by rw [cvtCount, max_eq_left narrow.le]
    have fits := part_end_le ok
    rw [← count] at fits
    rw [if_pos narrow, cvtLane_narrow r sz rm x old narrow, elem_ofElems _ (by omega), if_pos (by omega), Nat.add_sub_cancel_left]
  · have count : cvtCount r = 64 / r.dst.width := by rw [cvtCount, max_eq_right (not_lt.mp narrow)]
    rw [if_neg narrow, cvtLane_wide r sz rm x old narrow, elem_ofElems _ (count ▸ hi)]

variable {r sz} in
/-- A narrowing conversion leaves the elements outside its part. -/
theorem elem_cvtLane_outside (narrow : r.dst.width < r.src.width) {j : Nat} (hj : j < 64 / r.dst.width)
    (outside : j < r.part sz * cvtCount r ∨ r.part sz * cvtCount r + cvtCount r ≤ j) :
    elem r.dst.width j (cvtLane r sz rm x old).1 = elem r.dst.width j old := by
  rw [cvtLane_narrow r sz rm x old narrow, elem_ofElems _ hj, if_neg (by omega), Nat.mod_eq_of_lt (elem_lt ..)]

end

/-- Settles O11: CVT lane by lane, and its elements as `convert` gives them. -/
theorem convert_settled : Obligations.Convert := by
  intro sel sz d a g s r row ok ws wd n at0 m conv src
  have fits : r.partOk sz = true := by simpa [cvtOk, row] using ok
  have runs : exec (.cvt sel sz d a g) s
      = s.done (s.g.writeF m d fun l => cvtLane r sz s.g.frm (s.g.lane a l) (s.g.lane d l)) := by
    show execCvt sel sz d a g s = _
    rw [execCvt, row]
  obtain ⟨t, run, retires, frame, lanes, flags⟩ := completes_of_writeF runs
  refine ⟨t, run, retires, frame, fun l i hl hi => ?converted, fun l j hl hj narrow outside => ?kept, fun k => ?raised⟩
  case converted =>
    rw [lanes l hl]
    exact elem_cvtLane s.g.frm (s.g.lane a l) (s.g.lane d l) fits hi
  case kept =>
    rw [lanes l hl]
    exact elem_cvtLane_outside s.g.frm (s.g.lane a l) (s.g.lane d l) narrow hj outside
  case raised =>
    simp only [flags, cvtLane_flags, flagsN_getLsbD, ← exists_and_left]
    rfl

end Sys2Proof.Machine
end

section
/-! PROOFS. Dot products (R59, R94, R96). -/
namespace Sys2Proof.Machine
open Sys2Proof.Safety

/-! The halves of a lane. -/

/-- A lane with the number `x` in its high or low half. -/
def withHalf (hi : Bool) (x : Nat) (d : Word) : Word := ofElems 32 fun i => if (i == 1) == hi then x else elem 32 i d

theorem elem_withHalf (hi : Bool) (x : Nat) (d : Word) {i : Nat} (h : i < 2) :
    elem 32 i (withHalf hi x d) = if (i == 1) == hi then x % 2 ^ 32 else elem 32 i d := by
  rw [withHalf, elem_ofElems _ h, apply_ite (· % 2 ^ 32), Nat.mod_eq_of_lt (elem_lt ..)]

theorem elem_withHalf_same (hi : Bool) (x : Nat) (d : Word) : elem 32 (if hi then 1 else 0) (withHalf hi x d) = x % 2 ^ 32 := by
  cases hi <;> exact elem_withHalf _ x d (by decide)

theorem elem_withHalf_other (hi : Bool) (x : Nat) (d : Word) :
    elem 32 (1 - if hi then 1 else 0) (withHalf hi x d) = elem 32 (1 - if hi then 1 else 0) d := by
  cases hi <;> exact elem_withHalf _ x d (by decide)

theorem dotLane_float {pair : DotPair} {f : Fmt} (format : dotFmt pair = some f) (hi : Bool) (rm : BitVec 2) (a b d : Word) :
    let r := dotFloat f rm ((List.range (64 / f.width)).map fun i => elem f.width i a)
      ((List.range (64 / f.width)).map fun i => elem f.width i b) (elem 32 (if hi then 1 else 0) d)
    dotLane pair hi rm a b d = (withHalf hi r.1 d, r.2) := by
  simp only [dotLane, format]
  rfl

/-! The integer sum. -/

theorem foldl_add_eq_add_sum {α : Type} (f : α → Int) (l : List α) (c : Int) : l.foldl (fun t p => t + f p) c = c + (l.map f).sum := by
  induction l generalizing c with
  | nil => simp
  | cons p l ih => rw [List.foldl_cons, ih, List.map_cons, List.sum_cons, add_assoc]

theorem dotInt_eq {α : Type} (x y : α → Nat) (l : List α) (c : Nat) :
    dotInt (l.map x) (l.map y) c = modulo 32 (c + (l.map fun i => signed 8 (x i) * signed 8 (y i)).sum) := by
  have value := fun i => sval_eq_signed (show 0 < 8 by decide) i
  simp only [dotInt, ofInt_eq_modulo, foldl_add_eq_add_sum, List.zip_map', List.map_map, value]
  rfl

theorem dotLane_int (hi : Bool) (rm : BitVec 2) (a b d : Word) : (dotLane .i8 hi rm a b d).1
    = withHalf hi (modulo 32 ((elem 32 (if hi then 1 else 0) d : Int)
        + ((List.range 8).map fun i => signed 8 (elem 8 i a) * signed 8 (elem 8 i b)).sum)) d := by
  rw [← dotInt_eq]
  rfl

/-! DOT. -/

/-- Lane results without a flag are a plain write. -/
theorem Group.writeF_of_no_flags (g : Group) (m : Mask) (d : LReg) {f : Nat → Word × BitVec 5} (quiet : ∀ l, (f l).2 = 0) :
    g.writeF m d f = g.writeL m d fun l => (f l).1 := by
  have none : flagsOf m (fun l => (f l).2) = 0 := BitVec.eq_of_getLsbD_eq fun k _ => by
    rw [Bool.eq_iff_iff, flagsOf_getLsbD]
    simp [quiet]
  rw [Group.writeF, none, Group.raise_zero]

/-- Settles O12: each lane of DOT has its sum in one half. -/
theorem dotProduct : Obligations.DotProduct := by
  intro hi d a b g s m h
  refine ⟨?integers, ?floats⟩
  case integers =>
    have runs : exec (.dot .i8 hi d a b g) s
        = s.done (s.g.writeL m d fun l => (dotLane .i8 hi s.g.frm (s.g.lane a l) (s.g.lane b l) (s.g.lane d l)).1) :=
      congrArg s.done (s.g.writeF_of_no_flags m d fun _ => rfl)
    obtain ⟨t, run, retires, lanes, frame⟩ := laneResult_of_writeL runs
    refine ⟨t, run, retires, frame, fun l hl => ?_⟩
    have lane := (lanes l hl).trans (dotLane_int hi s.g.frm _ _ _)
    rw [lane]
    exact ⟨elem_withHalf_other .., (elem_withHalf_same ..).trans (modulo_mod ..)⟩
  case floats =>
    intro pair t0 format w els res
    have runs : exec (.dot pair hi d a b g) s = s.done (s.g.writeF m d fun l => (withHalf hi (res l).1 (s.g.lane d l), (res l).2)) := by
      show s.done (s.g.writeF m d fun l => dotLane pair hi s.g.frm (s.g.lane a l) (s.g.lane b l) (s.g.lane d l)) = _
      simp only [dotLane_float format]
      rfl
    obtain ⟨t, run, retires, frame, lanes, flags⟩ := completes_of_writeF runs
    refine ⟨t, run, retires, frame, fun l hl => ?_, flags⟩
    rw [lanes l hl]
    exact ⟨elem_withHalf_other .., elem_withHalf_same ..⟩

end Sys2Proof.Machine
end
